-- ==== Sys2Proof/Word.lean ====
section
/-! DEFINITION. The word types of the G7: bytes, 32-bit words and 64-bit double words (spec 00, R3). -/

namespace Sys2Proof

/-- A byte of memory. -/
abbrev Byte := BitVec 8

/-- A 32-bit register or memory word. -/
abbrev Word := BitVec 32

/-- A 64-bit value, held in an even-aligned pair of registers (R35). -/
abbrev DWord := BitVec 64

/-- The two words of a pair joined: the even register is the low half (R3). -/
def joinWords (lo hi : Word) : DWord := hi ++ lo

/-- Bits [31:0] of a double word. -/
def loWord (x : DWord) : Word := x.extractLsb' 0 32

/-- Bits [63:32] of a double word. -/
def hiWord (x : DWord) : Word := x.extractLsb' 32 32

end Sys2Proof
end

