-- ==== Sys2Proof/Config.lean ====
section
/-! DEFINITION. What an implementation fixes (the ordering number and the package's own number) and the free values: constants
without a body, of which nothing can be proved but what holds for every value of them (notes/assumptions 1, 2, 4, 7, 8, 10, 12, 14, 15, 17). -/

namespace Sys2Proof.Config

/-- The ordering numbers of R1. -/
inductive Grade where
  | g7400 | g7410 | g7200
  deriving DecidableEq, Repr

/-- The grade of this package. DESIGN CHOICE (log 4): R2 gives every grade one instruction set; the model is a 7400. -/
def grade : Grade := .g7400

/-- Compute dies of the package (R1, R5). -/
def dies : Nat := match grade with | .g7200 => 2 | _ => 4

/-- Cores of the package (R1, R11). -/
def cores : Nat := 192 * dies

/-- Installed bytes of one package's HBM (R187). -/
def hbmBytes : Nat := 384 * 2 ^ 30

/-- Installed bytes of one package's tier-two memory (R187); on the 7410 the capacity bring-up finds, at most this. -/
def tierTwoBytes : Nat := match grade with | .g7200 => 768 * 2 ^ 30 | _ => 1536 * 2 ^ 30

/-- Boot-reserved bytes at the top of HBM (R473). DESIGN CHOICE (log 4): the spec gives no size; the host reads it at 0x8004. -/
def reservedHbmBytes : Nat := 2 ^ 30

/-- This package's number in the pod, 0 to 511 (R187). DESIGN CHOICE (log 4). -/
def package : Nat := 0

/-- Which of the agents that can act does so next: an arbitrary choice for each draw (log 2). -/
opaque pick : Nat → Nat

/-- Nanoseconds of the Tide that pass at a draw (R18); timing is left out (log 1). -/
opaque tideStep : Nat → Nat

/-- Cycles of a core's clock that pass at a draw (R109, `sr.cyc`); timing is left out (log 1). -/
opaque cycStep : Nat → Nat → Nat

/-- Whether the stall of a batch's last issue (R39) has elapsed at a draw, for a core and a warp slot; timing is left out (log 1). -/
opaque stallOver : Nat → Nat → Nat → Bool

/-- Whether a consumer that issues too early reads the value before the producer (R43), at a draw, for a register (log 8). -/
opaque readsOld : Nat → Nat → Bool

/-- Whether an entry the TLB still holds is used in place of a changed table entry (R193), at a draw, for a 64-byte
group of addresses and an entry (log 10). -/
opaque usesStaleTlb : Nat → Nat → Nat → Bool

/-- Whether registers granted by `RGROW` may already be named one cycle after it (R283), at a draw, for a fibre (log 8). -/
opaque growReady : Nat → Nat → Bool

/-- Which version of a stored code line an instruction fetch sees (R29), at a draw, for a line (log 12). -/
opaque fetchSees : Nat → Nat → Nat

/-- The two values in the record of a deferred fault of a `PSEND`, which R388 does not give, at a draw (log 18). -/
opaque packetRecord : Nat → Nat

/-- Flits that the training of a Colnal port grants this package, by port and channel (R438, R480; log 18). -/
opaque linkCredits : Nat → Nat → Nat

/-- The approximated FP32 functions of R152: a function of the form and the operand, within a bound (log 7). -/
opaque approx32 : Nat → Word → Word

/-- The approximated FP64 function `RSQ.F64` of R152, within a bound (log 7). -/
opaque approx64 : DWord → DWord

/-- The sign of an exact zero that a drain's sum does not fix (R354), at a draw (log 17). -/
opaque drainSign : Nat → Bool

/-- The answer to an MCTP control message, at a draw: not given by the spec (log 15). -/
opaque answerBytes : Nat → List Byte

/-- The answer to an SPDM message, at a draw: of the message, and of the measurements that R483 defines from what the machine holds (log 15). -/
opaque spdmAnswer : Nat → List Byte → List (List Byte) → List Byte

/-- The average power over the last millisecond in watts, at a draw (R485): of the package, 0; of its dies, from 1 on; of the hub, after them (log 15). -/
opaque power : Nat → Nat → Nat

/-- Which of the free places of a rotation-store area takes a record (R257), at a draw (log 13). -/
opaque recordPlace : Nat → Nat

/-- Bytes of the save area, whose layout is the G7's own (R399, log 14). -/
opaque saveBytes : Nat → Byte

end Sys2Proof.Config
end

