-- ==== Sys2Proof/Machine/Store.lean ====
section
/-! DEFINITION. Sparse stores: a list of (key, value) pairs in one canonical form (keys strictly rising, no entry equal to the
value an unlisted key reads as), used for memory, registers and every table of the machine. -/

namespace Sys2Proof.Machine

/-- A store with keys `Nat`; what an unlisted key reads as is an argument of its operations. -/
abbrev Sparse (β : Type) := List (Nat × β)

/-- The value at a key: `d` where the store lists none. -/
def Sparse.get {β : Type} (d : β) : Sparse β → Nat → β
  | [], _ => d
  | (k, v) :: t, a => if k = a then v else Sparse.get d t a

/-- The store without a key. -/
def Sparse.erase {β : Type} (a : Nat) : Sparse β → Sparse β
  | [] => []
  | (k, v) :: t => if k = a then Sparse.erase a t else (k, v) :: Sparse.erase a t

/-- An entry put before the first greater key. -/
def Sparse.put {β : Type} (a : Nat) (v : β) : Sparse β → Sparse β
  | [] => [(a, v)]
  | (k, w) :: t => if a < k then (a, v) :: (k, w) :: t else (k, w) :: Sparse.put a v t

/-- The store with `v` at key `a`; writing `d` removes the entry. -/
def Sparse.set {β : Type} [DecidableEq β] (d : β) (m : Sparse β) (a : Nat) (v : β) : Sparse β :=
  if v = d then Sparse.erase a m else Sparse.put a v (Sparse.erase a m)

/-- Every key of the store is above `b`, the keys rise strictly, and no entry is `d`. -/
def Sparse.wfFrom {β : Type} [DecidableEq β] (d : β) : Nat → Sparse β → Bool
  | _, [] => true
  | b, (k, v) :: t => decide (b ≤ k) && decide (v ≠ d) && Sparse.wfFrom d (k + 1) t

/-- The canonical form. -/
def Sparse.wf {β : Type} [DecidableEq β] (d : β) (m : Sparse β) : Bool := Sparse.wfFrom d 0 m

/-- Keep the entries whose key meets `p`. -/
def Sparse.keep {β : Type} (p : Nat → Bool) (m : Sparse β) : Sparse β := m.filter (fun e => p e.1)

/-- The sorted list of naturals with `a` put in once. -/
def insertNat (a : Nat) : List Nat → List Nat
  | [] => [a]
  | b :: t => if a < b then a :: b :: t else if a = b then b :: t else b :: insertNat a t

/-- A byte store: memory, scratchpads, tile slots, accumulator ranges. Unlisted bytes read as zero. -/
abbrev Bytes := Sparse Byte

/-- The canonical form of a memory. -/
def Memory.wf (m : Bytes) : Bool := Sparse.wf 0 m

/-- `n` bytes from `a` as a little-endian number (R3). -/
def Bytes.readN (m : Bytes) (a : Nat) : Nat → Nat
  | 0 => 0
  | n + 1 => (Sparse.get 0 m a).toNat + 256 * Bytes.readN m (a + 1) n

/-- The word at `a` (R3). -/
def Bytes.word (m : Bytes) (a : Nat) : Word := BitVec.ofNat 32 (m.readN a 4)

/-- The double word at `a` (R3). -/
def Bytes.dword (m : Bytes) (a : Nat) : DWord := BitVec.ofNat 64 (m.readN a 8)

/-- The bytes of a number, low byte first. -/
def bytesOf : Nat → Nat → List Byte
  | 0, _ => []
  | n + 1, x => BitVec.ofNat 8 x :: bytesOf n (x / 256)

/-- The number whose bytes these are, low byte first. -/
def ofBytes : List Byte → Nat
  | [] => 0
  | b :: t => b.toNat + 256 * ofBytes t

/-- Bytes written from `a` upward. -/
def Bytes.write (m : Bytes) (a : Nat) : List Byte → Bytes
  | [] => m
  | b :: t => Bytes.write (Sparse.set 0 m a b) (a + 1) t

/-- The list of `n` bytes from `a`. -/
def Bytes.read (m : Bytes) (a : Nat) : Nat → List Byte
  | 0 => []
  | n + 1 => Sparse.get 0 m a :: Bytes.read m (a + 1) n

/-- Every byte from `a` to `a + n - 1` zeroed. -/
def Bytes.zero (m : Bytes) (a n : Nat) : Bytes := Sparse.keep (fun k => k < a || a + n ≤ k) m

/-- A field of `n` bits from bit `lo` of a number. -/
def bitsOf (x lo n : Nat) : Nat := (x >>> lo) % 2 ^ n

/-- Two's complement reading of `n` bits. -/
def signedOf (n x : Nat) : Int := if x < 2 ^ (n - 1) then x else (x : Int) - 2 ^ n

/-- The low `n` bits of an integer as a number. -/
def wrapOf (n : Nat) (x : Int) : Nat := (x % 2 ^ n).toNat

/-- Replace the element at index `i`. -/
def listSet {α : Type} (l : List α) (i : Nat) (f : α → α) : List α := l.mapIdx (fun j x => if j = i then f x else x)

/-- Take element `i` out of a list. -/
def listDrop {α : Type} (l : List α) (i : Nat) : List α := l.take i ++ l.drop (i + 1)

end Sys2Proof.Machine
end

