-- ==== Sys2Proof/Syntax.lean ====
section
/-! DEFINITION. The steps of the G7: the 288 instruction encodings of R60 and R61, each with the fields of its 96-bit word (R30),
and the 72 events of the operation table (spec 95), each with what its agent is told. -/

namespace Sys2Proof

/-- The fields of an instruction word beside its opcode (R30). -/
structure Fields where
  stall : BitVec 5
  guardOn : Bool
  guardPred : BitVec 4
  guardNeg : Bool
  dst : BitVec 9
  srcA : BitVec 9
  srcB : BitVec 9
  srcC : BitVec 9
  immSel : Bool
  mods : BitVec 7
  imm : BitVec 32
  deriving DecidableEq, Repr

/-- Who uses a CSR: one workgroup, by its key, or the host (R401). -/
inductive Agent where
  | host
  | workgroup (key : Nat)
  deriving DecidableEq, Repr

/-- What a member of a multicast group answers (R428, R430, R431): the code it read (0 for a write performed), or absence. -/
inductive MemberAnswer where
  | data (value : Nat)
  | absent
  deriving DecidableEq, Repr

/-- What every Strand frame that arrives carries (R439, R440): its port, its source address and EtherType, the peer whose secure channel it names, the
MACsec association (0 the newest) and packet number, whether its integrity check passes. -/
structure StrandHead where
  port : Nat
  mac : List Byte
  etherType : Nat
  peer : Nat
  association : Nat
  packetNumber : Nat
  checkPasses : Bool
  deriving DecidableEq, Repr

/-- A Strand frame that brings a segment (R439, R441): its 32-bit number, the packet's offset, whether it is the last of its packet, its bytes, and the
words of the packet's payload among them that are poisoned. -/
structure StrandFrame where
  head : StrandHead
  seq : Nat
  offset : Nat
  last : Bool
  bytes : List Byte
  poison : List Nat := []
  deriving DecidableEq, Repr

/-- What the unit of a barrier object is asked (R270, R275 to R279): beside the instructions' requests, whether an initialisation or invalidation would
fail, the scope of an object (R502), one reference more or less (R269), and a look at a live-mode object after a fibre has ended (R271). -/
inductive BarrierOp where
  | init
  | arrive
  | arriveCount
  | await
  | arriveWait
  | invalidate
  | query
  | mayInit
  | mayInvalidate
  | scope
  | refer (up : Bool)
  | living
  deriving DecidableEq, Repr

/-- Where an entry of a barrier table lies (R268): its physical address, and the compressibility and priority of its page. -/
structure TablePlace where
  pa : Nat
  comp : Nat
  prio : Nat
  deriving DecidableEq, Repr

/-- A fibre of a request to a barrier unit: its count or token, and where the entries of its object lie: the header and the eight entries of a bitmap
(R268), none for an entry that the unit does not reach. -/
structure BarrierLane where
  fibre : Nat
  value : Nat := 0
  entries : List (Option TablePlace)
  deriving DecidableEq, Repr

/-- A request as a barrier unit takes it: the package, core and `sr.wgid` of the fibres, the fibres in ascending order, the scope, plus one, of the
`PHASE.AR` performed (R502), the fields of the instruction, and the live fibres of the workgroup. -/
structure BarrierAsk where
  op : BarrierOp
  package : Nat
  core : Nat
  wgid : Nat
  lanes : List BarrierLane
  scopeDone : Nat := 0
  scope : Nat := 0
  live : Bool := false
  select : Nat := 0
  living : List Nat := []
  deriving DecidableEq, Repr

/-- A barrier unit's answer (R275 to R279, R286, R502): a fault cause, the fibres that fail it, the object's phase, and its scope where the answer carries
it; the scope; the scope to repeat an arrival at; the token, the scope, and whether the phase is complete; the word of a query; the fibres whose tokens
return at once; that the object is not valid; that no check fails; or that it is done. -/
inductive BarrierAnswer where
  | failed (cause : Nat) (fibres : List Nat) (phase : Nat) (scope : Option Nat)
  | scope (n : Nat)
  | again (scope : Nat)
  | token (value scope : Nat) (complete : Bool)
  | word (value : Nat) (scope : Nat)
  | waits (returned : List Nat) (phase scope : Nat)
  | invalid
  | clear
  | done
  deriving DecidableEq, Repr

/-- What a Colnal flit that passes its check completes at its port (R16, R431, R438). -/
inductive ColnalItem where
  /-- A flit within a message. -/
  | part
  /-- The last flit of a packet, which the sender names by a tag, with the words of its payload that are poisoned. -/
  | packet (tag : Nat) (bytes : List Byte) (poison : List Nat)
  /-- Another package's load, store or atomic, at a physical address of this one; the last two with the compressibility of the page written through; a
  store with whether its words are poisoned; an atomic by its number in R241's list, with B and C of the lanes that one request combines (R243). -/
  | load (tag pa n : Nat)
  | store (tag pa comp : Nat) (bytes : List Byte) (poisoned : Bool)
  | atomic (tag pa comp op : Nat) (lanes : List (Nat × Nat))
  /-- Another package's home answers this package's request of a tag: with bytes, and the words of them that are poisoned; a store's with none. -/
  | answer (tag : Nat) (bytes : List Byte) (poison : List Nat)
  /-- Another package's home tells that `n` bytes there have been written, by others than this package (R228, R265). -/
  | written (pa n : Nat)
  /-- Another package's request to a barrier unit of this one, the answer of another's unit to this package's, and its notice that the waiters of an object
wake with a status (R19, R270). -/
  | barrier (tag : Nat) (a : BarrierAsk)
  | barrierAnswer (tag : Nat) (b : BarrierAnswer)
  | woken (header : Nat) (status : Bool) (scope : Nat)
  /-- The receiving port has accepted the packet that this package sent under a number. -/
  | accepted (order : Nat)
  /-- Flits granted to this package on a virtual channel. -/
  | credit (channel n : Nat)
  /-- The other end asks for the flits from a number on again, or has taken those below it. -/
  | again (number : Nat)
  | taken (number : Nat)
  deriving DecidableEq, Repr

/-- A word in which an ECC error comes to light (R199, R484): of HBM or tier two; the code of a block; a register, scalar or special register of a
workgroup; a word of an on-chip memory of a core. -/
inductive SoftPlace where
  | memory (pa : Nat)
  | code (block : Nat)
  | register (wg fibre n : Nat)
  | scalar (wg n : Nat)
  | special (wg n : Nat)
  | scratch (core word : Nat)
  | tile (core word : Nat)
  | acc (core word : Nat)
  /-- Of caches, the word of a line; of a front bank, a counter; of a workgroup's codebooks an entry's number, of its patterns a byte, of its
  brushes and the package's a handle and a 64-bit word of the image; of the Coves a word of the payload of a packet by its place. -/
  | l1 (core line word : Nat)
  | rdc (die line word : Nat)
  | l2 (pa : Nat)
  | bank (core bank counter : Nat)
  | book (wg n : Nat)
  | pattern (wg n : Nat)
  | brush (wg h word : Nat)
  | pkgBrush (h word : Nat)
  | cove (packet word : Nat)
  deriving DecidableEq, Repr

/-- An ECC error: its place, and whether it is beyond correction. -/
structure SoftError where
  place : SoftPlace
  beyond : Bool
  deriving DecidableEq, Repr

/-- A firmware image as the boot ROM finds it (R482): its signature verifies; its security version; the life-cycle codes that permit it. -/
structure Firmware where
  verifies : Bool
  version : Nat
  permits : List Nat
  deriving DecidableEq, Repr

/-- What the switch asks of a member for one offset (R430, R431): its element, to take a value, or its part in the member's own operation. -/
inductive MemberAsk where
  | load
  | store (value : Nat)
  | own (op : Nat)
  deriving DecidableEq, Repr

/-- One step of the machine. -/
inductive Instr where
  -- Control (R60, R61)
  | bra (f : Fields)
  | brx (f : Fields)
  | brxTbl (f : Fields)
  | call (f : Fields)
  | callX (f : Fields)
  | ret (f : Fields)
  | fspawn (f : Fields)
  | fspawnN (f : Fields)
  | fend (f : Fields)
  | yield (f : Fields)
  | nop (f : Fields)
  | braLoop (f : Fields)
  -- Integer, address, logic, predicate (R60, R61)
  | iadd (f : Fields)
  | iadd64 (f : Fields)
  | iaddSat (f : Fields)
  | iaddX (f : Fields)
  | isub (f : Fields)
  | isub64 (f : Fields)
  | isubSat (f : Fields)
  | isubX (f : Fields)
  | imul (f : Fields)
  | imulHiS (f : Fields)
  | imulHiU (f : Fields)
  | imulWideS (f : Fields)
  | imulWideU (f : Fields)
  | imul64 (f : Fields)
  | imad (f : Fields)
  | imadWideS (f : Fields)
  | imadWideU (f : Fields)
  | imad64 (f : Fields)
  | iabs (f : Fields)
  | iabs64 (f : Fields)
  | iminS (f : Fields)
  | iminU (f : Fields)
  | iminS64 (f : Fields)
  | iminU64 (f : Fields)
  | imaxS (f : Fields)
  | imaxU (f : Fields)
  | imaxS64 (f : Fields)
  | imaxU64 (f : Fields)
  | shl (f : Fields)
  | shl64 (f : Fields)
  | shrU (f : Fields)
  | shrS (f : Fields)
  | shrU64 (f : Fields)
  | shrS64 (f : Fields)
  | rotL (f : Fields)
  | rotR (f : Fields)
  | and (f : Fields)
  | or (f : Fields)
  | xor (f : Fields)
  | not (f : Fields)
  | tern (f : Fields)
  | bfxU (f : Fields)
  | bfxS (f : Fields)
  | bfi (f : Fields)
  | popc (f : Fields)
  | clz (f : Fields)
  | brev (f : Fields)
  | icmpS (f : Fields)
  | icmpU (f : Fields)
  | icmpS64 (f : Fields)
  | icmpU64 (f : Fields)
  | sel (f : Fields)
  | sel64 (f : Fields)
  | mov (f : Fields)
  | mov64 (f : Fields)
  | movs (f : Fields)
  | movsI (f : Fields)
  | lea (f : Fields)
  | lea32 (f : Fields)
  | leaSx (f : Fields)
  | plog (f : Fields)
  | plogW (f : Fields)
  | pmovP2v (f : Fields)
  | pmovV2p (f : Fields)
  -- Conversion (R60, R61)
  | cvtDn (f : Fields)
  | cvtUp (f : Fields)
  | cvtD (f : Fields)
  | cvtF2i (f : Fields)
  | cvtI2f (f : Fields)
  | cvtF2l (f : Fields)
  | cvtL2f (f : Fields)
  | cvtI2i (f : Fields)
  | pack2 (f : Fields)
  | pack4 (f : Fields)
  | pack5 (f : Fields)
  | pack8 (f : Fields)
  | unpk2 (f : Fields)
  | unpk4 (f : Fields)
  | unpk5 (f : Fields)
  | unpk8 (f : Fields)
  | cbld (f : Fields)
  | cbldM (f : Fields)
  | cbq (f : Fields)
  | cbqP (f : Fields)
  | bsclGet (f : Fields)
  | bsclGet32 (f : Fields)
  | bsclApply (f : Fields)
  | bsclInv (f : Fields)
  -- Float and special (R60, R61)
  | fadd (f : Fields)
  | faddF16x2 (f : Fields)
  | faddBf16x2 (f : Fields)
  | fmul (f : Fields)
  | fmulF16x2 (f : Fields)
  | fmulBf16x2 (f : Fields)
  | fmac (f : Fields)
  | fmacF16x2 (f : Fields)
  | fmacBf16x2 (f : Fields)
  | fmin (f : Fields)
  | fminF16x2 (f : Fields)
  | fminBf16x2 (f : Fields)
  | fmax (f : Fields)
  | fmaxF16x2 (f : Fields)
  | fmaxBf16x2 (f : Fields)
  | fcmp (f : Fields)
  | fcmpF16x2 (f : Fields)
  | fcmpBf16x2 (f : Fields)
  | fcmpF64 (f : Fields)
  | fcls (f : Fields)
  | fclsF64 (f : Fields)
  | fclsF16x2 (f : Fields)
  | fclsBf16x2 (f : Fields)
  | frnd (f : Fields)
  | frndF64 (f : Fields)
  | frndF16x2 (f : Fields)
  | frndBf16x2 (f : Fields)
  | rcp (f : Fields)
  | rcpF64 (f : Fields)
  | rsq (f : Fields)
  | rsqF64 (f : Fields)
  | sqrt (f : Fields)
  | sqrtF64 (f : Fields)
  | ex2 (f : Fields)
  | lg2 (f : Fields)
  | sin (f : Fields)
  | cos (f : Fields)
  | tanh (f : Fields)
  | dadd (f : Fields)
  | dmul (f : Fields)
  | dmac (f : Fields)
  | fminF64 (f : Fields)
  | fmaxF64 (f : Fields)
  | xpr (f : Fields)
  -- Lane and Palette (R60, R61)
  | part (f : Fields)
  | xlnIdx (f : Fields)
  | xlnSub (f : Fields)
  | xlnAdd (f : Fields)
  | xlnFlip (f : Fields)
  | vote (f : Fields)
  | lred (f : Fields)
  | lredF (f : Fields)
  | lscan (f : Fields)
  | lscanF (f : Fields)
  | perm (f : Fields)
  | pld (f : Fields)
  -- Memory (R60, R61)
  | ldS (f : Fields)
  | ldC (f : Fields)
  | ldG (f : Fields)
  | ldSQ (f : Fields)
  | ldCQ (f : Fields)
  | ldGQ (f : Fields)
  | stS (f : Fields)
  | stC (f : Fields)
  | stG (f : Fields)
  | stSQ (f : Fields)
  | stCQ (f : Fields)
  | stGQ (f : Fields)
  | prfL1 (f : Fields)
  | prfL2 (f : Fields)
  | cctlInv (f : Fields)
  | cctlWb (f : Fields)
  | cctlWbinv (f : Fields)
  | cctlPri (f : Fields)
  | aqry (f : Fields)
  | aqryH (f : Fields)
  -- Ordering and atomics (R60, R61)
  | phaseRel (f : Fields)
  | phaseAcq (f : Fields)
  | phaseAr (f : Fields)
  | fence (f : Fields)
  | fenceE (f : Fields)
  | ord (f : Fields)
  | atomAdd (f : Fields)
  | atomAdd64 (f : Fields)
  | atomAddF32 (f : Fields)
  | atomAddBf16x2 (f : Fields)
  | atomMinS (f : Fields)
  | atomMinU (f : Fields)
  | atomMaxS (f : Fields)
  | atomMaxU (f : Fields)
  | atomAnd (f : Fields)
  | atomOr (f : Fields)
  | atomXor (f : Fields)
  | atomExch (f : Fields)
  | atomExch64 (f : Fields)
  | atomCas (f : Fields)
  | atomCas64 (f : Fields)
  | atomInc (f : Fields)
  | redAdd (f : Fields)
  | redAdd64 (f : Fields)
  | redAddF32 (f : Fields)
  | redAddBf16x2 (f : Fields)
  | redMinS (f : Fields)
  | redMinU (f : Fields)
  | redMaxS (f : Fields)
  | redMaxU (f : Fields)
  | redAnd (f : Fields)
  | redOr (f : Fields)
  | redXor (f : Fields)
  | redInc (f : Fields)
  -- Residency and barriers (R60, R61)
  | binit (f : Fields)
  | barv (f : Fields)
  | barvC (f : Fields)
  | bwait (f : Fields)
  | barr (f : Fields)
  | binv (f : Fields)
  | bqry (f : Fields)
  | watch (f : Fields)
  | watchClr (f : Fields)
  | waitw (f : Fields)
  | waitwT (f : Fields)
  | rgrow (f : Fields)
  | rgrowTry (f : Fields)
  | rshrink (f : Fields)
  -- Async copy (R60, R61)
  | cpy (f : Fields)
  | cpySlot (f : Fields)
  | cpyCl (f : Fields)
  | cpyReg (f : Fields)
  | cpyRing (f : Fields)
  | cpyAcc (f : Fields)
  | cpyB (f : Fields)
  | gth (f : Fields)
  | gthSlot (f : Fields)
  | sct (f : Fields)
  | sctCl (f : Fields)
  | seal (f : Fields)
  | waitc (f : Fields)
  | swinit (f : Fields)
  | swexp (f : Fields)
  | swwait (f : Fields)
  | rwait (f : Fields)
  | rrel (f : Fields)
  -- Matrix (R60, R61)
  | sclm (f : Fields)
  | sclmTry (f : Fields)
  | srel (f : Fields)
  | mloop (f : Fields)
  | mloopC (f : Fields)
  | mloopG (f : Fields)
  | mzero (f : Fields)
  | mlda (f : Fields)
  | msta (f : Fields)
  | cmrg (f : Fields)
  | cdrn (f : Fields)
  | cdrnI (f : Fields)
  | czero (f : Fields)
  | czeroD (f : Fields)
  -- Tile (R60, R61)
  | brld (f : Fields)
  | brldPkg (f : Fields)
  | brdrop (f : Fields)
  | brdropPkg (f : Fields)
  | tzip (f : Fields)
  | tfold (f : Fields)
  | tscan (f : Fields)
  | touter (f : Fields)
  -- System (R60, R61)
  | trap (f : Fields)
  | sysc (f : Fields)
  | csrr (f : Fields)
  | csrw (f : Fields)
  | csrs (f : Fields)
  | csrc (f : Fields)
  | brk (f : Fields)
  | frd (f : Fields)
  | fres (f : Fields)
  | fkill (f : Fields)
  -- Collective (R60, R61)
  | mldr (f : Fields)
  | mldrF32 (f : Fields)
  | msto (f : Fields)
  | psend (f : Fields)
  | psendT (f : Fields)
  | lcarm (f : Fields)
  | lcarmAdd (f : Fields)
  | twait (f : Fields)
  | twaitRel (f : Fields)
  | tread (f : Fields)
  -- Launch (R60, R61)
  | task (f : Fields)
  | taskT (f : Fields)
  | hints (f : Fields)
  | waitpred (f : Fields)
  -- Events of agents other than an issuing batch (spec 95)
  | loadDataReturn (core i : Nat)
  | homeWritePerformed (core i : Nat)
  | barrierUnitRequest (i : Nat)
  | rotationDecision (core wg : Nat)
  | rotationTransferDone (core : Nat)
  | rotationQuantumExpiry (core wg : Nat)
  | spinTimeout (wg fibre : Nat)
  | waitwReread (wg fibre : Nat)
  | waitwDeadline (wg fibre : Nat)
  | swwaitReread (wg fibre : Nat)
  | copyUnitGrant (core entry : Nat)
  | engineOpComplete (core entry : Nat)
  | easelUnitStart (core : Nat)
  | easelUnitEnd (core : Nat)
  | faultRecordWrite
  | faultRingRetry
  | watchdogExpiry (wg : Nat)
  | csrWrite (agent : Agent) (num : BitVec 12) (value : Word)
  | fcmdResumeAtPc (agent : Agent) (value : Option Word)
  | fcmdResumePast (agent : Agent) (value : Option Word)
  | fcmdKill (agent : Agent)
  | preemptRequest (agent : Agent)
  | preemptSaveDone (wg : Nat)
  | preemptRestore (agent : Agent)
  | preemptKillSaved (agent : Agent)
  | tlbInvalidate (agent : Agent) (value : Word)
  | launchCounterDisarm (value : Word)
  | faultRingReadIndexWrite (value : Word)
  | coveWaysWrite (agent : Agent) (value : Word)
  | tideTargetReached (wg fibre : Nat)
  | multicastMemberRequest (member : Nat) (group : Nat) (offset : Nat) (width : Nat) (value : MemberAsk)
  | multicastResponse (op : Nat) (answers : List MemberAnswer)
  | multicastMemberTimeout (op member : Nat)
  | packetHop (i : Nat)
  | colnalFlitReceive (port : Nat) (crcGood : Bool) (item : ColnalItem)
  | strandFrameReceive (frame : StrandFrame)
  | strandSackReceive (head : StrandHead) (cumulative : Nat) (bitmap : BitVec 64)
  | strandSackTimer (peer : Nat)
  | strandRetransmitTimeout (peer seq : Nat)
  | strandPeerTimeout (peer : Nat)
  | queueNotify (queue : Nat) (index : Word) (table : Option (BitVec 64 × Word))
  | workgroupAdmission
  | chunkTake (core slice : Nat)
  | workgroupEnd (wg : Nat)
  | jobComplete (launch : Nat)
  | launchComplete (launch : Nat)
  | cxlMemAccess (pa : Nat) (data : Option (List Byte)) (length : Nat)
  | cxlCacheSnoop (pa : Nat) (exclusive : Bool)
  | mgmtReadBlackBox (die first count : Nat)
  | mgmtReadPower
  | mgmtReadCounters
  | mgmtWritePeer (bytes : List Byte)
  | mgmtInstallKey (bytes : List Byte)
  | mgmtPeerUp (peer : Nat)
  | mgmtPeerDown (peer : Nat)
  | mgmtLifeCycleStep (bytes : List Byte)
  | mgmtTenantReset
  | mgmtWarmReset
  | spdmMessage (bytes : List Byte)
  | mctpControlMessage (bytes : List Byte)
  | coldReset
  | cxlConventionalReset
  | wipeDone
  | thermalTrip
  | blockLocalLimit (block : Nat)
  | patrolScrub (errors : List SoftError)
  | tideSynchronisation (value : BitVec 64)
  | startTimeReached (value : Nat)
  | powerRemoved
  | pageWalkComplete (space va : Nat)
  | lineFetchReturn (core slot : Nat)
  | i3cDynamicAddressAssignment (address : BitVec 7)
  deriving DecidableEq, Repr

end Sys2Proof
end

