-- ==== Sys2Proof/Decode.lean ====
section
/-! DEFINITION. The decoder, total on any bytes (R23, R30, R60, R61), and the encoder written from the same tables. The section is
marked noncomputable only because Lean's compiler has no tag for a constructor numbered above 244; the kernel evaluates it all. -/

noncomputable section

namespace Sys2Proof

open Machine (bytesOf ofBytes)

/-- The fields of a 96-bit word (R30). -/
def fieldsOf (w : BitVec 96) : Fields where
  stall := w.extractLsb' 82 5
  guardOn := w.getLsbD 81
  guardPred := w.extractLsb' 77 4
  guardNeg := w.getLsbD 76
  dst := w.extractLsb' 67 9
  srcA := w.extractLsb' 58 9
  srcB := w.extractLsb' 49 9
  srcC := w.extractLsb' 40 9
  immSel := w.getLsbD 39
  mods := w.extractLsb' 32 7
  imm := w.extractLsb' 0 32

/-- The 96-bit word of an opcode and its fields (R30). -/
def wordOf (op : BitVec 9) (f : Fields) : BitVec 96 :=
  op ++ f.stall ++ BitVec.ofBool f.guardOn ++ f.guardPred ++ BitVec.ofBool f.guardNeg ++ f.dst ++ f.srcA ++ f.srcB ++ f.srcC ++
    BitVec.ofBool f.immSel ++ f.mods ++ f.imm

/-- Control encodings, in ascending opcode order from 0x001 (R61). -/
def controlCtors : List (Fields → Instr) :=
  [.bra, .brx, .brxTbl, .call, .callX, .ret, .fspawn, .fspawnN, .fend, .yield, .nop, .braLoop]

/-- Integer, address, logic, predicate encodings, in ascending opcode order from 0x010 (R61). -/
def integerCtors : List (Fields → Instr) :=
  [.iadd, .iadd64, .iaddSat, .iaddX, .isub, .isub64, .isubSat, .isubX, .imul, .imulHiS, .imulHiU, .imulWideS,
   .imulWideU, .imul64, .imad, .imadWideS, .imadWideU, .imad64, .iabs, .iabs64, .iminS, .iminU, .iminS64, .iminU64,
   .imaxS, .imaxU, .imaxS64, .imaxU64, .shl, .shl64, .shrU, .shrS, .shrU64, .shrS64, .rotL, .rotR, .and, .or, .xor,
   .not, .tern, .bfxU, .bfxS, .bfi, .popc, .clz, .brev, .icmpS, .icmpU, .icmpS64, .icmpU64, .sel, .sel64, .mov,
   .mov64, .movs, .movsI, .lea, .lea32, .leaSx, .plog, .plogW, .pmovP2v, .pmovV2p]

/-- Conversion encodings, in ascending opcode order from 0x050 (R61). -/
def convertCtors : List (Fields → Instr) :=
  [.cvtDn, .cvtUp, .cvtD, .cvtF2i, .cvtI2f, .cvtF2l, .cvtL2f, .cvtI2i, .pack2, .pack4, .pack5, .pack8, .unpk2,
   .unpk4, .unpk5, .unpk8, .cbld, .cbldM, .cbq, .cbqP, .bsclGet, .bsclGet32, .bsclApply, .bsclInv]

/-- Float and special encodings, in ascending opcode order from 0x070 (R61). -/
def floatCtors : List (Fields → Instr) :=
  [.fadd, .faddF16x2, .faddBf16x2, .fmul, .fmulF16x2, .fmulBf16x2, .fmac, .fmacF16x2, .fmacBf16x2, .fmin, .fminF16x2,
   .fminBf16x2, .fmax, .fmaxF16x2, .fmaxBf16x2, .fcmp, .fcmpF16x2, .fcmpBf16x2, .fcmpF64, .fcls, .fclsF64,
   .fclsF16x2, .fclsBf16x2, .frnd, .frndF64, .frndF16x2, .frndBf16x2, .rcp, .rcpF64, .rsq, .rsqF64, .sqrt, .sqrtF64,
   .ex2, .lg2, .sin, .cos, .tanh, .dadd, .dmul, .dmac, .fminF64, .fmaxF64, .xpr]

/-- Lane and Palette encodings, in ascending opcode order from 0x0A0 (R61). -/
def laneCtors : List (Fields → Instr) :=
  [.part, .xlnIdx, .xlnSub, .xlnAdd, .xlnFlip, .vote, .lred, .lredF, .lscan, .lscanF, .perm, .pld]

/-- Memory encodings, in ascending opcode order from 0x0B0 (R61). -/
def memoryCtors : List (Fields → Instr) :=
  [.ldS, .ldC, .ldG, .ldSQ, .ldCQ, .ldGQ, .stS, .stC, .stG, .stSQ, .stCQ, .stGQ, .prfL1, .prfL2, .cctlInv, .cctlWb,
   .cctlWbinv, .cctlPri, .aqry, .aqryH]

/-- Ordering and atomics encodings, in ascending opcode order from 0x0D0 (R61). -/
def orderingCtors : List (Fields → Instr) :=
  [.phaseRel, .phaseAcq, .phaseAr, .fence, .fenceE, .ord, .atomAdd, .atomAdd64, .atomAddF32, .atomAddBf16x2,
   .atomMinS, .atomMinU, .atomMaxS, .atomMaxU, .atomAnd, .atomOr, .atomXor, .atomExch, .atomExch64, .atomCas,
   .atomCas64, .atomInc, .redAdd, .redAdd64, .redAddF32, .redAddBf16x2, .redMinS, .redMinU, .redMaxS, .redMaxU,
   .redAnd, .redOr, .redXor, .redInc]

/-- Residency and barriers encodings, in ascending opcode order from 0x100 (R61). -/
def residencyCtors : List (Fields → Instr) :=
  [.binit, .barv, .barvC, .bwait, .barr, .binv, .bqry, .watch, .watchClr, .waitw, .waitwT, .rgrow, .rgrowTry,
   .rshrink]

/-- Async copy encodings, in ascending opcode order from 0x110 (R61). -/
def asyncCtors : List (Fields → Instr) :=
  [.cpy, .cpySlot, .cpyCl, .cpyReg, .cpyRing, .cpyAcc, .cpyB, .gth, .gthSlot, .sct, .sctCl, .seal, .waitc, .swinit,
   .swexp, .swwait, .rwait, .rrel]

/-- Matrix encodings, in ascending opcode order from 0x130 (R61). -/
def matrixCtors : List (Fields → Instr) :=
  [.sclm, .sclmTry, .srel, .mloop, .mloopC, .mloopG, .mzero, .mlda, .msta, .cmrg, .cdrn, .cdrnI, .czero, .czeroD]

/-- Tile encodings, in ascending opcode order from 0x140 (R61). -/
def tileCtors : List (Fields → Instr) :=
  [.brld, .brldPkg, .brdrop, .brdropPkg, .tzip, .tfold, .tscan, .touter]

/-- System encodings, in ascending opcode order from 0x150 (R61). -/
def systemCtors : List (Fields → Instr) :=
  [.trap, .sysc, .csrr, .csrw, .csrs, .csrc, .brk, .frd, .fres, .fkill]

/-- Collective encodings, in ascending opcode order from 0x160 (R61). -/
def collectiveCtors : List (Fields → Instr) :=
  [.mldr, .mldrF32, .msto, .psend, .psendT, .lcarm, .lcarmAdd, .twait, .twaitRel, .tread]

/-- Launch encodings, in ascending opcode order from 0x170 (R61). -/
def launchCtors : List (Fields → Instr) :=
  [.task, .taskT, .hints, .waitpred]

/-- The opcode map: the first opcode of each class and its encodings (R60, R61). -/
def opcodeMap : List (Nat × List (Fields → Instr)) :=
  [(0x001, controlCtors), (0x010, integerCtors), (0x050, convertCtors), (0x070, floatCtors),
   (0x0A0, laneCtors), (0x0B0, memoryCtors), (0x0D0, orderingCtors), (0x100, residencyCtors),
   (0x110, asyncCtors), (0x130, matrixCtors), (0x140, tileCtors), (0x150, systemCtors),
   (0x160, collectiveCtors), (0x170, launchCtors)]

/-- The instruction of an opcode; none outside the 288 assigned values (R60). -/
def ofOpcode (op : Nat) (f : Fields) : Option Instr :=
  opcodeMap.findSome? (fun e => if e.1 ≤ op then (e.2[op - e.1]?).map (fun c => c f) else none)

/-- Why bytes are not an instruction. -/
inductive DecodeError where
  /-- Fewer than the twelve bytes of a slot (R23). -/
  | tooShort
  /-- An opcode outside the assigned values (R60). -/
  | illegalOpcode (op : Nat)
  deriving DecidableEq, Repr

/-- The instruction of a 96-bit word. -/
def decodeWord (w : BitVec 96) : Except DecodeError Instr :=
  match ofOpcode (w.extractLsb' 87 9).toNat (fieldsOf w) with
  | some i => .ok i
  | none => .error (.illegalOpcode (w.extractLsb' 87 9).toNat)

/-- The instruction at the head of a list of bytes, stored little-endian (R23), with the bytes that follow it. -/
def decodeBytes (bs : List Byte) : Except DecodeError (Instr × List Byte) :=
  if bs.length < 12 then .error .tooShort
  else (decodeWord (BitVec.ofNat 96 (ofBytes (bs.take 12)))).map (fun i => (i, bs.drop 12))

/-- The opcode of an instruction; events have no encoding (spec 95). -/
def Instr.opcode : Instr → Option (BitVec 9)
  | .bra _ => some 0x001
  | .brx _ => some 0x002
  | .brxTbl _ => some 0x003
  | .call _ => some 0x004
  | .callX _ => some 0x005
  | .ret _ => some 0x006
  | .fspawn _ => some 0x007
  | .fspawnN _ => some 0x008
  | .fend _ => some 0x009
  | .yield _ => some 0x00A
  | .nop _ => some 0x00B
  | .braLoop _ => some 0x00C
  | .iadd _ => some 0x010
  | .iadd64 _ => some 0x011
  | .iaddSat _ => some 0x012
  | .iaddX _ => some 0x013
  | .isub _ => some 0x014
  | .isub64 _ => some 0x015
  | .isubSat _ => some 0x016
  | .isubX _ => some 0x017
  | .imul _ => some 0x018
  | .imulHiS _ => some 0x019
  | .imulHiU _ => some 0x01A
  | .imulWideS _ => some 0x01B
  | .imulWideU _ => some 0x01C
  | .imul64 _ => some 0x01D
  | .imad _ => some 0x01E
  | .imadWideS _ => some 0x01F
  | .imadWideU _ => some 0x020
  | .imad64 _ => some 0x021
  | .iabs _ => some 0x022
  | .iabs64 _ => some 0x023
  | .iminS _ => some 0x024
  | .iminU _ => some 0x025
  | .iminS64 _ => some 0x026
  | .iminU64 _ => some 0x027
  | .imaxS _ => some 0x028
  | .imaxU _ => some 0x029
  | .imaxS64 _ => some 0x02A
  | .imaxU64 _ => some 0x02B
  | .shl _ => some 0x02C
  | .shl64 _ => some 0x02D
  | .shrU _ => some 0x02E
  | .shrS _ => some 0x02F
  | .shrU64 _ => some 0x030
  | .shrS64 _ => some 0x031
  | .rotL _ => some 0x032
  | .rotR _ => some 0x033
  | .and _ => some 0x034
  | .or _ => some 0x035
  | .xor _ => some 0x036
  | .not _ => some 0x037
  | .tern _ => some 0x038
  | .bfxU _ => some 0x039
  | .bfxS _ => some 0x03A
  | .bfi _ => some 0x03B
  | .popc _ => some 0x03C
  | .clz _ => some 0x03D
  | .brev _ => some 0x03E
  | .icmpS _ => some 0x03F
  | .icmpU _ => some 0x040
  | .icmpS64 _ => some 0x041
  | .icmpU64 _ => some 0x042
  | .sel _ => some 0x043
  | .sel64 _ => some 0x044
  | .mov _ => some 0x045
  | .mov64 _ => some 0x046
  | .movs _ => some 0x047
  | .movsI _ => some 0x048
  | .lea _ => some 0x049
  | .lea32 _ => some 0x04A
  | .leaSx _ => some 0x04B
  | .plog _ => some 0x04C
  | .plogW _ => some 0x04D
  | .pmovP2v _ => some 0x04E
  | .pmovV2p _ => some 0x04F
  | .cvtDn _ => some 0x050
  | .cvtUp _ => some 0x051
  | .cvtD _ => some 0x052
  | .cvtF2i _ => some 0x053
  | .cvtI2f _ => some 0x054
  | .cvtF2l _ => some 0x055
  | .cvtL2f _ => some 0x056
  | .cvtI2i _ => some 0x057
  | .pack2 _ => some 0x058
  | .pack4 _ => some 0x059
  | .pack5 _ => some 0x05A
  | .pack8 _ => some 0x05B
  | .unpk2 _ => some 0x05C
  | .unpk4 _ => some 0x05D
  | .unpk5 _ => some 0x05E
  | .unpk8 _ => some 0x05F
  | .cbld _ => some 0x060
  | .cbldM _ => some 0x061
  | .cbq _ => some 0x062
  | .cbqP _ => some 0x063
  | .bsclGet _ => some 0x064
  | .bsclGet32 _ => some 0x065
  | .bsclApply _ => some 0x066
  | .bsclInv _ => some 0x067
  | .fadd _ => some 0x070
  | .faddF16x2 _ => some 0x071
  | .faddBf16x2 _ => some 0x072
  | .fmul _ => some 0x073
  | .fmulF16x2 _ => some 0x074
  | .fmulBf16x2 _ => some 0x075
  | .fmac _ => some 0x076
  | .fmacF16x2 _ => some 0x077
  | .fmacBf16x2 _ => some 0x078
  | .fmin _ => some 0x079
  | .fminF16x2 _ => some 0x07A
  | .fminBf16x2 _ => some 0x07B
  | .fmax _ => some 0x07C
  | .fmaxF16x2 _ => some 0x07D
  | .fmaxBf16x2 _ => some 0x07E
  | .fcmp _ => some 0x07F
  | .fcmpF16x2 _ => some 0x080
  | .fcmpBf16x2 _ => some 0x081
  | .fcmpF64 _ => some 0x082
  | .fcls _ => some 0x083
  | .fclsF64 _ => some 0x084
  | .fclsF16x2 _ => some 0x085
  | .fclsBf16x2 _ => some 0x086
  | .frnd _ => some 0x087
  | .frndF64 _ => some 0x088
  | .frndF16x2 _ => some 0x089
  | .frndBf16x2 _ => some 0x08A
  | .rcp _ => some 0x08B
  | .rcpF64 _ => some 0x08C
  | .rsq _ => some 0x08D
  | .rsqF64 _ => some 0x08E
  | .sqrt _ => some 0x08F
  | .sqrtF64 _ => some 0x090
  | .ex2 _ => some 0x091
  | .lg2 _ => some 0x092
  | .sin _ => some 0x093
  | .cos _ => some 0x094
  | .tanh _ => some 0x095
  | .dadd _ => some 0x096
  | .dmul _ => some 0x097
  | .dmac _ => some 0x098
  | .fminF64 _ => some 0x099
  | .fmaxF64 _ => some 0x09A
  | .xpr _ => some 0x09B
  | .part _ => some 0x0A0
  | .xlnIdx _ => some 0x0A1
  | .xlnSub _ => some 0x0A2
  | .xlnAdd _ => some 0x0A3
  | .xlnFlip _ => some 0x0A4
  | .vote _ => some 0x0A5
  | .lred _ => some 0x0A6
  | .lredF _ => some 0x0A7
  | .lscan _ => some 0x0A8
  | .lscanF _ => some 0x0A9
  | .perm _ => some 0x0AA
  | .pld _ => some 0x0AB
  | .ldS _ => some 0x0B0
  | .ldC _ => some 0x0B1
  | .ldG _ => some 0x0B2
  | .ldSQ _ => some 0x0B3
  | .ldCQ _ => some 0x0B4
  | .ldGQ _ => some 0x0B5
  | .stS _ => some 0x0B6
  | .stC _ => some 0x0B7
  | .stG _ => some 0x0B8
  | .stSQ _ => some 0x0B9
  | .stCQ _ => some 0x0BA
  | .stGQ _ => some 0x0BB
  | .prfL1 _ => some 0x0BC
  | .prfL2 _ => some 0x0BD
  | .cctlInv _ => some 0x0BE
  | .cctlWb _ => some 0x0BF
  | .cctlWbinv _ => some 0x0C0
  | .cctlPri _ => some 0x0C1
  | .aqry _ => some 0x0C2
  | .aqryH _ => some 0x0C3
  | .phaseRel _ => some 0x0D0
  | .phaseAcq _ => some 0x0D1
  | .phaseAr _ => some 0x0D2
  | .fence _ => some 0x0D3
  | .fenceE _ => some 0x0D4
  | .ord _ => some 0x0D5
  | .atomAdd _ => some 0x0D6
  | .atomAdd64 _ => some 0x0D7
  | .atomAddF32 _ => some 0x0D8
  | .atomAddBf16x2 _ => some 0x0D9
  | .atomMinS _ => some 0x0DA
  | .atomMinU _ => some 0x0DB
  | .atomMaxS _ => some 0x0DC
  | .atomMaxU _ => some 0x0DD
  | .atomAnd _ => some 0x0DE
  | .atomOr _ => some 0x0DF
  | .atomXor _ => some 0x0E0
  | .atomExch _ => some 0x0E1
  | .atomExch64 _ => some 0x0E2
  | .atomCas _ => some 0x0E3
  | .atomCas64 _ => some 0x0E4
  | .atomInc _ => some 0x0E5
  | .redAdd _ => some 0x0E6
  | .redAdd64 _ => some 0x0E7
  | .redAddF32 _ => some 0x0E8
  | .redAddBf16x2 _ => some 0x0E9
  | .redMinS _ => some 0x0EA
  | .redMinU _ => some 0x0EB
  | .redMaxS _ => some 0x0EC
  | .redMaxU _ => some 0x0ED
  | .redAnd _ => some 0x0EE
  | .redOr _ => some 0x0EF
  | .redXor _ => some 0x0F0
  | .redInc _ => some 0x0F1
  | .binit _ => some 0x100
  | .barv _ => some 0x101
  | .barvC _ => some 0x102
  | .bwait _ => some 0x103
  | .barr _ => some 0x104
  | .binv _ => some 0x105
  | .bqry _ => some 0x106
  | .watch _ => some 0x107
  | .watchClr _ => some 0x108
  | .waitw _ => some 0x109
  | .waitwT _ => some 0x10A
  | .rgrow _ => some 0x10B
  | .rgrowTry _ => some 0x10C
  | .rshrink _ => some 0x10D
  | .cpy _ => some 0x110
  | .cpySlot _ => some 0x111
  | .cpyCl _ => some 0x112
  | .cpyReg _ => some 0x113
  | .cpyRing _ => some 0x114
  | .cpyAcc _ => some 0x115
  | .cpyB _ => some 0x116
  | .gth _ => some 0x117
  | .gthSlot _ => some 0x118
  | .sct _ => some 0x119
  | .sctCl _ => some 0x11A
  | .seal _ => some 0x11B
  | .waitc _ => some 0x11C
  | .swinit _ => some 0x11D
  | .swexp _ => some 0x11E
  | .swwait _ => some 0x11F
  | .rwait _ => some 0x120
  | .rrel _ => some 0x121
  | .sclm _ => some 0x130
  | .sclmTry _ => some 0x131
  | .srel _ => some 0x132
  | .mloop _ => some 0x133
  | .mloopC _ => some 0x134
  | .mloopG _ => some 0x135
  | .mzero _ => some 0x136
  | .mlda _ => some 0x137
  | .msta _ => some 0x138
  | .cmrg _ => some 0x139
  | .cdrn _ => some 0x13A
  | .cdrnI _ => some 0x13B
  | .czero _ => some 0x13C
  | .czeroD _ => some 0x13D
  | .brld _ => some 0x140
  | .brldPkg _ => some 0x141
  | .brdrop _ => some 0x142
  | .brdropPkg _ => some 0x143
  | .tzip _ => some 0x144
  | .tfold _ => some 0x145
  | .tscan _ => some 0x146
  | .touter _ => some 0x147
  | .trap _ => some 0x150
  | .sysc _ => some 0x151
  | .csrr _ => some 0x152
  | .csrw _ => some 0x153
  | .csrs _ => some 0x154
  | .csrc _ => some 0x155
  | .brk _ => some 0x156
  | .frd _ => some 0x157
  | .fres _ => some 0x158
  | .fkill _ => some 0x159
  | .mldr _ => some 0x160
  | .mldrF32 _ => some 0x161
  | .msto _ => some 0x162
  | .psend _ => some 0x163
  | .psendT _ => some 0x164
  | .lcarm _ => some 0x165
  | .lcarmAdd _ => some 0x166
  | .twait _ => some 0x167
  | .twaitRel _ => some 0x168
  | .tread _ => some 0x169
  | .task _ => some 0x170
  | .taskT _ => some 0x171
  | .hints _ => some 0x172
  | .waitpred _ => some 0x173
  | .loadDataReturn .. | .homeWritePerformed .. | .barrierUnitRequest .. | .rotationDecision .. | .rotationTransferDone .. | .rotationQuantumExpiry ..
  | .spinTimeout .. | .waitwReread .. | .waitwDeadline .. | .swwaitReread .. | .copyUnitGrant .. | .engineOpComplete ..
  | .easelUnitStart .. | .easelUnitEnd .. | .faultRecordWrite | .faultRingRetry | .watchdogExpiry .. | .csrWrite ..
  | .fcmdResumeAtPc .. | .fcmdResumePast .. | .fcmdKill .. | .preemptRequest .. | .preemptSaveDone .. | .preemptRestore ..
  | .preemptKillSaved .. | .tlbInvalidate .. | .launchCounterDisarm .. | .faultRingReadIndexWrite .. | .coveWaysWrite .. | .tideTargetReached ..
  | .multicastMemberRequest .. | .multicastResponse .. | .multicastMemberTimeout .. | .packetHop .. | .colnalFlitReceive .. | .strandFrameReceive ..
  | .strandSackReceive .. | .strandSackTimer .. | .strandRetransmitTimeout .. | .strandPeerTimeout .. | .queueNotify .. | .workgroupAdmission
  | .chunkTake .. | .workgroupEnd .. | .jobComplete .. | .launchComplete .. | .cxlMemAccess .. | .cxlCacheSnoop ..
  | .mgmtReadBlackBox .. | .mgmtReadPower | .mgmtReadCounters | .mgmtWritePeer .. | .mgmtInstallKey .. | .mgmtPeerUp ..
  | .mgmtPeerDown .. | .mgmtLifeCycleStep .. | .mgmtTenantReset | .mgmtWarmReset | .spdmMessage .. | .mctpControlMessage ..
  | .coldReset | .cxlConventionalReset | .wipeDone | .thermalTrip | .blockLocalLimit .. | .patrolScrub ..
  | .tideSynchronisation .. | .startTimeReached .. | .powerRemoved | .pageWalkComplete .. | .lineFetchReturn .. | .i3cDynamicAddressAssignment .. => none

/-- The fields of an instruction word; events have none. -/
def Instr.fields : Instr → Option Fields
  | .bra f | .brx f | .brxTbl f | .call f | .callX f | .ret f | .fspawn f | .fspawnN f
  | .fend f | .yield f | .nop f | .braLoop f | .iadd f | .iadd64 f | .iaddSat f | .iaddX f
  | .isub f | .isub64 f | .isubSat f | .isubX f | .imul f | .imulHiS f | .imulHiU f | .imulWideS f
  | .imulWideU f | .imul64 f | .imad f | .imadWideS f | .imadWideU f | .imad64 f | .iabs f | .iabs64 f
  | .iminS f | .iminU f | .iminS64 f | .iminU64 f | .imaxS f | .imaxU f | .imaxS64 f | .imaxU64 f
  | .shl f | .shl64 f | .shrU f | .shrS f | .shrU64 f | .shrS64 f | .rotL f | .rotR f
  | .and f | .or f | .xor f | .not f | .tern f | .bfxU f | .bfxS f | .bfi f
  | .popc f | .clz f | .brev f | .icmpS f | .icmpU f | .icmpS64 f | .icmpU64 f | .sel f
  | .sel64 f | .mov f | .mov64 f | .movs f | .movsI f | .lea f | .lea32 f | .leaSx f
  | .plog f | .plogW f | .pmovP2v f | .pmovV2p f | .cvtDn f | .cvtUp f | .cvtD f | .cvtF2i f
  | .cvtI2f f | .cvtF2l f | .cvtL2f f | .cvtI2i f | .pack2 f | .pack4 f | .pack5 f | .pack8 f
  | .unpk2 f | .unpk4 f | .unpk5 f | .unpk8 f | .cbld f | .cbldM f | .cbq f | .cbqP f
  | .bsclGet f | .bsclGet32 f | .bsclApply f | .bsclInv f | .fadd f | .faddF16x2 f | .faddBf16x2 f | .fmul f
  | .fmulF16x2 f | .fmulBf16x2 f | .fmac f | .fmacF16x2 f | .fmacBf16x2 f | .fmin f | .fminF16x2 f | .fminBf16x2 f
  | .fmax f | .fmaxF16x2 f | .fmaxBf16x2 f | .fcmp f | .fcmpF16x2 f | .fcmpBf16x2 f | .fcmpF64 f | .fcls f
  | .fclsF64 f | .fclsF16x2 f | .fclsBf16x2 f | .frnd f | .frndF64 f | .frndF16x2 f | .frndBf16x2 f | .rcp f
  | .rcpF64 f | .rsq f | .rsqF64 f | .sqrt f | .sqrtF64 f | .ex2 f | .lg2 f | .sin f
  | .cos f | .tanh f | .dadd f | .dmul f | .dmac f | .fminF64 f | .fmaxF64 f | .xpr f
  | .part f | .xlnIdx f | .xlnSub f | .xlnAdd f | .xlnFlip f | .vote f | .lred f | .lredF f
  | .lscan f | .lscanF f | .perm f | .pld f | .ldS f | .ldC f | .ldG f | .ldSQ f
  | .ldCQ f | .ldGQ f | .stS f | .stC f | .stG f | .stSQ f | .stCQ f | .stGQ f
  | .prfL1 f | .prfL2 f | .cctlInv f | .cctlWb f | .cctlWbinv f | .cctlPri f | .aqry f | .aqryH f
  | .phaseRel f | .phaseAcq f | .phaseAr f | .fence f | .fenceE f | .ord f | .atomAdd f | .atomAdd64 f
  | .atomAddF32 f | .atomAddBf16x2 f | .atomMinS f | .atomMinU f | .atomMaxS f | .atomMaxU f | .atomAnd f | .atomOr f
  | .atomXor f | .atomExch f | .atomExch64 f | .atomCas f | .atomCas64 f | .atomInc f | .redAdd f | .redAdd64 f
  | .redAddF32 f | .redAddBf16x2 f | .redMinS f | .redMinU f | .redMaxS f | .redMaxU f | .redAnd f | .redOr f
  | .redXor f | .redInc f | .binit f | .barv f | .barvC f | .bwait f | .barr f | .binv f
  | .bqry f | .watch f | .watchClr f | .waitw f | .waitwT f | .rgrow f | .rgrowTry f | .rshrink f
  | .cpy f | .cpySlot f | .cpyCl f | .cpyReg f | .cpyRing f | .cpyAcc f | .cpyB f | .gth f
  | .gthSlot f | .sct f | .sctCl f | .seal f | .waitc f | .swinit f | .swexp f | .swwait f
  | .rwait f | .rrel f | .sclm f | .sclmTry f | .srel f | .mloop f | .mloopC f | .mloopG f
  | .mzero f | .mlda f | .msta f | .cmrg f | .cdrn f | .cdrnI f | .czero f | .czeroD f
  | .brld f | .brldPkg f | .brdrop f | .brdropPkg f | .tzip f | .tfold f | .tscan f | .touter f
  | .trap f | .sysc f | .csrr f | .csrw f | .csrs f | .csrc f | .brk f | .frd f
  | .fres f | .fkill f | .mldr f | .mldrF32 f | .msto f | .psend f | .psendT f | .lcarm f
  | .lcarmAdd f | .twait f | .twaitRel f | .tread f | .task f | .taskT f | .hints f | .waitpred f => some f
  | .loadDataReturn .. | .homeWritePerformed .. | .barrierUnitRequest .. | .rotationDecision .. | .rotationTransferDone .. | .rotationQuantumExpiry ..
  | .spinTimeout .. | .waitwReread .. | .waitwDeadline .. | .swwaitReread .. | .copyUnitGrant .. | .engineOpComplete ..
  | .easelUnitStart .. | .easelUnitEnd .. | .faultRecordWrite | .faultRingRetry | .watchdogExpiry .. | .csrWrite ..
  | .fcmdResumeAtPc .. | .fcmdResumePast .. | .fcmdKill .. | .preemptRequest .. | .preemptSaveDone .. | .preemptRestore ..
  | .preemptKillSaved .. | .tlbInvalidate .. | .launchCounterDisarm .. | .faultRingReadIndexWrite .. | .coveWaysWrite .. | .tideTargetReached ..
  | .multicastMemberRequest .. | .multicastResponse .. | .multicastMemberTimeout .. | .packetHop .. | .colnalFlitReceive .. | .strandFrameReceive ..
  | .strandSackReceive .. | .strandSackTimer .. | .strandRetransmitTimeout .. | .strandPeerTimeout .. | .queueNotify .. | .workgroupAdmission
  | .chunkTake .. | .workgroupEnd .. | .jobComplete .. | .launchComplete .. | .cxlMemAccess .. | .cxlCacheSnoop ..
  | .mgmtReadBlackBox .. | .mgmtReadPower | .mgmtReadCounters | .mgmtWritePeer .. | .mgmtInstallKey .. | .mgmtPeerUp ..
  | .mgmtPeerDown .. | .mgmtLifeCycleStep .. | .mgmtTenantReset | .mgmtWarmReset | .spdmMessage .. | .mctpControlMessage ..
  | .coldReset | .cxlConventionalReset | .wipeDone | .thermalTrip | .blockLocalLimit .. | .patrolScrub ..
  | .tideSynchronisation .. | .startTimeReached .. | .powerRemoved | .pageWalkComplete .. | .lineFetchReturn .. | .i3cDynamicAddressAssignment .. => none

/-- The word of an instruction, written from R30 and R61; none for an event. -/
def encode (i : Instr) : Option (BitVec 96) :=
  match i.opcode, i.fields with
  | some op, some f => some (wordOf op f)
  | _, _ => none

/-- The twelve bytes of an instruction in memory (R23). -/
def encodeBytes (i : Instr) : Option (List Byte) := (encode i).map (fun w => bytesOf 12 w.toNat)

/-- The instruction this decoder reads from `nbits` bits of value `w`, every bit above `nbits` zero. The table gives the rows no
bits, so a row's number is the 96-bit word itself, low bits first. -/
def decodeTableWord (nbits w : Nat) : Option Instr :=
  match decodeBytes (bytesOf 12 (w % 2 ^ nbits)) with
  | .ok (i, _) => some i
  | .error _ => none

end Sys2Proof

end
end

