-- ==== Sys2Proof/Machine/Formats.lean ====
section
/-! DEFINITION. The element formats (R113 to R116), exact operands, and the one rounding rule (R117 to R120). -/

namespace Sys2Proof.Machine

/-- The sticky floating-point flags, laid out as `sr.fflags` (R109): invalid, divide-by-zero, overflow, underflow, inexact. -/
abbrev Flags := BitVec 5

def Flags.none : Flags := 0
def Flags.invalid : Flags := 1
def Flags.divZero : Flags := 2
def Flags.overflow : Flags := 4
def Flags.underflow : Flags := 8
def Flags.inexact : Flags := 16

/-- The rounding modes of R32 and R117. -/
inductive Mode where
  | rn | rz | rm | rp
  deriving DecidableEq, Repr

/-- Modifier bits [1:0] as a mode (R32). -/
def Mode.ofBits (n : Nat) : Mode := match n % 4 with | 0 => .rn | 1 => .rz | 2 => .rm | _ => .rp

/-- The floating formats of R114. -/
inductive Fmt where
  | f32 | bf16 | f16 | e4m3 | e5m2 | e3m2 | e2m3 | e2m1 | f64
  deriving DecidableEq, Repr

/-- The format of a code of R113, where the code names a floating format. -/
def Fmt.ofCode (n : Nat) : Option Fmt :=
  match n with
  | 0 => some .f32 | 1 => some .bf16 | 2 => some .f16 | 3 => some .e4m3 | 4 => some .e5m2
  | 5 => some .e3m2 | 6 => some .e2m3 | 7 => some .e2m1 | 11 => some .f64 | _ => none

/-- Bits of a code (R113). -/
def Fmt.width : Fmt → Nat
  | .f32 => 32 | .bf16 => 16 | .f16 => 16 | .e4m3 => 8 | .e5m2 => 8 | .e3m2 => 6 | .e2m3 => 6 | .e2m1 => 4 | .f64 => 64

/-- Mantissa bits *m* (R114). -/
def Fmt.mant : Fmt → Nat
  | .f32 => 23 | .bf16 => 7 | .f16 => 10 | .e4m3 => 3 | .e5m2 => 2 | .e3m2 => 2 | .e2m3 => 3 | .e2m1 => 1 | .f64 => 52

/-- Exponent bias (R114). -/
def Fmt.bias : Fmt → Nat
  | .f32 => 127 | .bf16 => 127 | .f16 => 15 | .e4m3 => 7 | .e5m2 => 15 | .e3m2 => 3 | .e2m3 => 1 | .e2m1 => 1 | .f64 => 1023

/-- The code of the largest finite magnitude (R114). -/
def Fmt.maxCode : Fmt → Nat
  | .f32 => 0x7F7FFFFF | .bf16 => 0x7F7F | .f16 => 0x7BFF | .e4m3 => 0x7E | .e5m2 => 0x7B | .e3m2 => 0x1F | .e2m3 => 0x1F
  | .e2m1 => 0x7 | .f64 => 0x7FEFFFFFFFFFFFFF

/-- The format has infinities (R114). -/
def Fmt.hasInf : Fmt → Bool
  | .f32 | .bf16 | .f16 | .e5m2 | .f64 => true
  | _ => false

/-- The format has NaN codes (R114). -/
def Fmt.hasNan : Fmt → Bool
  | .e4m3 => true
  | f => f.hasInf

/-- The canonical NaN (R114); zero for a format without NaN, as R117 returns. -/
def Fmt.nanCode : Fmt → Nat
  | .f32 => 0x7FC00000 | .bf16 => 0x7FC0 | .f16 => 0x7E00 | .e4m3 => 0x7F | .e5m2 => 0x7E | .f64 => 0x7FF8000000000000
  | _ => 0

/-- The code of a magnitude with its sign bit. -/
def Fmt.signed (f : Fmt) (neg : Bool) (code : Nat) : Nat := if neg then code + 2 ^ (f.width - 1) else code

/-- The code of an infinity (R114); used only for formats that have one. -/
def Fmt.infCode (f : Fmt) (neg : Bool) : Nat := f.signed neg (f.maxCode + 1)

/-- An exact operand of R117: NaN, an infinity, or the real (-1)^neg × m × 2^e, zeros keeping their sign. -/
inductive XReal where
  | nan
  | inf (neg : Bool)
  | fin (neg : Bool) (m : Nat) (e : Int)
  deriving DecidableEq, Repr

namespace XReal

def zero : XReal := .fin false 0 0
def isNan : XReal → Bool | .nan => true | _ => false
def isInf : XReal → Bool | .inf _ => true | _ => false
def isZero : XReal → Bool | .fin _ 0 _ => true | _ => false
def isFin : XReal → Bool | .fin .. => true | _ => false
def isNeg : XReal → Bool | .nan => false | .inf n => n | .fin n _ _ => n
def neg : XReal → XReal | .nan => .nan | .inf n => .inf (!n) | .fin n m e => .fin (!n) m e
def abs : XReal → XReal | .nan => .nan | .inf _ => .inf false | .fin _ m e => .fin false m e

/-- The signed integer coefficient of a finite operand at exponent `e'`, which must not exceed its own. -/
def coeff (e' : Int) : XReal → Int
  | .fin n m e => let k := (m <<< (e - e').toNat : Nat); if n then -(k : Int) else k
  | _ => 0

/-- The exponent of a finite operand. -/
def expo : XReal → Int | .fin _ _ e => e | _ => 0

/-- floor(log2 |x|) of a nonzero finite operand. -/
def floorLog2 : XReal → Int | .fin _ m e => (Nat.log2 m : Int) + e | _ => 0

/-- The operand `z × 2^e` for an integer `z`; a zero takes the sign given. -/
def ofInt (zneg : Bool) (z : Int) (e : Int) : XReal :=
  if z = 0 then .fin zneg 0 0 else .fin (decide (z < 0)) z.natAbs e

/-- The exact sum of finite operands at a common exponent; a zero result takes the sign `zneg`. -/
def addFin (zneg : Bool) (a b : XReal) : XReal :=
  let e := min a.expo b.expo
  ofInt zneg (a.coeff e + b.coeff e) e

/-- Order of two numbers (infinities included, zeros of both signs equal): -1, 0 or 1 as an Int. -/
def cmp (a b : XReal) : Int :=
  match a, b with
  | .inf x, .inf y => if x = y then 0 else if x then -1 else 1
  | .inf x, _ => if x then -1 else 1
  | _, .inf y => if y then 1 else -1
  | _, _ => let e := min a.expo b.expo; (a.coeff e - b.coeff e).sign

end XReal

/-- The value of a code of a floating format (R114). -/
def Fmt.value (f : Fmt) (code : Nat) : XReal :=
  let c := code % 2 ^ f.width
  let neg := c / 2 ^ (f.width - 1) = 1
  let mag := c % 2 ^ (f.width - 1)
  let m := mag % 2 ^ f.mant
  let e := mag / 2 ^ f.mant
  if f.hasInf && decide (mag > f.maxCode) then (if mag = f.maxCode + 1 then .inf neg else .nan)
  else if f = .e4m3 && mag = 0x7F then .nan
  else if e = 0 then .fin neg m (1 - (f.bias : Int) - f.mant)
  else .fin neg (m + 2 ^ f.mant) ((e : Int) - f.bias - f.mant)

/-- Round `m × 2^e` to a multiple of `2^q`: the quotient and whether anything was lost (step 3 of R117). -/
def roundAt (mode : Mode) (neg : Bool) (m : Nat) (e q : Int) : Nat × Bool :=
  if q ≤ e then (m <<< (e - q).toNat, false)
  else
    let k := (q - e).toNat
    let n := m >>> k
    let r := m % 2 ^ k
    let half := 2 ^ (k - 1)
    let up : Bool :=
      match mode with
      | .rn => decide (r > half) || (decide (r = half) && n % 2 = 1)
      | .rz => false
      | .rm => neg && r ≠ 0
      | .rp => !neg && r ≠ 0
    (if up then n + 1 else n, r ≠ 0)

/-- What an overflowing result becomes (R118). -/
def Fmt.overflowCode (f : Fmt) (mode : Mode) (satf neg : Bool) : Nat :=
  let toMax : Bool := satf || mode = .rz || (mode = .rm && !neg) || (mode = .rp && neg) || !f.hasNan
  if toMax then f.signed neg f.maxCode
  else if f.hasInf then f.infCode neg else f.nanCode

/-- `round(x, fmt, mode)` with `.SATF`: the code and the flags raised (R117 to R120). -/
def roundTo (f : Fmt) (mode : Mode) (satf : Bool) (x : XReal) : Nat × Flags :=
  match x with
  | .nan => if f.hasNan then (f.nanCode, .none) else (0, .invalid)
  | .inf neg =>
    if f.hasInf then ((if satf then f.signed neg f.maxCode else f.infCode neg), .none)
    else if f.hasNan && !satf then (f.nanCode, .invalid)
    else (f.signed neg f.maxCode, .invalid)
  | .fin neg 0 _ => (f.signed neg 0, .none)
  | .fin neg m e =>
    let lg := (Nat.log2 m : Int) + e
    let qmin := 1 - (f.bias : Int) - f.mant
    let q := max (lg - f.mant) qmin
    let (n, lost) := roundAt mode neg m e q
    let code := ((q - qmin).toNat <<< f.mant) + n
    if code > f.maxCode then (f.overflowCode mode satf neg, Flags.overflow ||| Flags.inexact)
    else
      let (n', _) := roundAt mode neg m e (lg - f.mant)
      let tiny : Bool := decide ((Nat.log2 n' : Int) + (lg - f.mant) < 1 - (f.bias : Int))
      (f.signed neg code, if lost then (if tiny then Flags.underflow ||| Flags.inexact else Flags.inexact) else .none)

/-- A value clamped to the largest finite magnitudes of a format: the helper `sat` (R117). -/
def satTo (f : Fmt) (x : XReal) : XReal :=
  let mx := f.value f.maxCode
  if x.isNan then x else if XReal.cmp x.abs mx > 0 then (if x.isNeg then mx.neg else mx) else x

/-- The sum of two operands (R146, R147): the exact operand to round, and the invalid flag. -/
def addX (mode : Mode) (a b : XReal) : XReal × Flags :=
  match a, b with
  | .nan, _ | _, .nan => (.nan, .none)
  | .inf x, .inf y => if x = y then (.inf x, .none) else (.nan, .invalid)
  | .inf x, _ => (.inf x, .none)
  | _, .inf y => (.inf y, .none)
  | .fin n1 m1 _, .fin n2 m2 _ =>
    let same := n1 = n2
    let zneg : Bool := if m1 = 0 && m2 = 0 && same then n1 else decide (mode = .rm)
    (XReal.addFin zneg a b, .none)

/-- The product of two operands (R146, R147). -/
def mulX (a b : XReal) : XReal × Flags :=
  let s := a.isNeg != b.isNeg
  if (a.isZero && b.isInf) || (a.isInf && b.isZero) then (.nan, .invalid)
  else if a.isNan || b.isNan then (.nan, .none)
  else if a.isInf || b.isInf then (.inf s, .none)
  else match a, b with
    | .fin _ m1 e1, .fin _ m2 e2 => (.fin s (m1 * m2) (e1 + e2), .none)
    | _, _ => (.nan, .none)

/-- `a × b + c` without rounding (R146): the test for zero times infinity comes before every NaN. -/
def fmaX (mode : Mode) (a b c : XReal) : XReal × Flags :=
  let (p, fl) := mulX a b
  if fl ≠ .none then (.nan, fl) else addX mode p c

/-- Arithmetic of one element: form the exact operand, then round once. -/
def roundPair (f : Fmt) (mode : Mode) (r : XReal × Flags) : Nat × Flags :=
  let (c, fl) := roundTo f mode false r.1
  (c, fl ||| r.2)

/-- FADD, DADD of one element (R146). -/
def fAdd (f : Fmt) (mode : Mode) (a b : XReal) : Nat × Flags := roundPair f mode (addX mode a b)
/-- FMUL, DMUL of one element (R146). -/
def fMul (f : Fmt) (mode : Mode) (a b : XReal) : Nat × Flags := roundPair f mode (mulX a b)
/-- FMAC, DMAC of one element (R146). -/
def fMac (f : Fmt) (mode : Mode) (a b c : XReal) : Nat × Flags := roundPair f mode (fmaX mode a b c)

/-- The order of R148, in which -0 is below +0. -/
def minOrder (a b : XReal) : Bool :=
  let c := XReal.cmp a b
  c < 0 || (c = 0 && a.isNeg && !b.isNeg)

/-- FMIN and FMAX of one element on codes (R148). -/
def fMinMax (f : Fmt) (isMax num : Bool) (a b : Nat) : Nat :=
  let x := f.value a
  let y := f.value b
  if x.isNan && y.isNan then f.nanCode
  else if x.isNan then (if num then b else f.nanCode)
  else if y.isNan then (if num then a else f.nanCode)
  else if isMax then (if minOrder x y then b else a)
  else (if minOrder y x then b else a)

/-- Round a finite operand to an integer in a mode (R127, R151): the integer and whether it was rounded. -/
def toIntegral (mode : Mode) (neg : Bool) (m : Nat) (e : Int) : Int × Bool :=
  let (n, lost) := roundAt mode neg m e 0
  (if neg then -(n : Int) else n, lost)

/-- FRND of one element on a code (R151). -/
def fRound (f : Fmt) (mode : Mode) (a : Nat) : Nat :=
  match f.value a with
  | .nan => f.nanCode
  | .inf _ => a % 2 ^ f.width
  | .fin neg m e =>
    let (n, _) := roundAt mode neg m e 0
    (roundTo f .rn false (.fin neg n 0)).1

/-- Classes of R150 as a one-hot word of nine bits. -/
def fClass (f : Fmt) (a : Nat) : Nat :=
  match f.value a with
  | .nan => 2 ^ 8
  | .inf n => if n then 1 else 2 ^ 7
  | .fin n m _ =>
    let sub := decide (m < 2 ^ f.mant)
    if m = 0 then (if n then 2 ^ 3 else 2 ^ 4)
    else if sub then (if n then 2 ^ 2 else 2 ^ 5)
    else (if n then 2 ^ 1 else 2 ^ 6)

/-- Conditions 0 to 5 on an order (R103, R149). -/
def condHolds (cond : Nat) (c : Int) : Bool :=
  match cond with
  | 0 => c = 0 | 1 => c ≠ 0 | 2 => c < 0 | 3 => c ≤ 0 | 4 => c > 0 | _ => c ≥ 0

/-- FCMP of one element (R149). -/
def fCompare (f : Fmt) (cond : Nat) (unord : Bool) (a b : Nat) : Bool :=
  let x := f.value a
  let y := f.value b
  if x.isNan || y.isNan then (if cond = 7 then true else if cond = 6 then false else unord)
  else if cond = 6 then true else if cond = 7 then false else condHolds cond (XReal.cmp x y)

/-- The floor of the square root, by bits from `2^(2k)` downward. -/
def isqrtAux : Nat → Nat → Nat → Nat
  | 0, _, r => r
  | k + 1, n, r => let t := r + 2 ^ k; isqrtAux k n (if t * t ≤ n then t else r)

def isqrt (n : Nat) : Nat := isqrtAux (Nat.log2 n / 2 + 1) n 0

/-- An exact reciprocal as an operand with a sticky bit below every rounding position (R152, correctly rounded). -/
def recipX (m : Nat) (e : Int) (neg : Bool) : XReal :=
  let k := Nat.log2 m + 120
  let q := 2 ^ k / m
  let st := if 2 ^ k % m = 0 then 0 else 1
  .fin neg (2 * q + st) (-(k : Int) - e - 1)

/-- An exact square root as an operand with a sticky bit (R152, correctly rounded). -/
def sqrtX (m : Nat) (e : Int) : XReal :=
  let odd : Nat := (e % 2).toNat
  let m' := (m * 2 ^ odd) <<< 240
  let e' := (e - odd - 240) / 2
  let r := isqrt m'
  let st := if r * r = m' then 0 else 1
  .fin false (2 * r + st) (e' - 1)

/-- Integer type codes of R123. -/
structure IntType where
  lo : Int
  hi : Int
  deriving DecidableEq, Repr

/-- The range of an integer type (R123). -/
def intType (code : Nat) : IntType :=
  match code with
  | 0 => ⟨0, 255⟩ | 1 => ⟨-128, 127⟩ | 2 => ⟨0, 65535⟩ | 3 => ⟨-32768, 32767⟩ | 4 => ⟨0, 2 ^ 32 - 1⟩
  | 5 => ⟨-2 ^ 31, 2 ^ 31 - 1⟩ | 6 => ⟨-127, 127⟩ | 7 => ⟨-7, 7⟩ | 8 => ⟨0, 2 ^ 64 - 1⟩ | _ => ⟨-2 ^ 63, 2 ^ 63 - 1⟩

/-- Sign and magnitude of `n` bits (R115). -/
def smValue (n c : Nat) : Int :=
  let m := c % 2 ^ (n - 1)
  if (c / 2 ^ (n - 1)) % 2 = 1 then -(m : Int) else m

/-- The value a source holds in an integer type (R123). -/
def intValue (code : Nat) (x : Nat) : Int :=
  match code with
  | 0 => (x % 2 ^ 8 : Nat) | 1 => signedOf 8 (x % 2 ^ 8) | 2 => (x % 2 ^ 16 : Nat) | 3 => signedOf 16 (x % 2 ^ 16)
  | 4 => (x % 2 ^ 32 : Nat) | 5 => signedOf 32 (x % 2 ^ 32) | 6 => smValue 8 (x % 2 ^ 8) | 7 => smValue 4 (x % 2 ^ 4)
  | 8 => (x % 2 ^ 64 : Nat) | _ => signedOf 64 (x % 2 ^ 64)

/-- An in-range integer encoded in a type (R116, R127): SM zeros are code 0, I8 and I16 sign-extended to 32 bits. -/
def intEncode (code : Nat) (v : Int) : Nat :=
  match code with
  | 6 => v.natAbs + (if v < 0 then 128 else 0)
  | 7 => v.natAbs + (if v < 0 then 8 else 0)
  | 8 | 9 => wrapOf 64 v
  | _ => wrapOf 32 v

/-- Clamp an integer to a type's range. -/
def intClamp (code : Nat) (v : Int) : Int := max (intType code).lo (min (intType code).hi v)

/-- The float-to-integer rule of R127. -/
def floatToInt (code : Nat) (mode : Mode) (x : XReal) : Nat × Flags :=
  match x with
  | .nan => (intEncode code 0, .invalid)
  | .inf n => (intEncode code (if n then (intType code).lo else (intType code).hi), .invalid)
  | .fin neg m e =>
    let (n, lost) := toIntegral mode neg m e
    let c := intClamp code n
    if c ≠ n then (intEncode code c, .invalid) else (intEncode code n, if lost then .inexact else .none)

/-- The operand of an integer (R128): zero is +0. -/
def intX (v : Int) : XReal := .fin (decide (v < 0)) v.natAbs 0

/-- The value of an E8M0 code as a power of two, NaN for 0xFF (R115). -/
def e8m0X (c : Nat) : XReal := if c % 256 = 255 then .nan else .fin false 1 ((c % 256 : Nat) - 127)

/-- The FP32 value of a code of any format, exact (R126), as FP32 bits. -/
def widenTo32 (f : Fmt) (c : Nat) : Nat := (roundTo .f32 .rn false (f.value c)).1

/-- The exponent of a format's largest value, for the scale rule of R138. -/
def emax (code : Nat) : Option Int :=
  match code with
  | 1 => some 127 | 2 => some 15 | 3 => some 8 | 4 => some 15 | 5 => some 4 | 6 => some 2 | 7 => some 2 | 9 => some 6
  | 10 => some 2 | _ => none

/-- An operand times 2^k. -/
def XReal.scaled (k : Int) : XReal → XReal
  | .fin n m e => .fin n m (e + k)
  | x => x

/-- The E8M0 scale code of R138. -/
def scaleCode (em : Int) (x : XReal) : Nat :=
  match x with
  | .nan | .inf _ => 255
  | .fin _ 0 _ => 0
  | .fin _ m e => (max 0 (min 254 ((Nat.log2 m : Int) + e - em + 127))).toNat

/-- One candidate of `CBQ`: a better choice has a strictly smaller distance (R137). `none` stands for an infinite distance. -/
def cbqCloser (x : XReal) (e best : XReal) : Bool :=
  match x with
  | .inf false => XReal.cmp e best > 0
  | .inf true => XReal.cmp e best < 0
  | _ =>
    if e.isInf then false
    else if best.isInf then true
    else
      let d1 := (XReal.addFin false x e.neg).abs
      let d2 := (XReal.addFin false x best.neg).abs
      XReal.cmp d1 d2 < 0

/-- The nearest of sixteen entries, in ascending code order (R137). -/
def cbqScan (x : XReal) (book : Nat → XReal) : Nat → Nat → Option (Nat × XReal) → Option (Nat × XReal)
  | 0, _, best => best
  | fuel + 1, c, best =>
    let e := book c
    let best' :=
      if e.isNan then best
      else match best with
        | none => some (c, e)
        | some (_, b) => if cbqCloser x e b then some (c, e) else best
    cbqScan x book fuel (c + 1) best'

/-- The code and flags of `CBQ` over the values of a codebook (R137). -/
def cbq (x : XReal) (book : Nat → XReal) : Nat × Flags :=
  if x.isNan then (0, .invalid)
  else match cbqScan x book 16 0 none with
    | none => (0, .invalid)
    | some (c, e) => (c, if XReal.cmp e x = 0 then .none else .inexact)

/-- Inline constants in floating context (R36, R37): the exact value, thirds and logarithms held to 200 bits with a sticky bit. -/
def constX (n : Nat) : XReal :=
  if n < 40 then intX ((n : Int) - 8)
  else if n < 56 then .fin false 1 ((n : Int) - 48)
  else
    let frac (d : Nat) : XReal := .fin false (2 * (2 ^ 200 / d) + 1) (-201)
    match n with
    | 56 => frac 3 | 57 => frac 5 | 58 => frac 6 | 59 => frac 7 | 60 => frac 9 | 61 => frac 10
    | 62 => .fin false (2 * 0xB17217F7D1CF79ABC9E3B39803F2F6AF40F343267298B62D8A + 1) (-201)
    | _ => .fin false (2 * 0x171547652B82FE1777D0FFDA0D23A7D11D6AEF551BAD2B4B116 + 1) (-201)

/-- Inline constants in integer context (R37): the FP32 pattern from c40 upward. -/
def constWord (n : Nat) : Nat :=
  if n < 40 then wrapOf 32 ((n : Int) - 8) else (roundTo .f32 .rn false (constX n)).1

end Sys2Proof.Machine
end

