-- ==== Sys2Proof/Machine/Shape.lean ====
section
/-! DEFINITION. What each encoding's fields mean: the roles of its operand fields, its immediate form, the modifier bits it defines,
its latency group and pair class (the encoding tables R74, R94, R124, R145, R167, R201, R233, R274, R299, R335, R368, R404, R426,
R460), and the checks of steps 2 and 4 of R49 that the word alone decides. -/

namespace Sys2Proof

/-- Bits of a field as a number. -/
def Fields.modBits (f : Fields) (lo n : Nat) : Nat := Machine.bitsOf f.mods.toNat lo n
def Fields.mod (f : Fields) (i : Nat) : Bool := f.mods.getLsbD i
def Fields.immBits (f : Fields) (lo n : Nat) : Nat := Machine.bitsOf f.imm.toNat lo n
/-- The immediate as a signed number. -/
def Fields.immInt (f : Fields) : Int := f.imm.toInt
/-- The rounding mode in modifier bits [1:0] (R32). -/
def Fields.mode (f : Fields) : Machine.Mode := Machine.Mode.ofBits (f.modBits 0 2)
/-- Source code, destination code and `.SATF` of a formats immediate (R125). -/
def Fields.fmtSrc (f : Fields) : Nat := f.immBits 0 4
def Fields.fmtDst (f : Fields) : Nat := f.immBits 4 4
def Fields.satf (f : Fields) : Bool := f.imm.getLsbD 8

end Sys2Proof

namespace Sys2Proof.Machine

/-- What an operand field holds. -/
inductive Role where
  /-- Unused: ignored and not checked (R33). -/
  | no
  /-- A 32-bit operand (R34). -/
  | v
  /-- A 64-bit operand (R35). -/
  | pair
  /-- A predicate number (R92). -/
  | pred
  /-- An even predicate number, of a packed comparison's two (R149). -/
  | evenPred
  /-- `k` consecutive vector registers (R132). -/
  | run (k : Nat)
  /-- A scalar register as destination (R105). -/
  | scalar
  /-- A vector register or a writable special register, as destination of `MOV` (R104). -/
  | vOrSr
  deriving DecidableEq, Repr

/-- When a result is ready (R40, R41). -/
inductive Latency where
  | none
  | fixed (n : Nat)
  | variable
  deriving DecidableEq, Repr

/-- The pair class of R61. -/
inductive PairClass where
  | none
  | i
  | f
  deriving DecidableEq, Repr

/-- Which sources raise the poison fault before the instruction's other checks of step 7 (R93, R203): all, of every lane; source A; all of the lane
that acts for its batch (R336, R405, R460), beside which every lane's source A, or B, may be read (R334); none. -/
inductive PoisonRule where
  | all
  | sourceA
  | lead
  | leadA
  | leadB
  | none
  deriving DecidableEq, Repr

/-- One row of an encoding table, for given fields. -/
structure Shape where
  dst : Role := .no
  a : Role := .no
  b : Role := .no
  c : Role := .no
  /-- Sources may name special registers (R91; not in the control class, R75). -/
  srOk : Bool := true
  /-- Source A may name a special register (not as the address of a memory encoding, R202). -/
  srA : Bool := true
  /-- Source B has an immediate form (R32). -/
  immB : Bool := false
  /-- Modifier bits the row defines. -/
  mask : BitVec 7 := 0
  /-- Any other illegal-opcode condition of the row holds. -/
  badOpcode : Bool := false
  /-- Any other illegal-operand condition of the row that the word decides holds. -/
  badOperand : Bool := false
  /-- Predicates written beside the destination field. -/
  predsOut : List Nat := []
  /-- Predicates read beside the source fields. -/
  predsIn : List Nat := []
  /-- The destination register is also a source (`XPR`, R145). -/
  readsDst : Bool := false
  lat : Latency := .none
  cls : PairClass := .none
  poison : PoisonRule := .all
  /-- The immediate is a member mask (R162). -/
  members : Bool := false
  deriving DecidableEq, Repr

/-- The predicate an operand code names (R92). -/
def predOf (code : BitVec 9) : Nat := code.toNat % 16

namespace Shape

/-! Control (R74, R75): only `BRX`, `CALL.X` and `RET` raise the poison fault (R90). -/
def ctl : Shape := { srOk := false, poison := .none }
def bra : Shape := ctl
def brx : Shape := { ctl with a := .pair, poison := .all }
def brxTbl : Shape := { ctl with a := .v, b := .v }
def call : Shape := { ctl with dst := .pair, lat := .variable }
def callX : Shape := { ctl with dst := .pair, a := .pair, lat := .variable, poison := .all }
def fspawn : Shape := { ctl with dst := .v, a := .v, lat := .variable }
def fspawnN : Shape := { ctl with dst := .v, a := .v, b := .v, lat := .variable }
def braLoop : Shape := { ctl with dst := .v, a := .v, lat := .variable }

/-! Integer (R94). -/
def alu (l : Nat) : Shape := { dst := .v, a := .v, b := .v, immB := true, lat := .fixed l, cls := .i }
def alu64 (l : Nat) : Shape := { dst := .pair, a := .pair, b := .pair, immB := true, lat := .fixed l, cls := .i }
def sat : Shape := { alu 4 with mask := 1 }
def carry (f : Fields) : Shape :=
  { dst := .v, a := .v, b := .v, c := if f.mod 0 then .pred else .no, immB := true, mask := 0x1F,
    predsOut := [f.modBits 1 4], lat := .fixed 3 }
def wide : Shape := { dst := .pair, a := .v, b := .v, immB := true, lat := .fixed 8, cls := .i }
def mad : Shape := { alu 6 with c := .v }
def madWide : Shape := { wide with c := .pair }
def mad64 : Shape := { alu64 8 with c := .pair }
def unary (l : Nat) : Shape := { dst := .v, a := .v, lat := .fixed l, cls := .i }
def abs32 : Shape := { unary 4 with mask := 1 }
def abs64 : Shape := { dst := .pair, a := .pair, mask := 1, lat := .fixed 4, cls := .i }
def shift : Shape := { alu 4 with mask := 1 }
def shift64 : Shape := { dst := .pair, a := .pair, b := .v, immB := true, mask := 1, lat := .fixed 4, cls := .i }
def tern (f : Fields) : Shape :=
  { dst := .v, a := .v, b := .v, c := .v, badOperand := f.immBits 8 24 ≠ 0, lat := .fixed 4, cls := .i }
def bfi : Shape := { alu 4 with c := .v }
def icmp (f : Fields) (r : Role) : Shape :=
  { dst := .pred, a := r, b := r, c := if f.modBits 3 2 = 0 then .no else .pred, immB := true, mask := 0x1F,
    badOpcode := decide (f.modBits 0 3 ≥ 6) || decide (f.modBits 3 2 = 3), lat := .fixed 3 }
def sel (r : Role) : Shape := { dst := r, a := r, b := r, c := .pred, immB := true, mask := 1, lat := .fixed 4, cls := .i }
/-- A write of `sr.fflags` reads one lane (R110). -/
def mov (f : Fields) : Shape :=
  { dst := .vOrSr, b := .v, immB := true, lat := .fixed 4, cls := .i, poison := if f.dst.toNat ≥ 0x180 then .lead else .all }
/-- `MOV.64`: a destination naming the 64-bit form of a special register is not writable (R104, R109). -/
def mov64 : Shape := { dst := .pair, b := .pair, immB := true, lat := .fixed 4, cls := .i }
/-- DESIGN CHOICE (log 24): the poison fault of `MOVS` looks at the source in the lowest passing lane, whose value is written, alone (R91, R93). -/
def movs : Shape := { dst := .scalar, b := .v, immB := true, lat := .variable, poison := .lead }
def movsI (f : Fields) : Shape := { dst := .scalar, b := .v, badOperand := f.immBits 5 27 ≠ 0, lat := .variable, poison := .none }
def lea : Shape := { dst := .pair, a := .pair, b := .v, mask := 7, lat := .fixed 4, cls := .i }
def lea32 : Shape := { dst := .v, a := .v, b := .v, mask := 7, lat := .fixed 4, cls := .i }
def plog (f : Fields) : Shape :=
  { dst := .pred, a := .pred, b := .pred, c := .pred, badOperand := f.immBits 8 24 ≠ 0, lat := .fixed 3 }
/-- The predicates a 16-bit mask names. -/
def maskPreds (m : Nat) : List Nat := (List.range 16).filter (fun i => m.testBit i)
def plogW (f : Fields) : Shape :=
  { a := .v, b := .v, badOperand := f.immBits 24 8 ≠ 0, predsOut := maskPreds (f.immBits 0 16),
    predsIn := maskPreds (f.immBits 0 16), lat := .fixed 3 }
def pmovP2V : Shape := { dst := .v, predsIn := List.range 16, lat := .variable }
def pmovV2P (f : Fields) : Shape :=
  { a := .v, badOperand := f.immBits 16 16 ≠ 0, predsOut := maskPreds (f.immBits 0 16), lat := .fixed 3 }

end Shape

/-! Conversion (R124, R125). -/

/-- "Float" of R125: format codes 0 to 7 and 11. -/
def isFloatCode (c : Nat) : Bool := decide (c ≤ 7) || decide (c = 11)
/-- Float except FP64. -/
def isNarrowCode (c : Nat) : Bool := decide (c ≤ 7)

/-- The conversion encodings, as the rows of the legality table of R125. -/
inductive CvtKind where
  | dn | up | d | f2i | i2f | f2l | l2f | i2i
  | pack (k : Nat)
  | unpk (k : Nat)
  deriving DecidableEq, Repr

/-- The combinations of R125: legal source and destination, and whether `.SATF` may be set. -/
def CvtKind.legal (k : CvtKind) (s d : Nat) (sf : Bool) : Bool :=
  match k with
  | .dn => isNarrowCode s && isNarrowCode d && decide (s ≠ d)
  | .up => decide (1 ≤ s ∧ s ≤ 7) && decide (d = 0) && !sf
  | .d => (decide (s = 11) && isNarrowCode d) || (isNarrowCode s && decide (d = 11) && !sf)
  | .f2i => isFloatCode s && decide (d ≤ 7) && !sf
  | .i2f => decide (s ≤ 7) && isFloatCode d
  | .f2l => isFloatCode s && decide (8 ≤ d ∧ d ≤ 9) && !sf
  | .l2f => decide (8 ≤ s ∧ s ≤ 9) && isFloatCode d
  | .i2i => decide (s ≤ 7) && decide (d ≤ 7) && !sf
  | .pack 2 => decide (s = 0) && decide (d = 1 ∨ d = 2)
  | .pack 4 => (decide (s = 0) && decide (d = 3 ∨ d = 4)) || (decide (s = 0 ∨ s = 12) && decide (d = 9) && !sf)
  | .pack 5 => decide (s = 0) && decide (d = 5 ∨ d = 6)
  | .pack _ => (decide (s = 0) && decide (d = 7)) || (decide (s = 0 ∨ s = 12) && decide (d = 10) && !sf)
  | .unpk 2 => decide (s = 1 ∨ s = 2) && decide (d = 0) && !sf
  | .unpk 4 => ((decide (s = 3 ∨ s = 4) && decide (d = 0)) || (decide (s = 9) && decide (d = 12))) && !sf
  | .unpk 5 => decide (s = 5 ∨ s = 6) && decide (d = 0) && !sf
  | .unpk _ => ((decide (s = 7 ∨ s = 8) && decide (d = 0)) || (decide (s = 10) && decide (d = 12))) && !sf

namespace Shape

/-- The role of a value in a format or type code: 64-bit ones are pairs (R125). -/
def fltRole (c : Nat) : Role := if c = 11 then .pair else .v

def cvt (k : CvtKind) (f : Fields) : Shape :=
  let base : Shape :=
    { badOperand := decide (f.immBits 9 23 ≠ 0) || !k.legal f.fmtSrc f.fmtDst f.satf, lat := .fixed 5 }
  match k with
  | .dn => { base with dst := .v, a := .v, mask := 3 }
  | .up => { base with dst := .v, a := .v }
  | .d => { base with dst := fltRole f.fmtDst, a := fltRole f.fmtSrc, mask := 3 }
  | .f2i => { base with dst := .v, a := fltRole f.fmtSrc, mask := 3 }
  | .i2f => { base with dst := fltRole f.fmtDst, a := .v, mask := 3 }
  | .f2l => { base with dst := .pair, a := fltRole f.fmtSrc, mask := 3 }
  | .l2f => { base with dst := fltRole f.fmtDst, a := .pair, mask := 3 }
  | .i2i => { base with dst := .v, a := .v }
  | .pack n => { base with dst := .v, a := .run n, mask := 3 }
  | .unpk n => { base with dst := .run n, a := .v, b := if f.fmtSrc = 8 then .v else .no }

def cbld (f : Fields) : Shape := { a := .v, b := .v, immB := true, badOperand := f.immSel && decide (f.immBits 16 16 ≠ 0) }
def cbldM : Shape := { a := .v, b := .v }
def cbq : Shape := { dst := .v, a := .v, b := .v, immB := true, lat := .fixed 5 }
def cbqP : Shape := { cbq with a := .run 8 }
def bsclGet (f : Fields) : Shape :=
  { dst := .v, a := .v, badOperand := decide (f.immBits 4 28 ≠ 0) || (emax (f.immBits 0 4)).isNone, lat := .fixed 5 }
def bscl : Shape := { dst := .v, a := .v, b := .v, immB := true, mask := 3, lat := .fixed 5 }

/-! Floating point (R145). -/
def fadd : Shape := { dst := .v, a := .v, b := .v, immB := true, mask := 0x0F, lat := .fixed 4, cls := .f }
def fmac : Shape := { fadd with c := .v, mask := 0x1F }
def fmin : Shape := { fadd with mask := 1 }
def dadd : Shape := { dst := .pair, a := .pair, b := .pair, immB := true, mask := 0x0F, lat := .fixed 8, cls := .f }
def dmac : Shape := { dadd with c := .pair, mask := 0x1F }
def dmin : Shape := { dadd with mask := 1 }
def fcmp (f : Fields) (r : Role) (packed : Bool) (l : Nat) : Shape :=
  { dst := if packed then .evenPred else .pred, a := r, b := r, c := if f.modBits 3 2 = 0 then .no else .pred, immB := true, mask := 0x3F,
    badOpcode := decide (f.modBits 3 2 = 3) || (f.mod 5 && decide (f.modBits 0 3 ≥ 6)),
    predsOut := if packed then [predOf f.dst + 1] else [], lat := .fixed l }
def fcls (f : Fields) (r : Role) (l : Nat) : Shape :=
  { dst := .v, a := r, badOperand := f.immBits 9 23 ≠ 0, lat := .fixed l }
def frnd : Shape := { dst := .v, a := .v, mask := 3, lat := .fixed 4 }
def frnd64 : Shape := { dst := .pair, a := .pair, mask := 3, lat := .fixed 8 }
def special : Shape := { dst := .v, a := .v, lat := .fixed 12 }
def sqrt : Shape := { special with mask := 3 }
def special64 : Shape := { dst := .pair, a := .pair, lat := .fixed 24 }
def special64m : Shape := { special64 with mask := 3 }

/-- The stack depth after one token of an `XPR` program, if legal (R155, R156): the pops it needs and the entries it pushes. -/
def xprToken (t depth : Nat) : Option Nat :=
  let d (need push : Nat) : Option Nat := if depth < need then none else if depth - need + push > 4 then none else some (depth - need + push)
  match t with
  | 1 | 2 | 3 | 4 | 15 => d 0 1
  | 5 => d 1 2
  | 6 => d 2 2
  | 7 | 8 | 9 | 10 | 11 => d 2 1
  | 12 | 13 => d 1 1
  | _ => d 3 1

/-- Legality of the tokens of an `XPR` program from a depth (R156). -/
def xprLegal : List Nat → Nat → Bool
  | [], depth => decide (depth = 1)
  | 0 :: rest, depth => decide (depth = 1) && rest.all (fun t => t = 0)
  | t :: rest, depth => match xprToken t depth with | none => false | some d => xprLegal rest d

/-- The eight tokens of an immediate (R155). -/
def xprTokens (imm : Word) : List Nat := (List.range 8).map (fun i => bitsOf imm.toNat (4 * i) 4)

def xpr (f : Fields) : Shape :=
  { dst := .v, a := .v, b := .v, c := .v, mask := 3, badOperand := !xprLegal (xprTokens f.imm) 0,
    readsDst := true, lat := .variable }

/-! Lanes and Palette (R167). -/
def part (f : Fields) : Shape := { a := .v, badOperand := decide (f.imm ≠ 0xFFFFFFFF), poison := .none, members := true }
def xln (f : Fields) : Shape :=
  { dst := .v, a := .v, b := .v, mask := 0x3F, predsOut := if f.mod 0 then [f.modBits 1 4] else [], lat := .variable,
    poison := .none, members := true }
def vote (f : Fields) : Shape :=
  { dst := if f.modBits 0 2 = 3 then .v else .pred, a := .pred, mask := 7, lat := .variable, poison := .none, members := true }
def lred : Shape := { dst := .v, a := .v, mask := 7, lat := .variable, poison := .none, members := true }
def lredF (f : Fields) : Shape := { lred with mask := 0x0F, badOpcode := decide (f.modBits 2 2 = 3) }
def lscan : Shape := { lred with mask := 0x0F }
def lscanF (f : Fields) : Shape := { lred with mask := 0x1F, badOpcode := decide (f.modBits 2 2 = 3) }
def perm (f : Fields) : Shape :=
  { dst := .v, a := .run (f.modBits 0 2 + 1), b := .v, mask := 3, lat := .variable, poison := .none, members := true }
def pld : Shape := { a := .v, b := .v }

/-! Memory (R201). -/
/-- The address operand of a space: 0 `.G`, 1 `.S`, 2 `.C`. -/
def addrRole (space : Nat) : Role := if space = 0 then .pair else .v
/-- The data operand of a width code. -/
def dataRole (w : Nat) : Role := if w = 3 then .pair else .v
/-- Registers of a `.Q` width code. -/
def quadRegs (w : Nat) : Nat := 4 * 2 ^ w
def badHint (space : Nat) (f : Fields) : Bool := decide (space ≠ 0 ∧ f.modBits 3 2 ≠ 0)
def ld (space : Nat) (f : Fields) : Shape :=
  { dst := dataRole (f.modBits 0 2), a := addrRole space, srA := false, mask := 0x1F,
    badOpcode := (f.mod 2 && decide (f.modBits 0 2 ≥ 2)) || badHint space f, lat := .variable, poison := .sourceA }
def ldQ (space : Nat) (f : Fields) : Shape :=
  { dst := .run (quadRegs (f.modBits 0 2)), a := addrRole space, srA := false, mask := 0x1B,
    badOpcode := decide (f.modBits 0 2 = 3) || badHint space f, lat := .variable, poison := .sourceA }
def st (space : Nat) (f : Fields) : Shape :=
  { a := addrRole space, b := dataRole (f.modBits 0 2), srA := false, mask := 0x1B, badOpcode := badHint space f, poison := .sourceA }
def stQ (space : Nat) (f : Fields) : Shape :=
  { a := addrRole space, b := .run (quadRegs (f.modBits 0 2)), srA := false, mask := 0x1B,
    badOpcode := decide (f.modBits 0 2 = 3) || badHint space f, poison := .sourceA }
def prf (f : Fields) : Shape := { a := .pair, srA := false, mask := 0x18, badOpcode := decide (f.modBits 3 2 = 3), poison := .none }
def cctl (rdc : Bool) : Shape := { a := .pair, b := .v, srA := false, mask := if rdc then 1 else 0, poison := .none }
def cctlPri : Shape := { a := .pair, b := .v, srA := false, mask := 0x0C, poison := .none }
def aqry (f : Fields) : Shape := { dst := .v, a := addrRole (f.modBits 0 1), srA := false, mask := 1, lat := .variable, poison := .none }
def aqryH : Shape := { dst := .pair, a := .pair, srA := false, lat := .variable, poison := .none }

/-! Ordering and atomics (R233). -/
def phase (f : Fields) : Shape := { mask := 7, badOpcode := decide (f.modBits 0 3 = 7) || f.guardOn }
def fence (f : Fields) : Shape := { badOpcode := f.guardOn }
def ord (f : Fields) : Shape := { mask := 0x1F, badOpcode := decide (f.modBits 2 3 = 7) || f.guardOn }
def atom (f : Fields) (dst r : Role) (cas : Bool) : Shape :=
  { dst := dst, a := addrRole (f.modBits 0 2), b := r, c := if cas then r else .no, mask := 3,
    badOpcode := decide (f.modBits 0 2 = 3), lat := if dst = .no then .none else .variable, poison := .sourceA }

/-! Residency and barriers (R274). -/
def binit (f : Fields) : Shape :=
  { a := .v, b := .v, immB := true, mask := 0x0F,
    badOpcode := decide (f.modBits 0 3 = 7) || (f.mod 3 && decide (f.modBits 0 3 ≠ 0)) }
def barv : Shape := { dst := .v, b := .v, immB := true, lat := .variable }
def barvC : Shape := { barv with a := .v }
def bwait : Shape := { dst := .pred, a := .v, b := .v, immB := true, lat := .variable }
def barr : Shape := { dst := .pred, b := .v, immB := true, lat := .variable }
def binv : Shape := { b := .v, immB := true }
def bqry : Shape := { barv with mask := 3 }
def watch (f : Fields) : Shape := { a := addrRole (f.modBits 0 2), mask := 3, badOpcode := decide (f.modBits 0 2 = 3) }
def watchClr : Shape := {}
def waitw (f : Fields) (timed : Bool) : Shape :=
  { dst := .pred, a := addrRole (f.modBits 0 2), b := .v, c := if timed then .pair else .no, mask := 0x1F,
    badOpcode := decide (f.modBits 0 2 = 3) || decide (f.modBits 2 3 = 7), lat := .variable }
def rgrow : Shape := { b := .v, immB := true }
def rgrowTry : Shape := { dst := .pred, b := .v, immB := true, lat := .variable }

/-! Asynchronous copy (R299, R300). -/
/-- An action immediate that breaks R300; `sw` says that a sync word may be named. -/
def badAction (sw : Bool) (imm : Word) : Bool :=
  let k := bitsOf imm.toNat 30 2
  let t := bitsOf imm.toNat 0 24
  decide (bitsOf imm.toNat 24 6 ≠ 0) ||
    (match k with
      | 0 => decide (t ≠ 0)
      | 1 => !sw || decide (t % 16 ≠ 0)
      | 2 => decide (t / 2 ^ 20 ≠ 0)
      | _ => true)
/-- A copy whose `.ST` direction takes no action. -/
def cpyDir (f : Fields) : Shape :=
  { a := .pair, b := .run 4, c := .v, mask := 1, badOperand := if f.mod 0 then decide (f.imm ≠ 0) else badAction true f.imm }
def cpySlot (f : Fields) : Shape := { a := .pair, b := .run 4, c := .v, badOperand := badAction true f.imm }
def cpyCl (f : Fields) : Shape := { a := .v, b := .v, c := .v, mask := 1, badOperand := badAction true f.imm }
def cpyReg (f : Fields) : Shape :=
  { dst := .run (2 ^ f.modBits 0 2), a := .pair, b := .run 4, c := .v, mask := 3, badOperand := decide (f.imm ≠ 0) }
def cpyRing (f : Fields) : Shape := { a := .pair, b := .run 4, c := .v, badOperand := decide (f.imm ≠ 0) }
def cpyB (f : Fields) : Shape := { a := .pair, b := .run 4, c := .v, mask := 0x3F, badOperand := badAction true f.imm }
def gth (f : Fields) (sw : Bool) : Shape := { a := .pair, b := .run 2, c := .v, badOperand := badAction sw f.imm }
def sealBatch (f : Fields) : Shape := { dst := .v, badOpcode := f.guardOn, badOperand := decide (f.imm ≠ 0), lat := .variable }
def waitc (f : Fields) : Shape :=
  { b := .v, immB := true, mask := 7, badOpcode := decide (f.modBits 0 3 ≥ 5) || f.guardOn, poison := .lead }
def swinit : Shape := { a := .v, b := .v, mask := 1 }
def swwait : Shape := { dst := .pred, a := .v, mask := 1, lat := .variable }
def rwait : Shape := { dst := .v, a := .v, lat := .variable }
def rrel : Shape := { a := .v, b := .v }

/-! Matrix (R335). -/
def sclm : Shape := { b := .v, immB := true, poison := .lead }
def sclmTry : Shape := { sclm with dst := .pred, lat := .variable }
def mloop (f : Fields) : Shape :=
  { a := .v, b := .v, c := .v, badOperand := decide (f.immBits 0 16 = 0) || decide (f.immBits 28 4 ≠ 0), poison := .leadA }
def mloopG (f : Fields) : Shape := { mloop f with mask := 7, badOpcode := decide (f.modBits 1 2 = 0) }
def mzero (f : Fields) : Shape :=
  { a := .v
    badOperand := decide (f.immBits 0 8 = 0) || decide (f.immBits 0 8 > 128) || decide (f.immBits 8 24 ≠ 0)
    poison := .lead }
def mlda (f : Fields) : Shape := { dst := .run (2 ^ f.modBits 0 2), a := .v, mask := 3, lat := .variable }
def msta (f : Fields) : Shape := { a := .v, b := .run (2 ^ f.modBits 0 2), mask := 3 }
def cmrg (f : Fields) : Shape := { a := .v, b := .v, mask := 1, badOperand := decide (f.imm ≠ 0), poison := .lead }
def cdrn (f : Fields) : Shape := { a := .v, b := .v, c := .v, mask := 1, badOperand := decide (f.immBits 6 26 ≠ 0), poison := .leadB }
def cdrnI (f : Fields) : Shape := { cdrn f with badOperand := decide (f.imm ≠ 0) }
def czero (f : Fields) : Shape := { a := .v, badOperand := decide (f.imm ≠ 0), poison := .lead }

/-! Tile (R368). -/
def brld : Shape := { dst := .v, a := .pair, lat := .variable, poison := .lead }
def brdrop : Shape := { b := .v, immB := true, poison := .lead }
def tzip (f : Fields) (two : Bool) : Shape :=
  { a := .run 4, b := if two then .run 4 else .no, c := .run 4, mask := 1, badOperand := decide (f.immBits 6 26 ≠ 0) }
def tfold (f : Fields) : Shape := { a := .run 4, c := .run 4, mask := 3, badOperand := decide (f.immBits 6 26 ≠ 0) }
def touter (f : Fields) : Shape :=
  { a := .v, b := .v, badOperand := decide (f.immBits 6 2 ≠ 0) || decide (f.immBits 14 18 ≠ 0), poison := .lead }

/-! System (R404). -/
def trap (f : Fields) : Shape := { badOperand := decide (f.immBits 16 16 ≠ 0) }
def sysc (f : Fields) : Shape := { dst := .v, a := .v, b := .v, badOperand := decide (f.immBits 16 16 ≠ 0), lat := .variable, poison := .lead }
def csrr (f : Fields) : Shape := { dst := .v, badOperand := decide (f.immBits 12 20 ≠ 0), lat := .variable }
def csrw (f : Fields) : Shape := { b := .v, badOperand := decide (f.immBits 12 20 ≠ 0), poison := .lead }
def frd (f : Fields) : Shape := { dst := .v, a := .pair, b := .v, badOperand := decide (f.imm ≠ 0), lat := .variable, poison := .lead }
def fres (f : Fields) : Shape :=
  { dst := .pred, a := .pair, b := if f.mod 1 then .v else .no, mask := 3,
    badOperand := decide (f.imm ≠ 0) || (f.mod 1 && (decide (f.srcB = 0x0F0) || decide (0x100 ≤ f.srcB.toNat ∧ f.srcB.toNat < 0x140))),
    lat := .variable, poison := .lead }
def fkill (f : Fields) : Shape := { dst := .pred, a := .pair, badOperand := decide (f.imm ≠ 0), lat := .variable, poison := .lead }

/-! Collective (R426). -/
def mldr (f : Fields) : Shape :=
  { dst := .v, a := .v, mask := 0x1F, badOperand := decide (f.immBits 8 24 ≠ 0),
    predsOut := if f.mod 0 then [f.modBits 1 4] else [], lat := .variable }
def msto (f : Fields) : Shape :=
  { a := .v, b := .v, mask := 0x3F, badOperand := decide (f.immBits 8 24 ≠ 0),
    predsOut := if f.mod 1 then [f.modBits 2 4] else [], lat := .variable }
def psend (f : Fields) (timed : Bool) : Shape :=
  { a := .pair, b := .pair, c := if timed then .pair else .no, badOperand := decide (f.imm ≠ 0), poison := .lead }
def lcarm (f : Fields) : Shape := { a := .v, b := .v, c := .pair, badOperand := decide (f.imm ≠ 0), poison := .lead }
def lcarmAdd (f : Fields) : Shape := { a := .v, b := .v, badOperand := decide (f.imm ≠ 0), poison := .lead }
def twait (f : Fields) : Shape := { a := .pair, badOperand := decide (f.imm ≠ 0) }
/-- With bit 7 the immediate is the delay; without it the immediate is unused (R33, R426). -/
def twaitRel : Shape := { b := .v, immB := true }
def tread (f : Fields) : Shape := { dst := .pair, badOperand := decide (f.imm ≠ 0), lat := .variable }

/-! Launch (R460). -/
def task (f : Fields) (timed : Bool) : Shape := { a := .pair, c := if timed then .pair else .no, badOperand := decide (f.imm ≠ 0), poison := .lead }
def hints (f : Fields) : Shape := { badOperand := decide (f.imm ≠ 0) }

end Shape

end Sys2Proof.Machine
end

