-- ==== Sys2Proof/Machine/State.lean ====
section
/-! DEFINITION. The state of the machine: everything the spec gives a package, its cores, workgroups and fibres, as plain data
(INVENTORY.md lists each piece with the rule that names it), and the state after reset. -/

namespace Sys2Proof.Machine

/-- What a fault of a workgroup carries into its record (R386 to R389): the common header fields that the fault itself decides, and
bytes 24 to 63 by layout. -/
structure FaultInfo where
  cls : Nat
  cause : Nat := 0
  pc : BitVec 64 := 0
  fibre : Nat := 0
  flags : BitVec 5 := 0
  slotNo : Nat := 0
  prefixed : Bool := false
  deferred : Bool := false
  brush : Nat := 0
  whichBrush : Nat := 0
  opIndex : Nat := 0
  subCause : Nat := 0
  layout : Nat := 0
  /-- Bits [511:192] of the record. -/
  body : Nat := 0
  /-- Kept by the core with the record, for the resumption (R394): the fibres of the batch, the slots of the issue, the PC
  to continue after where it is not the recorded one (R83), the participants
  and destination of a `SYSC`, and the engine entry of a deferred fault. -/
  lanes : List Nat := []
  span : Nat := 1
  site : Option (BitVec 64) := none
  parts : List Nat := []
  dst : Nat := 240
  entry : Option Nat := none
  /-- The lanes, word and kind of a `BINIT` (true) or `BINV` to send again (R501). -/
  retry : Option (List (Nat × Nat × Nat) × Fields × Bool) := none
  /-- What the issue that raised the fault adds to the sums of its fibres when its instruction counts as completed (R40, R394). -/
  cost : Nat := 0
  costLanes : List Nat := []
  /-- The reach of the rendezvous at fault, which a resumption closes (R165). -/
  reach : Option (BitVec 32) := none
  deriving DecidableEq, Repr

/-- A fixed-latency result not yet due (R40, R43, R44): the register, or 256 plus the predicate; the sum so far and the latency; the
value before; whether the instruction now reading sees the older value; whether a reader has seen the newer one. -/
structure Early where
  target : Nat
  sum : Nat
  need : Nat
  old : Word
  useOld : Bool := false
  seen : Bool := false
  deriving DecidableEq, Repr

/-- A 64-byte line named by its space and its address above bit 5 (R265): 0 `.G` by physical address; 1 `.S` and 2 `.C`, each by the core and the
bank offset that the space's own offset names there. -/
structure WatchLine where
  space : Nat
  place : Nat
  line : Nat
  deriving DecidableEq, Repr

/-- A spin record (R265). -/
structure Spin where
  branch : BitVec 64 := 0
  lines : List WatchLine := []
  digest : Word := 0
  count : Nat := 0
  curLines : List WatchLine := []
  curDigest : Word := 0
  taint : Bool := false
  deriving DecidableEq, Repr

/-- Why a fibre does not issue (R257, R261). `answer` is the hold of a batch until a unit answers it (R276, R311, R369). -/
inductive Wait where
  | run
  | barrier
  | waitw
  | lane
  | swwait
  | rwait
  | waitc
  | waitpred
  | twait
  | spinning
  | answer
  deriving DecidableEq, Repr

/-- A fibre (R62). -/
structure Fibre where
  index : Nat
  pc : BitVec 64
  preds : BitVec 16 := 0
  allot : Nat
  regs : Sparse Word := []
  poison : List Nat := []
  pendV : List Nat := []
  pendP : List Nat := []
  early : List Early := []
  resident : Bool := true
  /-- Chosen to be saved, at which step of the model: out of its batch, not yet saved (R259, R262, R288). -/
  leaving : Bool := false
  chosenAt : Nat := 0
  wait : Wait := .run
  /-- It waits at a lane rendezvous of which it is no member (R503). -/
  outsider : Bool := false
  /-- What the wait needs: a token, a compare value, an object or an address, a deadline. -/
  waitKey : Nat := 0
  waitValue : Nat := 0
  waitDst : Nat := 0
  waitFields : Option Fields := none
  waitLine : Option WatchLine := none
  /-- A waiting `WAITW` must read again: its line or a watched line was written (R281). -/
  waitDue : Bool := false
  /-- The word of a waiting `WAITW`, homed on another package, has come for its next turn. -/
  polled : Bool := false
  deadline : Nat := 0
  yielded : Bool := false
  candidateSince : Nat := 0
  residentSince : Nat := 0
  queuedSince : Nat := 0
  waitSince : Nat := 0
  spin : Spin := {}
  watch : List (WatchLine × Bool) := []
  issued : Nat := 0
  /-- Registers from this number up were granted by `RGROW` and may not yet be named (R283); 240 when none. -/
  growFrom : Nat := 240
  growAge : Nat := 0
  /-- The allotment that a fibre to be saved takes when it is (R283); 0 for its own. -/
  toAllot : Nat := 0
  /-- An initial fibre that has not entered its first line (R27). -/
  fresh : Bool := false
  /-- The loop, target and branch, within which the issues of a fibre woken by the spin timeout count as none (R400). -/
  quiet : Option (BitVec 64 × BitVec 64) := none
  /-- Where in its workgroup's rotation-store area the record of a saved fibre lies, and the record as last written (R257). -/
  stored : Option (Nat × List Byte) := none
  deriving DecidableEq, Repr

/-- An open lane rendezvous (R161 to R165): reach as a lane mask, the partition width in force when its first member arrived, the live members,
the arrivals with whether their guard passed, and the words of sources A and B as each arrival's issue saw them (R109). -/
structure Rendezvous where
  hwarp : Nat
  pc : BitVec 64
  reach : BitVec 32
  width : Nat
  words : List (Nat × Word × Word)
  /-- The lane whose arrival captured the pattern (R176). -/
  captor : Nat := 0
  members : BitVec 32
  arrived : BitVec 32
  passed : BitVec 32
  pattern : Option (List Byte)
  /-- The 8-byte words of the captured pattern that carry an uncorrectable error (R484). -/
  patternBad : List Nat := []
  fields : Fields
  kind : Nat
  deriving DecidableEq, Repr

/-- The pre-emption states of R399. -/
inductive Preempt where
  | running
  | draining
  | saving
  | saved
  deriving DecidableEq, Repr

/-- A brush image (R361): its header and operation words as numbers, its table. -/
structure Brush where
  header : Nat
  ops : List Nat
  table : List Word
  deriving DecidableEq, Repr

/-- One agent's copies of the per-agent CSRs (R401). -/
structure AgentCsr where
  csel : Word := 0
  asel : Word := 0
  mgsel : Word := 0
  bbsel : Word := 0
  fres : DWord := 0
  fresv : Word := 0
  fcmd : Word := 0
  tlbva : DWord := 0
  mgmidx : Word := 0
  pwg : Word := 0
  pwgid : Word := 0
  pbound : Word := 0
  psave : DWord := 0
  pstat : Word := 0
  bbidx : Word := 0
  deriving DecidableEq, Repr

/-- A completion counter's stream for one issuer and class (R306, R307): operations issued and not retired, oldest first, each with
whether it has completed; for copies the open batch and the sealed ones. -/
structure Stream where
  issuer : Nat
  cls : Nat
  /-- (operation or batch number, copies it holds still incomplete) in issue order. -/
  pending : List (Nat × List Nat) := []
  /-- Copies issued since the last `SEAL`. -/
  unsealed : List Nat := []
  unsealedAny : Bool := false
  /-- Batches sealed so far. -/
  sealedCount : Nat := 0
  deriving DecidableEq, Repr

/-- A deferred fault held for a home warp (R246, R309, R501), with the copy entry or barrier request it belongs to. -/
structure Deferred where
  issuer : Nat
  cls : Nat
  info : FaultInfo
  entry : Option Nat
  deriving DecidableEq, Repr

/-- The state of a tile slot (R324, R325). -/
structure SlotFlags where
  claimed : Bool := false
  releasing : Bool := false
  filled : Bool := false
  /-- The name counter at the `SREL`: operations with lower names were issued before it (R337). -/
  releasedAt : Nat := 0
  deriving DecidableEq, Repr

/-- A warp slot in use (R66 to R72): number 0 to 63, its batch, its age counter, and the fetch line latched for it with the PC of
that line; `stall` is the stall field of its last issue (R39). -/
structure Slot where
  id : Nat
  wg : Nat
  lanes : List Nat
  age : Nat
  line : Option (Nat × BitVec 512) := none
  stall : Nat := 0
  deriving DecidableEq, Repr

/-- What the attributes of a leaf make of an access, as accesses read them (R190 to R192), and the page it was made through: its address space
and virtual address. -/
structure Attr where
  cache : Nat := 0
  policy : Nat := 0
  comp : Nat := 0
  prio : Nat := 0
  page : Option (Nat × Nat) := none
  deriving DecidableEq, Repr

/-- Where an access goes: a scratchpad byte of a core, named through the space `.S` (1) or `.C` (2), or a physical address with its attributes. -/
inductive Place where
  | scratch (core off space : Nat)
  | home (pa : Nat) (a : Attr)
  deriving DecidableEq, Repr

/-- A line of an L1 (R185, R226 to R228): byte masks of valid and dirty bytes, a word mask of owned words, its bytes. -/
structure L1Line where
  line : Nat
  prio : Nat
  /-- The compressibility of the page the line was last stored through, and that page (R200). -/
  comp : Nat := 0
  page : Option (Nat × Nat) := none
  valid : BitVec 128 := 0
  dirty : BitVec 128 := 0
  owned : BitVec 32 := 0
  data : Bytes := []
  poison : List Nat := []
  deriving DecidableEq, Repr

/-- A line that the L2 of its home die holds (R186): its priority; its bytes are those of the home. The list of them has the most recently used
first. -/
structure L2Line where
  line : Nat
  prio : Nat
  deriving DecidableEq, Repr

/-- A line held by a die's RDC (R186). -/
structure RdcLine where
  die : Nat
  line : Nat
  prio : Nat := 0
  data : Bytes := []
  poison : List Nat := []
  deriving DecidableEq, Repr

/-- What a load fills: a run of registers from `n` (240 for `vz`), a codebook table, a Palette pattern (R135, R175, R204). -/
inductive LoadDst where
  | regs (n : Nat)
  | book (n : Nat)
  | pattern (n : Nat)
  deriving DecidableEq, Repr

/-- One lane's load that has passed its checks: its fibre, place, bytes, extension and hint; once it has been performed, its bytes with the poison of
each (R204); and where another package has to answer it, the tag of the request and the bytes that the L1 held at the issue. -/
structure Load where
  fibre : Nat
  dst : LoadDst
  place : Place
  width : Nat
  signed : Bool := false
  hint : Nat := 0
  scope : Nat := 0
  value : Option (List (Byte × Bool)) := none
  request : Option Nat := none
  held : List (Option (Byte × Bool)) := []
  deriving DecidableEq, Repr

/-- Results on their way (R41, R204): loads to be performed and written, in order, and register and predicate writes whose values are known, or are
still awaited from another package under a tag. -/
structure Pending where
  wg : Nat
  request : Option Nat := none
  loads : List Load := []
  writes : List (Nat × Nat × Word × Bool) := []
  preds : List (Nat × Nat × Bool) := []
  deriving DecidableEq, Repr

/-- The kinds of copy-unit operation (R299, R368, R432). -/
inductive CopyKind where
  | ld
  | st
  | slot
  | push
  | pull
  | reg (k : Nat)
  | ring
  | accLd
  | accSt
  | brush (h : Nat)
  | gth
  | gthSlot
  | sct
  | sctCl
  | tzip
  | tfold
  | tscan
  | psend
  deriving DecidableEq, Repr

/-- An occupied copy-queue entry (R290 to R292). -/
structure CopyEntry where
  entry : Nat
  id : Nat
  kind : CopyKind
  wg : Nat
  issuer : Nat
  cls : Nat
  fibre : Nat
  pc : BitVec 64
  a : Nat
  b : List Word
  c : Nat
  dstRun : List Word := []
  yRun : List Word := []
  imm : Word
  mods : BitVec 7 := 0
  dst : Nat := 0
  targets : List Nat := []
  targetBase : Nat := 0
  width : Nat := 0
  epoch : Nat := 0
  start : Nat := 0
  tlr : Option Nat := none
  pos : Nat := 0
  ringSlot : Option Nat := none
  finished : Bool := false
  fault : Option FaultInfo := none
  sent : Bool := false
  /-- A packet of a `PSEND` has left the package (R433). -/
  away : Bool := false
  /-- Stores that other packages have to acknowledge before the operation has performed its last write or its release (R16, R302). -/
  acks : List Nat := []
  /-- The scope of the `PHASE.AR` performed for its arrival, plus one (R502), and whether its acquire is still to follow the acknowledgements (R229). -/
  arriveScope : Nat := 1
  acquires : Bool := false
  /-- What the barrier unit of another package has answered to its arrival. -/
  arrival : Option BarrierAnswer := none
  deriving DecidableEq, Repr

/-- The kinds of Easel operation (R335, R368). -/
inductive EaselKind where
  | mloop
  | count
  | mzero
  | mlda
  | msta
  | cmrg
  | cdrn
  | cdrnI
  | czero
  | czeroD
  | touter
  deriving DecidableEq, Repr

/-- An Easel queue entry (R346), with its issue-time operands. -/
structure EaselEntry where
  entry : Nat
  id : Nat
  kind : EaselKind
  wg : Nat
  issuer : Nat
  cls : Nat
  fibre : Nat
  pc : BitVec 64
  a : Nat := 0
  b : Nat := 0
  c : Nat := 0
  imm : Word := 0
  mods : BitVec 7 := 0
  lanes : List (Nat × Nat) := []
  data : List (List Word) := []
  dst : Nat := 0
  epoch : Nat := 0
  /-- Steps done. -/
  doneSteps : List Nat := []
  /-- Steps that have become ready, in order (R344). -/
  readySteps : List Nat := []
  fault : Option FaultInfo := none
  deriving DecidableEq, Repr

/-- What a unit that has started will write when it ends (R340): accumulator words with poison, registers, bank changes. -/
structure EaselUnit where
  entry : Nat
  step : Nat
  accWords : List (Nat × Word × Bool) := []
  /-- A byte range of accumulator memory set to zero. -/
  zero : Option (Nat × Nat) := none
  regs : List (Nat × Nat × Word × Bool) := []
  bank : Option (Nat × Sparse Nat × List Nat) := none
  flags : BitVec 5 := 0
  fault : Option FaultInfo := none
  last : Bool := true
  deriving DecidableEq, Repr

/-- A front bank (R323, R327). -/
structure FrontBank where
  owner : Option Nat := none
  depth : Nat := 0
  counters : Sparse Nat := []
  /-- 64-bit words of four counters in error, or counted from poisoned words (R342, R356, R484). -/
  poison : List Nat := []
  deriving DecidableEq, Repr

/-- What a saved context holds of the core (R317, R328, R399): bytes and marks by offset within the workgroup's own ranges, owned
front banks, deep depths by offset, the operations that wait, done ring slots by offset, and operations to abandon at the restore. -/
structure Saved where
  scratch : Bytes := []
  scratchPoison : List Nat := []
  tiles : Bytes := []
  tilePoison : List Nat := []
  acc : Bytes := []
  accPoison : List Nat := []
  bank0 : Option FrontBank := none
  bank1 : Option FrontBank := none
  deep : List (Nat × Nat) := []
  copyQ : List CopyEntry := []
  easelQ : List EaselEntry := []
  ringDone : List (Nat × Nat) := []
  abandon : List Nat := []
  deriving DecidableEq, Repr

/-- Fibres of a batch that hold until stores have been acknowledged by other packages, and, for an acquire at a scope that follows, until their own
loads have returned (R226, R227, R240). They name the hold by its number. -/
structure Hold where
  id : Nat
  stores : List Nat
  acquire : Option Nat := none
  deriving DecidableEq, Repr

/-- A workgroup on a core, or saved. -/
structure Workgroup where
  key : Nat
  launch : Nat
  core : Nat
  startSched : Nat := 0
  wgid : Nat
  wgx : Nat := 0
  wgy : Nat := 0
  wgz : Nat := 0
  args : Nat := 0
  fibres : List Fibre := []
  queue : List Nat := []
  scalars : Sparse Word := []
  scalarPoison : List Nat := []
  /-- Special registers whose stored value carries an uncorrectable error (R93), by `srKey`. -/
  srPoison : List Nat := []
  part : Sparse Nat := []
  mstat : Sparse Word := []
  fflags : BitVec 5 := 0
  scratchBase : Nat := 0
  /-- The core's tile slots that are the workgroup's slots 0, 1, … (R324, R455). -/
  slots : List Nat := []
  slotFlags : List SlotFlags := []
  accBase : Nat := 0
  books : Sparse (BitVec 16) := []
  patterns : Bytes := []
  brushes : Sparse (Option Brush) := []
  /-- Codebook entries, 8-byte words of the patterns, and words of the brushes' images, 160 to a handle, that carry an uncorrectable error (R484). -/
  bookPoison : List Nat := []
  patternPoison : List Nat := []
  brushPoison : List Nat := []
  streams : List Stream := []
  rendezvous : List Rendezvous := []
  storeArea : Option Nat := none
  parked : Option FaultInfo := none
  recordAt : Option Nat := none
  deferred : List Deferred := []
  holds : List Hold := []
  fenceEpoch : Sparse Nat := []
  /-- By issuer and epoch, the writes to other packages that a `FENCE.E` found or made and that have still to be acknowledged (R218, R236). -/
  fenceAcks : List (Nat × Nat × List Nat) := []
  /-- Handles that it has initialised in live mode and whose objects are homed on other packages (R271). -/
  liveFar : List Nat := []
  hinted : Bool := false
  committed : Bool := false
  preempt : Preempt := .running
  preemptBy : Agent := .host
  saveArea : Nat := 0
  lastActive : Nat := 0
  csr : AgentCsr := {}
  saved : Option Saved := none
  restoring : Bool := false
  deriving DecidableEq, Repr

/-- A save or restore under way (R262). -/
structure Transfer where
  wg : Nat
  fibre : Nat
  save : Bool
  slot : Option Nat := none
  deriving DecidableEq, Repr

/-- A core (R12, R13). -/
structure Core where
  quantum : Word := 64
  slots : List Slot := []
  l1 : List L1Line := []
  loads : List Pending := []
  copyQ : List CopyEntry := []
  copyLast : Nat := 0
  easelQ : List EaselEntry := []
  easelUnit : Option EaselUnit := none
  easelLast : Nat := 0
  scratch : Bytes := []
  scratchPoison : List Nat := []
  tiles : Bytes := []
  tilePoison : List Nat := []
  acc : Bytes := []
  accPoison : List Nat := []
  bank0 : FrontBank := {}
  bank1 : FrontBank := {}
  deep0 : Nat := 0
  deep1 : Nat := 0
  portScopes : Sparse Nat := []
  /-- Ring slots filled or abandoned and not yet published: descriptor offset and slot (R315). -/
  ringDone : List (Nat × Nat) := []
  transfer : Option Transfer := none
  endedStats : List (Nat × Nat × Nat) := []
  chunk : Option (Nat × Nat × Nat) := none
  /-- The last admission or chunk, or gain of room, and the registers and resident fibres taken when that was last looked at (R458). -/
  idleSince : Nat := 0
  usedRegs : Nat := 0
  residents : Nat := 0
  deriving DecidableEq, Repr

/-- A kernel descriptor as the launch processor read it (R50, R51). -/
structure Kernel where
  header : Word := 0
  entry : BitVec 64 := 0
  cap : Nat := 0
  dimX : Nat := 1
  dimY : Nat := 1
  dimZ : Nat := 1
  accBytes : Nat := 0
  brushes : Nat := 0
  books : Nat := 0
  palette : Nat := 0
  deriving DecidableEq, Repr

/-- What a launch came from (R392, R450, R457). -/
inductive LaunchKind where
  | packet
  | job
  | handler
  deriving DecidableEq, Repr

/-- A launch, job or handler launch. -/
structure Launch where
  lseq : Nat
  kind : LaunchKind
  queue : Option Nat := none
  priority : Nat := 0
  privileged : Bool := false
  space : Nat := 0
  traps : BitVec 5 := 0
  kernelAddr : Nat := 0
  kernel : Option Kernel := none
  args : Nat := 0
  recordBytes : Nat := 0
  gridX : Nat := 1
  gridY : Nat := 1
  gridZ : Nat := 1
  signal : Nat := 0
  acquire : Nat := 7
  release : Nat := 7
  predScope : Nat := 7
  serial : Bool := false
  dependent : Bool := false
  timed : Bool := false
  start : Nat := 0
  storeBase : Nat := 0
  storeArea : Nat := 0
  storeAreas : Nat := 0
  barrierBase : Nat := 0
  barrierEntries : Nat := 0
  predecessor : Option Nat := none
  owner : Option Nat := none
  counter : Option Nat := none
  admitted : Nat := 0
  readmit : List Nat := []
  ended : Nat := 0
  hinted : Nat := 0
  failed : Bool := false
  rejected : Bool := false
  active : Bool := false
  waiting : Nat := 0
  done : Bool := false
  /-- Stores to other packages that its workgroups' ends await (R252). -/
  acks : List Nat := []
  /-- Its workgroups that were killed (R395, R414). -/
  killed : List Nat := []
  /-- Memory as it stood when the launch's first workgroup was admitted, which fetches may still see, and the length of the log of line versions
then (R29). -/
  code : Option Bytes := none
  codeFrom : Nat := 0
  deriving DecidableEq, Repr

/-- A job card in a segment of the task queue (R458). -/
structure Card where
  lseq : Nat
  start : Nat
  next : Nat
  total : Nat
  otherDies : List Nat := []
  deriving DecidableEq, Repr

/-- A launch counter (R424). -/
structure LaunchCounter where
  value : Int := 0
  armed : Bool := false
  card : List Byte := []
  launch : Nat := 0
  /-- Stores, released by those who counted here, that other packages have to acknowledge before the job begins (R434). -/
  acks : List Nat := []
  deriving DecidableEq, Repr

/-- A multicast group's CSRs (R401, R431). -/
structure Group where
  va : DWord := 0
  len : Word := 1
  ctl : Word := 0
  pkgs : Sparse Nat := []
  deriving DecidableEq, Repr

/-- A request to the barrier unit (R270, R275 to R279): per fibre its handle and count or token. -/
structure BarrierRequest where
  id : Nat := 0
  op : BarrierOp
  wg : Nat
  hwarp : Nat
  pc : BitVec 64
  lanes : List (Nat × Nat × Nat)
  fields : Fields
  /-- The scope of the `PHASE.AR` performed for an arrival, plus one; 0 before it (R502). -/
  scopeDone : Nat
  /-- The port holds the scope of the handle, or the unit has answered what it is (R502). -/
  asked : Bool := true
  /-- Stores of its release that other packages have still to acknowledge, and whether its acquire is still to follow (R226, R229, R502). -/
  stores : List Nat := []
  acquires : Bool := false
  /-- Other packages whose units have found no failure in a `BINIT` or `BINV` that names objects of several (R275). -/
  cleared : List Nat := []
  deriving DecidableEq, Repr

/-- A packet held by a collective engine (R413 to R420): its 64-byte header, payload, die, the `PSEND` entry it came from, and
whether it waits at a reduce entry, or has left and waits to be acknowledged. -/
structure Packet where
  header : Nat
  payload : List Byte
  die : Nat
  fromEntry : Option Nat := none
  /-- The launch and the workgroup that sent it from this package (R252, R414). -/
  sender : Option (Nat × Nat) := none
  /-- The 4-byte words of the payload that carry an uncorrectable error (R484). -/
  poison : List Nat := []
  order : Nat
  waiting : Bool := false
  awaitAck : Bool := false
  peer : Option Nat := none
  /-- Writes of its entry that other packages have still to acknowledge before the next one starts (R418). -/
  acks : List Nat := []
  deriving DecidableEq, Repr

/-- An `MLDR` or `MSTO` under way (R428 to R431): its issuer, the packages of its members, the fibre, offset and data of each lane; whether its
requests have been given to the links (`FENCE.E` holds an `MSTO` back, R236); what this package answered as a member, by offset; the members found
missing, and the answers of the switch once they have come, by offset and then member. -/
structure MultiOp where
  id : Nat
  wg : Nat
  issuer : Nat
  load : Bool
  width : Nat
  group : Nat
  /-- The group's CSRs as they stood at the issue (R402). -/
  base : Group := {}
  members : List Nat
  lanes : List (Nat × Nat × Nat)
  dst : Nat
  statusPred : Option Nat
  since : Nat
  epoch : Nat := 0
  sent : Bool := true
  own : List (Nat × MemberAnswer) := []
  missing : List Nat := []
  answers : Option (List MemberAnswer) := none
  /-- Writes of this package as a member that other packages have still to acknowledge. -/
  acks : List Nat := []
  deriving DecidableEq, Repr

/-- A request of the switch that this package serves as a member and has not answered (R431): for the lines of its window, or the writes to it, that other
packages have still to send or acknowledge. A read, a write with its answer, or an operation of its own. -/
structure MemberServe where
  id : Nat
  member : Nat
  off : Nat
  width : Nat
  group : Group := {}
  answer : Option MemberAnswer := none
  op : Option Nat := none
  acks : List Nat := []
  deriving DecidableEq, Repr

/-- A segment sent to a peer and not yet acknowledged (R439, R441): its number, the packet's offset, whether it is the packet's last, its bytes, when
it last left, its packet, and the peer entry in force when the packet's first segment left (R477). -/
structure Segment where
  seq : Nat
  offset : Nat
  last : Bool
  bytes : List Byte
  since : Nat
  order : Nat
  entry : List Byte
  poison : List Nat := []
  deriving DecidableEq, Repr

/-- A segment received from a peer and not yet part of a whole packet: its number, the packet's offset, whether it is the packet's last, its bytes. -/
structure Arrived where
  seq : Nat
  offset : Nat
  last : Bool
  bytes : List Byte
  poison : List Nat := []
  deriving DecidableEq, Repr

/-- A peer of the Strand ports (R439 to R442): its management record; its keys, newest first, each with the next packet number to send, or the last
one seen; and its transport state, whose segment numbers count on without wrapping. -/
structure Peer where
  entry : List Byte := []
  valid : Bool := false
  up : Bool := false
  txKeys : List (List Byte × Nat) := []
  rxKeys : List (List Byte × Nat) := []
  nextSeq : Nat := 0
  unacked : List Segment := []
  received : List Arrived := []
  expected : Nat := 0
  sinceSack : Nat := 0
  lastSack : Nat := 0
  lastAck : Nat := 0
  deriving DecidableEq, Repr

/-- Who reads lines homed on other packages before a step of its own, and waits for them (log 18): a batch for its instruction or its line, named by a fibre
of it; a copy-unit operation; a packet; the request of a multicast member; the restore of a fibre; a queue for its ring; a launch, or a record's handler, for
its descriptor. -/
inductive Reader where
  | batch (wg fibre : Nat)
  | copy (id : Nat)
  | packet (order : Nat)
  | member (id : Nat)
  | restore (wg fibre : Nat)
  | queue (q : Nat)
  | launch (lseq : Nat)
  | handler (wg : Nat)
  deriving DecidableEq, Repr

/-- A request of this package to the home of a line on another package (R16, R438): a load of the line by a core, with whether it may still fill the core's
L1 and its die's RDC; the prefetch of one; the read of a waiting `WAITW`; the read of a line for a reader, or for none any more; a store, with the addresses
of its bytes; an atomic on a word, with the fibres, B and C that one request combines, its destination and, for a `RED`, the record of a poisoned word (R243,
R246); a request to a barrier unit, the arrival of a copy-unit operation, and what a barrier unit is told and only acknowledges (R19, R270). -/
inductive RequestKind where
  | load (core : Nat) (l1 rdc : Bool)
  | prefetch (core : Nat) (l1 : Bool) (hint : Nat) (a : Attr)
  | poll (wg fibre : Nat)
  | read (who : Option Reader)
  | store (bytes : List Nat)
  | atomic (wg op pa : Nat) (lanes : List (Nat × Nat × Nat)) (dst : Option Nat) (info : FaultInfo)
  | barrier (r : BarrierRequest)
  | arrival (entry : Nat)
  | notice
  deriving DecidableEq, Repr

/-- A request not yet answered: its tag and its 128-byte line. -/
structure Request where
  tag : Nat
  line : Nat
  kind : RequestKind
  deriving DecidableEq, Repr

/-- What a flit that leaves a Colnal port carries (R16, R428, R438): a part of a packet, under the number in which it is acknowledged, to a package; a
request for an offset of a multicast group; a load, store or atomic under its tag; an answer to another package's request, with the words of it that
are poisoned; a request to a barrier unit under its tag, the answer to one, and a notice to a package that the waiters of an object wake; the acceptance of its
packet. -/
inductive Flit where
  | part (order package : Nat) (last : Bool) (bytes : List Byte) (poison : List Nat)
  | member (op off width group : Nat) (members : List Nat) (data : Option Nat)
  | load (tag pa n : Nat)
  | store (tag comp : Nat) (cells : List (Nat × Byte)) (poisoned : Bool)
  | atomic (tag pa comp op : Nat) (lanes : List (Nat × Nat))
  | barrier (tag : Nat) (a : BarrierAsk)
  | answer (tag : Nat) (bytes : List Byte) (poison : List Nat)
  | barrierAnswer (tag : Nat) (b : BarrierAnswer)
  | woken (package header : Nat) (status : Bool) (scope : Nat)
  | accepted (tag : Nat)
  deriving DecidableEq, Repr

/-- A Colnal port (R16, R438). Its virtual channels are 0 loads and atomics, 1 stores, 2 answers, 3 packets: flits granted beyond those of the training
and flits spent, by channel; flits waiting for credit, oldest first; flits sent and not yet taken by the other end, by number. -/
structure Link where
  granted : Sparse Nat := []
  spent : Sparse Nat := []
  queue : List (Nat × Flit) := []
  next : Nat := 0
  retry : List (Nat × Nat × Flit) := []
  deriving DecidableEq, Repr

/-- What the device tells agents outside it. -/
inductive Output where
  | msix (vector : Nat)
  | memRead (pa : Nat) (bytes : List Byte) (poisoned : Bool)
  | snoop (pa : Nat) (bytes : List Byte) (dirty : Bool)
  | management (bytes : List Byte)
  | error
  | spdm (bytes : List Byte)
  | mctp (bytes : List Byte)
  /-- A flit leaves a Colnal port, under a number, on a channel. -/
  | flit (port number channel : Nat) (f : Flit)
  /-- A port grants a flit on a channel to the other end, asks for a flit again, or has taken one. -/
  | grant (port channel : Nat)
  | retry (port : Nat)
  /-- A frame leaves a Strand port to a peer's address under an EtherType, protected under an association's packet number (R439, R440): a segment, or
  an acknowledgement. -/
  | strand (port : Nat) (mac : List Byte) (etherType peer packetNumber : Nat) (s : Segment)
  | sack (port : Nat) (mac : List Byte) (etherType peer packetNumber cumulative : Nat) (ranges : List Nat)
  | multicast (member : Nat) (answer : MemberAnswer)
  deriving DecidableEq, Repr

/-- The instruction being issued: its core and warp slot, and the `ORD` prefix with its order and scope (R237). -/
structure Issue where
  core : Nat
  slot : Nat
  ord : Option (Nat × Nat) := none
  deriving DecidableEq, Repr

/-- The life-cycle states of R481. -/
inductive LifeCycle where
  | manufacture
  | provisioned
  | deployed
  | returned
  deriving DecidableEq, Repr

/-- The state of a package. -/
structure State where
  tide : BitVec 64
  /-- The arithmetic-clock cycles of each core (R109). -/
  cyc : List (BitVec 64)
  mem : Bytes
  memPoison : List Nat
  compCodes : Sparse Nat
  ready : Bool
  memActive : Bool
  wiping : Bool
  powered : Bool
  lifeCycle : LifeCycle
  lifeCyclePending : Option LifeCycle
  /-- The device identity key has been fused (R481). -/
  identityKey : Bool
  /-- The firmware image that the boot ROM verifies, the fused anti-rollback counter, and the hub's recovery (R482). -/
  firmware : Firmware
  /-- The images that the next cold resets will find in the package's flash, in order; with none left, the image stays (log 15). -/
  flash : List Firmware
  rollback : Nat
  recovery : Bool
  /-- The Colnal and Strand ports have still to train (R478, R480). -/
  linksDown : Bool
  /-- A cold bring-up has still to have the Tide synchronised (R480). -/
  untimed : Bool
  queueBase : DWord
  queueCount : Word
  queuePred : Sparse Nat
  lastQueue : Nat
  lseqCounter : Nat
  admitPointer : Nat
  launches : List Launch
  segments : Sparse (List Card)
  counters : Sparse LaunchCounter
  dbg : Word
  frbase : DWord
  frsize : Word
  frwp : Word
  frrp : Word
  frBlocked : Bool
  wdog : Word
  coveWays : Sparse Nat
  covePending : Sparse Nat
  ptroot : Sparse DWord
  fvec : Sparse DWord
  groups : Sparse Group
  hostCsr : AgentCsr
  records : List (FaultInfo × Nat × Nat × Nat × Nat)
  blackBox : Sparse (List Nat)
  blackBoxWp : Sparse Nat
  tlb : List (Nat × Nat × DWord)
  rdc : List RdcLine
  l2 : List L2Line
  /-- Versions of 64-byte lines as writes at the home have left them while launches run, oldest first (R29). -/
  lineLog : List (Nat × List Byte)
  owners : Sparse Nat
  barrierQ : List BarrierRequest
  /-- Of barrier objects homed here, by the physical address of the header: the other packages with fibres that wait on them, and the package, plus one, of
  an initiating core of another package (R19, R269). -/
  farWaiters : List (Nat × Nat)
  barrierHosts : Sparse Nat
  pkgBrushes : Sparse (Option (Brush × Nat))
  /-- Words of the package brushes' images, 160 to a handle, that carry an uncorrectable error (R484). -/
  pkgBrushPoison : List Nat
  packets : List Packet
  multi : List MultiOp
  serving : List MemberServe
  peers : Sparse Peer
  /-- The Colnal ports, 0 to 31. -/
  links : Sparse Link
  /-- Requests to other packages not yet answered, oldest first. -/
  requests : List Request
  /-- Lines homed on other packages that have come for a reader's next step. -/
  fetched : List (Reader × Nat)
  drops : Nat
  /-- Flits of the Colnal ports, and segments of the Strand ports, asked for or sent again (R438, R441). -/
  colnalRetries : Nat
  strandRetries : Nat
  eccCorrected : Nat
  eccPoisoned : Nat
  /-- Lines of host memory that the L2s hold dirty, each with its bytes, and its poisoned words, as the host has them (R474). -/
  hostDirty : List (Nat × List Byte × List Nat)
  /-- Words of `memPoison` of which only an L2's copy carries the mark (R484). -/
  l2Poison : List Nat
  i3cAddress : BitVec 7
  limited : List Nat
  cores : Sparse Core
  wgs : List Workgroup
  /-- The model's own fields (log 2, 5, 6). -/
  free : Nat
  inputs : List Instr
  outputs : List Output
  issue : Option Issue
  nextKey : Nat
  deriving DecidableEq, Repr

/-- Why the machine stops. -/
inductive Fault where
  /-- `exec` was asked to run an instruction while no batch is issuing: raised by `runBatch` and, for a pair, by `State.runPair`, never by
  `step`, which names a batch with lanes first. Safe: no instruction of a program ends so. -/
  | noIssuingBatch
  deriving DecidableEq, Repr

/-- Why an instruction has no meaning here. -/
inductive Refusal where
  /-- An instruction without a meaning in this model: raised by its arm of `exec`. Safe. -/
  | notModelled (mnemonic : String)
  deriving DecidableEq, Repr

/-- One black-box entry (R403) as a 256-bit number. -/
def blackBoxEntry (tide kind core cls cause wg addr detail : Nat) : Nat :=
  tide % 2 ^ 64 + kind * 2 ^ 64 + core * 2 ^ 72 + cls * 2 ^ 82 + cause * 2 ^ 88 + wg * 2 ^ 96 + addr * 2 ^ 128 + detail * 2 ^ 192

/-- The machine at the end of a cold bring-up (R478 to R480): memories and CSRs zero or at their reset values, no launch, device
status ready and memory active, and one black-box entry of kind 10. The values the spec leaves open are named in log 3, 4 and 6. -/
def State.reset : State where
  tide := 0
  cyc := List.replicate Config.cores 0
  mem := []
  memPoison := []
  compCodes := []
  ready := true
  memActive := true
  wiping := false
  powered := true
  lifeCycle := .deployed
  lifeCyclePending := none
  identityKey := true
  firmware := { verifies := true, version := 0, permits := [0, 1, 2, 3] }
  flash := []
  rollback := 0
  recovery := false
  linksDown := false
  untimed := false
  queueBase := 0
  queueCount := 0
  queuePred := []
  lastQueue := 1023
  lseqCounter := 1
  admitPointer := 0
  launches := []
  segments := []
  counters := []
  dbg := 0
  frbase := 0
  frsize := 16
  frwp := 0
  frrp := 0
  frBlocked := false
  wdog := 1000
  coveWays := []
  covePending := []
  ptroot := []
  fvec := []
  groups := []
  hostCsr := {}
  records := []
  blackBox := [(0, [blackBoxEntry 0 10 0x3FF 0 0 0 0 0])]
  blackBoxWp := [(0, 1)]
  tlb := []
  rdc := []
  l2 := []
  lineLog := []
  owners := []
  barrierQ := []
  farWaiters := []
  barrierHosts := []
  pkgBrushes := []
  pkgBrushPoison := []
  packets := []
  multi := []
  serving := []
  peers := []
  links := []
  requests := []
  fetched := []
  drops := 0
  colnalRetries := 0
  strandRetries := 0
  eccCorrected := 0
  eccPoisoned := 0
  hostDirty := []
  l2Poison := []
  i3cAddress := 0
  limited := []
  cores := []
  wgs := []
  free := 0
  inputs := []
  outputs := []
  issue := none
  nextKey := 0

end Sys2Proof.Machine
end

