-- ==== Sys2Proof/Machine/Operands.lean ====
section
/-! DEFINITION. Operand forms: the shape of every instruction, the checks of steps 2 and 4 of R49, the registers an instruction names,
and how a fibre reads and writes each operand form (R34 to R37, R109). -/

namespace Sys2Proof.Machine

/-- The encoding-table row of an instruction; events have none. -/
def shapeOf : Instr → Option Shape
  | .bra _ => some .bra
  | .brx _ | .ret _ => some .brx
  | .brxTbl _ => some .brxTbl
  | .call _ => some .call
  | .callX _ => some .callX
  | .fspawn _ => some .fspawn
  | .fspawnN _ => some .fspawnN
  | .fend _ | .yield _ | .nop _ => some .ctl
  | .braLoop _ => some .braLoop
  | .iadd _ | .isub _ | .iminS _ | .iminU _ | .imaxS _ | .imaxU _ | .rotL _
  | .rotR _ | .and _ | .or _ | .xor _ | .bfxU _ | .bfxS _ => some (.alu 4)
  | .iadd64 _ | .isub64 _ | .iminS64 _ | .iminU64 _ | .imaxS64 _ | .imaxU64 _ => some (.alu64 4)
  | .iaddSat _ | .isubSat _ => some .sat
  | .iaddX f | .isubX f => some (.carry f)
  | .imul _ | .imulHiS _ | .imulHiU _ => some (.alu 6)
  | .imulWideS _ | .imulWideU _ => some .wide
  | .imul64 _ => some (.alu64 8)
  | .imad _ => some .mad
  | .imadWideS _ | .imadWideU _ => some .madWide
  | .imad64 _ => some .mad64
  | .iabs _ => some .abs32
  | .iabs64 _ => some .abs64
  | .shl _ | .shrU _ | .shrS _ => some .shift
  | .shl64 _ | .shrU64 _ | .shrS64 _ => some .shift64
  | .not _ | .popc _ | .clz _ | .brev _ => some (.unary 4)
  | .tern f => some (.tern f)
  | .bfi _ => some .bfi
  | .icmpS f | .icmpU f => some (.icmp f .v)
  | .icmpS64 f | .icmpU64 f => some (.icmp f .pair)
  | .sel _ => some (.sel .v)
  | .sel64 _ => some (.sel .pair)
  | .mov f => some (.mov f)
  | .mov64 _ => some .mov64
  | .movs _ => some .movs
  | .movsI f => some (.movsI f)
  | .lea _ | .leaSx _ => some .lea
  | .lea32 _ => some .lea32
  | .plog f => some (.plog f)
  | .plogW f => some (.plogW f)
  | .pmovP2v _ => some .pmovP2V
  | .pmovV2p f => some (.pmovV2P f)
  | .cvtDn f => some (.cvt .dn f)
  | .cvtUp f => some (.cvt .up f)
  | .cvtD f => some (.cvt .d f)
  | .cvtF2i f => some (.cvt .f2i f)
  | .cvtI2f f => some (.cvt .i2f f)
  | .cvtF2l f => some (.cvt .f2l f)
  | .cvtL2f f => some (.cvt .l2f f)
  | .cvtI2i f => some (.cvt .i2i f)
  | .pack2 f => some (.cvt (.pack 2) f)
  | .pack4 f => some (.cvt (.pack 4) f)
  | .pack5 f => some (.cvt (.pack 5) f)
  | .pack8 f => some (.cvt (.pack 8) f)
  | .unpk2 f => some (.cvt (.unpk 2) f)
  | .unpk4 f => some (.cvt (.unpk 4) f)
  | .unpk5 f => some (.cvt (.unpk 5) f)
  | .unpk8 f => some (.cvt (.unpk 8) f)
  | .cbld f => some (.cbld f)
  | .cbldM _ => some .cbldM
  | .cbq _ => some .cbq
  | .cbqP _ => some .cbqP
  | .bsclGet f | .bsclGet32 f => some (.bsclGet f)
  | .bsclApply _ | .bsclInv _ => some .bscl
  | .fadd _ | .faddF16x2 _ | .faddBf16x2 _ | .fmul _ | .fmulF16x2 _ | .fmulBf16x2 _ => some .fadd
  | .fmac _ | .fmacF16x2 _ | .fmacBf16x2 _ => some .fmac
  | .fmin _ | .fminF16x2 _ | .fminBf16x2 _ | .fmax _ | .fmaxF16x2 _ | .fmaxBf16x2 _ => some .fmin
  | .fcmp f => some (.fcmp f .v false 3)
  | .fcmpF16x2 f | .fcmpBf16x2 f => some (.fcmp f .v true 3)
  | .fcmpF64 f => some (.fcmp f .pair false 8)
  | .fcls f | .fclsF16x2 f | .fclsBf16x2 f => some (.fcls f .v 4)
  | .fclsF64 f => some (.fcls f .pair 8)
  | .frnd _ | .frndF16x2 _ | .frndBf16x2 _ => some .frnd
  | .frndF64 _ => some .frnd64
  | .rcp _ | .rsq _ | .ex2 _ | .lg2 _ | .sin _ | .cos _ | .tanh _ => some .special
  | .rcpF64 _ | .sqrtF64 _ => some .special64m
  | .rsqF64 _ => some .special64
  | .sqrt _ => some .sqrt
  | .dadd _ | .dmul _ => some .dadd
  | .dmac _ => some .dmac
  | .fminF64 _ | .fmaxF64 _ => some .dmin
  | .xpr f => some (.xpr f)
  | .part f => some (.part f)
  | .xlnIdx f | .xlnSub f | .xlnAdd f | .xlnFlip f => some (.xln f)
  | .vote f => some (.vote f)
  | .lred _ => some .lred
  | .lredF f => some (.lredF f)
  | .lscan _ => some .lscan
  | .lscanF f => some (.lscanF f)
  | .perm f => some (.perm f)
  | .pld _ => some .pld
  | .ldS f => some (.ld 1 f)
  | .ldC f => some (.ld 2 f)
  | .ldG f => some (.ld 0 f)
  | .ldSQ f => some (.ldQ 1 f)
  | .ldCQ f => some (.ldQ 2 f)
  | .ldGQ f => some (.ldQ 0 f)
  | .stS f => some (.st 1 f)
  | .stC f => some (.st 2 f)
  | .stG f => some (.st 0 f)
  | .stSQ f => some (.stQ 1 f)
  | .stCQ f => some (.stQ 2 f)
  | .stGQ f => some (.stQ 0 f)
  | .prfL1 f | .prfL2 f => some (.prf f)
  | .cctlInv _ | .cctlWbinv _ => some (.cctl true)
  | .cctlWb _ => some (.cctl false)
  | .cctlPri _ => some .cctlPri
  | .aqry f => some (.aqry f)
  | .aqryH _ => some .aqryH
  | .phaseRel f | .phaseAcq f | .phaseAr f | .fenceE f => some (.phase f)
  | .fence f => some (.fence f)
  | .ord f => some (.ord f)
  | .atomAdd f | .atomAddF32 f | .atomAddBf16x2 f | .atomMinS f | .atomMinU f | .atomMaxS f | .atomMaxU f
  | .atomAnd f | .atomOr f | .atomXor f | .atomExch f | .atomInc f => some (.atom f .v .v false)
  | .atomAdd64 f | .atomExch64 f => some (.atom f .pair .pair false)
  | .atomCas f => some (.atom f .v .v true)
  | .atomCas64 f => some (.atom f .pair .pair true)
  | .redAdd f | .redAddF32 f | .redAddBf16x2 f | .redMinS f | .redMinU f | .redMaxS f | .redMaxU f
  | .redAnd f | .redOr f | .redXor f | .redInc f => some (.atom f .no .v false)
  | .redAdd64 f => some (.atom f .no .pair false)
  | .binit f => some (.binit f)
  | .barv _ => some .barv
  | .barvC _ => some .barvC
  | .bwait _ => some .bwait
  | .barr _ => some .barr
  | .binv _ => some .binv
  | .bqry _ => some .bqry
  | .watch f => some (.watch f)
  | .watchClr _ => some .watchClr
  | .waitw f => some (.waitw f false)
  | .waitwT f => some (.waitw f true)
  | .rgrow _ | .rshrink _ => some .rgrow
  | .rgrowTry _ => some .rgrowTry
  | .cpy f | .cpyAcc f => some (.cpyDir f)
  | .cpySlot f => some (.cpySlot f)
  | .cpyCl f => some (.cpyCl f)
  | .cpyReg f => some (.cpyReg f)
  | .cpyRing f => some (.cpyRing f)
  | .cpyB f => some (.cpyB f)
  | .gth f | .gthSlot f => some (.gth f true)
  | .sct f | .sctCl f => some (.gth f false)
  | .seal f => some (.sealBatch f)
  | .waitc f => some (.waitc f)
  | .swinit _ | .swexp _ => some .swinit
  | .swwait _ => some .swwait
  | .rwait _ => some .rwait
  | .rrel _ => some .rrel
  | .sclm _ | .srel _ => some .sclm
  | .sclmTry _ => some .sclmTry
  | .mloop f | .mloopC f => some (.mloop f)
  | .mloopG f => some (.mloopG f)
  | .mzero f => some (.mzero f)
  | .mlda f => some (.mlda f)
  | .msta f => some (.msta f)
  | .cmrg f => some (.cmrg f)
  | .cdrn f => some (.cdrn f)
  | .cdrnI f => some (.cdrnI f)
  | .czero f | .czeroD f => some (.czero f)
  | .brld _ | .brldPkg _ => some .brld
  | .brdrop _ | .brdropPkg _ => some .brdrop
  | .tzip f => some (.tzip f true)
  | .tfold f | .tscan f => some (.tfold f)
  | .touter f => some (.touter f)
  | .trap f | .brk f => some (.trap f)
  | .sysc f => some (.sysc f)
  | .csrr f => some (.csrr f)
  | .csrw f | .csrs f | .csrc f => some (.csrw f)
  | .frd f => some (.frd f)
  | .fres f => some (.fres f)
  | .fkill f => some (.fkill f)
  | .mldr f | .mldrF32 f => some (.mldr f)
  | .msto f => some (.msto f)
  | .psend f => some (.psend f false)
  | .psendT f => some (.psend f true)
  | .lcarm f => some (.lcarm f)
  | .lcarmAdd f => some (.lcarmAdd f)
  | .twait f => some (.twait f)
  | .twaitRel _ => some .twaitRel
  | .tread f => some (.tread f)
  | .task f => some (.task f false)
  | .taskT f => some (.task f true)
  | .hints f | .waitpred f => some (.hints f)
  | .loadDataReturn .. | .homeWritePerformed .. | .barrierUnitRequest .. | .rotationDecision .. | .rotationTransferDone .. | .rotationQuantumExpiry ..
  | .spinTimeout .. | .waitwReread .. | .waitwDeadline .. | .swwaitReread .. | .copyUnitGrant .. | .engineOpComplete ..
  | .easelUnitStart .. | .easelUnitEnd .. | .faultRecordWrite | .faultRingRetry | .watchdogExpiry .. | .csrWrite ..
  | .fcmdResumeAtPc .. | .fcmdResumePast .. | .fcmdKill .. | .preemptRequest .. | .preemptSaveDone .. | .preemptRestore ..
  | .preemptKillSaved .. | .tlbInvalidate .. | .launchCounterDisarm .. | .faultRingReadIndexWrite .. | .coveWaysWrite .. | .tideTargetReached ..
  | .multicastMemberRequest .. | .multicastResponse .. | .multicastMemberTimeout .. | .packetHop .. | .colnalFlitReceive .. | .strandFrameReceive ..
  | .strandSackReceive .. | .strandSackTimer .. | .strandRetransmitTimeout .. | .strandPeerTimeout .. | .queueNotify .. | .workgroupAdmission
  | .chunkTake .. | .workgroupEnd .. | .jobComplete .. | .launchComplete .. | .cxlMemAccess .. | .cxlCacheSnoop ..
  | .mgmtReadBlackBox .. | .mgmtReadPower | .mgmtReadCounters | .mgmtWritePeer .. | .mgmtInstallKey .. | .mgmtPeerUp ..
  | .mgmtPeerDown .. | .mgmtLifeCycleStep .. | .mgmtTenantReset | .mgmtWarmReset | .spdmMessage .. | .mctpControlMessage ..
  | .coldReset | .cxlConventionalReset | .wipeDone | .thermalTrip | .blockLocalLimit .. | .patrolScrub ..
  | .tideSynchronisation .. | .startTimeReached .. | .powerRemoved | .pageWalkComplete .. | .lineFetchReturn .. | .i3cDynamicAddressAssignment .. => none

/-- Step 2 of R49 on the word: an undefined modifier bit, or another illegal-opcode condition of the row (R32). -/
def Shape.illegalOpcode (sh : Shape) (f : Fields) : Bool := decide (f.mods &&& ~~~sh.mask ≠ 0) || sh.badOpcode

/-- A legal source code (R34, R35, R92, R132). Special registers 0 to 31 are listed (R109). DESIGN CHOICE (log 22): a 64-bit source may
name any of them at an even number, and then reads it with its upper neighbour, whether or not R109 gives the two as one register. -/
def Role.srcLegal (r : Role) (srOk : Bool) (code : BitVec 9) : Bool :=
  let n := code.toNat
  let named := decide (n ≤ 0x0F0) || decide (0x100 ≤ n ∧ n < 0x180) || (srOk && decide (0x180 ≤ n ∧ n < 0x1A0))
  match r with
  | .no => true
  | .v => named
  | .pair => named && (decide (0x100 ≤ n ∧ n < 0x140) || decide (n % 2 = 0))
  | .pred | .evenPred => decide (n < 16)
  | .run k => decide (n + k ≤ 240)
  | .scalar | .vOrSr => named

/-- A legal destination code (R34, R91, R104, R105); `sr.fflags` is the one writable special register (R109). -/
def Role.dstLegal (r : Role) (code : BitVec 9) : Bool :=
  let n := code.toNat
  match r with
  | .no => true
  | .v => decide (n ≤ 0x0F0)
  | .pair => decide (n ≤ 0x0F0) && decide (n % 2 = 0)
  | .pred => decide (n < 16)
  | .evenPred => decide (n < 16) && decide (n % 2 = 0)
  | .run k => decide (n + k ≤ 240)
  | .scalar => decide (0x140 ≤ n ∧ n < 0x180)
  | .vOrSr => decide (n ≤ 0x0F0) || decide (n = 0x180 + 28)

/-- Step 4 of R49 on the word: the operand code at fault, if any. DESIGN CHOICE (log 23): of several the destination's comes first, then A, B and C;
a condition that is of no one operand names source B's code. -/
def Shape.illegalOperand (sh : Shape) (f : Fields) : Option (BitVec 9) :=
  if f.immSel && !sh.immB then some f.srcB
  else if !sh.dst.dstLegal f.dst then some f.dst
  else if !sh.a.srcLegal (sh.srOk && sh.srA) f.srcA then some f.srcA
  else if !f.immSel && !sh.b.srcLegal sh.srOk f.srcB then some f.srcB
  else if !sh.c.srcLegal sh.srOk f.srcC then some f.srcC
  else if sh.badOperand then some f.srcB
  else none

/-- The vector registers an operand names. -/
def Role.regs (r : Role) (code : BitVec 9) : List Nat :=
  let n := code.toNat
  match r with
  | .v | .vOrSr => if n < 240 then [n] else []
  | .pair => if n < 240 then [n, n + 1] else []
  | .run k => (List.range k).map (fun i => n + i)
  | _ => []

/-- The predicate an operand names. -/
def Role.preds (r : Role) (code : BitVec 9) : List Nat := match r with | .pred | .evenPred => [predOf code] | _ => []

/-- Vector registers an instruction reads. -/
def Shape.readsV (sh : Shape) (f : Fields) : List Nat :=
  sh.a.regs f.srcA ++ (if f.immSel then [] else sh.b.regs f.srcB) ++ sh.c.regs f.srcC ++ (if sh.readsDst then sh.dst.regs f.dst else [])

/-- Vector registers an instruction writes. -/
def Shape.writesV (sh : Shape) (f : Fields) : List Nat := sh.dst.regs f.dst

/-- Predicates an instruction reads, its guard included. -/
def Shape.readsP (sh : Shape) (f : Fields) : List Nat :=
  (if f.guardOn then [f.guardPred.toNat] else []) ++ sh.a.preds f.srcA ++ sh.b.preds f.srcB ++ sh.c.preds f.srcC ++ sh.predsIn

/-- Predicates an instruction writes. -/
def Shape.writesP (sh : Shape) (f : Fields) : List Nat := sh.dst.preds f.dst ++ sh.predsOut

/-- A scalar operand's number, if the code names one (R34). -/
def scalarOf (code : BitVec 9) : Option Nat :=
  if 0x140 ≤ code.toNat ∧ code.toNat < 0x180 then some (code.toNat - 0x140) else none

/-- The scalars a source operand reads. -/
def Role.scalars (r : Role) (code : BitVec 9) : List Nat :=
  match r, scalarOf code with
  | .v, some n => [n]
  | .pair, some n => [n, n + 1]
  | _, _ => []

/-- Scalars an instruction reads, counted as registers by R45. -/
def Shape.readsS (sh : Shape) (f : Fields) : List Nat :=
  sh.a.scalars f.srcA ++ (if f.immSel then [] else sh.b.scalars f.srcB) ++ sh.c.scalars f.srcC

/-! The program counter (R24, R25). -/

/-- The slot number of a PC. -/
def pcSlot (pc : BitVec 64) : Nat := pc.toNat % 8

/-- The line address of a PC as a number below 2^57. -/
def pcLine (pc : BitVec 64) : Nat := pc.toNat % 2 ^ 57 / 64 * 64

/-- The PC of a line and a slot, its sign bits equal to bit 56 (R24). -/
def pcOf (line slotNo : Nat) : BitVec 64 :=
  let l := line % 2 ^ 57 / 64 * 64
  BitVec.ofNat 64 (l + slotNo + (if l / 2 ^ 56 = 1 then 2 ^ 64 - 2 ^ 57 else 0))

/-- The sequential successor (R25). -/
def seqPc (pc : BitVec 64) : BitVec 64 :=
  if pcSlot pc = 4 then pcOf (pcLine pc + 64) 0 else pcOf (pcLine pc) (pcSlot pc + 1)

/-- `i` sequential steps from a PC (R75). -/
def slotsAfter (pc : BitVec 64) (i : Nat) : BitVec 64 :=
  let k := pcSlot pc + i
  pcOf (pcLine pc + k / 5 * 64) (k % 5)

/-- The target of an immediate in `LINE` form (R75). -/
def immTarget (pc : BitVec 64) (imm : Word) : BitVec 64 :=
  pcOf (wrapOf 57 ((pcLine pc : Int) + signedOf 29 (imm.toNat / 8) * 64)) (imm.toNat % 8)

/-- R24: the sign bits equal bit 56, bits [5:3] are zero, the slot is 0 to 4. -/
def pcLegal (pc : BitVec 64) : Bool := decide (pc = pcOf (pcLine pc) (pcSlot pc)) && decide (pcSlot pc ≤ 4)

/-! What an issuing batch is (R66). -/

/-- The batch an instruction runs for: its core, warp slot, workgroup and launch, its fibres in ascending lane order, their PC, the
instruction word, the `ORD` prefix, and the clocks. -/
structure Ctx where
  core : Nat
  slot : Nat
  wg : Workgroup
  launch : Launch
  kernel : Kernel
  hwarp : Nat
  lanes : List Fibre
  pc : BitVec 64
  word : BitVec 96
  f : Fields
  ord : Option (Nat × Nat)
  tide : BitVec 64
  cyc : BitVec 64
  deriving DecidableEq, Repr

/-- The home lane of a fibre (R63). -/
def Fibre.lane (x : Fibre) : Nat := x.index % 32
/-- The home warp of a fibre (R63). -/
def Fibre.hwarp (x : Fibre) : Nat := x.index / 32

/-- A register as the issuing instruction sees it: the older value where R43 shows it. -/
def Fibre.reg (x : Fibre) (n : Nat) : Word :=
  match x.early.find? (fun e => decide (e.target = n) && e.useOld) with
  | some e => e.old
  | none => Sparse.get 0 x.regs n

/-- A predicate as the issuing instruction sees it. -/
def Fibre.pred (x : Fibre) (n : Nat) : Bool :=
  match x.early.find? (fun e => decide (e.target = 256 + n) && e.useOld) with
  | some e => decide (e.old ≠ 0)
  | none => x.preds.getLsbD n

/-- The guard of R31. -/
def passes (f : Fields) (x : Fibre) : Bool := !f.guardOn || (x.pred f.guardPred.toNat != f.guardNeg)

/-- Header bit 0: split-group execution (R51, R178). -/
def Ctx.compat16 (c : Ctx) : Bool := c.kernel.header.getLsbD 0

/-- The partition width of a home warp (R160). -/
def partWidth (compat : Bool) (w : Workgroup) (hw : Nat) : Nat := if compat then 16 else Sparse.get 32 w.part hw

/-- The number of the issuer of counters and engine streams: the home warp, or under compat16 its half (R306, R336). -/
def issuerOf (compat : Bool) (index : Nat) : Nat := if compat then index / 16 else index / 32

/-- Lanes that pass the guard. -/
def Ctx.passing (c : Ctx) : List Fibre := c.lanes.filter (passes c.f)

/-- The lane mask of fibres. -/
def laneMask (l : List Fibre) : BitVec 32 := BitVec.ofNat 32 (l.foldl (fun m x => m ||| 2 ^ x.lane) 0)

/-- The special registers (R109), each half of a 64-bit one alone. DESIGN CHOICE (log 22): the coordinates of a spawned fibre, whose index
may reach X × Y × Z or more, are R64's formula turned round on that index too, so that its z may exceed Z - 1. -/
def srWord (c : Ctx) (x : Fibre) (n : Nat) : Word :=
  let w := c.wg
  let k := c.kernel
  let nat (v : Nat) : Word := BitVec.ofNat 32 v
  match n with
  | 0 => nat x.lane
  | 1 => nat x.index
  | 2 => nat x.hwarp
  | 3 => nat (x.index % k.dimX)
  | 4 => nat (x.index / k.dimX % k.dimY)
  | 5 => nat (x.index / (k.dimX * k.dimY))
  | 6 => nat w.wgx
  | 7 => nat w.wgy
  | 8 => nat w.wgz
  | 9 => nat c.launch.gridX
  | 10 => nat c.launch.gridY
  | 11 => nat c.launch.gridZ
  | 12 => nat (k.dimX * k.dimY * k.dimZ)
  | 13 => nat w.wgid
  | 14 => nat c.core
  | 15 => nat (c.core / 192)
  | 16 => nat (c.core / 48 % 4)
  | 17 => nat (c.core / 4 % 12)
  | 18 => nat (c.core % 4)
  | 19 => nat x.allot
  | 20 => nat w.args
  | 21 => nat (w.args / 2 ^ 32)
  | 22 => nat c.launch.lseq
  | 23 => nat (c.launch.lseq / 2 ^ 32)
  | 24 => loWord c.cyc
  | 25 => hiWord c.cyc
  | 26 => laneMask c.lanes
  | 27 => nat (partWidth c.compat16 w c.hwarp)
  | 28 => w.fflags.zeroExtend 32
  | 29 => c.launch.traps.zeroExtend 32
  | 30 => nat k.cap
  | 31 => Sparse.get 0 w.mstat (issuerOf c.compat16 x.index)
  | _ => 0

/-- A 32-bit source, with what a constant reads as (R34, R37). -/
def srcWith (c : Ctx) (x : Fibre) (konst : Nat → Word) (code : BitVec 9) : Word :=
  let n := code.toNat
  if n < 0x0F0 then x.reg n
  else if n < 0x100 then 0
  else if n < 0x140 then konst (n - 0x100)
  else if n < 0x180 then Sparse.get 0 c.wg.scalars (c.hwarp * 64 + (n - 0x140))
  else srWord c x (n - 0x180)

/-- A 32-bit source in integer context (R37). -/
def src32 (c : Ctx) (x : Fibre) (code : BitVec 9) : Word := srcWith c x (fun n => BitVec.ofNat 32 (constWord n)) code

/-- A 64-bit source, with what a constant reads as (R35, R37). -/
def src64With (c : Ctx) (x : Fibre) (konst : Nat → DWord) (code : BitVec 9) : DWord :=
  let n := code.toNat
  if 0x100 ≤ n ∧ n < 0x140 then konst (n - 0x100)
  else if n = 0x0F0 then 0
  else joinWords (src32 c x code) (src32 c x (code + 1))

/-- A 64-bit source in integer context: constants c0 to c39 sign-extend, the others zero-extend (R37). -/
def src64 (c : Ctx) (x : Fibre) (code : BitVec 9) : DWord :=
  src64With c x (fun n => if n < 40 then BitVec.ofInt 64 ((n : Int) - 8) else BitVec.ofNat 64 (constWord n)) code

/-- A constant as a code of a format (R37). -/
def constCode (fmt : Fmt) (n : Nat) : Nat := (roundTo fmt .rn false (constX n)).1

/-- An FP32 source. -/
def srcF32 (c : Ctx) (x : Fibre) (code : BitVec 9) : Word := srcWith c x (fun n => BitVec.ofNat 32 (constCode .f32 n)) code

/-- A packed source: a constant goes to both halves (R37). -/
def srcPacked (fmt : Fmt) (c : Ctx) (x : Fibre) (code : BitVec 9) : Word :=
  srcWith c x (fun n => BitVec.ofNat 32 (constCode fmt n * (2 ^ 16 + 1))) code

/-- An FP64 source. -/
def srcF64 (c : Ctx) (x : Fibre) (code : BitVec 9) : DWord := src64With c x (fun n => BitVec.ofNat 64 (constCode .f64 n)) code

/-- Source B with its immediate form, by context (R32). -/
def srcB32 (c : Ctx) (x : Fibre) : Word := if c.f.immSel then c.f.imm else src32 c x c.f.srcB
def srcB64 (c : Ctx) (x : Fibre) : DWord := if c.f.immSel then c.f.imm.signExtend 64 else src64 c x c.f.srcB
def srcBF32 (c : Ctx) (x : Fibre) : Word := if c.f.immSel then c.f.imm else srcF32 c x c.f.srcB
def srcBPacked (fmt : Fmt) (c : Ctx) (x : Fibre) : Word := if c.f.immSel then c.f.imm else srcPacked fmt c x c.f.srcB
def srcBF64 (c : Ctx) (x : Fibre) : DWord :=
  if c.f.immSel then BitVec.ofNat 64 (roundTo .f64 .rn false (Fmt.f32.value c.f.imm.toNat)).1 else srcF64 c x c.f.srcB

/-- The registers of a run (R132). -/
def srcRun (x : Fibre) (code : BitVec 9) (k : Nat) : List Word := (List.range k).map (fun i => x.reg (code.toNat + i))

/-- A source value in a format code: 64-bit formats are pairs (R125), and constants are read in integer context (R91, R124). -/
def srcFmt (fmt : Fmt) (c : Ctx) (x : Fibre) (code : BitVec 9) : Nat :=
  match fmt with
  | .f64 => (src64 c x code).toNat
  | _ => (src32 c x code).toNat

/-! Writing. -/

/-- A register written, no longer poisoned. -/
def Fibre.setReg (x : Fibre) (n : Nat) (v : Word) : Fibre :=
  { x with regs := Sparse.set 0 x.regs n v, poison := x.poison.filter (fun k => k ≠ n) }

/-- A register written and marked poisoned or not (R204). -/
def Fibre.setRegP (x : Fibre) (n : Nat) (v : Word) (bad : Bool) : Fibre :=
  if bad then { x.setReg n v with poison := insertNat n x.poison } else x.setReg n v

/-- A register just written marked as computed from poisoned data. -/
def Fibre.tainted (x : Fibre) (code : BitVec 9) (i : Nat) (bad : Bool) : Fibre :=
  if bad ∧ code.toNat < 240 then { x with poison := insertNat (code.toNat + i) x.poison } else x

/-- A 32-bit destination: `vz` discards (R34). -/
def Fibre.set32 (x : Fibre) (code : BitVec 9) (v : Word) : Fibre := if code.toNat < 240 then x.setReg code.toNat v else x

/-- A 64-bit destination (R35). -/
def Fibre.set64 (x : Fibre) (code : BitVec 9) (v : DWord) : Fibre :=
  if code.toNat < 240 then (x.setReg code.toNat (loWord v)).setReg (code.toNat + 1) (hiWord v) else x

/-- A destination in a format code. -/
def Fibre.setFmt (x : Fibre) (fmt : Fmt) (code : BitVec 9) (v : Nat) : Fibre :=
  match fmt with
  | .f64 => x.set64 code (BitVec.ofNat 64 v)
  | _ => x.set32 code (BitVec.ofNat 32 v)

/-- A run of destination registers. -/
def Fibre.setRun (x : Fibre) (n : Nat) : List Word → Fibre
  | [] => x
  | v :: t => (x.setReg n v).setRun (n + 1) t

/-- A predicate written. -/
def Fibre.setPred (x : Fibre) (n : Nat) (b : Bool) : Fibre :=
  { x with preds := if b then x.preds ||| BitVec.ofNat 16 (2 ^ n) else x.preds &&& ~~~BitVec.ofNat 16 (2 ^ n) }

/-- The fibre stands at the sequential successor of its PC. -/
def Fibre.next (x : Fibre) : Fibre := { x with pc := seqPc x.pc }

/-- The fibre stands at a PC. -/
def Fibre.goto (x : Fibre) (pc : BitVec 64) : Fibre := { x with pc := pc }

/-! Faults of the word and of the operands (R49 steps 4 to 6 and poison). -/

/-- Bits [95:32] of the instruction (R388). -/
def Ctx.wordHigh (c : Ctx) : Nat := c.word.toNat / 2 ^ 32

/-- A layout 0 fault (R387, R388) of the batch's instruction, naming a fibre. -/
def Ctx.fault (c : Ctx) (cls : Nat) (fibre : Nat) (v0 : Nat := 0) (v1 : Nat := 0) (mask : BitVec 32 := 0) (cause : Nat := 0)
    (flags : BitVec 5 := 0) : FaultInfo :=
  { cls := cls, cause := cause, pc := c.pc, fibre := fibre, flags := flags, prefixed := c.ord.isSome,
    body := v0 % 2 ^ 64 + v1 % 2 ^ 32 * 2 ^ 64 + mask.toNat * 2 ^ 96 }

/-- The lowest fibre of a list, 0 for none. -/
def lowestFibre (l : List Fibre) : Nat := match l with | [] => 0 | x :: _ => x.index

/-- An illegal-operand fault at step 7, naming a lane and the operand code (R388). -/
def Ctx.illegal (c : Ctx) (x : Fibre) (code : BitVec 9) (bad : List Fibre := []) : FaultInfo :=
  c.fault 5 x.index c.wordHigh code.toNat (laneMask (if bad.isEmpty then [x] else bad))

/-- Registers a fibre may name (R38, R283). -/
def Fibre.window (x : Fibre) : Nat := min x.allot x.growFrom

/-- Step 5 of R49: the lowest lane that names a register at or above its allotment. DESIGN CHOICE (log 23): of several registers the record has the
first of A, B, C and the destination. -/
def windowFault (sh : Shape) (c : Ctx) : Option FaultInfo :=
  let named := sh.readsV c.f ++ sh.writesV c.f
  let bad := c.lanes.filter (fun x => named.any (fun n => decide (n ≥ x.window)))
  match bad with
  | [] => none
  | x :: _ => some (c.fault 6 x.index c.wordHigh ((named.find? (fun n => decide (n ≥ x.window))).getD 0) (laneMask bad))

/-- The registers and predicates an operand names, predicates from 256 up, each with the operand code that names it. -/
def Role.targets (r : Role) (code : BitVec 9) : List (Nat × Nat) :=
  (r.regs code).map (fun n => (n, code.toNat)) ++ (r.preds code).map (fun p => (256 + p, code.toNat))

/-- Everything an instruction names, in operand order, with the operand code naming it; a predicate that stands outside the operand
fields (a guard, a modifier or mask field) has its number for a code (DESIGN CHOICE, log 22). -/
def Shape.targets (sh : Shape) (f : Fields) : List (Nat × Nat) :=
  sh.a.targets f.srcA ++ (if f.immSel then [] else sh.b.targets f.srcB) ++ sh.c.targets f.srcC ++ sh.dst.targets f.dst ++
    ((if f.guardOn then [f.guardPred.toNat] else []) ++ sh.predsIn ++ sh.predsOut).map (fun p => (256 + p, p))

/-- Step 6 of R49: with header bit 1 set, the lowest lane that reads or writes a fixed-latency result before its sum (R44). DESIGN CHOICE (log 23): of
several operands the record has the first of A, B, C and the destination. -/
def stallFault (sh : Shape) (c : Ctx) : Option FaultInfo :=
  if !c.kernel.header.getLsbD 1 then none
  else
    let early (x : Fibre) (t : Nat) : Bool := x.early.any (fun e => decide (e.target = t) && decide (e.sum < e.need))
    let at? (x : Fibre) : Option (Nat × Nat) := (sh.targets c.f).find? (fun t => early x t.1)
    match c.lanes.filter (fun x => (at? x).isSome) with
    | [] => none
    | x :: t => some (c.fault 7 x.index c.wordHigh ((at? x).elim 0 (fun n => n.2)) (laneMask (x :: t)))

/-- The key of a special register's poison mark: partition and `sr.mstat` are kept per home warp (R109). -/
def srKey (hw n : Nat) : Nat := if n = 27 ∨ n = 31 then hw * 32 + n else n

/-- The special registers a source operand reads. -/
def Role.specials (r : Role) (code : BitVec 9) : List Nat :=
  match r, decide (0x180 ≤ code.toNat) with
  | .v, true => [code.toNat - 0x180]
  | .pair, true => [code.toNat - 0x180, code.toNat - 0x17F]
  | _, _ => []

/-- A source operand holds poisoned data in a fibre (R93). -/
def Role.poisoned (r : Role) (c : Ctx) (x : Fibre) (code : BitVec 9) : Bool :=
  (r.regs code).any (fun n => x.poison.contains n) || (r.scalars code).any (fun n => c.wg.scalarPoison.contains (c.hwarp * 64 + n)) ||
    (r.specials code).any (fun n => c.wg.srPoison.contains (srKey c.hwarp n))

/-- The sources of a fibre whose poison is a fault; `lead` says that it is the lowest passing one. -/
def Shape.poisonOps (sh : Shape) (f : Fields) (lead : Bool) : List (Role × BitVec 9) :=
  let a := (sh.a, f.srcA)
  let b := (if f.immSel then Role.no else sh.b, f.srcB)
  let every := [a, b, (sh.c, f.srcC)] ++ (if sh.readsDst then [(sh.dst, f.dst)] else [])
  match sh.poison with
  | .none => []
  | .sourceA => [a]
  | .all => every
  | .lead => if lead then every else []
  | .leadA => if lead then every else [a]
  | .leadB => if lead then every else [b]

/-- The poison fault of the sources (R93): an address of all ones and the operand code (R388), of several the first of A, B, C. -/
def poisonFault (sh : Shape) (c : Ctx) : Option FaultInfo :=
  let lowest := lowestFibre c.passing
  let badOf (x : Fibre) : Option (BitVec 9) :=
    ((sh.poisonOps c.f (x.index = lowest)).find? (fun e => e.1.poisoned c x e.2)).map (fun e => e.2)
  let bad := c.passing.filter (fun x => (badOf x).isSome)
  match bad with
  | [] => none
  | x :: _ => some (c.fault 11 x.index (2 ^ 64 - 1) ((badOf x).getD 0).toNat (laneMask bad))

/-- The lane mask test of R162 at step 4: every active lane is in the member mask (under compat16 bit i names lane i of each half). DESIGN CHOICE
(log 23): the mask is no operand, and the record has operand code 0. -/
def memberFault (sh : Shape) (c : Ctx) : Option FaultInfo :=
  if !sh.members then none
  else
    let inMask (x : Fibre) : Bool := c.f.imm.getLsbD (if c.compat16 then x.lane % 16 else x.lane)
    match c.lanes.filter (fun x => !inMask x) with
    | [] => none
    | x :: t => some (c.illegal x 0 (x :: t))

/-- Steps 2, 4, 5 and 6 of R49 and the poison test, in that order. DESIGN CHOICE (log 23): of the faults of step 7, the poison of a source in any lane
comes before the instruction's others. -/
def precheck (sh : Shape) (c : Ctx) : Option FaultInfo :=
  if sh.illegalOpcode c.f then some (c.fault 1 (lowestFibre c.lanes) c.wordHigh c.f.imm.toNat (laneMask c.lanes))
  else match sh.illegalOperand c.f with
    | some code => some (c.fault 5 (lowestFibre c.lanes) c.wordHigh code.toNat (laneMask c.lanes))
    | none =>
      (memberFault sh c).orElse (fun _ => (windowFault sh c).orElse (fun _ => (stallFault sh c).orElse (fun _ => poisonFault sh c)))

end Sys2Proof.Machine
end

