-- ==== Sys2Proof/Machine/Base.lean ====
section
/-! DEFINITION. Reading and updating the parts of the state: workgroups, cores, launches, the black-box record, free draws, waking
fibres (R260, R264) and firing watched lines (R266, R280, R281). -/

namespace Sys2Proof.Machine

/-- A value drawn from the free sequence, and the state that has drawn it (log 2). -/
def State.drawn (s : State) : State := { s with free := s.free + 1 }

def State.core (s : State) (k : Nat) : Core := Sparse.get {} s.cores k
def State.updCore (s : State) (k : Nat) (g : Core → Core) : State := { s with cores := Sparse.set {} s.cores k (g (s.core k)) }
def State.wg? (s : State) (key : Nat) : Option Workgroup := s.wgs.find? (fun w => w.key = key)
def State.updWg (s : State) (key : Nat) (g : Workgroup → Workgroup) : State :=
  { s with wgs := s.wgs.map (fun w => if w.key = key then g w else w) }
def State.launch? (s : State) (l : Nat) : Option Launch := s.launches.find? (fun x => x.lseq = l)
def State.updLaunch (s : State) (l : Nat) (g : Launch → Launch) : State :=
  { s with launches := s.launches.map (fun x => if x.lseq = l then g x else x) }
def Workgroup.fibre? (w : Workgroup) (i : Nat) : Option Fibre := w.fibres.find? (fun x => x.index = i)
def Workgroup.updFibre (w : Workgroup) (i : Nat) (g : Fibre → Fibre) : Workgroup :=
  { w with fibres := w.fibres.map (fun x => if x.index = i then g x else x) }
def State.say (s : State) (o : Output) : State := { s with outputs := s.outputs ++ [o] }

/-- The launch whose barrier table, store areas and completion a launch uses: its own, or its owner's for a job (R457). -/
def Launch.areaOwner (l : Launch) : Nat := l.owner.getD l.lseq

/-- The kernel of a workgroup's launch; the empty one where it has none. -/
def State.kernelOf (s : State) (w : Workgroup) : Kernel := ((s.launch? w.launch).bind (fun l => l.kernel)).getD {}

/-- The scratchpad size of a kernel in bytes (R51, R182). -/
def Kernel.scratchBytes (k : Kernel) : Nat := bitsOf k.header.toNat 16 8 * 1024

/-- The core's tile slot that is a workgroup's slot `n` (R324). -/
def Workgroup.slotAt (w : Workgroup) (n : Nat) : Nat := w.slots.getD n 0

/-- The workgroup stands on a core and issues: what is queued in a parked or saved one enters its queue at the resumption (R260, R384). -/
def Workgroup.queues (w : Workgroup) : Bool := w.parked.isNone && decide (w.preempt ≠ .saved)

/-- Header bit 0 of the workgroup's kernel (R51). -/
def State.compat16 (s : State) (w : Workgroup) : Bool := (s.kernelOf w).header.getLsbD 0

/-- The die of a core (R11). -/
def dieOf (core : Nat) : Nat := core / 192

/-- A black-box entry written (R403): newest first, 4,096 kept per die; kinds 3, 8, 9 and 10 raise MSI-X vector 2 (R475). Events
outside the cores go to die 0 (log 4). -/
def State.log (s : State) (kind core cls cause wg addr detail : Nat) : State :=
  let die := if core = 0x3FF then 0 else dieOf core
  let e := blackBoxEntry s.tide.toNat kind core cls cause wg addr detail
  let t := { s with
    blackBox := Sparse.set [] s.blackBox die ((e :: Sparse.get [] s.blackBox die).take 4096)
    blackBoxWp := Sparse.set 0 s.blackBoxWp die ((Sparse.get 0 s.blackBoxWp die + 1) % 2 ^ 32) }
  if [3, 8, 9, 10].contains kind then t.say (.msix 2) else t

/-- The record of a loop voided (R266): the count, the current lines and digest, the taint. -/
def Fibre.voidSpin (x : Fibre) : Fibre := { x with spin := { x.spin with count := 0, curLines := [], curDigest := 0, taint := false } }

/-- A fibre enters a waiting state (R261): it is an eviction candidate from now, and its spin record is voided. -/
def Fibre.sleep (x : Fibre) (kind : Wait) (key value dst deadline now : Nat) : Fibre :=
  { x.voidSpin with
    wait := kind, waitKey := key, waitValue := value, waitDst := dst, deadline := deadline, waitSince := now, candidateSince := now }

/-- A fibre holds until a unit answers its instruction, which is no waiting state (R261, R276): its spin record stays (R266). -/
def Fibre.hold (x : Fibre) (key value dst now : Nat) : Fibre :=
  { x with wait := .answer, waitKey := key, waitValue := value, waitDst := dst, waitSince := now }

/-- Fibres of a workgroup woken, in ascending index: a resident one is runnable again, a saved one enters the queue's tail, or waits for the resumption of
its workgroup to do so (R260). -/
def Workgroup.wake (w : Workgroup) (now : Nat) (p : Fibre → Bool) (g : Fibre → Fibre) : Workgroup :=
  let who := w.fibres.filter p
  let one (x : Fibre) : Fibre :=
    { (g x).voidSpin with wait := .run, outsider := false, quiet := none, queuedSince := if x.resident then x.queuedSince else now, yielded := false }
  { w with
    fibres := w.fibres.map (fun x => if p x then one x else x)
    queue := if w.queues then w.queue ++ (who.filter (fun x => !x.resident)).map (fun x => x.index) else w.queue
    lastActive := if who.isEmpty then w.lastActive else now }

/-- A write to a line reaches a named line: of `.G` by physical address, of the scratchpads by core and bank offset, through whichever space
the line was named. -/
def WatchLine.hits (a b : WatchLine) : Bool :=
  if a.space = 0 then decide (b.space = 0) && decide (a.line = b.line)
  else decide (b.space ≠ 0) && decide (a.place = b.place) && decide (a.line = b.line)

/-- Every issued result of a fibre has been written (R384): the value before is seen no more. -/
def Fibre.finish (x : Fibre) : Fibre := { x with early := x.early.map (fun e => { e with seen := true, useOld := false }) }

/-- The sums of a fibre after an issue that costs `cost` (R40): older results age, new ones of a lane that passed its guard begin. -/
def Fibre.aged (cost : Nat) (new : List (Nat × Nat × Word)) (x : Fibre) : Fibre :=
  let fresh := new.filter (fun n => decide (cost < n.2.1))
  let kept := (x.early.map (fun e => { e with sum := e.sum + cost })).filter (fun e => decide (e.sum < e.need) && !new.any (fun n => n.1 = e.target))
  { x with early := kept ++ fresh.map (fun n => { target := n.1, sum := cost, need := n.2.1, old := n.2.2 }) }

/-- What a write to a line does to one fibre: fired watches, the end of a spin, a `WAITW` that must read again (R266, R280, R281). -/
def Workgroup.fire (w : Workgroup) (now : Nat) (l : WatchLine) : Workgroup :=
  let hit (x : Fibre) : Fibre :=
    let watched := x.watch.any (fun e => e.1.hits l)
    let y := { x with watch := x.watch.map (fun e => if e.1.hits l then (e.1, true) else e) }
    if decide (x.wait = .waitw) && (watched || x.waitLine.any (fun e => e.hits l)) then { y with waitDue := true } else y
  let w1 := { w with fibres := w.fibres.map hit }
  w1.wake now (fun x => decide (x.wait = .spinning) && x.spin.lines.any (fun e => e.hits l)) id

/-- A bank offset of a core lies in a saved workgroup's own scratchpad, as its fibres name it: it is in no bank now. -/
def State.unbanked (s : State) (w : Workgroup) (k off : Nat) : Bool :=
  decide (w.preempt = .saved) && decide (k = w.core) && decide (w.scratchBase ≤ off) && decide (off < w.scratchBase + (s.kernelOf w).scratchBytes)

/-- A write performed to a line: every fibre that watches it is told; `only` limits it to the fibres on one core (a write in an L1). The scratchpad
of a saved workgroup is in no bank. -/
def State.fire (s : State) (only : Option Nat) (l : WatchLine) : State :=
  { s with wgs := s.wgs.map (fun w =>
      match only with
      | some k => if decide (w.core = k) && decide (w.preempt ≠ .saved) then w.fire s.tide.toNat l else w
      | none => if decide (l.space = 1) && s.unbanked w l.place (64 * l.line) then w else w.fire s.tide.toNat l) }

/-- A packet is staged in the Cove of its die (R414): until the last of its flits has left, and not while only its acknowledgement is awaited. -/
def Packet.staged (links : Sparse Link) (p : Packet) : Bool :=
  !p.awaitAck || links.any (fun k => k.2.queue.any (fun q => match q.2 with | .part order .. => decide (order = p.order) | _ => false))

/-- The die whose engine takes a segment received: that of its packet's chunk id where the header has come, else die 0 (log 18). -/
def Peer.dieOf (q : Peer) (a : Arrived) : Nat :=
  match q.received.find? (fun h => decide (h.offset = 0) && decide (h.seq + a.offset / 8192 = a.seq)) with
  | some h => bitsOf (ofBytes (h.bytes.take 64)) 64 32 % Config.dies
  | none => 0

/-- A chunk is staged in the Cove of a die (R15): a packet there, or a Strand segment of one not yet whole. -/
def State.staged (s : State) (die : Nat) : Bool :=
  s.packets.any (fun p => decide (p.die = die) && p.staged s.links) || s.peers.any (fun e => e.2.received.any (fun a => e.2.dieOf a = die))

/-- Clear bits `a` to `a + n - 1` of a mask. -/
def clearBits (w : Nat) (m : BitVec w) (a n : Nat) : BitVec w := m &&& ~~~(BitVec.ofNat w ((2 ^ n - 1) * 2 ^ a))
def setBits (w : Nat) (m : BitVec w) (a n : Nat) : BitVec w := m ||| BitVec.ofNat w ((2 ^ n - 1) * 2 ^ a)
def anyBits (w : Nat) (m : BitVec w) (a n : Nat) : Bool := decide (m &&& BitVec.ofNat w ((2 ^ n - 1) * 2 ^ a) ≠ 0)

end Sys2Proof.Machine
end

