-- ==== Sys2Proof/Machine/Memory.lean ====
section
/-! DEFINITION. The memory system: page walks and translations (R184 to R195), homes and compression codes (R187, R188, R196 to R200),
the L1 and the RDC (R185, R186, R222, R226 to R228, R245, R247), scratchpads (R181 to R183). Each access is performed whole at one
step; what that narrows is log 10. -/

namespace Sys2Proof.Machine

/-! Physical addresses (R187, R188). -/

def paTier (pa : Nat) : Nat := pa / 2 ^ 50 % 4
def paPackage (pa : Nat) : Nat := pa / 2 ^ 41 % 512
def paOffset (pa : Nat) : Nat := pa % 2 ^ 41

/-- In the HBM of this package (R189). -/
def inHbm (pa : Nat) : Bool :=
  decide (paTier pa = 0) && decide (paPackage pa = Config.package) && decide (paOffset pa < Config.hbmBytes)

/-- Not cause 7 (R187). DESIGN CHOICE (log 4): every package number of the pod is installed, each with the tier-two size of this one's grade. -/
def paInstalled (pa : Nat) : Bool :=
  match paTier pa with
  | 0 => decide (paOffset pa < Config.hbmBytes)
  | 1 => decide (paOffset pa < Config.tierTwoBytes)
  | 2 => true
  | _ => false

/-- The home die of an address within its package (R188). -/
def homeDie (pa : Nat) : Nat :=
  match Config.grade with
  | .g7200 => (bitsOf pa 10 1).xor (bitsOf pa 18 1)
  | _ => (bitsOf pa 10 2).xor (bitsOf pa 18 2)

/-- The home slice (R188). -/
def homeSlice (pa : Nat) : Nat := (bitsOf pa 12 4).xor (bitsOf pa 20 4)

/-- A line homed elsewhere than on a die of this package, so one its RDC may hold (R186). -/
def remoteTo (die pa : Nat) : Bool :=
  decide (paTier pa ≠ 2) && (decide (paPackage pa ≠ Config.package) || decide (homeDie pa ≠ die))

/-! Page tables (R189 to R193). -/

/-- A field of an entry (R190). -/
def pte (e : DWord) (lo n : Nat) : Nat := bitsOf e.toNat lo n

/-- The frame of an entry as a physical address. -/
def pteFrame (e : DWord) : Nat := pte e 12 40 * 4096

/-- Bytes of a page by size code (R190). -/
def pageBytes (size : Nat) : Nat := match size with | 0 => 2 ^ 12 | 1 => 2 ^ 16 | 2 => 2 ^ 21 | _ => 2 ^ 30

/-- A leaf's own conditions of R191, for the table it stands in, its index and its level. -/
def leafFits (mem : Bytes) (table idx level : Nat) (e : DWord) : Bool :=
  let size := pte e 5 2
  let levelOk := match level with | 0 => decide (size ≤ 1) | 1 => decide (size = 2) | 2 => decide (size = 3) | _ => false
  let reservedOk := decide (pte e 11 1 = 0) && decide (pte e 56 8 = 0) && decide (pte e 9 2 ≠ 3) && decide (pte e 52 2 ≠ 3)
  let frameOk :=
    if size = 1 then
      let e0 := mem.dword (table + idx / 16 * 16 * 8)
      decide (pteFrame e0 % 2 ^ 16 = 0) &&
        (List.range 16).all (fun i => decide (mem.dword (table + (idx / 16 * 16 + i) * 8) = e0 + BitVec.ofNat 64 (i * 4096)))
    else decide (pteFrame e % pageBytes size = 0)
  levelOk && reservedOk && frameOk

/-- A walk from a table at level `n - 1` (R189, R191): the leaf, or cause 1 or 5. DESIGN CHOICE (log 24): an entry that reads as poisoned is taken with the
bytes that it has. -/
def walkFrom (mem : Bytes) (va : Nat) : Nat → Nat → Except Nat DWord
  | 0, _ => .error 5
  | level + 1, table =>
    let idx := bitsOf va (12 + 9 * level) 9
    let e := mem.dword (table + 8 * idx)
    if pte e 0 1 = 0 then .error 1
    else if pte e 1 1 = 1 then (if leafFits mem table idx level e then .ok e else .error 5)
    else if pte e 2 10 ≠ 0 ∨ pte e 52 12 ≠ 0 ∨ level = 0 ∨ !inHbm (pteFrame e) then .error 5
    else walkFrom mem va level (pteFrame e)

/-- The walk of an address space (R189): its root must be a physical address in this package's HBM on a 4 KiB boundary (R191). -/
def State.walk (s : State) (space va : Nat) : Except Nat DWord :=
  let root := (Sparse.get 0 s.ptroot space).toNat
  if root % 4096 ≠ 0 ∨ root ≥ 2 ^ 52 ∨ !inHbm root then .error 5 else walkFrom s.mem va 5 root

/-- Translations of a page that the TLBs hold. -/
def State.tlbOf (s : State) (space va : Nat) : List (Nat × Nat × DWord) :=
  s.tlb.filter (fun e => decide (e.1 = space) && decide (e.2.1 / pageBytes (pte e.2.2 5 2) = va / pageBytes (pte e.2.2 5 2)))

/-- The leaf used for an address: a held one other than the walk's where the choice of R193 falls on it, else that of the walk. -/
def State.leafFor (s : State) (space va : Nat) : Except Nat DWord :=
  let now := s.walk space va
  let stale (leaf : DWord) : Bool := match now with | .ok l => leaf ≠ l | .error _ => true
  match ((s.tlbOf space va).zipIdx.find? (fun e => stale e.1.2.2 && Config.usesStaleTlb s.free (va / 64) e.2)) with
  | some ((_, _, leaf), _) => .ok leaf
  | none => now

/-- The physical address that a leaf gives an address. -/
def leafPa (leaf : DWord) (va : Nat) : Nat := let size := pageBytes (pte leaf 5 2); pteFrame leaf / size * size + va % size

/-- A translation noted in the TLBs (R193): only walks that ended in none of the causes of R203, cause 7 among them. -/
def State.noteTlb (s : State) (space va : Nat) : State :=
  match s.walk space va with
  | .error _ => s
  | .ok leaf =>
    if !paInstalled (leafPa leaf va) || (s.tlbOf space va).any (fun e => e.2.2 = leaf) then s else { s with tlb := (space, va, leaf) :: s.tlb }

/-- The attributes of a leaf as accesses read them (R190 to R192). -/
def attrOf (leaf : DWord) (pa : Nat) : Attr :=
  let host := decide (paTier pa = 2)
  let cache := if host then 1 else pte leaf 7 2
  { cache := cache, policy := if cache = 1 ∨ cache = 3 then 2 else pte leaf 9 2,
    comp := if host then 0 else pte leaf 52 2, prio := pte leaf 54 2 }

/-- A canonical address (R184). -/
def canonical (va : Nat) : Bool := decide (va / 2 ^ 56 = 0) || decide (va / 2 ^ 56 = 255)

/-- The translation of a `.G` address: the physical address and the leaf, or a cause (R184, R191, R187). -/
def State.translate (s : State) (space va : Nat) : Except Nat (Nat × DWord) :=
  if !canonical va then .error 6
  else match s.leafFor space va with
    | .error e => .error e
    | .ok leaf =>
      let pa := leafPa leaf va
      if paInstalled pa then .ok (pa, leaf) else .error 7

/-! The home (R185, R188, R196 to R200, R226, R228). -/

/-- Who writes at the home: a core's write-back (recording the core as owner or not, R226), an engine of a core, or another agent. -/
inductive Writer where
  | core (k : Nat) (record : Bool)
  | engine (k : Nat)
  | other
  deriving DecidableEq, Repr

/-- Distinct keys of a list, in ascending order. -/
def distinct (l : List Nat) : List Nat := l.foldl (fun acc a => insertNat a acc) []

/-- A word of the home reads as poisoned: its mark, or a reserved compression code (R196, R484). -/
def State.poisonedAt (s : State) (word : Nat) : Bool :=
  s.memPoison.contains word || decide (Sparse.get 0 s.compCodes (word / 64) ≥ 9)

/-- Bytes at the home, and whether a word of them is poisoned. -/
def State.homeRead (s : State) (pa n : Nat) : List Byte × Bool :=
  (s.mem.read pa n, (distinct ((List.range n).map (fun i => (pa + i) / 4))).any s.poisonedAt)

/-- The code of a block by R197: a page of compressibility `comp`. -/
def blockCode (mem : Bytes) (block comp : Nat) : Nat :=
  if comp = 0 then 0
  else
    let n := ((List.range 64).filter (fun i => mem.word (block * 256 + i * 4) ≠ 0)).length
    if n = 0 then 8 else if comp = 2 ∨ n ≥ 55 then 0 else (8 + 4 * n + 31) / 32

/-- The bytes of a block as its home stores them (R197, R198): raw; a mask of the nonzero words, those words in order, and zeros to the end of the
last sector; or none. -/
def storedBlock (mem : Bytes) (block code : Nat) : List Byte :=
  if code = 0 then mem.read (block * 256) 256
  else if code ≥ 8 then []
  else
    let full := (List.range 64).filter (fun i => mem.word (block * 256 + 4 * i) ≠ 0)
    let body := bytesOf 8 (full.foldl (fun m i => m + 2 ^ i) 0) ++ full.flatMap (fun i => mem.read (block * 256 + 4 * i) 4)
    body ++ List.replicate (32 * code - body.length) 0

/-- `n` words rebuilt from a mask and the nonzero words that follow it (R199). -/
def expandWords : Nat → Nat → List Byte → List Byte
  | 0, _, _ => []
  | n + 1, mask, rest =>
    if mask % 2 = 1 then rest.take 4 ++ expandWords n (mask / 2) (rest.drop 4) else [0, 0, 0, 0] ++ expandWords n (mask / 2) rest

/-- The 256 bytes that the expander makes of a stored block (R199). -/
def expandBlock (code : Nat) (stored : List Byte) : List Byte :=
  if code = 0 then stored
  else if code = 8 then List.replicate 256 0
  else expandWords 64 (ofBytes (stored.take 8)) (stored.drop 8)

/-- Poisoned words of a home line. -/
def State.linePoison (s : State) (line : Nat) : List Nat := (List.range 32).filter (fun w => s.poisonedAt (line * 32 + w))

/-- Words of a home poisoned. -/
def State.poisonWords (words : List Nat) (s : State) : State :=
  { s with memPoison := words.foldl (fun p w => insertNat w p) s.memPoison, l2Poison := s.l2Poison.filter (fun w => !words.contains w) }

/-- Words poisoned in an L2's copy: a mark that goes no further than the copy (R478, R484). -/
def State.poisonL2 (words : List Nat) (s : State) : State :=
  { s with
    memPoison := words.foldl (fun p w => insertNat w p) s.memPoison
    l2Poison := (words.filter (fun w => !s.poisonedAt w)).foldl (fun p w => insertNat w p) s.l2Poison }

/-- The whole words of a line that a byte mask touches. -/
def wordsMask (mask : BitVec 128) : BitVec 128 :=
  (List.range 32).foldl (fun m w => if anyBits 128 mask (4 * w) 4 then setBits 128 m (4 * w) 4 else m) 0

/-! What the L2s and the RDCs hold (R14, R15, R186). -/

/-- Priority after a hint (R201): for a line that the access hits, and for one it allocates. -/
def hintPrio (hint hit : Nat) : Nat := match hint with | 1 => 0 | 2 => 3 | _ => hit

/-- The lines of a list with the one to go left out where `same` names `ways` of them or more: the least recently used of the lowest priority
(R186). The list has the most recently used first. -/
def withoutVictim {α : Type} [DecidableEq α] (same : α → Bool) (prio : α → Nat) (ways : Nat) (l : List α) : List α :=
  let set := l.filter same
  if set.length < ways then l
  else
    let low := set.foldl (fun m x => min m (prio x)) 3
    match (set.filter (fun x => prio x = low)).getLast? with
    | some v => l.erase v
    | none => l

/-- The same until `same` names fewer than `ways`. -/
def withoutVictims {α : Type} [DecidableEq α] (same : α → Bool) (prio : α → Nat) (ways : Nat) (l : List α) : List α :=
  (List.range ((l.filter same).length + 1 - ways)).foldl (fun m _ => withoutVictim same prio ways m) l

/-- The L2 set of a line: its home die, its slice, and the low bits of its number above them (log 10). -/
def l2Set (line : Nat) : Nat × Nat × Nat := (homeDie (line * 128), homeSlice (line * 128), line / 512 % 2048)

/-- The L2s hold a line of host memory dirty. -/
def State.holdsDirty (s : State) (line : Nat) : Bool := s.hostDirty.any (fun e => e.1 = line)

/-- What the L2s hold, changed: a dirty line of host memory that leaves them has gone to the host with its poison (R474), and the marks of any other copy
that leaves go with it. -/
def State.withL2 (s : State) (l2 : List L2Line) : State :=
  let stays (n : Nat) : Bool := l2.any (fun x => x.line = n)
  { s with
    l2 := l2, hostDirty := s.hostDirty.filter (fun e => stays e.1), l2Poison := s.l2Poison.filter (fun w => stays (w / 32))
    memPoison := s.memPoison.filter (fun w => stays (w / 32) || s.holdsDirty (w / 32) || !s.l2Poison.contains w) }

/-- A line of host memory that the L2s held dirty has gone to the host with its bytes and its poison, and is left clean; any line may be taken from the L2
as well (R474). -/
def State.cleanHost (s : State) (line : Nat) (gone : Bool) : State :=
  let t : State :=
    if s.holdsDirty line then { s with hostDirty := s.hostDirty.filter (fun e => e.1 ≠ line), l2Poison := s.l2Poison.filter (fun w => w / 32 ≠ line) } else s
  if gone then t.withL2 (t.l2.filter (fun e => e.line ≠ line)) else t

/-- Lines that share a set of an L2. -/
def l2Same (line : Nat) (e : L2Line) : Bool := decide (l2Set e.line = l2Set line)

/-- A line that its home L2 serves: held from now, the most recently used of its set, with the priority of the hint (R14, R15, R186, R201).
Lines homed on other packages are held there. DESIGN CHOICE (log 10): loads served at the home, stores sent to it and `PRF.L2` make the L2 hold and
touch a line, as do writes to host memory; write-backs, atomics, accesses of engines, fetches and page walks do not. -/
def State.l2Touch (s : State) (line hint prio : Nat) : State :=
  if paTier (line * 128) ≠ 2 && paPackage (line * 128) ≠ Config.package then s
  else match s.l2.find? (fun e => e.line = line) with
    | some e => { s with l2 := { e with prio := hintPrio hint e.prio } :: s.l2.filter (fun x => x.line ≠ line) }
    | none =>
      let ways := 16 - Sparse.get 1 s.coveWays (homeDie (line * 128))
      s.withL2 ({ line := line, prio := hintPrio hint prio } :: withoutVictims (l2Same line) (fun e => e.prio) ways s.l2)

/-- The ways of a die's slices that the Cove locks changed (R15): an ordinary line for which no way is left leaves the L2. -/
def State.setCoveWays (s : State) (die n : Nat) : State :=
  let held := s.l2.filter (fun e => homeDie (e.line * 128) = die)
  ({ s with coveWays := Sparse.set 1 s.coveWays die n, covePending := Sparse.set 0 s.covePending die 0 } : State).withL2
    (held.foldl (fun l e => withoutVictims (l2Same e.line) (fun x => x.prio) (17 - n) l) s.l2)

/-- The lines of an RDC that share a set: sixteen ways, by the low bits of the line number (log 10). -/
def rdcSame (die line : Nat) (r : RdcLine) : Bool := decide (r.die = die) && decide (r.line % 8192 = line % 8192)

/-- Bytes of a mask of an RDC copy replaced by those of the home (R186). -/
def State.rdcFresh (s : State) (mask : BitVec 128) (r : RdcLine) : RdcLine :=
  let bad := s.linePoison r.line
  { r with
    data := ((s.mem.read (r.line * 128) 128).zipIdx).foldl (fun d e => if mask.getLsbD e.2 then Sparse.set 0 d e.2 e.1 else d) r.data
    poison := (List.range 32).foldl (fun p w =>
      if !anyBits 128 mask (4 * w) 4 then p else if bad.contains w then insertNat w p else p.filter (fun x => x ≠ w)) r.poison }

/-- A die's RDC copy refreshed with the words that a read returned, or, where `alloc` says so, the line brought into the RDC (R186, R201).
DESIGN CHOICE (log 24): a copy found so keeps its place in the order of recency. -/
def State.rdcRefresh (s : State) (die line : Nat) (alloc : Bool) (mask : BitVec 128) (hint prio : Nat) : State :=
  if s.rdc.any (fun r => r.die = die && r.line = line) then
    { s with rdc := s.rdc.map (fun r => if r.die = die && r.line = line then { s.rdcFresh (wordsMask mask) r with prio := hintPrio hint r.prio } else r) }
  else if alloc then
    { s with rdc := s.rdcFresh (BitVec.allOnes 128) { die := die, line := line, prio := hintPrio hint prio } ::
        withoutVictims (rdcSame die line) (fun r => r.prio) 16 s.rdc }
  else s

/-- Lines of host memory about to be written by the device: the L2 of their home die holds them dirty, with what the host has of them kept apart
(R192, R474); a line that it allocates takes the priority of the page through which it is written (R186). -/
def State.holdHost (s : State) (cells : List (Nat × Byte)) (prio : Nat) : State :=
  (distinct ((cells.filter (fun e => paTier e.1 = 2)).map (fun e => e.1 / 128))).foldl (fun t n =>
    let u := t.l2Touch n 0 prio
    if u.holdsDirty n then u
    else { u with hostDirty := u.hostDirty ++ [(n, t.mem.read (n * 128) 128, (t.linePoison n).filter (fun w => !t.l2Poison.contains (n * 32 + w)))] }) s

/-- The owned mark of a word taken from a core's L1 (R226 step 3, R228): the word stays valid. -/
def State.revoke (s : State) (k word : Nat) : State :=
  s.updCore k (fun c => { c with l1 := c.l1.map (fun l => if l.line = word / 32 then { l with owned := clearBits 32 l.owned (word % 32) 1 } else l) })

/-- The record of owners after a write of a word at the home, and the revocation it makes. -/
def State.ownWord (s : State) (who : Writer) (word : Nat) : State :=
  let o := Sparse.get 0 s.owners word
  let own (k : Nat) : Bool := decide (o = k + 1)
  let gone : Bool := match who with | .core k _ => decide (o ≠ 0) && !own k | _ => decide (o ≠ 0)
  let t := if gone then s.revoke (o - 1) word else s
  let o' := match who with | .core k r => if r || own k then (if own k || r then k + 1 else 0) else 0 | _ => 0
  { t with owners := Sparse.set 0 t.owners word o' }

/-- Words that cells name, and those of them that the cells cover whole. -/
def wordsIn (cells : List (Nat × Byte)) : List Nat := distinct (cells.map (fun e => e.1 / 4))
def coversWord (cells : List (Nat × Byte)) (w : Nat) : Bool := decide ((cells.filter (fun e => e.1 / 4 = w)).length ≥ 4)

/-- Poison marks after a write of cells: set where the data is bad, gone where a word is written whole (R204). -/
def poisonAfter (marks : List Nat) (cells : List (Nat × Byte)) (bad : Bool) : List Nat :=
  (wordsIn cells).foldl (fun p w => if bad then insertNat w p else if coversWord cells w then p.filter (fun x => x ≠ w) else p) marks

/-- Bytes put into the RDC copy of a die (R186), with their poison. -/
def State.rdcWrite (s : State) (die : Nat) (cells : List (Nat × Byte)) (bad : Bool) : State :=
  { s with rdc := s.rdc.map (fun r =>
      let mine := (cells.filter (fun e => e.1 / 128 = r.line)).map (fun e => (e.1 % 128, e.2))
      if r.die = die && !mine.isEmpty then
        { r with data := mine.foldl (fun d e => Sparse.set 0 d e.1 e.2) r.data, poison := poisonAfter r.poison mine bad }
      else r) }

/-! Requests to other packages (R16, R438). An access to a line homed on another package goes to that package's home through a Colnal port and its
answer comes back through it; `mem` holds such a line as this package last knows the home to have it (log 18). -/

/-- Homed on another package of the pod (R187, R188). -/
def farHome (pa : Nat) : Bool := decide (paTier pa < 2) && decide (paPackage pa ≠ Config.package)

def State.link (s : State) (port : Nat) : Link := Sparse.get {} s.links port
def State.updLink (s : State) (port : Nat) (g : Link → Link) : State := { s with links := Sparse.set {} s.links port (g (s.link port)) }

/-- A flit put at the end of a port's queue, on a virtual channel. -/
def State.queueFlit (s : State) (port channel : Nat) (f : Flit) : State := s.updLink port (fun l => { l with queue := l.queue ++ [(channel, f)] })

/-- A request for a line sent under a new tag, on a channel of the port that takes the line (log 18). -/
def State.sendRequest (s : State) (kind : RequestKind) (line channel : Nat) (f : Nat → Flit) : State :=
  ({ s with nextKey := s.nextKey + 1, requests := s.requests ++ [{ tag := s.nextKey, line := line, kind := kind }] } : State).queueFlit
    (line % 32) channel (f s.nextKey)

/-- A request writes at the home. -/
def RequestKind.writes : RequestKind → Bool
  | .store _ | .atomic .. => true
  | _ => false

/-- Tags of the requests that write and are not yet answered. -/
def State.openStores (s : State) : List Nat := (s.requests.filter (fun r => r.kind.writes)).map (fun r => r.tag)

/-- A request with a tag is not yet answered. -/
def State.asked (s : State) (tag : Nat) : Bool := s.requests.any (fun r => r.tag = tag)

/-- Lines of some that are homed on other packages and have not come for a reader. -/
def State.lacking (s : State) (who : Reader) (lines : List Nat) : List Nat :=
  distinct (lines.filter (fun n => farHome (n * 128) && !s.fetched.contains (who, n)))

/-- A line asked of its home for a reader, unless it is on its way. -/
def State.askLine (who : Reader) (s : State) (line : Nat) : State :=
  if s.requests.any (fun r => decide (r.kind = .read (some who)) && decide (r.line = line)) then s
  else s.sendRequest (.read (some who)) line 0 (fun tag => .load tag (line * 128) 128)

/-- The lines that a reader lacks asked for. -/
def State.askLines (s : State) (who : Reader) (lines : List Nat) : State := (s.lacking who lines).foldl (State.askLine who) s

/-- A line is on its way for a reader. -/
def State.awaitsLine (s : State) (who : Reader) : Bool := s.requests.any (fun r => decide (r.kind = .read (some who)))

/-- Readers that have read or are gone: what has come for them is read no more. -/
def State.readOver (s : State) (gone : Reader → Bool) : State :=
  { s with
    fetched := s.fetched.filter (fun e => !gone e.1)
    requests := s.requests.map (fun r => match r.kind with
      | .read (some who) => if gone who then { r with kind := .read none } else r
      | _ => r) }

/-- Readers of a workgroup that end with its issue: its batches, for what they read before an instruction or a line, and its restores. -/
def Reader.ofWg (key : Nat) : Reader → Bool
  | .batch wg _ | .restore wg _ => decide (wg = key)
  | _ => false

/-- Stores of cells homed on other packages sent to their homes, a request for each line (R185, R192). -/
def State.sendStores (s : State) (comp : Nat) (cells : List (Nat × Byte)) (bad : Bool) : State :=
  let far := cells.filter (fun e => farHome e.1)
  (distinct (far.map (fun e => e.1 / 128))).foldl (fun t n =>
    let mine := far.filter (fun e => e.1 / 128 = n)
    t.sendRequest (.store (mine.map (fun e => e.1))) n 1 (fun tag => .store tag comp mine bad)) s

/-- The versions of lines that a write has left, kept while a launch may fetch them (R29). -/
def State.noteLines (s : State) (cells : List (Nat × Byte)) : State :=
  if s.launches.any (fun l => l.code.isSome && !l.done) then
    { s with lineLog := s.lineLog ++ (distinct (cells.map (fun e => e.1 / 64))).map (fun n => (n, s.mem.read (64 * n) 64)) }
  else s

/-- A write performed at the home: bytes merged by mask, poison of whole words replaced, owners revoked, the writer's die's RDC copy
updated, the block's code recomputed, watchers told. One whose home is on another package is sent there. The priority is that of the page written
through; DESIGN CHOICE (log 10): 1 for an agent that writes through none. -/
def State.homeWrite (s : State) (who : Writer) (comp : Nat) (cells : List (Nat × Byte)) (bad : Bool := false) (prio : Nat := 1) : State :=
  let s1 := (wordsIn cells).foldl (fun t w => t.ownWord who w) (s.holdHost cells prio)
  let mem := cells.foldl (fun m e => Sparse.set 0 m e.1 e.2) s1.mem
  let codes := (distinct (cells.map (fun e => e.1 / 256))).foldl (fun c b => Sparse.set 0 c b (blockCode mem b comp)) s1.compCodes
  let s2 : State := { s1 with
    mem := mem, memPoison := poisonAfter s1.memPoison cells bad, compCodes := codes
    l2Poison := s1.l2Poison.filter (fun w => !(wordsIn cells).contains w) }
  let s3 := match who with
    | .core k _ | .engine k => s2.rdcWrite (dieOf k) cells bad
    | .other => s2
  (((distinct (cells.map (fun e => e.1 / 64))).foldl (fun t l => t.fire none ⟨0, 0, l⟩) s3).noteLines cells).sendStores comp cells bad

/-- Addresses paired with bytes. -/
def cellsOf (a : Nat) : List Byte → List (Nat × Byte)
  | [] => []
  | b :: t => (a, b) :: cellsOf (a + 1) t

/-- Bytes written at their home by an agent that is no core, through a page with attributes. -/
def State.homePut (s : State) (a : Attr) (pa : Nat) (bytes : List Byte) : State := s.homeWrite .other a.comp (cellsOf pa bytes) false a.prio

/-! The L1 (R185, R226 to R228). -/

def State.l1Line? (s : State) (k line : Nat) : Option L1Line := (s.core k).l1.find? (fun l => l.line = line)

/-- A line replaced where it stands. -/
def State.l1Upd (s : State) (k line : Nat) (g : L1Line → L1Line) : State :=
  s.updCore k (fun c => { c with l1 := c.l1.map (fun l => if l.line = line then g l else l) })

/-- A line made the most recently used. -/
def State.l1Touch (s : State) (k line : Nat) : State :=
  s.updCore k (fun c => { c with l1 := c.l1.filter (fun l => l.line = line) ++ c.l1.filter (fun l => l.line ≠ line) })

/-- The bytes of the words that the core owns. -/
def L1Line.ownedMask (l : L1Line) : BitVec 128 := (List.range 32).foldl (fun m w => if l.owned.getLsbD w then setBits 128 m (4 * w) 4 else m) 0

/-- The dirty bytes of a line within a byte mask. -/
def L1Line.dirtyCells (l : L1Line) (mask : BitVec 128) : List (Nat × Byte) :=
  ((List.range 128).filter (fun i => (l.dirty &&& mask).getLsbD i)).map (fun i => (l.line * 128 + i, Sparse.get 0 l.data i))

/-- The aligned 8-byte units of a line that a byte mask touches. -/
def unitsMask (mask : BitVec 128) : BitVec 128 :=
  (List.range 16).foldl (fun m u => if anyBits 128 mask (8 * u) 8 then setBits 128 m (8 * u) 8 else m) 0

/-- Clean bytes of a line from below put where the L1 has no byte, within a mask. The other bytes of an aligned 8-byte unit of which the L1 lacked some
are renewed with them where they are neither dirty nor owned, so that the clean bytes of a unit are of one moment (R206, R230, R248). -/
def L1Line.fill (l : L1Line) (mask : BitVec 128) (data : List Byte) (poison : List Nat) : L1Line :=
  let fresh := mask &&& ~~~l.valid
  let taken := fresh ||| (unitsMask fresh &&& l.valid &&& ~~~l.dirty &&& ~~~l.ownedMask)
  let stale (w : Nat) : Bool := anyBits 128 taken (4 * w) 4 && !anyBits 128 (l.valid &&& ~~~taken) (4 * w) 4
  { l with
    valid := l.valid ||| mask
    data := (data.zipIdx).foldl (fun d e => if taken.getLsbD e.2 then Sparse.set 0 d e.2 e.1 else d) l.data
    poison := poison.foldl (fun p w => if anyBits 128 taken (4 * w) 4 then insertNat w p else p) (l.poison.filter (fun w => !stale w)) }

/-- A byte that an engine's read takes from the line: a dirty or owned one, or one of an aligned 8-byte unit that is there whole (R206, R248). -/
def L1Line.gives (l : L1Line) (o : Nat) : Bool :=
  l.valid.getLsbD o && ((l.dirty ||| l.ownedMask).getLsbD o || decide (setBits 128 0 (o / 8 * 8) 8 &&& ~~~l.valid = 0))

/-- A line after its dirty bytes of a mask have gone home: their words are clean, and by `record` owned (R226 step 2). DESIGN CHOICE (log 18): a word
homed on another package is so marked where it was written whole, since the home does not give the other bytes here. -/
def L1Line.cleaned (l : L1Line) (mask : BitVec 128) (record : Bool) : L1Line :=
  let sent := l.dirty &&& mask
  let words := (List.range 32).filter (fun w => anyBits 128 sent (4 * w) 4 && (!farHome (l.line * 128) || !anyBits 128 (~~~sent) (4 * w) 4))
  { l with
    dirty := l.dirty &&& ~~~mask
    owned := if record then words.foldl (fun m w => setBits 32 m w 1) l.owned else l.owned }

/-- Bytes of a mask that clean words of a line lack. -/
def L1Line.lacks (l : L1Line) (mask : BitVec 128) : BitVec 128 := wordsMask (l.valid &&& mask) &&& ~~~wordsMask l.dirty &&& ~~~l.valid

/-- Clean words of a line that lack bytes completed from the home, so that a clean word is whole (R206, R230; log 10); the die's RDC copy is refreshed
with what the home returns (R186, R223). A word homed on another package keeps the bytes that it has. -/
def State.l1Complete (s : State) (k line : Nat) (mask : BitVec 128) : State :=
  match s.l1Line? k line with
  | none => s
  | some x =>
    if x.lacks mask = 0 || farHome (line * 128) then s
    else (s.l1Upd k line (fun l => l.fill (l.lacks mask) (s.mem.read (line * 128) 128) (s.linePoison line))).rdcRefresh (dieOf k) line false (x.lacks mask) 0 0

/-- The compressibility of the page of a line as the page's entry stands, the one of the line's last store where the page no longer leads to it
(R200). -/
def State.compNow (s : State) (l : L1Line) : Nat :=
  match l.page with
  | none => l.comp
  | some (space, va) => match s.walk space va with
    | .ok leaf =>
      if leafPa leaf va / 128 = l.line then (attrOf leaf (l.line * 128)).comp else l.comp
    | .error _ => l.comp

/-- Dirty bytes of a line within a mask sent home; those of poisoned words are stored back poisoned (R484). -/
def State.flushLine (s : State) (k line : Nat) (mask : BitVec 128) (record : Bool) : State :=
  match s.l1Line? k line with
  | none => s
  | some l =>
    if l.dirty &&& mask = 0 then s
    else
      let t := s.l1Upd k line (fun x => x.cleaned mask record)
      let bad (e : Nat × Byte) : Bool := l.poison.contains (e.1 / 4 % 32)
      let comp := s.compNow l
      let u := t.homeWrite (.core k record) comp ((l.dirtyCells mask).filter (fun e => !bad e))
      (u.homeWrite (.core k record) comp ((l.dirtyCells mask).filter bad) true).l1Complete k line (l.dirty &&& mask)

/-- Every dirty word of a core's L1 sent home (R226 step 2). -/
def State.flushAll (s : State) (k : Nat) (record : Bool) : State :=
  (s.core k).l1.foldl (fun t l => t.flushLine k l.line (BitVec.allOnes 128) record) s

/-- A line leaves the L1: its dirty words go home and its owned marks end (R185, R227). -/
def State.l1Evict (s : State) (k line : Nat) : State :=
  let owned := ((s.l1Line? k line).map (fun l => (List.range 32).filter (fun w => l.owned.getLsbD w))).getD []
  let t := s.flushLine k line (BitVec.allOnes 128) false
  let t1 := owned.foldl (fun u w => if Sparse.get 0 u.owners (line * 32 + w) = k + 1 then { u with owners := Sparse.set 0 u.owners (line * 32 + w) 0 } else u) t
  t1.updCore k (fun c => { c with l1 := c.l1.filter (fun l => l.line ≠ line) })

/-- The line that leaves the set of eight of a line when the set is full: the least recently used of the lowest priority (R185, R186). Sets are by the
low line bits (log 10). -/
def Core.l1Victim (c : Core) (line : Nat) : Option Nat :=
  let set := c.l1.filter (fun l => l.line % 64 = line % 64)
  let low := set.foldl (fun m l => min m l.prio) 3
  if set.length < 8 then none else (set.filter (fun l => l.prio = low)).getLast?.map (fun v => v.line)

/-- A line present in the L1, allocated without fetching if it was absent, in place of its set's victim (R185, R186). -/
def State.l1Alloc (s : State) (k line prio : Nat) (a : Attr) : State :=
  match s.l1Line? k line with
  | some _ => s.l1Touch k line
  | none =>
    let s1 := match (s.core k).l1Victim line with
      | some v => s.l1Evict k v
      | none => s
    s1.updCore k (fun c => { c with l1 := { line := line, prio := prio, comp := a.comp, page := a.page } :: c.l1 })

/-- Words of a line invalidated in an L1: their dirty bytes are dropped, their marks end. -/
def State.l1Drop (s : State) (k line : Nat) (mask : BitVec 128) : State :=
  let words := (List.range 32).filter (fun w => anyBits 128 mask (4 * w) 4)
  let whole := words.foldl (fun m w => setBits 128 m (4 * w) 4) 0
  let t := s.l1Upd k line (fun l => { l with
    valid := l.valid &&& ~~~whole, dirty := l.dirty &&& ~~~whole,
    owned := words.foldl (fun m w => clearBits 32 m w 1) l.owned,
    data := Sparse.keep (fun i => !whole.getLsbD i) l.data, poison := l.poison.filter (fun w => !words.contains w) })
  { t with owners := words.foldl (fun o w => if Sparse.get 0 o (line * 32 + w) = k + 1 then Sparse.set 0 o (line * 32 + w) 0 else o) t.owners }

/-- The line as a core's die serves it for the words of a mask, from its RDC or from the home (R186, R192, R199, R201). -/
def State.serve (s : State) (k : Nat) (a : Attr) (useRdc : Bool) (hint line : Nat) (mask : BitVec 128) : (List Byte × List Nat) × State :=
  let die := dieOf k
  let home := (s.mem.read (line * 128) 128, s.linePoison line)
  let s0 := if a.cache = 3 then s else s.l2Touch line hint a.prio
  if !remoteTo die (line * 128) then (home, s0)
  else if useRdc then
    match s.rdc.find? (fun r => r.die = die && r.line = line) with
    | some r => ((Bytes.read r.data 0 128, r.poison), { s with rdc := { r with prio := hintPrio hint r.prio } :: s.rdc.filter (fun x => x ≠ r) })
    | none => (home, s0.rdcRefresh die line true mask hint a.prio)
  else (home, s0.rdcRefresh die line false mask hint a.prio)

/-- The mask of `n` bytes from an address within its line. -/
def lineMask (pa n : Nat) : BitVec 128 := setBits 128 0 (pa % 128) n

/-- The 32-byte sectors, or for a compressed block the whole line, that a read of `n` bytes brings (R185, R199). -/
def State.fetchMask (s : State) (pa n : Nat) : BitVec 128 :=
  let code := Sparse.get 0 s.compCodes (pa / 256)
  if code ≠ 0 then BitVec.allOnes 128
  else setBits 128 0 (pa % 128 / 32 * 32) ((pa % 128 + n + 31) / 32 * 32 - pa % 128 / 32 * 32)

/-- The bytes of an L1 line, and whether a word of them is poisoned. -/
def L1Line.bytes (l : L1Line) (pa n : Nat) : List Byte × Bool :=
  (Bytes.read l.data (pa % 128) n, l.poison.any (fun w => anyBits 128 (lineMask pa n) (4 * w) 4))

/-- A line brought into the L1 within a mask (loads and `PRF.L1`). -/
def State.l1Fill (s : State) (k : Nat) (a : Attr) (hint line : Nat) (mask : BitVec 128) : State :=
  let s1 := s.l1Alloc k line (hintPrio hint a.prio) a
  let s2 := s1.l1Upd k line (fun l => { l with prio := hintPrio hint l.prio })
  match s2.l1Line? k line with
  | none => s2
  | some l =>
    if mask &&& ~~~l.valid = 0 then s2
    else
      let ((data, bad), s3) := s2.serve k a (decide (a.cache = 0)) hint line mask
      s3.l1Upd k line (fun x => x.fill mask data bad)

/-- The words of an access served beyond the L1 by a scope (R222): own dirty bytes go home first, the value replaces clean copies. -/
def State.readBeyond (s : State) (k : Nat) (a : Attr) (rdc : Bool) (hint pa n : Nat) : (List Byte × Bool) × State :=
  let line := pa / 128
  let whole := wordsMask (lineMask pa n)
  let words := (List.range 32).filter (fun w => whole.getLsbD (4 * w))
  let s1 := s.flushLine k line whole false
  let ((data, bad), s2) := s1.serve k a rdc hint line whole
  let value := ((data.drop (pa % 128)).take n, bad.any (fun w => words.contains w))
  let s3 := s2.l1Upd k line (fun l =>
    let held := l.valid &&& whole
    let l1 := { l with valid := l.valid &&& ~~~whole, poison := l.poison.filter (fun w => !words.contains w) }
    { l1.fill held data (bad.filter (fun w => words.contains w)) with valid := l.valid })
  (value, s3)

/-- The other line of a compressed block, which the expander brings with the one named (R199). -/
def State.l1Other (s : State) (k : Nat) (a : Attr) (hint pa : Nat) : State :=
  if Sparse.get 0 s.compCodes (pa / 256) ≠ 0 then s.l1Fill k a hint ((pa / 128) ^^^ 1) (BitVec.allOnes 128) else s

/-- A `.G` read of `n` bytes within one line by a core (R192, R199, R201, R222). -/
def State.readG (s : State) (k : Nat) (a : Attr) (hint scope pa n : Nat) : (List Byte × Bool) × State :=
  let line := pa / 128
  if scope ≥ 1 then s.readBeyond k a (decide (scope = 3) && decide (a.cache = 0)) hint pa n
  else if a.cache = 1 ∨ a.cache = 3 then s.readBeyond k a false hint pa n
  else
    let got (t : State) : List Byte × Bool := ((t.l1Line? k line).map (fun l => l.bytes pa n)).getD ([], false)
    match s.l1Line? k line with
    | none =>
      if hint = 3 then
        let ((data, bad), s1) := s.serve k a (decide (a.cache = 0)) hint line (lineMask pa n)
        (((data.drop (pa % 128)).take n, bad.any (fun w => anyBits 128 (lineMask pa n) (4 * w) 4)), s1)
      else
        let s1 := (s.l1Other k a hint pa).l1Fill k a hint line (s.fetchMask pa n)
        (got s1, s1)
    | some l =>
      let s1 := (s.l1Touch k line).l1Upd k line (fun x => { x with prio := if hint = 3 then x.prio else hintPrio hint x.prio })
      if lineMask pa n &&& ~~~l.valid = 0 then (l.bytes pa n, s1)
      else
        let s2 := (if hint = 3 then s1 else s1.l1Other k a hint pa).l1Fill k a (if hint = 3 then 0 else hint) line (s.fetchMask pa n)
        (got s2, s2)

/-- Bytes written into a core's L1 (R185); `dirty` for write-back, clean for bytes that have also gone home. -/
def State.l1Store (s : State) (k : Nat) (a : Attr) (hint pa : Nat) (bytes : List Byte) (dirty : Bool) : State :=
  let line := pa / 128
  let m := lineMask pa bytes.length
  let hit := (s.l1Line? k line).isSome
  let s1 := s.l1Alloc k line (hintPrio hint a.prio) a
  let s2 := s1.l1Upd k line (fun l => { l with
    prio := if hit then hintPrio hint l.prio else l.prio, comp := a.comp, page := a.page
    valid := l.valid ||| m, dirty := if dirty then l.dirty ||| m else l.dirty &&& ~~~m
    data := (cellsOf (pa % 128) bytes).foldl (fun d e => Sparse.set 0 d e.1 e.2) l.data
    poison := poisonAfter l.poison (cellsOf (pa % 128) bytes) false })
  (if dirty then s2 else s2.l1Complete k line m).fire (some k) ⟨0, 0, pa / 64⟩

/-- A write sent to the home at once by a core, its own dirty bytes of the words first (R192, R222). DESIGN CHOICE (log 24): its hint changes
no priority of the die's RDC copy nor of an L1 line that it writes around (R201). -/
def State.writeHome (s : State) (k : Nat) (a : Attr) (hint pa : Nat) (bytes : List Byte) : State :=
  let t := s.flushLine k (pa / 128) (wordsMask (lineMask pa bytes.length)) false
  (if a.cache = 3 then t else t.l2Touch (pa / 128) hint a.prio).homeWrite (.core k false) a.comp (cellsOf pa bytes) false a.prio

/-- A `.G` write within one line by a core (R185, R192, R201, R222). -/
def State.writeG (s : State) (k : Nat) (a : Attr) (hint scope pa : Nat) (bytes : List Byte) : State :=
  let line := pa / 128
  let m := lineMask pa bytes.length
  let around : Bool := decide (a.policy = 2) || decide (scope ≥ 3) || (decide (hint = 3) && (s.l1Line? k line).isNone)
  if around then (s.writeHome k a hint pa bytes).l1Drop k line m
  else if a.policy = 1 || scope = 1 || scope = 2 then (s.writeHome k a hint pa bytes).l1Store k a hint pa bytes false
  else s.l1Store k a hint pa bytes true

/-- A request after an atomic of a core of the die on a word of its line: what comes back fills neither the core's L1 nor the die's RDC, and no load that
follows meets it (R245). -/
def RequestKind.outdated (k : Nat) (r : RequestKind) : RequestKind :=
  match r with
  | .load core l1 rdc => if dieOf core = dieOf k then .load core false false else .load core l1 rdc
  | .prefetch core l1 hint a => if dieOf core = dieOf k then .load core false false else .prefetch core l1 hint a
  | r => r

/-- What an atomic does to the caches before its request (R245), and to what is on its way to them. -/
def State.beforeAtomic (s : State) (k pa n : Nat) : State :=
  let m := lineMask pa n
  let s1 := (s.flushLine k (pa / 128) (wordsMask m) false).l1Drop k (pa / 128) m
  { s1 with
    rdc := s1.rdc.filter (fun r => !(r.die = dieOf k && r.line = pa / 128))
    requests := s1.requests.map (fun r => if r.line = pa / 128 then { r with kind := r.kind.outdated k } else r) }

/-- `n` bytes of an engine's `.G` read through its core's L1, then the RDC or the home (R247). DESIGN CHOICE (log 10): the read fills no cache and
refreshes no RDC copy, on which R247 says nothing. -/
def State.engineRead (s : State) (k : Nat) (a : Attr) (pa : Nat) : Nat → List Byte × Bool
  | 0 => ([], false)
  | n + 1 =>
    let line := pa / 128
    let below : Byte × Bool :=
      match (if a.cache = 0 && remoteTo (dieOf k) pa then s.rdc.find? (fun r => r.die = dieOf k && r.line = line) else none) with
      | some r => (Sparse.get 0 r.data (pa % 128), r.poison.contains (pa % 128 / 4))
      | none => (Sparse.get 0 s.mem pa, s.poisonedAt (pa / 4))
    let here : Byte × Bool :=
      match s.l1Line? k line with
      | some l => if l.gives (pa % 128) then (Sparse.get 0 l.data (pa % 128), l.poison.contains (pa % 128 / 4)) else below
      | none => below
    let rest := s.engineRead k a (pa + 1) n
    (here.1 :: rest.1, here.2 || rest.2)

/-- An engine's `.G` write: own dirty bytes home first, the home written, the words invalidated in the L1 (R247). -/
def State.engineWrite (s : State) (k : Nat) (a : Attr) (pa : Nat) (bytes : List Byte) (bad : Bool := false) : State :=
  let lines := distinct ((cellsOf pa bytes).map (fun e => e.1 / 128))
  let maskOf (line : Nat) : BitVec 128 :=
    (cellsOf pa bytes).foldl (fun m e => if e.1 / 128 = line then setBits 128 m (e.1 % 128 / 4 * 4) 4 else m) 0
  let s1 := lines.foldl (fun t l => t.flushLine k l (maskOf l) false) s
  let s2 := s1.homeWrite (.engine k) a.comp (cellsOf pa bytes) bad a.prio
  lines.foldl (fun t l => t.l1Drop k l (maskOf l)) s2

/-! Boundaries (R226, R227, R229). -/

/-- `PHASE.REL` at a scope: at `.QD` and wider every dirty word goes home and is owned. -/
def State.release (s : State) (k scope : Nat) : State := if scope = 0 then s else s.flushAll k true

/-- The bytes that an acquire leaves valid: those of dirty and of owned words (R227 step 2). -/
def L1Line.mine (l : L1Line) : BitVec 128 := (l.ownedMask ||| wordsMask l.dirty) &&& l.valid

/-- The clean bytes of a line replaced by those that its home has (R222). -/
def L1Line.renewed (l : L1Line) (home : List Byte) (bad : List Nat) : L1Line := { l with valid := l.dirty &&& l.valid }.fill l.valid home bad

/-- A line after an acquire (R227 step 2): words neither dirty nor owned are gone. A dirty word keeps the bytes written and an owned word stays;
their other valid bytes, which may be older than a write that happens before, become those of the home (R223, A2; log 10); of a dirty
word homed on another package, which does not give them here, they are gone. -/
def L1Line.acquired (l : L1Line) (home : List Byte) (bad : List Nat) : L1Line :=
  let mine := if farHome (l.line * 128) then (l.ownedMask ||| l.dirty) &&& l.valid else l.mine
  let kept := { l with
    valid := l.dirty, data := Sparse.keep (fun i => l.dirty.getLsbD i) l.data, poison := l.poison.filter (fun w => anyBits 128 l.dirty (4 * w) 4) }
  kept.fill mine home bad

/-- A request after an acquire of a core at a scope: what comes back for a request sent before it fills no cache that the acquire has cleared, the core's
L1 and from `.DIE` on the die's RDC. A prefetch that may still fill the RDC stays one (R469). -/
def RequestKind.acquired (k scope : Nat) (r : RequestKind) : RequestKind :=
  let rdcGone (core : Nat) : Bool := decide (scope ≥ 3) && decide (dieOf core = dieOf k)
  match r with
  | .load core l1 rdc => .load core (l1 && decide (core ≠ k) && !rdcGone core) (rdc && !rdcGone core)
  | .prefetch core l1 hint a =>
    if rdcGone core || (decide (core = k) && l1 && decide (a.cache ≠ 0)) then .load core false false
    else .prefetch core (l1 && decide (core ≠ k)) hint a
  | r => r

/-- `PHASE.ACQ` at a scope. The bytes that the home gives for kept words also refresh the die's RDC copies (R186, R223). -/
def State.acquire (s : State) (k scope : Nat) : State :=
  let s1 : State := if scope = 0 then s else
    let t := s.updCore k (fun c => { c with
      l1 := (c.l1.map (fun l => l.acquired (s.mem.read (l.line * 128) 128) (s.linePoison l.line))).filter (fun l => l.valid ≠ 0) })
    let u := (s.core k).l1.foldl (fun t l => t.rdcRefresh (dieOf k) l.line false (l.mine &&& ~~~l.dirty) 0 0) t
    { u with requests := u.requests.map (fun r => { r with kind := r.kind.acquired k scope }) }
  if scope ≥ 3 then { s1 with rdc := s1.rdc.filter (fun r => r.die ≠ dieOf k) } else s1

/-! Scratchpads (R181 to R183). -/

/-- Bytes of a core's scratchpad, and whether a word of them is poisoned. -/
def State.scratchRead (s : State) (k off n : Nat) : List Byte × Bool :=
  let c := s.core k
  (Bytes.read c.scratch off n, (distinct ((List.range n).map (fun i => (off + i) / 4))).any (fun w => c.scratchPoison.contains w))

/-- The first poisoned word of `n` scratchpad bytes, as an offset. -/
def State.scratchBad (s : State) (k off n : Nat) : Option Nat :=
  (((List.range n).map (fun i => (off + i) / 4 * 4)).find? (fun a => (s.core k).scratchPoison.contains (a / 4)))

/-- Bytes written to a core's scratchpad; watchers of the line by any core of the cluster are told. -/
def State.scratchWrite (s : State) (k off : Nat) (bytes : List Byte) (bad : Bool := false) : State :=
  let s1 := s.updCore k (fun c => { c with
    scratch := Bytes.write c.scratch off bytes
    scratchPoison := poisonAfter c.scratchPoison (cellsOf off bytes) bad })
  (distinct ((cellsOf off bytes).map (fun e => e.1 / 64))).foldl (fun t l => t.fire none ⟨1, k, l⟩) s1

/-- The core that a `.C` offset names in a core's cluster (R183). -/
def clusterCore (k off : Nat) : Nat := k / 48 * 48 + off / 2 ^ 18

/-- A byte of a core's scratchpad lies in the range of a workgroup of a launch (R183 check 2). -/
def State.inLaunchRange (s : State) (launch k off : Nat) : Bool :=
  s.wgs.any (fun w => decide (w.launch = launch) && decide (w.core = k) && decide (w.preempt ≠ .saved) &&
    decide (w.scratchBase ≤ off) && decide (off < w.scratchBase + (s.kernelOf w).scratchBytes))

/-- A fault of an access: its class and cause. -/
structure AccessFault where
  cls : Nat
  cause : Nat
  deriving DecidableEq, Repr

/-- Steps 1 to 4 of R203 for one address: a space (0 `.G`, 1 `.S`, 2 `.C`), a width, and the permissions needed (bit 0 R, bit 1 W). -/
def State.place (s : State) (core : Nat) (w : Workgroup) (kernel : Kernel) (space : Nat) (ptSpace a width perms : Nat) :
    Except AccessFault Place :=
  match space with
  | 1 =>
    if a ≥ kernel.scratchBytes then .error ⟨10, 8⟩
    else if a % width ≠ 0 then .error ⟨9, 0⟩
    else .ok (.scratch core (w.scratchBase + a) 1)
  | 2 =>
    if a ≥ 0xC00000 then .error ⟨10, 9⟩
    else if !s.inLaunchRange w.launch (clusterCore core a) (a % 2 ^ 18) then .error ⟨10, 9⟩
    else if a % width ≠ 0 then .error ⟨9, 0⟩
    else .ok (.scratch (clusterCore core a) (a % 2 ^ 18) 2)
  | _ =>
    if !canonical a then .error ⟨10, 6⟩
    else if a % width ≠ 0 then .error ⟨9, 0⟩
    else match s.translate ptSpace a with
      | .error c => .error ⟨10, c⟩
      | .ok (pa, leaf) =>
        if perms % 2 = 1 ∧ pte leaf 2 1 = 0 then .error ⟨10, 2⟩
        else if perms / 2 % 2 = 1 ∧ pte leaf 3 1 = 0 then .error ⟨10, 3⟩
        else .ok (.home pa { attrOf leaf pa with page := some (ptSpace, a) })

/-- Read at a place by a core. -/
def State.readAt (s : State) (k hint scope : Nat) (p : Place) (n : Nat) : (List Byte × Bool) × State :=
  match p with
  | .scratch core off _ => (s.scratchRead core off n, s)
  | .home pa a => s.readG k a hint scope pa n

/-- Write at a place by a core. -/
def State.writeAt (s : State) (k hint scope : Nat) (p : Place) (bytes : List Byte) : State :=
  match p with
  | .scratch core off _ => s.scratchWrite core off bytes
  | .home pa a => s.writeG k a hint scope pa bytes

/-- An engine's read at a place. -/
def State.engineReadAt (s : State) (k : Nat) (p : Place) (n : Nat) : List Byte × Bool :=
  match p with
  | .scratch core off _ => s.scratchRead core off n
  | .home pa a => s.engineRead k a pa n

/-- An engine's write at a place. -/
def State.engineWriteAt (s : State) (k : Nat) (p : Place) (bytes : List Byte) (bad : Bool := false) : State :=
  match p with
  | .scratch core off _ => s.scratchWrite core off bytes bad
  | .home pa a => s.engineWrite k a pa bytes bad

/-- The watch line of a place (R265). -/
def Place.watchLine (p : Place) : WatchLine :=
  match p with
  | .scratch core off space => ⟨space, core, off / 64⟩
  | .home pa _ => ⟨0, 0, pa / 64⟩

end Sys2Proof.Machine
end

