-- ==== Sys2Proof/Machine/Objects.lean ====
section
/-! DEFINITION. Barrier objects and the barrier unit of their home (R268 to R271, R275 to R279, R286, R502): what it does with a request, whichever core
of whichever package sends it, and the requests of this package to the units of others (R19). -/

namespace Sys2Proof.Machine

/-- Fibres of a workgroup woken in place (R260). -/
def State.wakeWg (s : State) (key : Nat) (p : Fibre → Bool) (g : Fibre → Fibre) : State :=
  s.updWg key (fun w => w.wake s.tide.toNat p g)

/-! Objects (R268, R269). -/

structure BarObj where
  expected : Nat
  arrived : Nat
  phase : Nat
  scope : Nat
  live : Bool
  valid : Bool
  initCore : Nat
  owner : Nat
  waiters : Nat
  refs : Nat
  deriving DecidableEq, Repr

/-- The physical address of a byte of a launch's barrier table, where its page translates for the barrier unit (R268). -/
def State.tablePa (s : State) (l : Launch) (byte : Nat) : Option TablePlace :=
  match s.translate l.space ((l.barrierBase + byte) % 2 ^ 64) with
  | .ok (pa, leaf) => some { pa := pa, comp := (attrOf leaf pa).comp, prio := (attrOf leaf pa).prio }
  | .error _ => none

/-- Where the entries of a handle's object lie: the header and the eight of a bitmap, none for one that the handle does not name, that is beyond the
table, or whose page does not translate (R268). -/
def State.entriesOf (s : State) (l : Launch) (h : Nat) : List (Option TablePlace) :=
  (List.range 9).map (fun i => if h / 2 ^ 20 = 0 ∧ h + i < l.barrierEntries then s.tablePa l (64 * (h + i)) else none)

/-- The header's place. -/
def headerOf (e : List (Option TablePlace)) : Option TablePlace := (e[0]?).bind id

/-- The entries of an object of a scope are there for the unit: the header, and for `.WG` the bitmap (cause 5 otherwise, R286). -/
def reached (e : List (Option TablePlace)) (scope : Nat) : Bool := (e.take (if scope = 0 then 9 else 1)).all (fun p => p.isSome)

/-- Bytes written from a place of a table on, by the unit at its home. -/
def State.tablePut (s : State) (p : TablePlace) (pa : Nat) (bytes : List Byte) : State := s.homeWrite .other p.comp (cellsOf pa bytes) false p.prio

def State.objRead (s : State) (e : List (Option TablePlace)) : Option BarObj :=
  (headerOf e).map fun p =>
    let w (i : Nat) : Nat := s.mem.readN (p.pa + 4 * i) 4
    { expected := w 0, arrived := w 1, phase := w 2, scope := w 3 % 8, live := (w 3 / 8) % 2 = 1, valid := (w 3 / 16) % 2 = 1,
      initCore := bitsOf (w 3) 8 10, owner := w 4, waiters := w 5, refs := w 6 }

def State.objWrite (s : State) (e : List (Option TablePlace)) (o : BarObj) : State :=
  match headerOf e with
  | none => s
  | some p =>
    let flags := o.scope + (if o.live then 8 else 0) + (if o.valid then 16 else 0) + o.initCore * 256
    s.tablePut p p.pa (bytesOf 4 o.expected ++ bytesOf 4 o.arrived ++ bytesOf 4 o.phase ++ bytesOf 4 flags ++
      bytesOf 4 o.owner ++ bytesOf 4 o.waiters ++ bytesOf 4 o.refs ++ List.replicate 36 0)

/-- The entry of a `.WG` object's bitmap that holds the arrival bit of a fibre, and the address of the bit's byte. -/
def bitPlace (e : List (Option TablePlace)) (i : Nat) : Option (TablePlace × Nat) :=
  ((e[1 + i / 512]?).bind id).map (fun p => (p, p.pa + i % 512 / 8))

def State.bitRead (s : State) (e : List (Option TablePlace)) (i : Nat) : Bool :=
  match bitPlace e i with
  | some (_, pa) => (Sparse.get 0 s.mem pa).toNat.testBit (i % 8)
  | none => false

def State.bitSet (s : State) (e : List (Option TablePlace)) (i : Nat) : State :=
  match bitPlace e i with
  | some (p, pa) => s.tablePut p pa [Sparse.get 0 s.mem pa ||| BitVec.ofNat 8 (2 ^ (i % 8))]
  | none => s

/-- The bitmap of a `.WG` object cleared. -/
def State.bitsClear (s : State) (e : List (Option TablePlace)) : State :=
  (e.drop 1).foldl (fun t p => match p with
    | some p => t.tablePut p p.pa (List.replicate 64 0)
    | none => t) s

/-! Scopes (R19, R220). -/

/-- A core is in a scope relative to another of the same package. -/
def covers (scope a b : Nat) : Bool :=
  match scope with
  | 0 => decide (a = b)
  | 1 => decide (a / 4 = b / 4)
  | 2 => decide (a / 48 = b / 48)
  | 3 => decide (a / 192 = b / 192)
  | _ => true

/-- The package of the core that initialised an object. -/
def State.objPackage (s : State) (e : List (Option TablePlace)) : Nat :=
  match headerOf e with
  | none => Config.package
  | some p => match Sparse.get 0 s.barrierHosts p.pa with | 0 => Config.package | n => n - 1

/-- The asking core is in an object's scope relative to the initiating core; only `.POD` and `.SYS` reach another package. -/
def State.inScope (s : State) (a : BarrierAsk) (e : List (Option TablePlace)) (o : BarObj) : Bool :=
  if a.package = s.objPackage e then covers o.scope a.core o.initCore else decide (o.scope ≥ 5)

/-! Phases (R271, R272). -/

/-- Fibres of this package that wait on an object return with a status; with status 1 each return performs `PHASE.ACQ` (R272, R277), for those of a
saved workgroup when it is restored (R399). -/
def State.wokenHere (s : State) (header : Nat) (status : Bool) (scope : Nat) : State :=
  let who (x : Fibre) : Bool := decide (x.wait = .barrier) && decide (x.waitLine = some ⟨0, 0, header / 64⟩)
  s.wgs.foldl (fun t w =>
    if w.fibres.any who then
      let t1 := t.wakeWg w.key who (fun x => (x.setPred x.waitDst status).next)
      if status && decide (w.preempt ≠ .saved) then t1.acquire w.core scope else t1
    else t) s

/-- Every fibre that waits on an object wakes: those of other packages are told through the port of its line (R19). -/
def State.barWake (s : State) (e : List (Option TablePlace)) (status : Bool) (scope : Nat) : State :=
  match headerOf e with
  | none => s
  | some ⟨pa, _, _⟩ =>
    let far := distinct ((s.farWaiters.filter (fun x => x.1 = pa)).map (fun x => x.2))
    far.foldl (fun t p => t.queueFlit (pa / 128 % 32) 2 (.woken p pa status scope))
      { s.wokenHere pa status scope with farWaiters := s.farWaiters.filter (fun x => x.1 ≠ pa) }

/-- A phase completes (R271). -/
def State.phaseComplete (s : State) (e : List (Option TablePlace)) (o : BarObj) : State :=
  let s1 := s.objWrite e { o with phase := (o.phase + 1) % 2 ^ 32, arrived := 0, waiters := 0 }
  let s2 := if o.scope = 0 then s1.bitsClear e else s1
  s2.barWake e true o.scope

/-- The condition of R271 for the open phase; `living` are the live fibres of the owner workgroup. -/
def State.phaseFull (s : State) (e : List (Option TablePlace)) (o : BarObj) (living : List Nat) : Bool :=
  if o.live then !living.isEmpty && living.all (s.bitRead e) else decide (o.arrived = o.expected)

/-! The unit. -/

/-- Fibres of a request wait on its object from now; those of another package are noted. -/
def State.barWaits (s : State) (a : BarrierAsk) (e : List (Option TablePlace)) (o : BarObj) (n : Nat) : State :=
  if n = 0 then s
  else
    let t := s.objWrite e { o with waiters := o.waiters + n }
    match headerOf e with
    | some p => if a.package = Config.package then t else { t with farWaiters := t.farWaiters ++ [(p.pa, a.package)] }
    | none => t

/-- An arrival (R276, R502): its checks in the order of R286, then the count; each fibre of a `.WG` object sets its bit. -/
def State.unitArrive (s : State) (a : BarrierAsk) (e : List (Option TablePlace)) : BarrierAnswer × State :=
  let all := a.lanes.map (fun x => x.fibre)
  match s.objRead e with
  | none => (.failed 5 all 0 none, s)
  | some o =>
    let scope := some (if o.valid then o.scope else 0)
    if o.valid && !reached e o.scope then (.failed 5 all o.phase none, s)
    else if !o.valid then (.failed 2 all o.phase scope, s)
    else if o.scope = 0 ∧ o.owner ≠ a.wgid then (.failed 3 all o.phase scope, s)
    else if !s.inScope a e o then (.failed 4 all o.phase scope, s)
    else if o.scope + 1 > a.scopeDone then (.again o.scope, s)
    else
      let twice := if o.scope = 0 then all.filter (s.bitRead e) else []
      if !twice.isEmpty then (.failed 6 twice o.phase scope, s)
      else
        let total := a.lanes.foldl (fun n x => n + x.value) 0
        if !o.live && decide (o.arrived + total > o.expected) then (.failed 7 all o.phase scope, s)
        else if a.op = .arriveCount && o.live then (.failed 10 all o.phase scope, s)
        else
          let o1 := { o with arrived := o.arrived + total }
          let s1 := s.objWrite e o1
          let s2 := if o.scope = 0 then all.foldl (fun t i => t.bitSet e i) s1 else s1
          if s2.phaseFull e o1 a.living then (.token o.phase o.scope true, s2.phaseComplete e o1)
          else (.token o.phase o.scope false, if a.op = .arriveWait then s2.barWaits a e o1 all.length else s2)

/-- The initialisation of one lane (R275). -/
def State.unitInit (a : BarrierAsk) (s : State) (x : BarrierLane) : State :=
  match s.objRead x.entries, headerOf x.entries with
  | some o, some ⟨pa, _, _⟩ =>
    let t := s.objWrite x.entries { o with expected := if a.live then 0 else x.value, arrived := 0, scope := a.scope, live := a.live, valid := true,
                                           initCore := a.core, owner := a.wgid }
    let u : State := { t with barrierHosts := Sparse.set 0 t.barrierHosts pa (if a.package = Config.package then 0 else a.package + 1) }
    if a.scope = 0 then u.bitsClear x.entries else u
  | _, _ => s

/-- The invalidation of one lane (R278). -/
def State.unitInvalidate (s : State) (x : BarrierLane) : State :=
  match s.objRead x.entries with
  | none => s
  | some o =>
    if !o.valid then s
    else
      let t := s.objWrite x.entries { o with valid := false, arrived := 0, waiters := 0 }
      (if o.scope = 0 then t.bitsClear x.entries else t).barWake x.entries false 0

/-- Lanes that an initialisation or invalidation fails for: cause 5, then busy (R275, R278, R286). Nothing changes where one does. -/
def State.unitChange (s : State) (a : BarrierAsk) (bad busy : BarrierLane → Bool) (good : BarrierAnswer) (change : State → State) : BarrierAnswer × State :=
  match a.lanes.filter bad, a.lanes.filter busy with
  | x :: t, _ => (.failed 5 ((x :: t).map (fun y => y.fibre)) 0 none, s)
  | [], x :: t => (.failed 1 ((x :: t).map (fun y => y.fibre)) (((s.objRead x.entries).map (fun o => o.phase)).getD 0) none, s)
  | [], [] => (good, change s)

/-- The word of `BQRY` (R279). -/
def queryWord (o : BarObj) (sel : Nat) : Word :=
  BitVec.ofNat 32 (match sel with
    | 0 => o.phase
    | 1 => o.arrived
    | 2 => o.expected
    | _ => (if o.valid then 1 else 0) + (if o.live then 2 else 0) + o.scope * 4 + min o.waiters (2 ^ 24 - 1) * 256)

/-- What the unit of an object's home does with a request, and what it answers (R270, R275 to R279). -/
def State.unit (s : State) (a : BarrierAsk) : BarrierAnswer × State :=
  let e := ((a.lanes.head?).map (fun x => x.entries)).getD []
  let all := a.lanes.map (fun x => x.fibre)
  let initBad (x : BarrierLane) : Bool := !reached x.entries a.scope || (headerOf x.entries).isNone
  let initBusy (x : BarrierLane) : Bool := (s.objRead x.entries).any (fun o => o.waiters > 0 ∨ o.refs > 0)
  let goneBad (x : BarrierLane) : Bool := match s.objRead x.entries with | none => true | some o => o.valid && !reached x.entries o.scope
  let goneBusy (x : BarrierLane) : Bool := (s.objRead x.entries).any (fun o => o.valid && decide (o.refs > 0))
  let widest := a.lanes.foldl (fun m x => max m (((s.objRead x.entries).map (fun o => if o.valid then o.scope else 0)).getD 0)) 0
  match a.op with
  | .init => s.unitChange a initBad initBusy .done (fun t => a.lanes.foldl (State.unitInit a) t)
  | .mayInit => s.unitChange a initBad initBusy .clear id
  | .invalidate => s.unitChange a goneBad goneBusy (.scope widest) (fun t => a.lanes.foldl State.unitInvalidate t)
  | .mayInvalidate => s.unitChange a goneBad goneBusy .clear id
  | .arrive | .arriveCount | .arriveWait => s.unitArrive a e
  | .scope => (.scope (match s.objRead e with | some o => if o.valid then o.scope else 0 | none => 0), s)
  | .query =>
    match s.objRead e with
    | none => (.failed 5 all 0 none, s)
    | some o =>
      if o.valid && !reached e o.scope then (.failed 5 all o.phase none, s)
      else (.word (queryWord o a.select).toNat (if o.valid then o.scope else 0), s)
  | .await =>
    match s.objRead e with
    | none => (.failed 5 all 0 none, s)
    | some o =>
      let scope := some (if o.valid then o.scope else 0)
      if o.valid && !reached e o.scope then (.failed 5 all o.phase none, s)
      else if o.scope = 0 ∧ o.owner ≠ a.wgid then (.failed 3 all o.phase scope, s)
      else if !s.inScope a e o then (.failed 4 all o.phase scope, s)
      else if !o.valid then (.invalid, s)
      else
        let back := (a.lanes.filter (fun x => x.value ≠ o.phase)).map (fun x => x.fibre)
        (.waits back o.phase o.scope, s.barWaits a e o (all.length - back.length))
  | .refer up => (.done, match s.objRead e with
    | some o => s.objWrite e { o with refs := if up then o.refs + 1 else o.refs - 1 }
    | none => s)
  | .living => (.done, match s.objRead e with
    | some o => if o.valid && o.live && decide (o.owner = a.wgid) && decide (o.scope = 0) && s.phaseFull e o a.living then s.phaseComplete e o else s
    | none => s)

/-! Units of other packages (R19, R270). -/

/-- The request to a barrier unit that another package has of this one's. -/
def Request.barrier? (q : Request) : Option BarrierRequest :=
  match q.kind with
  | .barrier r => some r
  | _ => none

/-- Requests of a workgroup to the barrier unit are not answered. -/
def State.barrierAsked (s : State) (key : Nat) : Bool :=
  s.barrierQ.any (fun r => r.wg = key) || s.requests.any (fun q => q.barrier?.any (fun r => r.wg = key))

/-- The package whose unit serves a lane's object: the home of its header; this one where no header is reached. -/
def laneHome (x : BarrierLane) : Nat :=
  match headerOf x.entries with
  | some p => if farHome p.pa then paPackage p.pa else Config.package
  | none => Config.package

/-- A request sent to another package's unit, on the port of the first lane's header. -/
def State.askUnit (s : State) (kind : RequestKind) (a : BarrierAsk) : State :=
  let line := ((a.lanes.head?.bind (fun x => headerOf x.entries)).map (fun p => p.pa / 128)).getD 0
  s.sendRequest kind line 0 (fun tag => .barrier tag a)

/-- What a unit is told and does at once, here or on another package, and only acknowledges. -/
def State.tellUnit (s : State) (a : BarrierAsk) : State :=
  if a.lanes.any (fun x => laneHome x ≠ Config.package) then s.askUnit .notice a else (s.unit a).2

/-- References of an engine operation to the object of a handle, one more or one less (R269, R309). -/
def State.objRefs (s : State) (l : Launch) (h : Nat) (up : Bool) : State :=
  s.tellUnit { op := .refer up, package := Config.package, core := 0, wgid := 0, lanes := [{ fibre := 0, entries := s.entriesOf l h }] }

/-- Live-mode objects of a workgroup looked at again after a fibre has ended (R271): those of its table here, and those that it has initialised on other
packages. -/
def State.liveRecheck (s : State) (key : Nat) : State :=
  match s.wg? key with
  | none => s
  | some w =>
    match s.launch? w.launch with
    | none => s
    | some l =>
      (List.range l.barrierEntries).foldl (fun t h =>
        let x : BarrierLane := { fibre := 0, entries := t.entriesOf l h }
        if decide (laneHome x ≠ Config.package) && !w.liveFar.contains h then t
        else t.tellUnit { op := .living, package := Config.package, core := w.core, wgid := w.wgid, lanes := [x]
                          living := w.fibres.map (fun y => y.index) }) s

end Sys2Proof.Machine
end

