-- ==== Sys2Proof/Machine/Ops.lean ====
section
/-! DEFINITION. The shared operations of the instructions: running one for its batch (R49, R66), completion counters (R306 to R309),
sync words (R310, R311), rings (R314, R315), raising a fault, which parks the workgroup (R384 to R389),
and resuming or killing it (R393 to R395). -/

namespace Sys2Proof.Machine

/-! Running an instruction for its batch. -/

/-- The batch of the issuing warp slot (R66). -/
def Ctx.of? (s : State) (op : Nat) (f : Fields) : Option Ctx :=
  s.issue.bind fun i =>
    ((s.core i.core).slots.find? (fun sl => sl.id = i.slot)).bind fun sl =>
      (s.wg? sl.wg).bind fun w =>
        match w.fibres.filter (fun x => sl.lanes.contains x.index) with
        | [] => none
        | x :: t =>
          let l := (s.launch? w.launch).getD { lseq := w.launch, kind := .packet }
          some { core := i.core, slot := i.slot, wg := w, launch := l, kernel := l.kernel.getD {}, hwarp := x.hwarp, lanes := x :: t,
                 pc := x.pc, word := wordOf op f, f := f, ord := i.ord, tide := s.tide, cyc := s.cyc.getD i.core 0 }

/-- The workgroup of the batch as it stands now. -/
def State.wgOf (s : State) (c : Ctx) : Workgroup := (s.wg? c.wg.key).getD c.wg

/-- A fibre is of the issuing batch. -/
def Ctx.active (c : Ctx) (x : Fibre) : Bool := c.lanes.any (fun y => y.index = x.index)

/-- The batch's fibres updated, each by `g`. -/
def State.updLanes (s : State) (c : Ctx) (g : Fibre → Fibre) : State :=
  s.updWg c.wg.key (fun w => { w with fibres := w.fibres.map (fun x => if c.active x then g x else x) })

/-- The common effect of an instruction that acts lane by lane: `g` where the guard passes, and every fibre moves on (R25). -/
def State.lanewise (s : State) (c : Ctx) (g : Fibre → Fibre) : State :=
  s.updLanes c (fun x => (if passes c.f x then g x else x).next)

/-- The same for an instruction that raises floating-point flags: a trapped flag is a fault of the lowest lane that raises it, and
otherwise the flags join `sr.fflags` (R144). -/
def State.lanewiseF (s : State) (c : Ctx) (g : Fibre → Fibre × Flags) : Except FaultInfo State :=
  let bad := c.passing.filter (fun x => (g x).2 &&& c.launch.traps ≠ 0)
  match bad with
  | x :: _ => .error (c.fault 12 x.index c.wordHigh 0 (laneMask bad) 0 (g x).2)
  | [] =>
    let raised := c.passing.foldl (fun fl x => fl ||| (g x).2) 0
    .ok ((s.lanewise c (fun x => (g x).1)).updWg c.wg.key (fun w => { w with fflags := w.fflags ||| raised }))

/-- An opcode that taints the current iteration of a spin record (R265). -/
def taintsOp (op : Nat) (f : Fields) : Bool :=
  if op ≤ 0x0C then decide (7 ≤ op ∧ op ≤ 9)
  else if op < 0x50 then (op == 0x47 || op == 0x48) || (op == 0x45 && decide (f.dst.toNat ≥ 0x180))
  else if op < 0x70 then op == 0x60 || op == 0x61
  else if op < 0xA0 then false
  else if op < 0xB0 then true
  else if op < 0xB6 then false
  else if op < 0xBC then true
  else if op < 0xD0 then false
  else if op < 0xD6 then false
  else true

/-- The iteration tainted in every fibre of the batch. -/
def State.tainted (s : State) (c : Ctx) (op : Nat) (f : Fields) : State :=
  if taintsOp op f then s.updLanes c (fun x => { x with spin := { x.spin with taint := true } }) else s

/-- A fault raised for a workgroup (R384, R385): issue stops, what has issued finishes, spin records are voided (R266), no fibre is a
candidate by a `YIELD` any more (R260), the record joins the queue of the fault
ring, the black box takes an entry of kind 1; a draining workgroup turns to saving (R399). A parked workgroup keeps its record. -/
def State.park (s : State) (key : Nat) (info : FaultInfo) : State :=
  match s.wg? key with
  | none => s
  | some w =>
    if w.parked.isSome then s
    else
      let s1 := s.updWg key (fun w => { w with
        parked := some info, fibres := w.fibres.map (fun x => { x.voidSpin.finish with yielded := false }),
        preempt := if w.preempt = .draining then .saving else w.preempt })
      let s2 := { s1 with records := s1.records ++ [(info, w.launch, w.wgid, w.core, key)] }
      s2.log 1 w.core info.cls info.cause w.wgid info.pc.toNat 0

/-- A fault of the batch's instruction: nothing else of it takes effect (R75, R203). -/
def State.parkBatch (s : State) (c : Ctx) (info : FaultInfo) : State :=
  s.park c.wg.key { info with lanes := if info.lanes.isEmpty then c.lanes.map (fun x => x.index) else info.lanes }

/-- The first failure of a lane's checks at step 7: its class and cause, and the two values of R388. -/
structure LaneFault where
  cls : Nat
  cause : Nat := 0
  v0 : Nat
  v1 : Nat
  deriving DecidableEq, Repr

/-- The fault of the lowest failing lane (R203); the mask holds the lanes that fail the same check. -/
def Ctx.laneFault (c : Ctx) (check : Fibre → Option LaneFault) : Option FaultInfo :=
  match c.passing.filterMap (fun x => (check x).map (fun e => (x, e))) with
  | [] => none
  | (x, e) :: t =>
    let same := ((x, e) :: t).filter (fun p => p.2.cls = e.cls ∧ p.2.cause = e.cause)
    some (c.fault e.cls x.index e.v0 e.v1 (laneMask (same.map (fun p => p.1))) e.cause)

/-- The lane failure of an access (R388: the address and the width). -/
def AccessFault.lane (e : AccessFault) (addr width : Nat) : LaneFault := { cls := e.cls, cause := e.cause, v0 := addr, v1 := width }

/-- An illegal operand of a lane at step 7 (R388: instruction bits [95:32] and the operand code). -/
def Ctx.badOperand (c : Ctx) (code : BitVec 9) : LaneFault := { cls := 5, v0 := c.wordHigh, v1 := code.toNat }

/-- An opcode that `ORD` may prefix: `LD`, `ST`, `ATOM` and `RED` (R237). -/
def prefixable (op : Nat) : Bool := decide (0xB0 ≤ op ∧ op ≤ 0xBB) || decide (0xD6 ≤ op ∧ op ≤ 0xF1)

/-- Steps 2 to 6 of R49 for an instruction that may stand after `ORD`: any other raises an illegal-opcode fault there (R207, R237). -/
def checkIssue (op : Nat) (sh : Shape) (c : Ctx) : Option FaultInfo :=
  precheck { sh with badOpcode := sh.badOpcode || (c.ord.isSome && !prefixable op) } c

/-- One instruction for its batch: steps 2 to 6 of R49, then its own checks and effect. -/
def runWith (op : Nat) (shape : Ctx → Shape) (f : Fields) (s : State) (body : Ctx → State → Except FaultInfo State) :
    Host.Outcome State Fault Refusal :=
  match Ctx.of? s op f with
  | none => .fault .noIssuingBatch
  | some c =>
    match checkIssue op (shape c) c with
    | some e => .next (s.parkBatch c e)
    | none =>
      match body c (s.tainted c op f) with
      | .error e => .next (s.parkBatch c e)
      | .ok t => .next t

/-- The same with a shape of its own. -/
def runBatch (op : Nat) (sh : Shape) (f : Fields) (s : State) (body : Ctx → State → Except FaultInfo State) :
    Host.Outcome State Fault Refusal := runWith op (fun _ => sh) f s body

/-- An instruction with no fault at step 7, lane by lane. -/
def runLanes (op : Nat) (sh : Shape) (f : Fields) (s : State) (g : Ctx → Fibre → Fibre) : Host.Outcome State Fault Refusal :=
  runBatch op sh f s (fun c t => .ok (t.lanewise c (g c)))

/-- An instruction that raises floating-point flags, lane by lane. -/
def runFloat (op : Nat) (sh : Shape) (f : Fields) (s : State) (g : Ctx → Fibre → Fibre × Flags) : Host.Outcome State Fault Refusal :=
  runBatch op sh f s (fun c t => t.lanewiseF c (g c))

/-- The lowest guard-passing lane supplies the operands of an instruction that acts once for its batch; with none it has no effect. -/
def runOnce (op : Nat) (sh : Shape) (f : Fields) (s : State) (g : Ctx → Fibre → State → Except FaultInfo State) :
    Host.Outcome State Fault Refusal :=
  runBatch op sh f s (fun c t =>
    match c.passing with
    | [] => .ok (t.lanewise c id)
    | x :: _ => g c x t)

/-! Fibres that wait. -/

/-- Fibres of a batch hold until some stores have been acknowledged by other packages and, where an acquire follows, until their own loads have
returned (R226, R227, R240). -/
def State.holdFor (s : State) (key : Nat) (lanes : List Fibre) (stores : List Nat) (acquire : Option Nat) : State :=
  let now := s.tide.toNat
  ({ s with nextKey := s.nextKey + 1 } : State).updWg key (fun w => { w with
    holds := w.holds ++ [{ id := s.nextKey, stores := stores, acquire := acquire }]
    fibres := w.fibres.map (fun x =>
      if lanes.any (fun y => y.index = x.index) then { x with wait := .answer, waitKey := 2 ^ 41 + s.nextKey, waitSince := now } else x) })

/-- `PHASE.REL` at a scope by a batch, and `PHASE.ACQ` after it where `acq` says so: at every scope they complete when the stores and atomics that other
packages have still to acknowledge have been (R218, R226, R229). -/
def State.releaseBy (s : State) (k key : Nat) (lanes : List Fibre) (scope : Nat) (acq : Bool) : State :=
  let t := s.release k scope
  if !t.openStores.isEmpty then t.holdFor key lanes t.openStores (if acq then some scope else none)
  else if acq then t.acquire k scope else t

/-- Tags of the atomics of some fibres of a workgroup that other packages have still to perform. -/
def State.openAtomics (s : State) (key : Nat) (lanes : List Fibre) : List Nat :=
  (s.requests.filter (fun r => match r.kind with
    | .atomic wg _ _ ls .. => decide (wg = key) && ls.any (fun e => lanes.any (fun x => x.index = e.1))
    | _ => false)).map (fun r => r.tag)

/-- `PHASE.ACQ` at a scope by a batch: it completes after its fibres' earlier atomics have been performed (R218, R227). -/
def State.acquireBy (s : State) (k key : Nat) (lanes : List Fibre) (scope : Nat) : State :=
  let tags := s.openAtomics key lanes
  if tags.isEmpty then s.acquire k scope else s.holdFor key lanes tags (some scope)

/-- A batch that has released issues nothing further until other packages have acknowledged its stores (R226). -/
def State.holdStores (s : State) (c : Ctx) : State := if s.openStores.isEmpty then s else s.holdFor c.wg.key c.lanes s.openStores none

/-! Completion counters (R306 to R309). -/

def Workgroup.stream (w : Workgroup) (issuer cls : Nat) : Stream :=
  (w.streams.find? (fun t => t.issuer = issuer ∧ t.cls = cls)).getD { issuer := issuer, cls := cls }

def Workgroup.updStream (w : Workgroup) (issuer cls : Nat) (g : Stream → Stream) : Workgroup :=
  if w.streams.any (fun t => t.issuer = issuer ∧ t.cls = cls) then
    { w with streams := w.streams.map (fun t => if t.issuer = issuer ∧ t.cls = cls then g t else t) }
  else { w with streams := w.streams ++ [g { issuer := issuer, cls := cls }] }

/-- Operations at the head that have completed retire in issue order. -/
def retire : List (Nat × List Nat) → List (Nat × List Nat)
  | [] => []
  | (n, l) :: t => if l.isEmpty then retire t else (n, l) :: t

/-- The counter's value (R306). -/
def Stream.count (t : Stream) : Nat := t.pending.length

/-- An operation counted at its issue; a copy waits for `SEAL`. -/
def Workgroup.countIssue (w : Workgroup) (issuer cls id : Nat) : Workgroup :=
  w.updStream issuer cls (fun t =>
    if cls = 0 then { t with unsealed := t.unsealed ++ [id], unsealedAny := true } else { t with pending := t.pending ++ [(id, [id])] })

/-- An operation completed or abandoned. -/
def Workgroup.countDone (w : Workgroup) (issuer cls id : Nat) : Workgroup :=
  w.updStream issuer cls (fun t => { t with
    unsealed := t.unsealed.filter (fun k => k ≠ id)
    pending := retire (t.pending.map (fun e => (e.1, e.2.filter (fun k => k ≠ id)))) })

/-- The deferred fault that a `WAITC`, or another delivery point of R246 and R501, of an issuer delivers: the oldest of the classes. -/
def Workgroup.deferredOf (w : Workgroup) (p : Deferred → Bool) : Option Deferred := w.deferred.find? p

/-- A deferred fault delivered: the workgroup parks with its record (R309). -/
def State.deliver (s : State) (key : Nat) (d : Deferred) : State :=
  (s.updWg key (fun w => { w with deferred := w.deferred.erase d })).park key { d.info with deferred := true, entry := d.entry }

/-- After a completion or a deferred fault: fibres in `WAITC` whose counter allows it move on, or a held fault is delivered (R308, R309), which stays held
while the workgroup is parked, being saved, or saved (R396, R399). -/
def State.checkWaitc (s : State) (key : Nat) : State :=
  match s.wg? key with
  | none => s
  | some w =>
    let compat := s.compat16 w
    let waiting (x : Fibre) : Bool := decide (x.wait = .waitc)
    let due := w.deferred.find? (fun d => w.fibres.any (fun x => waiting x && decide (x.waitKey = d.cls) && decide (issuerOf compat x.index = d.issuer)))
    match due with
    | some d => if w.parked.isNone && decide (w.preempt = .running ∨ w.preempt = .draining) then s.deliver key d else s
    | none =>
      s.wakeWg key (fun x => waiting x && decide ((w.stream (issuerOf compat x.index) x.waitKey).count ≤ x.waitValue)) Fibre.next

/-- An engine operation completes (R302): it retires in its counter, and the watchdog's interval starts again (R400). -/
def State.complete (s : State) (key issuer cls id : Nat) : State :=
  let now := s.tide.toNat
  (s.updWg key (fun w => { w.countDone issuer cls id with lastActive := now })).checkWaitc key

/-! Sync words (R310, R311): at a core's physical scratchpad offset. -/

structure SyncWord where
  count : Int
  completions : Nat
  valid : Bool
  waiters : Nat
  refs : Nat
  deriving DecidableEq, Repr

def State.syncRead (s : State) (k off : Nat) : SyncWord :=
  let m := (s.core k).scratch
  { count := signedOf 32 (m.readN off 4), completions := m.readN (off + 4) 4, valid := (m.readN (off + 8) 1) % 2 = 1,
    waiters := m.readN (off + 12) 2, refs := m.readN (off + 14) 2 }

def State.syncWrite (s : State) (k off : Nat) (y : SyncWord) : State :=
  s.scratchWrite k off (bytesOf 4 (wrapOf 32 y.count) ++ bytesOf 4 y.completions ++ bytesOf 4 (if y.valid then 1 else 0) ++
    bytesOf 2 (min y.waiters 65535) ++ bytesOf 2 (min y.refs 65535))

/-- The name of a bank word in a fibre's wait. -/
def bankKey (k off : Nat) : Nat := k * 2 ^ 18 + off

/-- The fibres that wait in `SWWAIT` for a word whose count is 0 return with status 1 and an acquire at `.CL` (R312); a restore acquires for those of
a saved workgroup (R399). -/
def State.syncWake (s : State) (k off : Nat) : State :=
  let key := bankKey k off
  let who (x : Fibre) : Bool := decide (x.wait = .swwait) && decide (x.waitKey = key)
  s.wgs.foldl (fun t w =>
    if !w.fibres.any who || s.unbanked w k off then t
    else
      let u := t.wakeWg w.key who (fun x => (x.setPred x.waitDst true).next)
      if w.preempt = .saved then u else u.acquire w.core 2) s

/-- `count + x` at a sync word (R311): none where it leaves the signed range. -/
def State.syncAdd (s : State) (k off : Nat) (x : Int) : Option State :=
  let y := s.syncRead k off
  let n := y.count + x
  if n < -2 ^ 31 ∨ n ≥ 2 ^ 31 then none
  else
    let reached := decide (n = 0) && decide (y.count ≠ 0)
    let y' := { y with count := n, completions := if reached then (y.completions + 1) % 2 ^ 32 else y.completions,
                       waiters := if reached then 0 else y.waiters }
    let t := s.syncWrite k off y'
    some (if reached then t.syncWake k off else t)

def State.syncRefs (s : State) (k off : Nat) (d : Int) : State :=
  let y := s.syncRead k off
  s.syncWrite k off { y with refs := ((y.refs : Int) + d).toNat }

/-! Rings (R314, R315). -/

structure Ring where
  base : Nat
  size : Nat
  slots : Nat
  head : Nat
  tail : Nat
  free : Nat
  filled : Nat
  publish : Nat
  waiters : Nat
  refs : Nat
  deriving DecidableEq, Repr

def State.ringRead (s : State) (k off : Nat) : Ring :=
  let h (i : Nat) : Nat := (s.core k).scratch.readN (off + i) 2
  { base := (s.core k).scratch.readN off 4, size := h 4, slots := h 6, head := h 8, tail := h 10, free := h 12, filled := h 14,
    publish := h 16, waiters := h 18, refs := h 20 }

/-- The running fields written back; base, size and slots stay. -/
def State.ringWrite (s : State) (k off : Nat) (r : Ring) : State :=
  s.scratchWrite k (off + 8) (bytesOf 2 r.head ++ bytesOf 2 r.tail ++ bytesOf 2 r.free ++ bytesOf 2 r.filled ++ bytesOf 2 r.publish ++
    bytesOf 2 (min r.waiters 65535) ++ bytesOf 2 r.refs)

/-- A valid descriptor: fields in range and slots within the workgroup's scratchpad (R314). -/
def Ring.valid (r : Ring) (scratchBytes : Nat) : Bool :=
  decide (r.base % 16 = 0) && decide (1 ≤ r.size ∧ r.size ≤ 4096) && decide (1 ≤ r.slots ∧ r.slots ≤ 256) &&
    decide (r.base + r.size * 16 * r.slots ≤ scratchBytes)

/-- The waiting readers of a ring, in the order their requests reached the bank (R316). -/
def State.ringWaiters (s : State) (k off : Nat) : List (Nat × Fibre) :=
  let all := (s.wgs.filter (fun w => w.preempt ≠ .saved)).flatMap (fun w => (w.fibres.filter (fun x => decide (x.wait = .rwait) && decide (x.waitKey = bankKey k off))).map (fun x => (w.key, x)))
  all.foldr (fun e acc => acc.takeWhile (fun y => y.2.waitValue < e.2.waitValue) ++ [e] ++ acc.dropWhile (fun y => y.2.waitValue < e.2.waitValue)) []

/-- Readers served while slots are filled. -/
def State.ringServe (k off : Nat) : List (Nat × Fibre) → State → State
  | [], s => s
  | (key, x) :: t, s =>
    let r := s.ringRead k off
    if r.filled = 0 then s
    else
      let s1 := s.ringWrite k off { r with filled := r.filled - 1, tail := (r.tail + 1) % r.slots, waiters := r.waiters - 1 }
      let v : Word := BitVec.ofNat 32 (r.base + r.tail * r.size * 16)
      ringServe k off t (s1.wakeWg key (fun y => y.index = x.index) (fun y => ((if y.waitDst < 240 then y.setReg y.waitDst v else y)).next))

/-- Done slots published in order, and readers woken (R315). -/
def State.ringPublish (k off : Nat) : Nat → State → State
  | 0, s => s
  | n + 1, s =>
    let r := s.ringRead k off
    if (s.core k).ringDone.contains (off, r.publish) then
      let s1 := s.updCore k (fun c => { c with ringDone := c.ringDone.erase (off, r.publish) })
      ringPublish k off n (s1.ringWrite k off { r with filled := r.filled + 1, publish := (r.publish + 1) % r.slots })
    else s

/-- A slot marked done, what can be published published, and waiting readers served. -/
def State.ringMark (s : State) (k off j : Nat) : State :=
  let s1 := s.updCore k (fun c => { c with ringDone := c.ringDone ++ [(off, j)] })
  let s2 := s1.ringPublish k off 256
  State.ringServe k off (s2.ringWaiters k off) s2

/-! Completion actions (R300, R302). -/

/-- The sync word of an action: the core and physical offset. -/
def State.actionWord (w : Workgroup) (e : CopyEntry) : Nat × Nat :=
  let t := bitsOf e.imm.toNat 0 24
  match e.kind with
  | .push => (clusterCore w.core t, t % 2 ^ 18)
  | _ => (w.core, w.scratchBase + t)

/-- References of an entry's action and ring released (R309). -/
def State.releaseRefs (s : State) (w : Workgroup) (e : CopyEntry) : State :=
  let l := (s.launch? w.launch).getD { lseq := w.launch, kind := .packet }
  let s1 := match bitsOf e.imm.toNat 30 2, e.kind with
    | _, .reg _ => s
    | 1, _ => let (k, off) := State.actionWord w e; s.syncRefs k off (-1)
    | 2, _ => s.objRefs l (bitsOf e.imm.toNat 0 20) false
    | _, _ => s
  match e.kind with
  | .ring =>
    let off := w.scratchBase + e.c
    let r := s1.ringRead w.core off
    s1.ringWrite w.core off { r with refs := r.refs - 1 }
  | _ => s1

/-! Resumption (R393, R394) and kill (R395). -/

/-! The fields of a tensor layout record (R293, R294), its 64 bytes as a number, and the units in which its elements are handled: whole bytes,
one element or two of 4 bits. -/

def tlr (t lo n : Nat) : Nat := bitsOf t lo n
def tlrDim (t k : Nat) : Nat := tlr t (64 + 32 * k) 32
def tlrStride (t k : Nat) : Nat := if k = 0 then 0 else tlr t (128 + 64 * k) 64
def tlrBox (t k : Nat) : Nat := tlr t (384 + 16 * k) 16
def tlrFmt (t : Nat) : Nat := tlr t 448 4
def tlrRank (t : Nat) : Nat := tlr t 452 2 + 1
def tlrStagger (t : Nat) : Nat := tlr t 454 3
def tlrFill (t : Nat) : Nat := tlr t 457 2

/-- The element width of a format code in bits; 0 for a code that a record may not hold (R294, R295). -/
def elementBits (fmt : Nat) : Nat :=
  match fmt with
  | 7 | 8 | 10 => 4
  | 3 | 4 | 9 | 13 => 8
  | 1 | 2 => 16
  | 0 | 12 => 32
  | 11 => 64
  | _ => 0

def tlrBits (t : Nat) : Nat := elementBits (tlrFmt t)

/-- Elements, and bytes, of a unit. -/
def unitElems (t : Nat) : Nat := if tlrBits t = 4 then 2 else 1
def unitBytes (t : Nat) : Nat := if tlrBits t = 4 then 1 else tlrBits t / 8

/-- Bytes and units of a granule. -/
def granuleBytes (t : Nat) : Nat := max 4 (unitBytes t)
def granuleUnits (t : Nat) : Nat := granuleBytes t / unitBytes t

/-- Units of work an entry has written: those before its position, and one that landed poisoned there (R322). -/
def CopyEntry.landed (e : CopyEntry) : Nat := e.pos + (if e.fault.any (fun x => x.cause = 3) then 1 else 0)

/-- The slots that a copy or gather has written bytes of (R325). -/
def CopyEntry.filledSlots (e : CopyEntry) : List Nat :=
  match e.kind, e.tlr with
  | .slot, some t | .gthSlot, some t => (List.range ((e.landed * unitBytes t + 4095) / 4096)).map (fun i => e.c + i)
  | _, _ => []

/-- The registers that a copy into registers has not yet written in one of its targets (R304). -/
def CopyEntry.regsLeft (e : CopyEntry) (fibre : Nat) : List Nat :=
  let done := e.landed * ((e.tlr.map granuleBytes).getD 4 / 4)
  match e.kind with
  | .reg k => if e.targets.contains fibre then ((List.range k).filter (fun i => decide (done ≤ i * e.width + fibre % max 1 e.width))).map (fun i => e.targetBase + i) else []
  | _ => []

/-- Pending bits cleared, registers unchanged (R309). -/
def Workgroup.clearPend (w : Workgroup) (regs : Nat → List Nat) : Workgroup :=
  { w with fibres := w.fibres.map (fun x => { x with pendV := x.pendV.filter (fun r => !(regs x.index).contains r) }) }

/-- The filled flags of slots set (R325). -/
def Workgroup.fillSlots (w : Workgroup) (slots : List Nat) : Workgroup :=
  { w with slotFlags := w.slotFlags.mapIdx (fun i f => if slots.contains i then { f with filled := true } else f) }

/-- An engine operation abandoned (R309): no action, references released, counted as completed; a claimed ring slot is marked done, and tile slots
it wrote are filled (R325).
One of a saved workgroup is abandoned at the restore. -/
def State.abandon (s : State) (key id : Nat) : State :=
  match s.wg? key with
  | none => s
  | some w =>
    if w.saved.isSome then s.updWg key (fun w => { w with saved := w.saved.map (fun v => { v with abandon := v.abandon ++ [id] }) })
    else match (s.core w.core).copyQ.find? (fun e => e.id = id) with
    | some e =>
      let s1 := s.updCore w.core (fun c => { c with copyQ := c.copyQ.filter (fun x => x.id ≠ id) })
      let s2 := s1.releaseRefs w e
      let s3 := match e.kind, e.ringSlot with
        | .ring, some j => s2.ringMark w.core (w.scratchBase + e.c) j
        | _, _ => s2
      (s3.updWg key (fun w => (w.clearPend e.regsLeft).fillSlots e.filledSlots)).complete key e.issuer e.cls id
    | none =>
      match (s.core w.core).easelQ.find? (fun e => e.id = id) with
      | some e =>
        let s1 := s.updCore w.core (fun c => { c with easelQ := c.easelQ.filter (fun x => x.id ≠ id) })
        let lanes := e.lanes.map (fun p => p.1)
        let regs := match e.kind with | .mlda => (List.range (2 ^ bitsOf e.mods.toNat 0 2)).map (fun i => e.dst + i) | _ => []
        (s1.updWg key (fun w => w.clearPend (fun i => if lanes.contains i then regs else []))).complete key e.issuer e.cls id
      | none => s

/-- A faulted engine operation goes on from its faulting element (R309). -/
def State.unfault (s : State) (key id : Nat) : State :=
  match s.wg? key with
  | none => s
  | some w =>
    let clearC (q : List CopyEntry) : List CopyEntry := q.map (fun e => if e.id = id then { e with fault := none } else e)
    let clearE (q : List EaselEntry) : List EaselEntry := q.map (fun e => if e.id = id then { e with fault := none } else e)
    let s1 := s.updCore w.core (fun c => { c with copyQ := clearC c.copyQ, easelQ := clearE c.easelQ })
    s1.updWg key (fun w => { w with saved := w.saved.map (fun v => { v with copyQ := clearC v.copyQ, easelQ := clearE v.easelQ }) })

/-- A fibre goes on after the recorded instruction, which counts as completed (R394): its cost joins the sums where it had not (R40). -/
def FaultInfo.past (info : FaultInfo) (x : Fibre) : Fibre :=
  let y := if info.costLanes.contains x.index then { x.aged info.cost [] with issued := x.issued + info.span + (if info.prefixed then 1 else 0) } else x
  { y with pc := slotsAfter (info.site.getD info.pc) info.span, fresh := false }

/-- A deadlock of lane rendezvous (R166). -/
def FaultInfo.deadlock (info : FaultInfo) : Bool := decide (info.cls = 15) && decide (info.cause = 8) && info.reach.isSome

/-- The rendezvous that a resumption closes (R165, R166): the one at fault, or at a deadlock that at which the lowest lane waits and each in which a fibre
of the reach has arrived. -/
def FaultInfo.closes (info : FaultInfo) (r : Rendezvous) : Bool :=
  match info.reach with
  | none => false
  | some m => !info.deferred && decide (r.hwarp = info.fibre / 32) &&
      (if info.deadlock then decide (r.arrived &&& m ≠ 0) || (decide (r.pc = info.pc) && r.reach.getLsbD (info.fibre % 32)) else decide (r.pc = info.pc) && decide (r.reach = m))

/-- The queue of a workgroup that is held no longer: its saved fibres that can run, in ascending index (R260). -/
def Workgroup.requeued (w : Workgroup) (now : Nat) : Workgroup :=
  let runs (x : Fibre) : Bool := !x.resident && decide (x.wait = .run)
  { w with queue := (w.fibres.filter runs).map (fun x => x.index), fibres := w.fibres.map (fun x => if runs x then { x with queuedSince := now } else x) }

/-- A parked workgroup resumed at or past its recorded PC, with the value of write-value (R394): the release of the issuing fibre's
core is the caller's. The fibres of a closed rendezvous wake, arrived or not (R165, R503). -/
def State.resume (s : State) (key : Nat) (past : Bool) (value : Option Word) : State :=
  match s.wg? key with
  | none => s
  | some w =>
    match w.parked with
    | none => s
    | some info =>
      let moves : Bool := past && !info.deferred && decide (info.cls ≠ 16)
      let given (x : Fibre) : Fibre :=
        match value with
        | some v => if info.cls = 20 && info.parts.contains x.index && decide (info.dst < 240) then x.setReg info.dst v else x
        | none => x
      let go (x : Fibre) : Fibre :=
        if !info.lanes.contains x.index || info.deferred || info.reach.isSome then x
        else if moves then { info.past x with wait := .run }
        else { x with fresh := false }
      let gone := w.rendezvous.filter info.closes
      let held (arrivedOnly : Bool) (x : Fibre) : Bool := decide (x.wait = .lane) && gone.any (fun r =>
        decide (r.hwarp = x.hwarp) && decide (r.pc = x.pc) && (if arrivedOnly then r.arrived else r.reach).getLsbD x.lane)
      let w1 := { w with
        parked := none, recordAt := none, rendezvous := w.rendezvous.filter (fun r => !info.closes r)
        fibres := w.fibres.map (fun x => go (given x)) }
      let w2 := w1.wake s.tide.toNat (held false) (fun x => if moves && held true x && decide (x.pc = info.pc) then info.past x else x)
      let s1 := s.updWg key (fun _ => w2.requeued s.tide.toNat)
      let s1 := s1.updCore w.core (fun c => { c with slots := c.slots.map (fun sl => if sl.wg = key then { sl with line := none } else sl) })
      let s2 := match info.deferred, info.entry with
        | true, some id => if past then s1.abandon key id else s1.unfault key id
        | _, _ => s1
      let s3 := match info.retry with
        | some (lanes, f, init) =>
          if past then s2
          else
            let r : BarrierRequest :=
              { op := if init then .init else .invalidate, wg := key, hwarp := info.fibre / 32, pc := info.pc, lanes := lanes, fields := f,
                scopeDone := 0 }
            { s2 with barrierQ := r :: s2.barrierQ }
        | none => s2
      ((s3.acquire w.core 6).readOver (Reader.ofWg key)).checkWaitc key

/-- Everything a workgroup holds on its core released (R86 step 3, R395, R399): its warp slots, engine entries, banks and requests. The counters of a bank
stay, for a `CMRG.REL` of its former owner that has still to merge them (R327, R353). -/
def State.releaseCore (s : State) (w : Workgroup) : State :=
  let mine (off : Nat) : Bool := decide (w.scratchBase ≤ off) && decide (off < w.scratchBase + (s.kernelOf w).scratchBytes)
  let free (b : FrontBank) : FrontBank := if b.owner = some w.key then { b with owner := none, depth := 0 } else b
  let mineReads (r : Reader) : Bool := Reader.ofWg w.key r || (s.core w.core).copyQ.any (fun e => decide (e.wg = w.key) && decide (r = .copy e.id)) ||
    s.multi.any (fun m => decide (m.wg = w.key) && decide (r = .member m.id))
  let s1 := s.updCore w.core (fun c => { c with
    slots := c.slots.filter (fun sl => sl.wg ≠ w.key)
    copyQ := c.copyQ.filter (fun e => e.wg ≠ w.key)
    easelQ := c.easelQ.filter (fun e => e.wg ≠ w.key)
    easelUnit := match c.easelUnit with
      | some u => if c.easelQ.any (fun e => e.wg = w.key && e.entry = u.entry) then none else some u
      | none => none
    loads := c.loads.filter (fun p => p.wg ≠ w.key)
    ringDone := c.ringDone.filter (fun e => !mine e.1)
    bank0 := free c.bank0, bank1 := free c.bank1
    transfer := match c.transfer with | some t => if t.wg = w.key then none else some t | none => none })
  ({ s1 with
    barrierQ := s1.barrierQ.filter (fun r => r.wg ≠ w.key)
    multi := s1.multi.filter (fun m => m.wg ≠ w.key) } : State).readOver mineReads

/-- The references of a workgroup's discarded operations released: of a saved one, those outside its own scratchpad. -/
def State.dropRefs (s : State) (w : Workgroup) : State :=
  match w.saved with
  | none => ((s.core w.core).copyQ.filter (fun e => e.wg = w.key)).foldl (fun t e => t.releaseRefs w e) s
  | some v => (v.copyQ.filter (fun e => bitsOf e.imm.toNat 30 2 = 2 || e.kind = .push)).foldl (fun t e => t.releaseRefs w e) s

/-- The record of a workgroup that waits for the fault ring dropped; the ring is no longer blocked where it was the oldest (R390). -/
def State.dropRecord (s : State) (key : Nat) : State :=
  let first : Bool := match s.records with | r :: _ => decide (r.2.2.2.2 = key) | [] => false
  { s with records := s.records.filter (fun r => r.2.2.2.2 ≠ key), frBlocked := s.frBlocked && !first }

/-- The end of a workgroup's accesses: its core writes back at `.SYS`, and what other packages have still to acknowledge holds its launch or job
(R86, R252, R468). One that is saved has done so when it was (R399). -/
def State.wgRelease (s : State) (w : Workgroup) : State :=
  let t := if w.preempt = .saved then s else s.release w.core 6
  t.updLaunch w.launch (fun l => { l with acks := l.acks ++ t.openStores.filter (fun n => !l.acks.contains n) })

/-- `FKILL` and the kill command (R395): the workgroup ends, and what it has performed reaches its homes before its launch completes (R252); the launch
is marked failed and counts it as ended and hinted (R452); packets it sent that wait at a reduce entry go with it, as those that come to one later
will (R414). -/
def State.kill (s : State) (key : Nat) : State :=
  match s.wg? key with
  | none => s
  | some w =>
    let s1 := ((s.wgRelease w).dropRefs w).releaseCore w
    let s2 := { s1 with
      packets := s1.packets.filter (fun p => !(p.waiting && decide (p.sender = some (w.launch, key))))
      wgs := s1.wgs.filter (fun x => x.key ≠ key) }
    (s2.dropRecord key).updLaunch w.launch (fun l => { l with
      failed := true, ended := l.ended + 1, hinted := if w.hinted then l.hinted else l.hinted + 1, killed := l.killed ++ [key] })

end Sys2Proof.Machine
end

