-- ==== Sys2Proof/Machine/Fetch.lean ====
section
/-! DEFINITION. Fetch lines and their checks (R23, R26 to R29), and control transfers (R27, R68, R75, R76). -/

namespace Sys2Proof.Machine

/-- One bits among the low `n` bits of a number. -/
def onesOf : Nat → Nat → Nat
  | 0, _ => 0
  | n + 1, x => x % 2 + onesOf n (x / 2)

/-- The line word of a line (R23). -/
def lineWord (line : BitVec 512) : Nat := line.toNat % 2 ^ 32

/-- The instruction bits of a slot (R23). -/
def slotBits (line : BitVec 512) (i : Nat) : BitVec 96 := line.extractLsb' (32 + 96 * i) 96

/-- Bit `i` of the target mask, of the pairing template, of the slot parities (R26). -/
def targetBit (line : BitVec 512) (i : Nat) : Bool := line.getLsbD (27 + i)
def pairBit (line : BitVec 512) (i : Nat) : Bool := decide (i < 4) && line.getLsbD (23 + i)

/-- Checks 1 to 5 of R28: the class, the check's number and the failing slot. -/
def lineFault (line : BitVec 512) : Option (Nat × Nat × Nat) :=
  let odd (i : Nat) : Bool := (onesOf 96 (slotBits line i).toNat + (if line.getLsbD (18 + i) then 1 else 0)) % 2 = 1
  if onesOf 32 (lineWord line) % 2 = 1 then some (2, 1, 0)
  else if lineWord line % 2 ^ 17 ≠ 0 then some (2, 2, 0)
  else match (List.range 5).find? odd with
    | some i => some (2, 3, i)
    | none =>
      if (List.range 4).any (fun i => pairBit line i && targetBit line (i + 1)) then some (2, 4, 0)
      else if (List.range 3).any (fun i => pairBit line i && pairBit line (i + 1)) then some (3, 5, 0)
      else none

/-- What a fetch of a line may see (R29, log 12): the line as it stood at the launch's first admission, and as each store since has left it; of one homed on
another package, what its home has sent for the fetch. -/
def State.lineVersions (s : State) (l : Launch) (pa : Nat) : List Nat :=
  match (if farHome pa then none else l.code) with
  | none => [s.mem.readN pa 64]
  | some m => m.readN pa 64 :: ((s.lineLog.drop l.codeFrom).filter (fun e => e.1 = pa / 64)).map (fun e => ofBytes e.2)

/-- The line that holds a PC through the launch's address space, or a translation cause (R76); where stores have changed it since the launch's
first admission, one of its versions, whole, by a free choice (R29). -/
def State.fetchLine (s : State) (l : Launch) (pc : BitVec 64) : Except Nat (BitVec 512) :=
  let va := (pcOf (pcLine pc) 0).toNat
  match s.translate l.space va with
  | .error c => .error c
  | .ok (pa, leaf) => if pte leaf 4 1 = 0 then .error 4 else
    match s.lineVersions l pa with
    | [] => .ok (BitVec.ofNat 512 (s.mem.readN pa 64))
    | [v] => .ok (BitVec.ofNat 512 v)
    | v :: t => .ok (BitVec.ofNat 512 ((v :: t).getD (Config.fetchSees s.free (pa / 64) % (t.length + 1)) v))

/-- The 128-byte line of memory that holds a PC, where another package has it and its fetch reads it. -/
def State.farCode (s : State) (l : Launch) (pc : BitVec 64) : Option Nat :=
  match s.translate l.space (pcOf (pcLine pc) 0).toNat with
  | .ok (pa, leaf) => if pte leaf 4 1 = 1 && farHome pa then some (pa / 128) else none
  | .error _ => none

/-- The fault of a line being entered at a PC by some lanes, if any (R28 checks 1 to 5, R76). -/
def entryFault (line : Except Nat (BitVec 512)) (pc : BitVec 64) (fibre : Nat) (mask : BitVec 32) : Option FaultInfo :=
  match line with
  | .error c =>
    some { cls := 10, cause := c, pc := pc, fibre := fibre, body := (pcOf (pcLine pc) 0).toNat + 64 * 2 ^ 64 + mask.toNat * 2 ^ 96 }
  | .ok l =>
    match lineFault l with
    | none => none
    | some (cls, check, i) =>
      let w := (slotBits l (pcSlot pc)).toNat
      some { cls := cls, cause := check, pc := pc, fibre := fibre, slotNo := i,
             body := (if cls = 2 then lineWord l else w / 2 ^ 32 + w % 2 ^ 32 * 2 ^ 64) + mask.toNat * 2 ^ 96 }

/-- A destination that fails R24, or check 6 of R28 on a line that passes checks 1 to 5. A line that does not pass them faults when it
is entered. -/
def State.badTarget (s : State) (l : Launch) (pc : BitVec 64) : Bool :=
  !pcLegal pc ||
    (match s.fetchLine l pc with
      | .ok b => (lineFault b).isNone && !targetBit b (pcSlot pc)
      | .error _ => false)

/-- A transfer of some lanes (R75, R27): the branch-target fault of the lowest failing lane, or every lane at its next PC, with `g`
applied to lanes that pass the guard. -/
def State.transfer (s : State) (c : Ctx) (tgt : Fibre → Option (BitVec 64)) (g : Fibre → BitVec 64 → Fibre) (stay : Fibre → Fibre) :
    Except FaultInfo State :=
  let bad := c.passing.filter (fun x => match tgt x with | some pc => s.badTarget c.launch pc | none => false)
  match bad with
  | x :: _ => .error (c.fault 4 x.index ((tgt x).getD 0).toNat 0 (laneMask bad))
  | [] =>
    .ok (s.updLanes c (fun x =>
      if passes c.f x then (match tgt x with | some pc => (g x pc).goto pc | none => (stay x).next) else x.next))

/-- A target at or before the branch (R81): by line address first and slot second. -/
def backward (pc tgt : BitVec 64) : Bool :=
  decide (pcLine tgt < pcLine pc) || (decide (pcLine tgt = pcLine pc) && decide (pcSlot tgt ≤ pcSlot pc))

/-- Two line sets are equal. -/
def sameLines (a b : List WatchLine) : Bool := decide (a.length = b.length) && a.all (fun x => b.contains x)

/-- The spin record at a backward taken branch, and state spinning at count 16 (R266). -/
def Fibre.spinBranch (x : Fibre) (pc : BitVec 64) (now : Nat) : Fibre :=
  let r := x.spin
  let r' : Spin :=
    if r.taint then { r with count := 0, curLines := [], curDigest := 0, taint := false }
    else if r.count > 0 && r.branch = pc && sameLines r.curLines r.lines && r.curDigest = r.digest then
      { r with count := r.count + 1, curLines := [], curDigest := 0 }
    else { branch := pc, lines := r.curLines, digest := r.curDigest, count := 1 }
  if r'.count = 16 then { x with spin := r' }.sleep .spinning 0 0 0 0 now else { x with spin := r' }

/-- A load's line and words noted in the current iteration (R265). -/
def Fibre.spinLoad (x : Fibre) (l : WatchLine) (words : List Word) : Fibre :=
  let r := x.spin
  let lines := if r.curLines.contains l then r.curLines else r.curLines ++ [l]
  let d := words.foldl (fun d w => (d.rotateLeft 5) ^^^ w) r.curDigest
  if lines.length > 4 then { x with spin := { r with taint := true, curDigest := d } }
  else { x with spin := { r with curLines := lines, curDigest := d } }

end Sys2Proof.Machine
end

