-- ==== Sys2Proof/Machine/Loads.lean ====
section
/-! DEFINITION. Loads between their issue and the writing of what they fill (R41, R204): a load that has passed its checks is performed at some
later moment, and before its own fibre writes or reads the words again (R218, R223); tables and patterns it fills are loading until then
(R136, R175). -/

namespace Sys2Proof.Machine

/-- A place some bytes further on. -/
def Place.plus (p : Place) (n : Nat) : Place :=
  match p with
  | .scratch core off space => .scratch core (off + n) space
  | .home pa a => .home (pa + n) a

/-- Two accesses touch a common 4-byte word. -/
def Place.meets (p : Place) (n : Nat) (q : Place) (m : Nat) : Bool :=
  let cross (a b : Nat) : Bool := decide (a / 4 ≤ (b + m - 1) / 4) && decide (b / 4 ≤ (a + n - 1) / 4)
  match p, q with
  | .scratch j a _, .scratch k b _ => decide (j = k) && cross a b
  | .home a _, .home b _ => cross a b
  | _, _ => false

/-- Words at a place as a core reads them, each byte with the poison of its word (R204). -/
def State.readWords (k hint scope width : Nat) : Nat → Place → State → List (Byte × Bool) × State
  | 0, _, s => ([], s)
  | n + 1, p, s =>
    let ((bytes, bad), s1) := s.readAt k hint scope p width
    let rest := State.readWords k hint scope width n (p.plus width) s1
    (bytes.map (fun b => (b, bad)) ++ rest.1, rest.2)

/-- The words of `n` bytes, low word first. -/
def wordsOf (n : Nat) (bytes : List Byte) : List Word :=
  (List.range n).map (fun i => BitVec.ofNat 32 (ofBytes ((bytes.drop (4 * i)).take 4)))

/-- What a load writes: one word extended for `.B8` and `.B16`, else its words in order (R204). -/
def loadWords (width : Nat) (signed : Bool) (bytes : List Byte) : List Word :=
  let v := ofBytes bytes
  if width = 1 then [if signed then (BitVec.ofNat 8 v).signExtend 32 else BitVec.ofNat 32 v]
  else if width = 2 then [if signed then (BitVec.ofNat 16 v).signExtend 32 else BitVec.ofNat 32 v]
  else wordsOf (width / 4) bytes

/-- The words that performed bytes give, each with its poison. -/
def Load.words (l : Load) (v : List (Byte × Bool)) : List (Word × Bool) :=
  (loadWords l.width l.signed (v.map (fun b => b.1))).zipIdx.map (fun e => (e.1, ((v.drop (4 * e.2)).take 4).any (fun b => b.2)))

/-- A load into registers joins its fibre's spin record with its words (R265). -/
def State.spinNote (s : State) (wg : Nat) (l : Load) (v : List (Byte × Bool)) : State :=
  match l.dst with
  | .regs _ => s.updWg wg (fun w => w.updFibre l.fibre (fun y => y.spinLoad l.place.watchLine ((l.words v).map (fun e => e.1))))
  | _ => s

/-- A load performed, once: its bytes are taken as memory stands. One that another package has still to answer stands as it is. -/
def Load.perform (k wg : Nat) (l : Load) (s : State) : Load × State :=
  if l.value.isSome || l.request.isSome then (l, s)
  else
    let step := min l.width 4
    let (v, s1) := State.readWords k l.hint l.scope step (l.width / step) l.place s
    ({ l with value := some v }, s1.spinNote wg l v)

/-! Loads of lines homed on other packages (R16, R438; log 18). -/

/-- An access that is served beyond the L1 whatever it holds (R192, R222). -/
def beyondL1 (scope : Nat) (a : Attr) : Bool := decide (scope ≥ 1) || decide (a.cache = 1) || decide (a.cache = 3)

/-- A read of `n` bytes within a line that the L1 or the die's RDC serves (R192, R222). -/
def State.servedNear (s : State) (k scope pa n : Nat) (a : Attr) : Bool :=
  let rdc := decide (a.cache = 0) && s.rdc.any (fun r => r.die = dieOf k && r.line = pa / 128)
  if beyondL1 scope a then decide (scope = 3) && rdc
  else rdc || (s.l1Line? k (pa / 128)).any (fun l => lineMask pa n &&& ~~~l.valid = 0)

/-- A read that only the home on another package can serve. -/
def State.needsFar (s : State) (k scope n : Nat) (p : Place) : Bool :=
  match p with
  | .scratch .. => false
  | .home pa a => farHome pa && !s.servedNear k scope pa n a

/-- The request, not yet answered, of a prefetch of the line by a core of the same die, which a load that misses its L1 meets (R469). -/
def State.prefetching (s : State) (k line : Nat) : Option Nat :=
  (s.requests.find? (fun r => decide (r.line = line) &&
    (match r.kind with | .prefetch core .. => decide (dieOf core = dieOf k) | _ => false))).map (fun r => r.tag)

/-- The request for a line of the loads being sent that were given tags from `from'` on. -/
def State.loadTag (s : State) (k line from' : Nat) : Option Nat :=
  (s.requests.find? (fun r => decide (r.tag ≥ from') && decide (r.line = line) &&
    (match r.kind with | .load core .. => decide (core = k) | _ => false))).map (fun r => r.tag)

/-- What the L1 holds dirty of `n` bytes, byte by byte. -/
def State.heldBytes (s : State) (k pa n : Nat) : List (Option (Byte × Bool)) :=
  match s.l1Line? k (pa / 128) with
  | none => List.replicate n none
  | some l => (List.range n).map (fun i =>
      let o := pa % 128 + i
      if (l.valid &&& l.dirty).getLsbD o then some (Sparse.get 0 l.data o, l.poison.contains (o / 4)) else none)

/-- A load of a line homed on another package at its issue: one that the caches serve takes its value; another becomes a request, the core's own
dirty bytes of the words first where it is served beyond the L1 (R222), and else keeps the dirty bytes that the L1 holds; the clean ones come with the
others, so that an aligned 8 bytes are of one moment (R206). -/
def Load.ask (k wg from' : Nat) (l : Load) (s : State) : Load × State :=
  match l.place with
  | .scratch .. => (l, s)
  | .home pa a =>
    if !farHome pa then (l, s)
    else
      if !s.needsFar k l.scope l.width l.place then l.perform k wg s
      else
        let line := pa / 128
        let beyond := beyondL1 l.scope a
        let s1 := if beyond then s.flushLine k line (wordsMask (lineMask pa l.width)) false else s
        let held := if beyond then List.replicate l.width none else s1.heldBytes k pa l.width
        match (if beyond then none else s1.prefetching k line).orElse (fun _ => s1.loadTag k line from') with
        | some tag => ({ l with request := some tag, held := held }, s1)
        | none => ({ l with request := some s1.nextKey, held := held }, s1.sendRequest (.load k true true) line 0 (fun tag => .load tag (line * 128) 128))

/-- The loads of one instruction at their issue, in order; loads of one line share a request. -/
def askAll (k wg from' : Nat) : List Load → State → List Load × State
  | [], s => ([], s)
  | l :: t, s =>
    let (l1, s1) := l.ask k wg from' s
    let rest := askAll k wg from' t s1
    (l1 :: rest.1, rest.2)

/-- The value of an answered load: what the L1 held dirty at its issue, else the bytes of its line that the home has sent. -/
def Load.answered (l : Load) (line : List Byte) (poison : List Nat) : List (Byte × Bool) :=
  let o := match l.place with | .home pa _ => pa % 128 | .scratch .. => 0
  (List.range l.width).map (fun i => match (l.held[i]?).getD none with
    | some b => b
    | none => (line.getD (o + i) 0, poison.contains ((o + i) / 4)))

/-- A load on its way waits for another package. -/
def Load.awaits (l : Load) : Bool := l.request.isSome && l.value.isNone

/-- Loads or results of fibres of some lanes that other packages have still to answer are on their way. -/
def Core.awaits (c : Core) (wg : Nat) (lanes : List Fibre) : Bool :=
  c.loads.any (fun p => decide (p.wg = wg) && ((p.loads.any (fun l => l.awaits && lanes.any (fun x => x.index = l.fibre))) ||
    (p.request.isSome && p.writes.any (fun e => lanes.any (fun x => x.index = e.1)))))

/-- The loads of a list that `p` holds of performed, in order. -/
def performWhere (k wg : Nat) (p : Load → Bool) : List Load → State → List Load × State
  | [], s => ([], s)
  | l :: t, s =>
    let (l1, s1) := if p l then l.perform k wg s else (l, s)
    let rest := performWhere k wg p t s1
    (l1 :: rest.1, rest.2)

/-- The same over what is on its way to a core, for one workgroup. -/
def takeWhere (k wg : Nat) (p : Load → Bool) : List Pending → State → List Pending × State
  | [], s => ([], s)
  | q :: t, s =>
    let (ls, s1) := if q.wg = wg then performWhere k wg p q.loads s else (q.loads, s)
    let rest := takeWhere k wg p t s1
    ({ q with loads := ls } :: rest.1, rest.2)

/-- Loads of a workgroup among the first `n` on their way that `p` holds of take their values now. -/
def State.takeFirst (s : State) (k wg n : Nat) (p : Load → Bool) : State :=
  let due := (s.core k).loads.take n
  if due.any (fun q => decide (q.wg = wg) && q.loads.any (fun l => l.value.isNone && p l)) then
    let r := takeWhere k wg p due s
    r.2.updCore k (fun c => { c with loads := r.1 ++ c.loads.drop n })
  else s

/-- The same among all. -/
def State.takeLoads (s : State) (k wg : Nat) (p : Load → Bool) : State := s.takeFirst k wg (s.core k).loads.length p

/-- A fibre's earlier loads of words that it is about to write or read take their values first (R223). -/
def State.takeOwn (s : State) (k wg fibre : Nat) (p : Place) (n : Nat) : State :=
  s.takeLoads k wg (fun l => decide (l.fibre = fibre) && l.place.meets l.width p n)

/-- A run of registers of a fibre written and no longer pending. -/
def Fibre.land (x : Fibre) (n : Nat) (words : List (Word × Bool)) : Fibre :=
  words.zipIdx.foldl (fun y e => { y.setRegP (n + e.2) e.1.1 e.1.2 with pendV := y.pendV.filter (fun r => r ≠ n + e.2) }) x

/-- What a performed load fills is written (R135, R175, R204). DESIGN CHOICE (log 23): poison that came into the words of a table or a pattern after
its issue, where they were tested, raises nothing. -/
def Load.landed (wg : Nat) (s : State) (l : Load) : State :=
  match l.value with
  | none => s
  | some v =>
    let bytes := v.map (fun b => b.1)
    match l.dst with
    | .regs n => if n ≥ 240 then s else s.updWg wg (fun w => w.updFibre l.fibre (fun y => y.land n (l.words v)))
    | .book n => s.updWg wg (fun w => { w with
        books := (List.range 16).foldl (fun m i => Sparse.set 0 m (16 * n + i) (BitVec.ofNat 16 (ofBytes ((bytes.drop (2 * i)).take 2)))) w.books
        bookPoison := w.bookPoison.filter (fun i => i / 16 ≠ n) })
    | .pattern n => s.updWg wg (fun w => { w with
        patterns := Bytes.write w.patterns (64 * n) bytes, patternPoison := w.patternPoison.filter (fun i => i / 8 ≠ n) })

/-- Loads performed and written at once, in order. -/
def State.loadNow (k wg : Nat) (ls : List Load) (s : State) : State :=
  let r := performWhere k wg (fun _ => true) ls s
  r.1.foldl (Load.landed wg) r.2

/-- The writes of a returning atomic or multicast load in one fibre, their pending bits cleared. -/
def Pending.into (p : Pending) (x : Fibre) : Fibre :=
  let y := (p.writes.filter (fun e => decide (e.1 = x.index) && decide (e.2.1 < 240))).foldl
    (fun (y : Fibre) e => { y.setRegP e.2.1 e.2.2.1 e.2.2.2 with pendV := y.pendV.filter (fun r => r ≠ e.2.1) }) x
  (p.preds.filter (fun e => e.1 = x.index)).foldl
    (fun (y : Fibre) e => { y.setPred e.2.1 e.2.2 with pendP := y.pendP.filter (fun q => q ≠ e.2.1) }) y

/-- The `i`-th of what is on its way to a core arrives: each of its loads is performed, after its fibre's earlier loads of the same words
(R223), and written. -/
def State.returnLoad (s : State) (k i : Nat) : State :=
  match (s.core k).loads[i]? with
  | none => s
  | some p =>
    if p.request.isSome || p.loads.any Load.awaits then s else
    let s1 := p.loads.foldl (fun t l => t.takeFirst k p.wg i (fun e => decide (e.fibre = l.fibre) && e.place.meets e.width l.place l.width)) s
    let s2 := State.loadNow k p.wg p.loads s1
    let s3 := s2.updCore k (fun c => { c with loads := listDrop c.loads i })
    s3.updWg p.wg (fun w => { w with fibres := w.fibres.map p.into })

/-- Loads put on their way: each lane's registers are pending until its own load has been written (R41). -/
def State.sendLoads (s : State) (k wg : Nat) (ls : List Load) : State :=
  let regs (x : Fibre) : List Nat := (ls.filter (fun l => l.fibre = x.index)).flatMap (fun l => match l.dst with
    | .regs n => if n ≥ 240 then [] else (List.range (max 1 (l.width / 4))).map (fun i => n + i)
    | _ => [])
  let s1 := s.updWg wg (fun w => { w with fibres := w.fibres.map (fun x => { x with pendV := (regs x).foldl (fun m r => insertNat r m) x.pendV }) })
  let r := askAll k wg s1.nextKey ls s1
  r.2.updCore k (fun c => { c with loads := c.loads ++ r.1.map (fun l => { wg := wg, loads := [l] }) })

/-- The loads of one instruction into tables or patterns put on their way together, in lane order. -/
def State.sendTables (s : State) (k wg : Nat) (ls : List Load) : State :=
  if ls.isEmpty then s
  else
    let r := askAll k wg s.nextKey ls s
    r.2.updCore k (fun c => { c with loads := c.loads ++ [{ wg := wg, loads := r.1 }] })

/-- A load of a fibre of some lanes is on its way. -/
def Core.loading (c : Core) (wg : Nat) (lanes : List Fibre) : Bool :=
  c.loads.any (fun p => decide (p.wg = wg) && (p.loads.any (fun l => lanes.any (fun x => x.index = l.fibre)) ||
    p.writes.any (fun e => lanes.any (fun x => x.index = e.1))))

/-- A table or a pattern that a load on its way fills (R136, R175). -/
def Core.fills (c : Core) (wg : Nat) (d : LoadDst) : Bool := c.loads.any (fun p => decide (p.wg = wg) && p.loads.any (fun l => l.dst = d))

/-- What arrives may be written: all of it has been answered, and of one workgroup's pattern loads the earlier come first. -/
def Core.mayReturn (c : Core) (i : Nat) : Bool :=
  let pattern (l : Load) : Bool := match l.dst with | .pattern _ => true | _ => false
  match c.loads[i]? with
  | none => false
  | some p => p.request.isNone && !p.loads.any Load.awaits && (!p.loads.any pattern || !(c.loads.take i).any (fun q => decide (q.wg = p.wg) && q.loads.any pattern))

end Sys2Proof.Machine
end

