-- ==== Sys2Proof/Machine/Access.lean ====
section
/-! DEFINITION. Memory access instructions: loads and stores (R203 to R206), prefetch (R208), cache control (R209 to R211), address
queries (R212, R213), with the orders and scopes that `ORD` gives (R222, R238 to R240). -/

namespace Sys2Proof.Machine

/-- The address formed for a lane (R181): space 0 `.G`, 1 `.S`, 2 `.C`. -/
def addrOf (space : Nat) (c : Ctx) (x : Fibre) : Nat :=
  if space = 0 then (src64 c x c.f.srcA + c.f.imm.signExtend 64).toNat else (src32 c x c.f.srcA + c.f.imm).toNat

/-- The scope an access is made coherent at; `.WG` is an ordinary access (R222, R240). -/
def Ctx.scope (c : Ctx) : Nat := match c.ord with | some (_, sc) => sc | none => 0

/-- The release half of `ORD`, before any lane's access (R240). -/
def State.ordBefore (s : State) (c : Ctx) : State :=
  match c.ord with
  | some (o, sc) => if o ≥ 2 then s.release c.core sc else s
  | none => s

/-- The acquire half of `ORD`, after every lane's value has returned (R240): where one is still awaited, the batch holds for it. -/
def State.ordAfter (s : State) (c : Ctx) : State :=
  match c.ord with
  | some (o, sc) =>
    if o % 2 = 1 then (if (s.core c.core).loading c.wg.key c.passing then s.holdFor c.wg.key c.lanes [] (some sc) else s.acquire c.core sc) else s
  | none => s

/-- An order that R238 does not allow: `load` for `LD`, `write` for `ST` and `RED`. -/
def badOrderLoad (c : Ctx) : Bool := match c.ord with | some (o, _) => decide (o ≥ 2) | none => false
def badOrderWrite (c : Ctx) : Bool := match c.ord with | some (o, _) => decide (o % 2 = 1) | none => false

/-- Where a lane's access goes, or its failure (R203 steps 1 to 4). -/
def Ctx.laneAt (c : Ctx) (s : State) (space width perms : Nat) (x : Fibre) : Except AccessFault Place :=
  s.place c.core c.wg c.kernel space c.launch.space (addrOf space c x) width perms

/-- Steps 1 to 4 of R203 as the failure of a lane. -/
def Ctx.accessFault (c : Ctx) (s : State) (space width perms : Nat) (x : Fibre) : Option LaneFault :=
  match c.laneAt s space width perms x with
  | .error e => some (e.lane (addrOf space c x) width)
  | .ok _ => none

/-- The place of a lane that has passed its checks. -/
def Ctx.placeOf (c : Ctx) (s : State) (space width perms : Nat) (x : Fibre) : Place :=
  match c.laneAt s space width perms x with
  | .ok p => p
  | .error _ => .scratch 0 0 1

/-- The translation of a lane's `.G` address noted in the TLBs (R193). -/
def State.noteLane (s : State) (space : Nat) (c : Ctx) (x : Fibre) : State :=
  if space = 0 then s.noteTlb c.launch.space (addrOf 0 c x) else s

/-! Loads. -/

/-- Pending bits set and register writes whose values are known put on their way (R41). -/
def State.sendResults (s : State) (c : Ctx) (writes : List (Nat × Nat × Word × Bool)) : State :=
  if writes.isEmpty then s
  else
    let s1 := s.updLanes c (fun x => { x with
      pendV := (writes.filter (fun e => e.1 = x.index)).foldl (fun l e => insertNat e.2.1 l) x.pendV })
    s1.updCore c.core (fun k => { k with loads := k.loads ++ [{ wg := c.wg.key, writes := writes }] })

/-- A lane's load, at the place that its checks found. -/
def Ctx.loadOf (c : Ctx) (s : State) (space width : Nat) (x : Fibre) : Load :=
  { fibre := x.index, dst := .regs c.f.dst.toNat, place := c.placeOf s space width 1 x, width := width, signed := c.f.mod 2,
    hint := c.f.modBits 3 2, scope := c.scope }

/-- The prefixed order acquires. -/
def Ctx.acquires (c : Ctx) : Bool := match c.ord with | some (o, _) => decide (o % 2 = 1) | none => false

/-- The loads of lanes that have passed their checks: each is on its way (R41, R204). A load into `vz`, and one with an acquire half, whose fibre
issues nothing until its value has returned (R227, R240), is performed at once, where no other package has to answer one of them. -/
def State.loadLanes (s : State) (space width : Nat) (c : Ctx) : State :=
  let ls := c.passing.map (c.loadOf s space width)
  let u := c.passing.foldl (fun u x => u.noteLane space c x) s
  let far := ls.any (fun l => u.needsFar c.core l.scope l.width l.place)
  if (c.acquires || decide (c.f.dst.toNat ≥ 240)) && !far then State.loadNow c.core c.wg.key ls u else u.sendLoads c.core c.wg.key ls

/-- The body of `LD` (R203, R204). -/
def loadBody (space width : Nat) (c : Ctx) (t : State) : Except FaultInfo State :=
  match c.laneFault (c.accessFault t space width 1) with
  | some e => .error e
  | none => .ok (((t.loadLanes space width c).ordAfter c).updLanes c Fibre.next)

/-- The width in bytes of a width code, and of a `.Q` code (R201). -/
def widthOf (f : Fields) : Nat := 2 ^ f.modBits 0 2
def quadWidth (f : Fields) : Nat := 16 * 2 ^ f.modBits 0 2

/-- A load instruction. -/
def runLoad (op space : Nat) (sh : Shape) (width : Nat) (f : Fields) (s : State) : Host.Outcome State Fault Refusal :=
  runWith op (fun c => { sh with badOpcode := sh.badOpcode || badOrderLoad c }) f s (loadBody space width)

/-- `LD.S` (R203, R204). -/
def execLdS (f : Fields) (s : State) : Host.Outcome State Fault Refusal := runLoad 0x0B0 1 (.ld 1 f) (widthOf f) f s
/-- `LD.C` (R203, R204). -/
def execLdC (f : Fields) (s : State) : Host.Outcome State Fault Refusal := runLoad 0x0B1 2 (.ld 2 f) (widthOf f) f s
/-- `LD.G` (R203, R204). -/
def execLdG (f : Fields) (s : State) : Host.Outcome State Fault Refusal := runLoad 0x0B2 0 (.ld 0 f) (widthOf f) f s
/-- `LD.S.Q` (R203, R204). -/
def execLdSQ (f : Fields) (s : State) : Host.Outcome State Fault Refusal := runLoad 0x0B3 1 (.ldQ 1 f) (quadWidth f) f s
/-- `LD.C.Q` (R203, R204). -/
def execLdCQ (f : Fields) (s : State) : Host.Outcome State Fault Refusal := runLoad 0x0B4 2 (.ldQ 2 f) (quadWidth f) f s
/-- `LD.G.Q` (R203, R204). -/
def execLdGQ (f : Fields) (s : State) : Host.Outcome State Fault Refusal := runLoad 0x0B5 0 (.ldQ 0 f) (quadWidth f) f s

/-! Stores. -/

/-- The bytes a lane stores (R204, R205). -/
def storeBytes (width : Nat) (c : Ctx) (x : Fibre) : List Byte :=
  if width ≤ 4 then bytesOf width (src32 c x c.f.srcB).toNat
  else if width = 8 then bytesOf 8 (src64 c x c.f.srcB).toNat
  else (srcRun x c.f.srcB (width / 4)).flatMap (fun w => bytesOf 4 w.toNat)

/-- The lanes of a store in ascending order, each at the place that its checks found in `s0` and after its fibre's
earlier loads of the words (R223), so the highest lane's byte stands (R205). -/
def State.storeLanes (s0 : State) (space width : Nat) (c : Ctx) : List Fibre → State → State
  | [], s => s
  | x :: t, s =>
    let p := c.placeOf s0 space width 2 x
    let s1 := (s.takeOwn c.core c.wg.key x.index p width).writeAt c.core (c.f.modBits 3 2) c.scope p (storeBytes width c x)
    s0.storeLanes space width c t (s1.noteLane space c x)

/-- A workgroup that has written outside itself (R398). -/
def State.commits (s : State) (c : Ctx) (b : Bool) : State :=
  if b then s.updWg c.wg.key (fun w => { w with committed := true }) else s

/-- The body of `ST` (R203, R205). -/
def storeBody (role : Role) (space width : Nat) (c : Ctx) (t : State) : Except FaultInfo State :=
  let check (x : Fibre) : Option LaneFault :=
    match c.accessFault t space width 2 x with
    | some e => some e
    | none => if role.poisoned c x c.f.srcB then some { cls := 11, v0 := 2 ^ 64 - 1, v1 := c.f.srcB.toNat } else none
  match c.laneFault check with
  | some e => .error e
  | none =>
    let u := t.storeLanes space width c c.passing (t.ordBefore c)
    .ok (((u.ordAfter c).commits c (decide (space ≠ 1) && !c.passing.isEmpty)).updLanes c Fibre.next)

/-- A store instruction. -/
def runStore (op space : Nat) (sh : Shape) (width : Nat) (f : Fields) (s : State) : Host.Outcome State Fault Refusal :=
  runWith op (fun c => { sh with badOpcode := sh.badOpcode || badOrderWrite c }) f s (storeBody sh.b space width)

/-- `ST.S` (R203, R205). -/
def execStS (f : Fields) (s : State) : Host.Outcome State Fault Refusal := runStore 0x0B6 1 (.st 1 f) (widthOf f) f s
/-- `ST.C` (R203, R205). -/
def execStC (f : Fields) (s : State) : Host.Outcome State Fault Refusal := runStore 0x0B7 2 (.st 2 f) (widthOf f) f s
/-- `ST.G` (R203, R205). -/
def execStG (f : Fields) (s : State) : Host.Outcome State Fault Refusal := runStore 0x0B8 0 (.st 0 f) (widthOf f) f s
/-- `ST.S.Q` (R203, R205). -/
def execStSQ (f : Fields) (s : State) : Host.Outcome State Fault Refusal := runStore 0x0B9 1 (.stQ 1 f) (quadWidth f) f s
/-- `ST.C.Q` (R203, R205). -/
def execStCQ (f : Fields) (s : State) : Host.Outcome State Fault Refusal := runStore 0x0BA 2 (.stQ 2 f) (quadWidth f) f s
/-- `ST.G.Q` (R203, R205). -/
def execStGQ (f : Fields) (s : State) : Host.Outcome State Fault Refusal := runStore 0x0BB 0 (.stQ 0 f) (quadWidth f) f s

/-! Prefetch and cache control. -/

/-- The leaf and place of a `.G` address that a load would reach; none where it would fault (R208). -/
def Ctx.prefetchable (c : Ctx) (s : State) (x : Fibre) : Option (Nat × Attr) :=
  match s.place c.core c.wg c.kernel 0 c.launch.space (addrOf 0 c x) 1 1 with
  | .ok (.home pa a) => some (pa, a)
  | _ => none

/-- The request of a prefetch of a line homed on another package, unless one is under way (R469). -/
def State.askPrefetch (s : State) (k hint pa : Nat) (a : Attr) (l1 : Bool) : State :=
  if (s.prefetching k (pa / 128)).isSome then s
  else s.sendRequest (.prefetch k l1 hint a) (pa / 128) 0 (fun tag => .load tag (pa / 128 * 128) 128)

/-- `PRF.L1` of one lane (R208). -/
def State.prefetchL1 (c : Ctx) (s : State) (x : Fibre) : State :=
  match c.prefetchable s x with
  | some (pa, a) =>
    if a.cache = 0 ∨ a.cache = 2 then
      (if s.needsFar c.core 0 128 (.home (pa / 128 * 128) a) then s.askPrefetch c.core (c.f.modBits 3 2) pa a true
       else s.l1Fill c.core a (c.f.modBits 3 2) (pa / 128) (BitVec.allOnes 128))
    else s
  | none => s

/-- `PRF.L2` of one lane (R208): into the RDC for a remote line, else into the home L2. One that no other package has to answer is performed whole at
its issue, so a load that misses the L1 finds its words there (R469). -/
def State.prefetchL2 (c : Ctx) (s : State) (x : Fibre) : State :=
  match c.prefetchable s x with
  | some (pa, a) =>
    if a.cache = 3 then s
    else if remoteTo (dieOf c.core) pa then
      (if a.cache = 0 && farHome pa && !s.rdc.any (fun r => r.die = dieOf c.core && r.line = pa / 128) then
        s.askPrefetch c.core (c.f.modBits 3 2) pa a false
       else if a.cache = 0 then s.rdcRefresh (dieOf c.core) (pa / 128) true 0 (c.f.modBits 3 2) a.prio else s)
    else s.l2Touch (pa / 128) (c.f.modBits 3 2) a.prio
  | none => s

/-- `PRF.L1` (R208). -/
def execPrfL1 (f : Fields) (s : State) : Host.Outcome State Fault Refusal :=
  runBatch 0x0BC (.prf f) f s fun c t => .ok ((c.passing.foldl (State.prefetchL1 c) t).updLanes c Fibre.next)

/-- `PRF.L2` (R208). -/
def execPrfL2 (f : Fields) (s : State) : Host.Outcome State Fault Refusal :=
  runBatch 0x0BD (.prf f) f s fun c t => .ok ((c.passing.foldl (State.prefetchL2 c) t).updLanes c Fibre.next)

/-- The physical lines of a lane's range (R209), widened outward to lines, page by page, pages that do not translate skipped; none
stands for every line. -/
def Ctx.rangeLines (c : Ctx) (s : State) (x : Fibre) : Option (List (Nat × Nat)) :=
  let a := addrOf 0 c x
  let n := (src32 c x c.f.srcB).toNat
  if n ≥ 2 ^ 20 then none
  else if n = 0 then some []
  else
    let lo := a / 128 * 128
    let hi := (a + n + 127) / 128 * 128
    let pages := (List.range ((hi - 1) / 4096 - lo / 4096 + 1)).map (fun i => lo / 4096 + i)
    some (pages.filterMap (fun p =>
      let start := max lo (p * 4096)
      let stop := min hi (p * 4096 + 4096)
      match s.translate c.launch.space (start % 2 ^ 64) with
      | .ok (pa, _) => some (pa / 128, (stop - start) / 128)
      | .error _ => none))

/-- A line is in a range. -/
def inRange (r : Option (List (Nat × Nat))) (line : Nat) : Bool :=
  match r with
  | none => true
  | some l => l.any (fun e => decide (e.1 ≤ line) && decide (line < e.1 + e.2))

/-- Clean words of a line discarded; dirty words stay whole (R209). -/
def L1Line.cleanGone (l : L1Line) : L1Line :=
  let kept := l.valid &&& wordsMask l.dirty
  { l with valid := kept, owned := 0, data := Sparse.keep (fun i => kept.getLsbD i) l.data, poison := l.poison.filter (fun w => anyBits 128 kept (4 * w) 4) }

/-- RDC copies of a range discarded on a die. -/
def State.rdcDrop (s : State) (die : Nat) (r : Option (List (Nat × Nat))) : State :=
  { s with rdc := s.rdc.filter (fun e => !(e.die = die && inRange r e.line)) }

/-- Words of a line that the core owns, by word address. -/
def L1Line.ownedWords (l : L1Line) : List Nat := ((List.range 32).filter (fun i => l.owned.getLsbD i)).map (fun i => l.line * 32 + i)

/-- The clean words of a lane's range discarded from the L1 with their owned marks, and by modifier bit 0 the RDC's copies (R209). -/
def State.invalidateRange (c : Ctx) (u : State) (x : Fibre) : State :=
  let r := c.rangeLines u x
  let u1 := (((u.core c.core).l1.filter (fun l => inRange r l.line)).foldl (fun v l =>
    { v with owners := l.ownedWords.foldl (fun o w => if Sparse.get 0 o w = c.core + 1 then Sparse.set 0 o w 0 else o) v.owners }) u).updCore
      c.core (fun k => { k with l1 := (k.l1.map (fun l => if inRange r l.line then l.cleanGone else l)).filter (fun l => l.valid ≠ 0) })
  if c.f.mod 0 then u1.rdcDrop (dieOf c.core) r else u1

/-- `CCTL.INV` (R209). -/
def execCctlInv (f : Fields) (s : State) : Host.Outcome State Fault Refusal :=
  runBatch 0x0BE (.cctl true) f s fun c t => .ok ((c.passing.foldl (State.invalidateRange c) t).updLanes c Fibre.next)

/-- `CCTL.WB` (R209): dirty words go home and stay, clean. -/
def execCctlWb (f : Fields) (s : State) : Host.Outcome State Fault Refusal :=
  runBatch 0x0BF (.cctl false) f s fun c t =>
    let one (u : State) (x : Fibre) : State :=
      let r := c.rangeLines u x
      ((u.core c.core).l1.filter (fun l => inRange r l.line)).foldl (fun v l => v.flushLine c.core l.line (BitVec.allOnes 128) false) u
    .ok ((c.passing.foldl one t).updLanes c Fibre.next)

/-- `CCTL.WBINV` (R209): dirty words go home, the lines are discarded. -/
def execCctlWbinv (f : Fields) (s : State) : Host.Outcome State Fault Refusal :=
  runBatch 0x0C0 (.cctl true) f s fun c t =>
    let one (u : State) (x : Fibre) : State :=
      let r := c.rangeLines u x
      let u1 := ((u.core c.core).l1.filter (fun l => inRange r l.line)).foldl (fun v l => v.l1Evict c.core l.line) u
      if c.f.mod 0 then u1.rdcDrop (dieOf c.core) r else u1
    .ok ((c.passing.foldl one t).updLanes c Fibre.next)

/-- The priority of modifier bits [3:2] given to the lines of a lane's range: in the L1, the die's RDC and the home L2 (R210). -/
def State.prioritise (c : Ctx) (u : State) (x : Fibre) : State :=
  let k := c.f.modBits 2 2
  let r := c.rangeLines u x
  let u1 := u.updCore c.core (fun q => { q with l1 := q.l1.map (fun l => if inRange r l.line then { l with prio := k } else l) })
  { u1 with
    rdc := u1.rdc.map (fun e => if e.die = dieOf c.core && inRange r e.line then { e with prio := k } else e)
    l2 := u1.l2.map (fun e => if inRange r e.line then { e with prio := k } else e) }

/-- `CCTL.PRI` (R210). -/
def execCctlPri (f : Fields) (s : State) : Host.Outcome State Fault Refusal :=
  runBatch 0x0C1 .cctlPri f s fun c t => .ok ((c.passing.foldl (State.prioritise c) t).updLanes c Fibre.next)

/-! Address queries. -/

/-- The word of `AQRY.G` (R212). -/
def aqryWord (s : State) (space va : Nat) : Word :=
  let place (leaf : DWord) (pa : Nat) (shift : Nat) : Nat :=
    let a := attrOf leaf pa
    (a.cache + a.policy * 4 + a.comp * 16 + a.prio * 64) * 2 ^ shift + paTier pa * 2 ^ 14 + homeDie pa * 2 ^ 16 + homeSlice pa * 2 ^ 18 +
      (if paTier pa = 2 then 0 else paPackage pa) * 2 ^ 22
  match s.translate space va with
  | .error cause => BitVec.ofNat 32 (cause * 2)
  | .ok (pa, leaf) =>
    if pte leaf 2 1 = 0 then BitVec.ofNat 32 (2 * 2 + place leaf pa 6)
    else BitVec.ofNat 32 (1 + pte leaf 2 3 * 2 + pte leaf 5 2 * 16 + place leaf pa 6)

/-- `AQRY.G` and `AQRY.S` (R212, R213). -/
def execAqry (f : Fields) (s : State) : Host.Outcome State Fault Refusal :=
  runBatch 0x0C2 (.aqry f) f s fun c t =>
    let value (x : Fibre) : Word :=
      if c.f.mod 0 then
        let a := addrOf 1 c x
        if a < c.kernel.scratchBytes then BitVec.ofNat 32 (c.core % 48 * 2 ^ 18 + c.wg.scratchBase + a) else 0xFFFFFFFF
      else aqryWord t c.launch.space (addrOf 0 c x)
    .ok ((if c.f.mod 0 then t else c.passing.foldl (fun u x => u.noteLane 0 c x) t).lanewise c (fun x => x.set32 c.f.dst (value x)))

/-- `AQRY.H` (R213). -/
def execAqryH (f : Fields) (s : State) : Host.Outcome State Fault Refusal :=
  runBatch 0x0C3 .aqryH f s fun c t =>
    let value (x : Fibre) : DWord :=
      match t.translate c.launch.space (addrOf 0 c x) with
      | .ok (pa, leaf) => if pte leaf 2 1 = 1 then BitVec.ofNat 64 pa else BitVec.allOnes 64
      | .error _ => BitVec.allOnes 64
    .ok ((c.passing.foldl (fun u x => u.noteLane 0 c x) t).lanewise c (fun x => x.set64 c.f.dst (value x)))

end Sys2Proof.Machine
end

