-- ==== Sys2Proof/Machine/Rendezvous.lean ====
section
/-! DEFINITION. The lane rendezvous (R160 to R166, R178, R503): arrivals, completion, deadlock, and the operations performed at
completion (R168 to R172, R176). -/

namespace Sys2Proof.Machine

/-- Lanes of a mask. -/
def lanesOf (m : BitVec 32) : List Nat := (List.range 32).filter (fun i => m.getLsbD i)

/-- The reach of a lane instruction for a home lane (R162, R178): the tile, or the whole home warp for `PERM` (0x0AA) and `PART` (0x0A0). -/
def reachOf (compat : Bool) (w : Nat) (op lane : Nat) : BitVec 32 :=
  if compat then setBits 32 0 (lane / 16 * 16) 16
  else if op = 0xAA ∨ op = 0xA0 then BitVec.allOnes 32
  else setBits 32 0 (lane / w * w) w

/-- The lanes a member mask names (R162, R178). -/
def maskLanes (compat : Bool) (imm : Word) : BitVec 32 :=
  if compat then (imm &&& 0xFFFF) ||| ((imm &&& 0xFFFF) <<< 16) else imm

/-- An integer operator of `LRED` and `LSCAN` (R171). -/
def laneOpInt (k : Nat) (a b : Word) : Word :=
  match k with
  | 0 => a + b
  | 1 => if b.slt a then b else a
  | 2 => if b.ult a then b else a
  | 3 => if a.slt b then b else a
  | 4 => if a.ult b then b else a
  | 5 => a &&& b
  | 6 => a ||| b
  | _ => a ^^^ b

/-- The identity of an integer operator (R172). -/
def laneIdInt (k : Nat) : Word := match k with | 1 => 0x7FFFFFFF | 2 => 0xFFFFFFFF | 3 => 0x80000000 | 5 => 0xFFFFFFFF | _ => 0

/-- A float operator of `LRED.F` and `LSCAN.F` (R171). -/
def laneOpFloat (k : Nat) (mode : Mode) (a b : Word) : Word × Flags :=
  if k = 0 then
    let r := fAdd .f32 mode (Fmt.f32.value a.toNat) (Fmt.f32.value b.toNat)
    (BitVec.ofNat 32 r.1, r.2)
  else (BitVec.ofNat 32 (fMinMax .f32 (k = 2) false a.toNat b.toNat), 0)

def laneIdFloat (k : Nat) : Word := match k with | 1 => 0x7F800000 | 2 => 0xFF800000 | _ => 0

/-- The running combination: acc[k] with the flags of the steps up to it (R171). -/
def laneAccs (op : Word → Word → Word × Flags) : Word × Flags → List Word → List (Word × Flags)
  | acc, [] => [acc]
  | acc, x :: t => acc :: laneAccs op (let r := op acc.1 x; (r.1, r.2 ||| acc.2)) t

/-- What a completed lane operation does: each participant's new state, the flags each raises, and a new partition value. -/
structure LaneResult where
  fibres : List (Fibre × Flags)
  part : Option Nat := none
  deriving DecidableEq, Repr

/-- The operation of a rendezvous over its participants, in ascending lane order (R164, R168 to R172, R176). Special-register and
scalar sources have the `words` that each arrival's issue saw (R106, R109); a captured pattern of no bytes stands for a pattern number beyond the
workgroup's (R174), and the fault names the lane whose number it was (DEDUCED, log 23). DESIGN CHOICE (log 23): for `PART` values that differ the mask
has every lane whose value is not the lowest participant's, for an illegal width every participant. What an entry in a `bad` word of the pattern gives is
poisoned (R484). -/
def laneOperation (op : Nat) (c : Ctx) (parts : List Fibre) (base width : Nat) (words : List (Nat × Word × Word)) (pattern : Option (List Byte)) (captor : Nat)
    (bad : List Nat) : Except FaultInfo LaneResult :=
  let f := c.f
  let at' (lane : Nat) : Option Fibre := parts.find? (fun y => y.lane = lane)
  let plain (g : Fibre → Fibre) : Except FaultInfo LaneResult := .ok { fibres := parts.map (fun x => (g x, 0)) }
  let seen (x : Fibre) : Word × Word := ((words.find? (fun e => e.1 = x.lane)).map (fun e => e.2)).getD (0, 0)
  let a (x : Fibre) : Word := if f.srcA.toNat ≥ 0x140 then (seen x).1 else src32 c x f.srcA
  let b (x : Fibre) : Nat := (if f.srcB.toNat ≥ 0x140 then (seen x).2 else src32 c x f.srcB).toNat
  let xln (source : Fibre → Option Nat) : Except FaultInfo LaneResult :=
    plain fun x =>
      let from' := (source x).bind at'
      let v := match from' with | some y => a y | none => if f.mod 5 then 0 else a x
      let y := x.set32 f.dst v
      if f.mod 0 then y.setPred (f.modBits 1 4) from'.isSome else y
  let accsI (k : Nat) : List (Word × Flags) :=
    match parts.map a with
    | [] => []
    | x :: t => laneAccs (fun p q => (laneOpInt k p q, 0)) (x, 0) t
  let seqInt (k : Nat) : List Word := (accsI k).map (fun e => e.1)
  let accsF (k : Nat) (mode : Mode) : List (Word × Flags) :=
    match parts.map a with
    | [] => []
    | x :: t => laneAccs (laneOpFloat k mode) (if (Fmt.f32.value x.toNat).isNan then BitVec.ofNat 32 Fmt.f32.nanCode else x, 0) t
  let number (l : List (Word × Flags)) (i : Nat) : Word × Flags := (l[i]?).getD (0, 0)
  match op with
  | 0xA0 =>
    match parts with
    | [] => .ok { fibres := [] }
    | x :: _ =>
      match parts.filter (fun y => a y ≠ a x) with
      | y :: t => .error (c.illegal y f.srcA (y :: t))
      | [] =>
        let v := (a x).toNat
        if [2, 4, 8, 16, 32].contains v then .ok { fibres := parts.map (fun y => (y, 0)), part := some v } else .error (c.illegal x f.srcA parts)
  | 0xA1 => xln (fun x => some (base + b x % width))
  | 0xA2 => xln (fun x => if b x < width ∧ base + b x ≤ x.lane then some (x.lane - b x) else none)
  | 0xA3 => xln (fun x => if b x < width ∧ x.lane + b x ≤ base + width - 1 then some (x.lane + b x) else none)
  | 0xA4 => xln (fun x => some (x.lane ^^^ (b x % width)))
  | 0xA5 =>
    let bit (x : Fibre) : Bool := x.pred (predOf f.srcA) != f.mod 2
    let kind := f.modBits 0 2
    if kind = 3 then
      let v : Nat := parts.foldl (fun m x => if bit x then m ||| 2 ^ (x.lane - base) else m) 0
      plain (fun x => x.set32 f.dst (BitVec.ofNat 32 v))
    else
      let r : Bool := match kind with
        | 0 => parts.all bit
        | 1 => parts.any bit
        | _ => parts.all bit || !(parts.any bit)
      plain (fun x => x.setPred (predOf f.dst) r)
  | 0xA6 => let l := seqInt (f.modBits 0 3); plain (fun x => x.set32 f.dst (l.getLast?.getD 0))
  | 0xA8 =>
    let k := f.modBits 0 3
    let l := seqInt k
    .ok { fibres := parts.zipIdx.map (fun e =>
            let v := if f.mod 3 then (if e.2 = 0 then laneIdInt k else (l[e.2 - 1]?).getD 0) else (l[e.2]?).getD 0
            (e.1.set32 f.dst v, 0)) }
  | 0xA7 =>
    let r := (accsF (f.modBits 2 2) f.mode).getLast?.getD (0, 0)
    .ok { fibres := parts.map (fun x => (x.set32 f.dst r.1, r.2)) }
  | 0xA9 =>
    let k := f.modBits 2 2
    let l := accsF k f.mode
    .ok { fibres := parts.zipIdx.map (fun e =>
            let r := if f.mod 4 then (if e.2 = 0 then (laneIdFloat k, 0) else number l (e.2 - 1)) else number l e.2
            (e.1.set32 f.dst r.1, r.2)) }
  | _ =>
    let k := f.modBits 0 2 + 1
    let entry (l : Nat) : Nat := ofBytes (((pattern.getD []).drop (2 * l)).take 2)
    if pattern = some [] then
      match at' captor, parts with
      | some x, _ => .error (c.illegal x f.srcB)
      | none, x :: _ => .error (c.illegal x f.srcB)
      | none, [] => .ok { fibres := [] }
    else plain fun x =>
      let e := entry x.lane
      let s := if c.compat16 then x.lane / 16 * 16 + bitsOf e 0 5 % 16 else bitsOf e 0 5
      let v : Nat :=
        if bitsOf e 7 1 = 1 then 0
        else match at' s with
          | none => 0
          | some y =>
            let w := (y.reg (f.srcA.toNat + bitsOf e 5 2 % k)).toNat
            (List.range 4).foldl (fun n j => n + bitsOf w (8 * bitsOf e (8 + 2 * j) 2) 8 * 256 ^ j) 0
      (x.set32 f.dst (BitVec.ofNat 32 v)).tainted f.dst 0 (bad.contains (x.lane / 4))

/-- The row of a lane opcode, for its source roles. -/
def laneShape (op : Nat) (f : Fields) : Shape :=
  match op with
  | 0xA0 => .part f
  | 0xA1 | 0xA2 | 0xA3 | 0xA4 => .xln f
  | 0xA5 => .vote f
  | 0xA6 => .lred
  | 0xA7 => .lredF f
  | 0xA8 => .lscan
  | 0xA9 => .lscanF f
  | _ => .perm f

/-- A batch's context seen from a rendezvous: its PC, its word, its arrived members. -/
def Ctx.forRendezvous (s : State) (w : Workgroup) (r : Rendezvous) (lanes : List Fibre) : Ctx :=
  let l := (s.launch? w.launch).getD { lseq := w.launch, kind := .packet }
  { core := w.core, slot := 0, wg := w, launch := l, kernel := l.kernel.getD {}, hwarp := r.hwarp, lanes := lanes, pc := r.pc,
    word := wordOf r.kind r.fields, f := r.fields, ord := none, tide := s.tide, cyc := s.cyc.getD w.core 0 }

/-- Live fibres of a home warp in a lane mask. -/
def Workgroup.inLanes (w : Workgroup) (hw : Nat) (m : BitVec 32) : List Fibre :=
  w.fibres.filter (fun x => decide (x.hwarp = hw) && m.getLsbD x.lane)

/-- The same rendezvous (R162). -/
def Rendezvous.same (a b : Rendezvous) : Bool := decide (a.hwarp = b.hwarp) && decide (a.pc = b.pc) && decide (a.reach = b.reach)

/-- A fibre waits at a rendezvous, arrived or not. -/
def Rendezvous.holds (r : Rendezvous) (x : Fibre) : Bool :=
  decide (x.hwarp = r.hwarp) && decide (x.wait = .lane) && decide (x.pc = r.pc) && r.reach.getLsbD x.lane

/-- The registers of a fibre that an open rendezvous it has arrived at will write (R41, R164). -/
def Workgroup.laneDst (w : Workgroup) (x : Fibre) : List Nat :=
  (w.rendezvous.filter (fun r => r.holds x && r.passed.getLsbD x.lane)).flatMap (fun r => (laneShape r.kind r.fields).writesV r.fields)

/-- A step-7 fault of a rendezvous (R165): the workgroup parks with it. One found while the workgroup is parked takes no effect: the record is
discarded, and its fibres stay at the instruction (R385). -/
def State.rendezvousFault (s : State) (key : Nat) (r : Rendezvous) (arrived : List Fibre) (e : FaultInfo) : State :=
  if (s.wg? key).any (fun w => w.parked.isSome) then
    (s.updWg key (fun w => { w with rendezvous := w.rendezvous.filter (fun q => !q.same r) })).wakeWg key r.holds id
  else s.park key { e with lanes := arrived.map (fun x => x.index), reach := some r.reach }

/-- A rendezvous performed (R164, R165): the step-7 fault, or the results, and every arrived member at its next PC. -/
def State.performRendezvous (s : State) (key : Nat) (r : Rendezvous) : State :=
  match s.wg? key with
  | none => s
  | some w =>
    let arrived := w.inLanes r.hwarp r.arrived
    let parts := arrived.filter (fun x => r.passed.getLsbD x.lane)
    let c := Ctx.forRendezvous s w r arrived
    let base := match lanesOf r.reach with | l :: _ => l | [] => 0
    let held (e : FaultInfo) : State := s.rendezvousFault key r arrived e
    let sh := laneShape r.kind r.fields
    let poisoned := parts.filter (fun x => sh.a.poisoned c x r.fields.srcA || sh.b.poisoned c x r.fields.srcB)
    match poisoned with
    | x :: _ =>
      let code := if sh.a.poisoned c x r.fields.srcA then r.fields.srcA else r.fields.srcB
      held (c.fault 11 x.index (2 ^ 64 - 1) code.toNat (laneMask poisoned))
    | [] =>
      match laneOperation r.kind c parts base r.width r.words r.pattern r.captor r.patternBad with
      | .error e => held e
      | .ok res =>
        match res.fibres.find? (fun e => e.2 &&& c.launch.traps ≠ 0) with
        | some (x, fl) =>
          let bad := (res.fibres.filter (fun e => e.2 &&& c.launch.traps ≠ 0)).map (fun e => e.1)
          held (c.fault 12 x.index c.wordHigh 0 (laneMask bad) 0 fl)
        | none =>
          let now := s.tide.toNat
          let new (x : Fibre) : Fibre := ((res.fibres.find? (fun e => e.1.index = x.index)).map (fun e => e.1)).getD x
          let raised := res.fibres.foldl (fun m e => m ||| e.2) 0
          let s1 := s.updWg key (fun w => { w with
            rendezvous := w.rendezvous.filter (fun q => !q.same r)
            fflags := w.fflags ||| raised
            part := match res.part with | some v => Sparse.set 32 w.part r.hwarp v | none => w.part
            srPoison := if res.part.isSome then w.srPoison.filter (fun n => n ≠ srKey r.hwarp 27) else w.srPoison })
          let s2 := s1.updWg key (fun w => w.wake now (fun x => r.holds x && r.arrived.getLsbD x.lane) (fun x => { new x with pc := seqPc r.pc }))
          s2.updWg key (fun w => w.wake now r.holds id)

/-- Every live member has arrived or ended (R164). -/
def Rendezvous.full (r : Rendezvous) (w : Workgroup) : Bool :=
  (w.inLanes r.hwarp r.members).all (fun x => r.arrived.getLsbD x.lane)

/-- Rendezvous of a home warp that an ending fibre completes (R164, R85); a member that has ended is none any more, whatever takes its lane. -/
def State.endedRendezvous (s : State) (key hw : Nat) : State :=
  match s.wg? key with
  | none => s
  | some w => (w.rendezvous.filter (fun r => r.hwarp = hw)).foldl (fun t r =>
      match t.wg? key with
      | some v =>
        let r' := { r with members := laneMask (v.inLanes hw r.members) }
        if r'.full v && !(v.inLanes hw r.arrived).isEmpty then t.performRendezvous key r'
        else t.updWg key (fun x => { x with
          rendezvous := if r'.members = 0 then x.rendezvous.filter (fun q => !q.same r) else x.rendezvous.map (fun q => if q.same r then r' else q) })
      | none => t) s

/-- Every live fibre of a reach waits in a lane rendezvous that is not complete (R166): the barrier fault of cause 8, at the rendezvous where the lowest
of them waits. DESIGN CHOICE (log 23): the record's mask has the lanes that wait there. -/
def State.deadlock (s : State) (key hw : Nat) (reach : BitVec 32) : State :=
  match s.wg? key with
  | none => s
  | some w =>
    let live := w.inLanes hw reach
    if w.parked.isSome || live.isEmpty || !live.all (fun x => decide (x.wait = .lane)) then s
    else
      match live.findSome? (fun x => (w.rendezvous.find? (fun r => r.holds x)).map (fun r => (x, r))) with
      | none => s
      | some (x, r) =>
        let c := Ctx.forRendezvous s w r live
        s.park key { c.fault 15 x.index 0 0 (laneMask (w.fibres.filter r.holds)) 8 with lanes := live.map (fun y => y.index), reach := some reach }

/-- The reaches of a home warp's open rendezvous that lanes which have just arrived lie in, looked at after the arrivals (R166). -/
def State.deadlocks (s : State) (key hw : Nat) (lanes : BitVec 32) : State :=
  match s.wg? key with
  | none => s
  | some w =>
    (((w.rendezvous.filter (fun r => decide (r.hwarp = hw) && decide (r.reach &&& lanes ≠ 0))).map (fun r => r.reach)).eraseDups).foldl
      (fun t m => t.deadlock key hw m) s

/-- The arrivals of one reach (R163, R503). -/
def State.arriveReach (op : Nat) (c : Ctx) (s : State) (reach : BitVec 32) : State :=
  match s.wg? c.wg.key with
  | none => s
  | some w =>
    let group := c.lanes.filter (fun x => reach.getLsbD x.lane)
    let mask := maskLanes c.compat16 c.f.imm
    let fresh : Rendezvous :=
      { hwarp := c.hwarp, pc := c.pc, reach := reach, width := partWidth c.compat16 w c.hwarp, words := [],
        members := laneMask (w.inLanes c.hwarp (mask &&& reach)), arrived := 0, passed := 0, pattern := none, fields := c.f, kind := op }
    let r0 := (w.rendezvous.find? (fun r => r.same fresh)).getD fresh
    let ins := group.filter (fun x => r0.members.getLsbD x.lane && !r0.arrived.getLsbD x.lane)
    let passing := ins.filter (passes c.f)
    let number (x : Fibre) : Nat := (src32 c x c.f.srcB).toNat % 64
    let pattern := if op ≠ 0xAA then none else match r0.pattern, passing with
      | some p, _ => some p
      | none, x :: _ => some (if number x < c.kernel.palette / 64 then Bytes.read w.patterns (64 * number x) 64 else [])
      | none, [] => none
    let r := { r0 with
      arrived := r0.arrived ||| laneMask ins, passed := r0.passed ||| laneMask passing, pattern := pattern
      patternBad := if r0.pattern.isSome then r0.patternBad
        else match passing with
          | x :: _ => (List.range 8).filter (fun i => decide (op = 0xAA) && w.patternPoison.contains (8 * number x + i))
          | [] => []
      captor := if r0.pattern.isSome then r0.captor else (passing.head?.map Fibre.lane).getD 0
      words := r0.words ++ ins.map (fun x => (x.lane, src32 c x c.f.srcA, src32 c x c.f.srcB)) }
    let now := s.tide.toNat
    let rest := w.rendezvous.filter (fun q => !q.same r)
    let s1 := s.updWg c.wg.key (fun w => { w with
      rendezvous := rest ++ [r]
      fibres := w.fibres.map (fun x => if group.any (fun y => y.index = x.index) then
        { x.sleep .lane 0 0 0 0 now with outsider := !ins.any (fun y => y.index = x.index) } else x) })
    match s1.wg? c.wg.key with
    | none => s1
    | some w1 => if r.full w1 then s1.performRendezvous c.wg.key r else s1

/-- The reach of a lane's arrival: that of an open rendezvous of the instruction over the lane, whose partition stands (R161), else a new one's. -/
def Ctx.reach (c : Ctx) (op : Nat) (x : Fibre) : BitVec 32 :=
  match c.wg.rendezvous.find? (fun r => decide (r.hwarp = c.hwarp) && decide (r.pc = c.pc) && decide (r.kind = op) && r.reach.getLsbD x.lane) with
  | some r => r.reach
  | none => reachOf c.compat16 (partWidth c.compat16 c.wg c.hwarp) op x.lane

/-- The reaches of a batch's lanes, in ascending order. -/
def reachesOf (op : Nat) (c : Ctx) : List (BitVec 32) := (c.lanes.map (c.reach op)).eraseDups

/-- A lane instruction issued by a batch (R163), and then the check of R166. -/
def arriveLanes (op : Nat) (c : Ctx) (s : State) : Except FaultInfo State :=
  .ok (((reachesOf op c).foldl (State.arriveReach op c) s).deadlocks c.wg.key c.hwarp (laneMask c.lanes))

end Sys2Proof.Machine
end

