-- ==== Sys2Proof/Machine/Control.lean ====
section
/-! DEFINITION. Residency contexts (R257, R258, R455), and the control and fibre instructions (R78 to R88). -/

namespace Sys2Proof.Machine

/-! Contexts and the rotation store. -/

/-- The initial allotment of a kernel (R51). -/
def Kernel.allot (k : Kernel) : Nat := bitsOf k.header.toNat 8 8 * 16

/-- Fibres of a workgroup at its start (R64). -/
def Kernel.fibres (k : Kernel) : Nat := k.dimX * k.dimY * k.dimZ

/-- The resident count *R* (R455). -/
def Kernel.resident (k : Kernel) : Nat :=
  if k.cap ≠ 0 then k.cap else min k.fibres (min 2048 (65536 / max 1 k.allot))

/-- Initial fibres placed resident at admission (R456). -/
def Kernel.placed (k : Kernel) : Nat := min k.fibres k.resident

/-- Registers that admission reserves (R455). -/
def Kernel.reserved (k : Kernel) : Nat := k.allot * k.resident

/-- Registers of a workgroup's resident windows. -/
def Workgroup.windows (w : Workgroup) : Nat := (w.fibres.filter (fun x => x.resident)).foldl (fun n x => n + x.allot) 0

/-- Workgroups that hold a place on a core. -/
def State.wgsOn (s : State) (k : Nat) : List Workgroup := s.wgs.filter (fun w => decide (w.core = k) && decide (w.preempt ≠ .saved))

/-- The scheduler of a home warp (R67). -/
def Workgroup.scheduler (w : Workgroup) (hw : Nat) : Nat := (w.startSched + hw) % 4

/-- Fibres that may share a batch: one home warp, one PC, both waiting or both not, both members or both not of the rendezvous at which they wait,
under compat16 one half (R66, R68, R70, R503). -/
def sameBatch (compat : Bool) (x y : Fibre) : Bool :=
  decide (x.hwarp = y.hwarp) && decide (x.pc = y.pc) && decide ((x.wait = .run) ↔ (y.wait = .run)) && decide (x.outsider = y.outsider) &&
    (!compat || decide (x.lane / 16 = y.lane / 16))

/-- Fibres that stand on a core without a slot: resident, and not chosen to be saved. -/
def State.unplaced (s : State) (k : Nat) : List (Nat × Nat) :=
  (s.wgsOn k).flatMap (fun w => (w.fibres.filter (fun x => x.resident && !x.leaving &&
    !(s.core k).slots.any (fun z => decide (z.wg = w.key) && z.lanes.contains x.index))).map (fun x => (w.key, x.index)))

/-- Free warp slots of a scheduler, a restore's reserved one counted as taken (R262). -/
def State.freeSlots (s : State) (k sched : Nat) : Nat :=
  let c := s.core k
  let taken := (c.slots.filter (fun sl => sl.id / 16 = sched)).length
  let held := match c.transfer with
    | some t => if t.save then 0 else if (s.wg? t.wg).any (fun w => w.scheduler (t.fibre / 32) = sched) then 1 else 0
    | none => 0
  16 - taken - held

/-- The fibres and registers that a restore under way reserves for a workgroup (R262). -/
def State.reservedFor (s : State) (w : Workgroup) : Nat × Nat :=
  match (s.core w.core).transfer with
  | some t => if decide (t.wg = w.key) && !t.save then (1, ((w.fibre? t.fibre).map (fun x => x.allot)).getD 0) else (0, 0)
  | none => (0, 0)

/-- Conditions one to three of R258 for `n` more resident fibres and `regs` more registers of a workgroup. -/
def State.fits (s : State) (w : Workgroup) (n regs : Nat) : Bool :=
  let all := s.wgsOn w.core
  let kernel := s.kernelOf w
  let count (v : Workgroup) : Nat := (v.fibres.filter (fun x => x.resident)).length + (s.reservedFor v).1
  let excess (v : Workgroup) : Nat := v.windows + (s.reservedFor v).2 - (s.kernelOf v).reserved
  let pool := 65536 - all.foldl (fun m v => m + (s.kernelOf v).reserved) 0 - (all.filter (fun v => v.key ≠ w.key)).foldl (fun m v => m + excess v) 0
  (decide (kernel.cap = 0) || decide (count w + n ≤ kernel.cap)) && decide (w.windows + (s.reservedFor w).2 + regs ≤ kernel.reserved + pool) &&
    decide (all.foldl (fun m v => m + count v) 0 + n ≤ 2048)

/-- Batches of a scheduler that have no slot yet: groups of fibres without one, none of which can join a batch that has. -/
def State.newBatches (s : State) (k sched : Nat) : Nat :=
  let lone := (s.unplaced k).filterMap (fun e => (s.wg? e.1).bind (fun w => (w.fibre? e.2).map (fun x => (w, x))))
  let placed (w : Workgroup) (x : Fibre) : Bool := (s.core k).slots.any (fun z => decide (z.wg = w.key) &&
    z.lanes.any (fun i => (w.fibre? i).any (fun y => decide (x.wait = .run) && sameBatch (s.compat16 w) x y)))
  let mine := lone.filter (fun e => decide (e.1.scheduler e.2.hwarp = sched) && !placed e.1 e.2)
  ((mine.map (fun e => (e.1.key, e.2.hwarp, e.2.pc, decide (e.2.wait = .run), e.2.outsider, if s.compat16 e.1 then e.2.lane / 16 else 0))).eraseDups).length

/-- A fibre has a free context (R258). -/
def State.freeContext (s : State) (w : Workgroup) (x : Fibre) : Bool :=
  s.fits w 1 x.allot &&
    (w.fibres.any (fun y => y.resident && !y.leaving && decide (y.index ≠ x.index) && decide (x.wait = .run) && sameBatch (s.compat16 w) x y) ||
      decide (s.freeSlots w.core (w.scheduler x.hwarp) > s.newBatches w.core (w.scheduler x.hwarp)))

/-- Bytes of a saved fibre's record (R257). -/
def recordBytes (allot : Nat) : Nat := 16 + 4 * allot

/-- Room in a workgroup's area of the rotation store for `n` more fibres of an allotment (R83, R257). -/
def State.storeRoom (s : State) (w : Workgroup) (n allot : Nat) : Bool :=
  w.storeArea.isSome &&
    (let used := (w.fibres.filter (fun x => !x.resident || x.leaving)).foldl (fun m x => m + recordBytes (max x.allot x.toAllot)) 0
     decide (used + n * recordBytes allot ≤ ((s.launch? w.launch).map (fun l => l.storeArea)).getD 0))

/-- A fibre to be saved with a new allotment has it (R283). -/
def Fibre.regrown (x : Fibre) : Fibre := if x.toAllot = 0 then x else { x with allot := x.toAllot, toAllot := 0 }

/-! Branches and calls. -/

/-- `BRA` (R78). -/
def execBra (f : Fields) (s : State) : Host.Outcome State Fault Refusal :=
  runBatch 0x001 .bra f s fun c t =>
    t.transfer c (fun _ => some (immTarget c.pc c.f.imm)) (fun x pc => if backward c.pc pc then x.spinBranch c.pc t.tide.toNat else x) id

/-- A PC that a lane takes other than `seq(PC)`, which is no transfer (R79). -/
def elsewhere (pc tgt : BitVec 64) : Option (BitVec 64) := if tgt = seqPc pc then none else some tgt

/-- `BRX` (R79). -/
def execBrx (f : Fields) (s : State) : Host.Outcome State Fault Refusal :=
  runBatch 0x002 .brx f s fun c t =>
    t.transfer c (fun x => elsewhere c.pc (src64 c x c.f.srcA)) (fun x pc => if backward c.pc pc then x.spinBranch c.pc t.tide.toNat else x) id

/-- `BRX.TBL` (R79). -/
def execBrxTbl (f : Fields) (s : State) : Host.Outcome State Fault Refusal :=
  runBatch 0x003 .brxTbl f s fun c t =>
    let base := immTarget c.pc c.f.imm
    let tgt (x : Fibre) : Option (BitVec 64) :=
      if (src32 c x c.f.srcA).toNat < (src32 c x c.f.srcB).toNat then
        elsewhere c.pc (if pcSlot base > 4 then base else slotsAfter base (src32 c x c.f.srcA).toNat)
      else none
    t.transfer c tgt (fun x pc => if backward c.pc pc then x.spinBranch c.pc t.tide.toNat else x) id

/-- `CALL` (R82). -/
def execCall (f : Fields) (s : State) : Host.Outcome State Fault Refusal :=
  runBatch 0x004 .call f s fun c t =>
    t.transfer c (fun _ => some (immTarget c.pc c.f.imm)) (fun x _ => x.set64 c.f.dst (seqPc c.pc)) id

/-- `CALL.X` (R82): source A is read before the link is written. DESIGN CHOICE (log 24): a call of seq(PC) is a transfer. -/
def execCallX (f : Fields) (s : State) : Host.Outcome State Fault Refusal :=
  runBatch 0x005 .callX f s fun c t =>
    t.transfer c (fun x => some (src64 c x c.f.srcA)) (fun x _ => x.set64 c.f.dst (seqPc c.pc)) id

/-- `RET` (R82). DESIGN CHOICE (log 24): a return to seq(PC) is a transfer, so that its target mark is checked (R27), where that of `BRX` is none (R79). -/
def execRet (f : Fields) (s : State) : Host.Outcome State Fault Refusal :=
  runBatch 0x006 .brx f s fun c t => t.transfer c (fun x => some (src64 c x c.f.srcA)) (fun x _ => x) id

/-- `BRA.LOOP` (R80). -/
def execBraLoop (f : Fields) (s : State) : Host.Outcome State Fault Refusal :=
  runBatch 0x00C .braLoop f s fun c t =>
    let count (x : Fibre) : Word := src32 c x c.f.srcA - 1
    t.transfer c (fun x => if count x ≠ 0 then some (immTarget c.pc c.f.imm) else none)
      (fun x _ => x.set32 c.f.dst (count x)) (fun x => x.set32 c.f.dst (count x))

/-! Fibre creation and end. -/

/-- The checks of the target of `FSPAWN` (R83): R24, R28 and R27. -/
def State.spawnFault (s : State) (c : Ctx) (x : Fibre) (target : BitVec 64) : Option FaultInfo :=
  let bad := c.fault 4 x.index target.toNat 0 (laneMask c.passing)
  if !pcLegal target then some bad
  else
    match s.fetchLine c.launch target with
    | .error cause => some { c.fault 10 x.index target.toNat 64 (laneMask c.passing) cause with site := some c.pc }
    | .ok l =>
      match entryFault (.ok l) target x.index (laneMask c.passing) with
      | some e => some { e with site := some c.pc }
      | none => if targetBit l (pcSlot target) then none else some bad

/-- The lowest index at or above `k` that no live fibre has (R83). -/
def lowestFree (used : List Nat) : Nat → Nat → Nat
  | 0, k => k
  | n + 1, k => if used.contains k then lowestFree used n (k + 1) else k

/-- A fibre put in its place in ascending index. -/
def insertFibre (x : Fibre) : List Fibre → List Fibre
  | [] => [x]
  | y :: t => if x.index < y.index then x :: y :: t else y :: insertFibre x t

/-- The fibre that `create` of R83 makes for a workgroup. -/
def State.newFibre (s : State) (w : Workgroup) (allot : Nat) (target : BitVec 64) (arg : Word) : Fibre :=
  { index := lowestFree (w.fibres.map (fun x => x.index)) 4096 0, pc := target, allot := allot, regs := Sparse.set 0 [] 0 arg, resident := false,
    residentSince := s.tide.toNat, queuedSince := s.tide.toNat }

/-- `create` of R83, `n` times: fibres from the target with consecutive arguments; the first index created. -/
def State.create (key allot : Nat) (target : BitVec 64) : Nat → Word → State → State × Option Nat
  | 0, _, s => (s, none)
  | n + 1, arg, s =>
    match s.wg? key with
    | none => (s, none)
    | some w =>
      let x := s.newFibre w allot target arg
      let here := s.freeContext w x
      let s1 := s.updWg key (fun w => { w with
        fibres := insertFibre { x with resident := here } w.fibres
        queue := if here then w.queue else w.queue ++ [x.index] })
      ((State.create key allot target n (arg + 1) s1).1, some x.index)

/-- Each of `n` fibres made one after another has a free context at once (R392). -/
def State.contextsFor (key allot : Nat) (target : BitVec 64) : Nat → State → Bool
  | 0, _ => true
  | n + 1, s =>
    match s.wg? key with
    | none => false
    | some w => s.freeContext w (s.newFibre w allot target 0) && State.contextsFor key allot target n (State.create key allot target 1 0 s).1

/-- `store_room` of R83 for the fibres of a lane: room in the store, or for a handler's workgroup, which has none, free contexts (R392). -/
def State.spawnRoom (s : State) (w : Workgroup) (n allot : Nat) (target : BitVec 64) : Bool :=
  if (s.launch? w.launch).any (fun l => l.kind = .handler) then State.contextsFor w.key allot target n s else s.storeRoom w n allot

/-- The lanes of an `FSPAWN` in ascending order (R83): each creates its fibres or writes 0xFFFF_FFFF. -/
def State.spawnLanes (c : Ctx) (target : BitVec 64) (count : Fibre → Nat) : List Fibre → State → State
  | [], s => s
  | x :: t, s =>
    let w := s.wgOf c
    let n := count x
    let write (u : State) (v : Word) : State := u.updWg c.wg.key (fun w => w.updFibre x.index (fun y => y.set32 c.f.dst v))
    let s1 :=
      if n = 0 ∨ n > 4096 - w.fibres.length ∨ !s.spawnRoom w n x.allot target then write s 0xFFFFFFFF
      else
        let r := State.create c.wg.key x.allot target n (src32 c x c.f.srcA) s
        write r.1 (BitVec.ofNat 32 (r.2.getD 0))
    State.spawnLanes c target count t s1

/-- The common body of `FSPAWN` and `FSPAWN.N`. -/
def spawnBody (c : Ctx) (t : State) (count : Fibre → Nat) : Except FaultInfo State :=
  let target := immTarget c.pc c.f.imm
  match c.passing with
  | [] => .ok (t.lanewise c id)
  | x :: _ =>
    match t.spawnFault c x target with
    | some e => .error e
    | none => .ok ((State.spawnLanes c target count c.passing t).updLanes c (fun y => y.next))

/-- `FSPAWN` (R83). -/
def execFspawn (f : Fields) (s : State) : Host.Outcome State Fault Refusal :=
  runBatch 0x007 .fspawn f s fun c t => spawnBody c t (fun _ => 1)

/-- `FSPAWN.N` (R83). -/
def execFspawnN (f : Fields) (s : State) : Host.Outcome State Fault Refusal :=
  runBatch 0x008 .fspawnN f s fun c t => spawnBody c t (fun x => (src32 c x c.f.srcB).toNat)

/-- A core adds `n` ended fibres that issued `issued` instructions to what it counts for a launch (R397). -/
def Core.noteEnded (k : Core) (launch n issued : Nat) : Core :=
  { k with
    endedStats := match k.endedStats.find? (fun e => e.1 = launch) with
      | some e => (e.1, e.2.1 + n, e.2.2 + issued) :: k.endedStats.filter (fun e => e.1 ≠ launch)
      | none => (launch, n, issued) :: k.endedStats }

/-- `FEND` (R85): each fibre whose pending bits have cleared ends, and one with a pending bit stands at the instruction; then rendezvous and
live-mode barriers look again (R164, R271), and the core notes what they issued, this instruction among it (R397). -/
def execFend (f : Fields) (s : State) : Host.Outcome State Fault Refusal :=
  runBatch 0x009 .ctl f s fun c t =>
    let ended := c.passing.filter (fun x => x.pendV.isEmpty && x.pendP.isEmpty)
    let ending (x : Fibre) : Bool := ended.any (fun y => y.index = x.index)
    let t1 := t.updLanes c (fun x => if passes c.f x then x else x.next)
    if ended.isEmpty then .ok t1
    else
      let t2 := t1.updWg c.wg.key (fun w => { w with fibres := w.fibres.filter (fun x => !ending x) })
      let t3 := t2.updCore c.core (fun k => k.noteEnded c.wg.launch ended.length (ended.foldl (fun m x => m + x.issued + 1) 0))
      .ok ((t3.endedRendezvous c.wg.key c.hwarp).liveRecheck c.wg.key)

/-- `YIELD` (R87): each fibre whose guard passes is an eviction candidate until the batch next issues. -/
def execYield (f : Fields) (s : State) : Host.Outcome State Fault Refusal :=
  runBatch 0x00A .ctl f s fun c t => .ok (t.lanewise c (fun x => { x with yielded := true, candidateSince := t.tide.toNat }))

/-- `NOP` (R88). -/
def execNop (f : Fields) (s : State) : Host.Outcome State Fault Refusal := runLanes 0x00B .ctl f s (fun _ x => x)

end Sys2Proof.Machine
end

