-- ==== Sys2Proof/Machine/Order.lean ====
section
/-! DEFINITION. Phases, fences, the `ORD` prefix (R226 to R240) and atomics (R241 to R246). -/

namespace Sys2Proof.Machine

/-! Boundaries. A boundary issues once the loads before it of its batch have returned (R226, R227, `Member.free`). -/

/-- The deferred barrier or `RED` fault that the batch's home warp takes at its next boundary (R246, R501). -/
def Ctx.heldFault (c : Ctx) : Option Deferred := c.wg.deferredOf (fun d => d.cls ≥ 11 ∧ d.info.fibre / 32 = c.hwarp)

/-- A boundary that first delivers a held fault: then it takes no effect and stays at its PC. -/
def boundary (c : Ctx) (t : State) (g : State → State) : Except FaultInfo State :=
  match c.heldFault with
  | some d => .ok (t.deliver c.wg.key d)
  | none => .ok ((g t).updLanes c Fibre.next)

/-- `PHASE.REL` (R226). -/
def execPhaseRel (f : Fields) (s : State) : Host.Outcome State Fault Refusal :=
  runBatch 0x0D0 (.phase f) f s fun c t => boundary c t (fun u => u.releaseBy c.core c.wg.key c.lanes (c.f.modBits 0 3) false)

/-- `PHASE.ACQ` (R218, R227). -/
def execPhaseAcq (f : Fields) (s : State) : Host.Outcome State Fault Refusal :=
  runBatch 0x0D1 (.phase f) f s fun c t => boundary c t (fun u => u.acquireBy c.core c.wg.key c.lanes (c.f.modBits 0 3))

/-- `PHASE.AR` (R229). -/
def execPhaseAr (f : Fields) (s : State) : Host.Outcome State Fault Refusal :=
  runBatch 0x0D2 (.phase f) f s fun c t =>
    boundary c t (fun u => u.releaseBy c.core c.wg.key c.lanes (c.f.modBits 0 3) true)

/-- `FENCE` (R235): it issues once the batch's loads have returned (`Member.free`), and every other access is performed as it issues but the stores
that other packages have still to acknowledge, for which it waits. -/
def execFence (f : Fields) (s : State) : Host.Outcome State Fault Refusal :=
  runBatch 0x0D3 (.fence f) f s fun c t => boundary c t (fun u => u.holdStores c)

/-- A workgroup after a `FENCE.E` of an issuer: a new epoch of its engine operations, which does not start before the writes named are acknowledged. -/
def Workgroup.fence (w : Workgroup) (issuer : Nat) (acks : List Nat) : Workgroup :=
  let n := Sparse.get 0 w.fenceEpoch issuer + 1
  { w with fenceEpoch := Sparse.set 0 w.fenceEpoch issuer n, fenceAcks := if acks.isEmpty then w.fenceAcks else w.fenceAcks ++ [(issuer, n, acks)] }

/-- `FENCE.E` (R218, R236): the issuer's engine stream is marked, and the dirty words present go home at the scope; engine operations issued later wait
until other packages have acknowledged what is then out. -/
def execFenceE (f : Fields) (s : State) : Host.Outcome State Fault Refusal :=
  runBatch 0x0D4 (.phase f) f s fun c t =>
    let u := t.release c.core (c.f.modBits 0 3)
    .ok ((u.updWg c.wg.key (fun w => w.fence (issuerOf c.compat16 (lowestFibre c.lanes)) u.openStores)).updLanes c Fibre.next)

/-- `ORD` (R237): the batch stands at the prefixed instruction, which `step` performs in the same step. -/
def execOrd (f : Fields) (s : State) : Host.Outcome State Fault Refusal :=
  runBatch 0x0D5 (.ord f) f s fun c t =>
    let u := { t with issue := t.issue.map (fun (i : Issue) => ({ core := i.core, slot := i.slot, ord := some (c.f.modBits 0 2, c.f.modBits 2 3) } : Issue)) }
    .ok (u.updLanes c Fibre.next)

/-! Atomics. -/

/-- An atomic operation (R241, R243, R244): its width in bytes; for `EXCH`, `CAS` and `INC` the new word from the old word, B and C,
performed lane by lane; for the others the combination of lane operands and its application to the word. -/
structure AtomOp where
  width : Nat
  serial : Option (Nat → Nat → Nat → Nat) := none
  lift : Nat → Nat := id
  plus : Nat → Nat → Nat := fun a _ => a
  apply : Nat → Nat → Nat := fun a _ => a

/-- An integer operation on `8 * width` bits. -/
def AtomOp.int (width : Nat) (op : Nat → Nat → Nat) : AtomOp := { width := width, plus := op, apply := op }

/-- An FP32 sum by `round(_, FP32, RN)` (R244). -/
def add32 (a b : Nat) : Nat := (fAdd .f32 .rn (Fmt.f32.value a) (Fmt.f32.value b)).1

/-- A BF16 half with an FP32 sum added, rounded to BF16 (R244). -/
def addHalf (m t : Nat) : Nat := (roundTo .bf16 .rn false (addX .rn (Fmt.bf16.value m) (Fmt.f32.value t)).1).1

def AtomOp.add32 : AtomOp := .int 4 (fun a b => (a + b) % 2 ^ 32)
def AtomOp.add64 : AtomOp := .int 8 (fun a b => (a + b) % 2 ^ 64)
def AtomOp.addF32 : AtomOp := .int 4 Machine.add32
/-- Each half is summed in FP32: a lifted operand holds two FP32 codes. -/
def AtomOp.addBf16x2 : AtomOp where
  width := 4
  lift b := widenTo32 .bf16 (b % 2 ^ 16) + widenTo32 .bf16 (b / 2 ^ 16) * 2 ^ 32
  plus a b := Machine.add32 (a % 2 ^ 32) (b % 2 ^ 32) + Machine.add32 (a / 2 ^ 32) (b / 2 ^ 32) * 2 ^ 32
  apply m t := addHalf (m % 2 ^ 16) (t % 2 ^ 32) + addHalf (m / 2 ^ 16) (t / 2 ^ 32) * 2 ^ 16
def AtomOp.minS : AtomOp := .int 4 (fun a b => if signedOf 32 b < signedOf 32 a then b else a)
def AtomOp.minU : AtomOp := .int 4 min
def AtomOp.maxS : AtomOp := .int 4 (fun a b => if signedOf 32 a < signedOf 32 b then b else a)
def AtomOp.maxU : AtomOp := .int 4 max
def AtomOp.and : AtomOp := .int 4 Nat.land
def AtomOp.or : AtomOp := .int 4 Nat.lor
def AtomOp.xor : AtomOp := .int 4 Nat.xor
def AtomOp.exch (width : Nat) : AtomOp := { width := width, serial := some (fun _ b _ => b) }
def AtomOp.cas (width : Nat) : AtomOp := { width := width, serial := some (fun m b c => if m = b then c else m) }
def AtomOp.inc : AtomOp := { width := 4, serial := some (fun m b _ => if m ≥ b then 0 else m + 1) }

/-- The lanes' requests on one word (R243): from the old word and each lane's B and C, each lane's old value and the new word. -/
def AtomOp.group (o : AtomOp) (m : Nat) (lanes : List (Nat × Nat)) : List Nat × Nat :=
  match o.serial with
  | some new => lanes.foldl (fun acc l => (acc.1 ++ [acc.2], new acc.2 l.1 l.2)) ([], m)
  | none =>
    match lanes.map (fun l => o.lift l.1) with
    | [] => ([], m)
    | b :: rest =>
      let sums := rest.foldl (fun (acc : List Nat × Nat) x => (acc.1 ++ [acc.2], o.plus acc.2 x)) ([], b)
      (m :: sums.1.map (fun t => o.apply m t), o.apply m sums.2)

/-- The value at a place for an atomic, and the first of its 4-byte words that is poisoned (R242, R246). -/
def State.atomRead (s : State) (p : Place) (n : Nat) : Nat × Option Nat :=
  match p with
  | .scratch k off _ => (ofBytes (s.scratchRead k off n).1, (List.range (n / 4)).find? (fun i => (s.scratchRead k (off + 4 * i) 4).2))
  | .home pa _ => (ofBytes (s.homeRead pa n).1, (List.range (n / 4)).find? (fun i => (s.homeRead (pa + 4 * i) 4).2))

/-- An atomic's write at its home or bank (R228, R242). -/
def State.atomWrite (s : State) (p : Place) (n v : Nat) : State :=
  match p with
  | .scratch k off _ => s.scratchWrite k off (bytesOf n v)
  | .home pa a => s.homePut a pa (bytesOf n v)

/-- Operand values of a lane by width. -/
def atomB (c : Ctx) (width : Nat) (x : Fibre) : Nat := if width = 8 then (src64 c x c.f.srcB).toNat else (src32 c x c.f.srcB).toNat
def atomC (c : Ctx) (width : Nat) (x : Fibre) : Nat := if width = 8 then (src64 c x c.f.srcC).toNat else (src32 c x c.f.srcC).toNat

/-- The number of an atomic's operation in R241's list, from its opcode. -/
def atomicNumber (op : Nat) : Nat := if op < 0x0E6 then op - 0x0D6 else if op = 0x0F1 then 15 else op - 0x0E6

/-- The requests of one address to its home on another package (R243): one of all its lanes, or for `EXCH`, `CAS` and `INC` one of each. The results that
the answers bring are awaited. -/
def State.askAtomic (s : State) (o : AtomOp) (returns : Bool) (c : Ctx) (pa comp : Nat) (lanes : List Fibre) : State :=
  let operands (x : Fibre) : Nat × Nat := (atomB c o.width x, if o.serial.isSome then atomC c o.width x else 0)
  let low := lowestFibre lanes
  let info := { c.fault 11 low (addrOf 0 c (lanes.headD { index := low, pc := 0, allot := 0 })) c.f.srcA.toNat (laneMask lanes) with deferred := true }
  let op := atomicNumber (c.word.extractLsb' 87 9).toNat
  (if o.serial.isSome then lanes.map (fun x => [x]) else [lanes]).foldl (fun t g =>
    let kind : RequestKind := .atomic c.wg.key op pa (g.map (fun x => (x.index, operands x))) (if returns then some c.f.dst.toNat else none) info
    let u := t.sendRequest kind (pa / 128) 0 (fun tag => .atomic tag pa comp op (g.map operands))
    if !returns then u
    else
      let writes := g.flatMap (fun x => (List.range (o.width / 4)).map (fun i => (x.index, c.f.dst.toNat + i, (0 : Word), false)))
      let v := u.updLanes c (fun x => { x with
        pendV := (writes.filter (fun e => decide (e.1 = x.index) && decide (e.2.1 < 240))).foldl (fun l e => insertNat e.2.1 l) x.pendV })
      v.updCore c.core (fun k => { k with loads := k.loads ++ [{ wg := c.wg.key, request := some t.nextKey, writes := writes }] })) s

/-- The groups of one address in ascending order of lowest lane, each at the place that its checks found in `s0` and after its
fibres' earlier loads of the words (R223): requests performed, old values gathered (R243, R245, R246). -/
def State.atomGroups (s0 : State) (o : AtomOp) (space : Nat) (returns : Bool) (c : Ctx) :
    List Nat → State → List (Fibre × Nat × Bool) → State × List (Fibre × Nat × Bool)
  | [], s, acc => (s, acc)
  | a :: t, s, acc =>
    let lanes := c.passing.filter (fun x => addrOf space c x = a)
    match lanes with
    | [] => s0.atomGroups o space returns c t s acc
    | x :: _ =>
      let p := c.placeOf s0 space o.width 3 x
      let s1 := lanes.foldl (fun t y => t.takeOwn c.core c.wg.key y.index p o.width) s
      let s1 := match p with
        | .home pa _ => s1.beforeAtomic c.core pa o.width
        | .scratch .. => s1
      let (m, bad) := s1.atomRead p o.width
      let far := match p with | .home pa a => if farHome pa then some (pa, a.comp) else none | .scratch .. => none
      if let some (pa, comp) := far then
        s0.atomGroups o space returns c t ((s1.askAtomic o returns c pa comp lanes).noteLane space c x) acc
      else if let some i := bad then
        let info := { c.fault 11 x.index (a + 4 * i) c.f.srcA.toNat (laneMask lanes) with deferred := true }
        let s2 := if returns then s1
          else s1.updWg c.wg.key (fun w => { w with
            deferred := w.deferred ++ [{ issuer := issuerOf c.compat16 x.index, cls := 11, info := info, entry := none }] })
        s0.atomGroups o space returns c t s2 (acc ++ lanes.map (fun y => (y, m, true)))
      else
        let (olds, new) := o.group m (lanes.map (fun y => (atomB c o.width y, if o.serial.isSome then atomC c o.width y else 0)))
        let s2 := s1.atomWrite p o.width new
        s0.atomGroups o space returns c t (s2.noteLane space c x) (acc ++ (lanes.zip olds).map (fun e => (e.1, e.2, false)))

/-- Steps 1 to 5 of R203 for an atomic (R242): the access, then its data operands. -/
def atomCheck (o : AtomOp) (sh : Shape) (c : Ctx) (t : State) (x : Fibre) : Option LaneFault :=
  match c.accessFault t (c.f.modBits 0 2) o.width 3 x with
  | some e => some e
  | none =>
    let bad (code : BitVec 9) : LaneFault := { cls := 11, v0 := 2 ^ 64 - 1, v1 := code.toNat }
    if sh.b.poisoned c x c.f.srcB then some (bad c.f.srcB)
    else if sh.c.poisoned c x c.f.srcC then some (bad c.f.srcC)
    else none

/-- The body of `ATOM` and `RED`. With an acquire half the values have returned before it (R240). -/
def atomBody (o : AtomOp) (sh : Shape) (returns : Bool) (c : Ctx) (t : State) : Except FaultInfo State :=
  let space := c.f.modBits 0 2
  match c.laneFault (atomCheck o sh c t) with
  | some e => .error e
  | none =>
    let addrs := (c.passing.map (addrOf space c)).eraseDups
    let (u, olds) := t.atomGroups o space returns c addrs (t.ordBefore c) []
    let n := c.f.dst.toNat
    let writes := if !returns || n ≥ 240 then []
      else olds.flatMap (fun e => (wordsOf (o.width / 4) (bytesOf o.width e.2.1)).zipIdx.map (fun w => (e.1.index, n + w.2, w.1, e.2.2)))
    let v := if c.acquires then u.updWg c.wg.key (fun w => { w with fibres := w.fibres.map ({ wg := c.wg.key, writes := writes : Pending }).into })
      else u.sendResults c writes
    .ok (((v.ordAfter c).commits c (decide (space ≠ 1) && !c.passing.isEmpty)).updLanes c Fibre.next)

/-- An atomic that returns the old value. -/
def runAtom (op : Nat) (o : AtomOp) (sh : Shape) (f : Fields) (s : State) : Host.Outcome State Fault Refusal :=
  runBatch op sh f s (atomBody o sh true)

/-- A reduction, which returns nothing. -/
def runRed (op : Nat) (o : AtomOp) (sh : Shape) (f : Fields) (s : State) : Host.Outcome State Fault Refusal :=
  runWith op (fun c => { sh with badOpcode := sh.badOpcode || badOrderWrite c }) f s (atomBody o sh false)

/-- `ATOM.ADD` (R241 to R246). -/
def execAtomAdd (f : Fields) (s : State) : Host.Outcome State Fault Refusal :=
  runAtom 0x0D6 (.add32) (.atom f .v .v false) f s

/-- `ATOM.ADD.64` (R241 to R246). -/
def execAtomAdd64 (f : Fields) (s : State) : Host.Outcome State Fault Refusal :=
  runAtom 0x0D7 (.add64) (.atom f .pair .pair false) f s

/-- `ATOM.ADD.F32` (R241 to R246). -/
def execAtomAddF32 (f : Fields) (s : State) : Host.Outcome State Fault Refusal :=
  runAtom 0x0D8 (.addF32) (.atom f .v .v false) f s

/-- `ATOM.ADD.BF16X2` (R241 to R246). -/
def execAtomAddBf16x2 (f : Fields) (s : State) : Host.Outcome State Fault Refusal :=
  runAtom 0x0D9 (.addBf16x2) (.atom f .v .v false) f s

/-- `ATOM.MIN.S` (R241 to R246). -/
def execAtomMinS (f : Fields) (s : State) : Host.Outcome State Fault Refusal :=
  runAtom 0x0DA (.minS) (.atom f .v .v false) f s

/-- `ATOM.MIN.U` (R241 to R246). -/
def execAtomMinU (f : Fields) (s : State) : Host.Outcome State Fault Refusal :=
  runAtom 0x0DB (.minU) (.atom f .v .v false) f s

/-- `ATOM.MAX.S` (R241 to R246). -/
def execAtomMaxS (f : Fields) (s : State) : Host.Outcome State Fault Refusal :=
  runAtom 0x0DC (.maxS) (.atom f .v .v false) f s

/-- `ATOM.MAX.U` (R241 to R246). -/
def execAtomMaxU (f : Fields) (s : State) : Host.Outcome State Fault Refusal :=
  runAtom 0x0DD (.maxU) (.atom f .v .v false) f s

/-- `ATOM.AND` (R241 to R246). -/
def execAtomAnd (f : Fields) (s : State) : Host.Outcome State Fault Refusal :=
  runAtom 0x0DE (.and) (.atom f .v .v false) f s

/-- `ATOM.OR` (R241 to R246). -/
def execAtomOr (f : Fields) (s : State) : Host.Outcome State Fault Refusal :=
  runAtom 0x0DF (.or) (.atom f .v .v false) f s

/-- `ATOM.XOR` (R241 to R246). -/
def execAtomXor (f : Fields) (s : State) : Host.Outcome State Fault Refusal :=
  runAtom 0x0E0 (.xor) (.atom f .v .v false) f s

/-- `ATOM.EXCH` (R241 to R246). -/
def execAtomExch (f : Fields) (s : State) : Host.Outcome State Fault Refusal :=
  runAtom 0x0E1 (.exch 4) (.atom f .v .v false) f s

/-- `ATOM.EXCH.64` (R241 to R246). -/
def execAtomExch64 (f : Fields) (s : State) : Host.Outcome State Fault Refusal :=
  runAtom 0x0E2 (.exch 8) (.atom f .pair .pair false) f s

/-- `ATOM.CAS` (R241 to R246). -/
def execAtomCas (f : Fields) (s : State) : Host.Outcome State Fault Refusal :=
  runAtom 0x0E3 (.cas 4) (.atom f .v .v true) f s

/-- `ATOM.CAS.64` (R241 to R246). -/
def execAtomCas64 (f : Fields) (s : State) : Host.Outcome State Fault Refusal :=
  runAtom 0x0E4 (.cas 8) (.atom f .pair .pair true) f s

/-- `ATOM.INC` (R241 to R246). -/
def execAtomInc (f : Fields) (s : State) : Host.Outcome State Fault Refusal :=
  runAtom 0x0E5 (.inc) (.atom f .v .v false) f s

/-- `RED.ADD` (R241 to R246). -/
def execRedAdd (f : Fields) (s : State) : Host.Outcome State Fault Refusal :=
  runRed 0x0E6 (.add32) (.atom f .no .v false) f s

/-- `RED.ADD.64` (R241 to R246). -/
def execRedAdd64 (f : Fields) (s : State) : Host.Outcome State Fault Refusal :=
  runRed 0x0E7 (.add64) (.atom f .no .pair false) f s

/-- `RED.ADD.F32` (R241 to R246). -/
def execRedAddF32 (f : Fields) (s : State) : Host.Outcome State Fault Refusal :=
  runRed 0x0E8 (.addF32) (.atom f .no .v false) f s

/-- `RED.ADD.BF16X2` (R241 to R246). -/
def execRedAddBf16x2 (f : Fields) (s : State) : Host.Outcome State Fault Refusal :=
  runRed 0x0E9 (.addBf16x2) (.atom f .no .v false) f s

/-- `RED.MIN.S` (R241 to R246). -/
def execRedMinS (f : Fields) (s : State) : Host.Outcome State Fault Refusal :=
  runRed 0x0EA (.minS) (.atom f .no .v false) f s

/-- `RED.MIN.U` (R241 to R246). -/
def execRedMinU (f : Fields) (s : State) : Host.Outcome State Fault Refusal :=
  runRed 0x0EB (.minU) (.atom f .no .v false) f s

/-- `RED.MAX.S` (R241 to R246). -/
def execRedMaxS (f : Fields) (s : State) : Host.Outcome State Fault Refusal :=
  runRed 0x0EC (.maxS) (.atom f .no .v false) f s

/-- `RED.MAX.U` (R241 to R246). -/
def execRedMaxU (f : Fields) (s : State) : Host.Outcome State Fault Refusal :=
  runRed 0x0ED (.maxU) (.atom f .no .v false) f s

/-- `RED.AND` (R241 to R246). -/
def execRedAnd (f : Fields) (s : State) : Host.Outcome State Fault Refusal :=
  runRed 0x0EE (.and) (.atom f .no .v false) f s

/-- `RED.OR` (R241 to R246). -/
def execRedOr (f : Fields) (s : State) : Host.Outcome State Fault Refusal :=
  runRed 0x0EF (.or) (.atom f .no .v false) f s

/-- `RED.XOR` (R241 to R246). -/
def execRedXor (f : Fields) (s : State) : Host.Outcome State Fault Refusal :=
  runRed 0x0F0 (.xor) (.atom f .no .v false) f s

/-- `RED.INC` (R241 to R246). -/
def execRedInc (f : Fields) (s : State) : Host.Outcome State Fault Refusal :=
  runRed 0x0F1 (.inc) (.atom f .no .v false) f s

end Sys2Proof.Machine
end

