-- ==== Sys2Proof/Machine/Barrier.lean ====
section
/-! DEFINITION. The barrier instructions (R275 to R279), the service of their requests, and what its answers do in their core (R270, R276, R501, R502). -/

namespace Sys2Proof.Machine

/-- Instructions of the residency chapter first deliver a deferred barrier fault of their home warp (R501). -/
def Ctx.heldBarrier (c : Ctx) : Option Deferred := c.wg.deferredOf (fun d => d.cls = 15 ∧ d.info.fibre / 32 = c.hwarp)

/-- The body of an instruction of the residency chapter. -/
def residency (c : Ctx) (t : State) (g : State → Except FaultInfo State) : Except FaultInfo State :=
  match c.heldBarrier with
  | some d => .ok (t.deliver c.wg.key d)
  | none => g t

/-- A barrier fault of a lane (R388): the handle, and the object's phase or 0. -/
def barrierLane (cause handle phase : Nat) : LaneFault := { cls := 15, cause := cause, v0 := handle, v1 := phase }

/-- The lanes of a request by handle, in the order of the lowest lane of each. -/
def byHandle (c : Ctx) (handle : Fibre → Nat) (count : Fibre → Nat) : List (Nat × List (Nat × Nat × Nat)) :=
  ((c.passing.map handle).eraseDups).map (fun h =>
    (h, (c.passing.filter (fun x => handle x = h)).map (fun x => (x.index, h, count x))))

/-- The handle of a lane. -/
def handleOf (c : Ctx) (x : Fibre) : Nat := (srcB32 c x).toNat

/-- Requests put on their way to the unit under one name; the batch's fibres hold (R276): participants at the instruction, the others
past it, none waiting on an object before the unit has answered. `asked` are the handles whose scope is known (R502); `scopeDone` is the scope, plus one, of the `PHASE.AR` of an arrival, whose acquire follows
where `stores` have still to be acknowledged (R229, R231). -/
def State.request (s : State) (c : Ctx) (op : BarrierOp) (kind : Wait) (groups : List (Nat × List (Nat × Nat × Nat))) (scopeDone : Nat)
    (asked : Nat → Bool := fun _ => true) (stores : List Nat := []) : State :=
  let id := s.nextKey
  let now := s.tide.toNat
  let mk (g : Nat × List (Nat × Nat × Nat)) : BarrierRequest :=
    { id := id, op := op, wg := c.wg.key, hwarp := c.hwarp, pc := c.pc, lanes := g.2, fields := c.f, scopeDone := scopeDone, asked := asked g.1
      stores := stores, acquires := !stores.isEmpty }
  let s1 := { s with
    nextKey := s.nextKey + 1
    barrierQ := s.barrierQ ++ groups.map mk }
  let at' (x : Fibre) : Fibre :=
    if kind = .answer then x.hold (2 ^ 40 + id) 0 c.f.dst.toNat now else x.sleep kind (2 ^ 40 + id) 0 c.f.dst.toNat (2 ^ 64) now
  s1.updLanes c (fun x => { (if passes c.f x then at' x else x.next.hold (2 ^ 40 + id) 1 0 now) with waitFields := some c.f, waitLine := none })

/-- The scope that a core's port holds for a handle of a barrier table, plus one; 0 where it holds none (R502). -/
def State.portScope (s : State) (core table h : Nat) : Nat := Sparse.get 0 (s.core core).portScopes (table * 2 ^ 32 + h)

/-- A scope noted by the port. -/
def State.notePort (s : State) (core table h scope : Nat) : State :=
  s.updCore core (fun k => { k with portScopes := Sparse.set 0 k.portScopes (table * 2 ^ 32 + h) (scope + 1) })

/-- The one `PHASE.AR` of a batch's arrivals: the widest scope, plus one, that the port holds for their handles (R502). -/
def State.widest (s : State) (core table : Nat) (handles : List Nat) : Nat := (handles.map (s.portScope core table)).foldl max 1

/-- The body of an arrival (R276, R502): where the port holds the scope of every handle, the `PHASE.AR` at the widest, whose acquire follows once other
packages have acknowledged what is out (R229, R231), and one request for each handle; else the unit is asked first. -/
def arriveBody (op : BarrierOp) (kind : Wait) (count : Ctx → Fibre → Nat) (c : Ctx) (t : State) : Except FaultInfo State :=
  residency c t fun u =>
    if c.passing.isEmpty then .ok (u.updLanes c Fibre.next)
    else
      let groups := byHandle c (handleOf c) (count c)
      let handles := groups.map (fun g => g.1)
      let known (h : Nat) : Bool := decide (u.portScope c.core c.launch.areaOwner h ≠ 0)
      if handles.all known then
        let sc := u.widest c.core c.launch.areaOwner handles
        let v := u.release c.core (sc - 1)
        .ok (if v.openStores.isEmpty then (v.acquire c.core (sc - 1)).request c op kind groups sc
          else v.request c op kind groups sc (fun _ => true) v.openStores)
      else .ok (u.request c op kind groups 0 known)

/-- `BARV` (R276). -/
def execBarv (f : Fields) (s : State) : Host.Outcome State Fault Refusal := runBatch 0x101 .barv f s (arriveBody .arrive .answer (fun _ _ => 1))
/-- `BARV.C` (R276). -/
def execBarvC (f : Fields) (s : State) : Host.Outcome State Fault Refusal :=
  runBatch 0x102 .barvC f s (arriveBody .arriveCount .answer (fun c x => (src32 c x c.f.srcA).toNat))
/-- `BARR` (R276): a barrier wait from its issue (R287). -/
def execBarr (f : Fields) (s : State) : Host.Outcome State Fault Refusal := runBatch 0x104 .barr f s (arriveBody .arriveWait .barrier (fun _ _ => 1))

/-- `BWAIT` (R277): a barrier wait from its issue (R287). -/
def execBwait (f : Fields) (s : State) : Host.Outcome State Fault Refusal :=
  runBatch 0x103 .bwait f s fun c t => residency c t fun u =>
    if c.passing.isEmpty then .ok (u.updLanes c Fibre.next)
    else .ok (u.request c .await .barrier (byHandle c (handleOf c) (fun x => (src32 c x c.f.srcA).toNat)) 0)

/-- `BQRY` (R279). -/
def execBqry (f : Fields) (s : State) : Host.Outcome State Fault Refusal :=
  runBatch 0x106 .bqry f s fun c t => residency c t fun u =>
    if c.passing.isEmpty then .ok (u.updLanes c Fibre.next)
    else .ok (u.request c .query .answer (byHandle c (handleOf c) (fun _ => 0)) 0)

/-- The checks of a handle made in the core for `BINIT` and `BINV` (R501). -/
def Ctx.handleFault (c : Ctx) (entries h : Nat) : Option LaneFault :=
  if h / 2 ^ 20 ≠ 0 ∨ h + entries > c.launch.barrierEntries then some (barrierLane 5 h 0) else none

/-- A request that does not hold its batch (R501). -/
def State.requestOn (s : State) (c : Ctx) (op : BarrierOp) (lanes : List (Nat × Nat × Nat)) : State :=
  let r : BarrierRequest := { id := s.nextKey, op := op, wg := c.wg.key, hwarp := c.hwarp, pc := c.pc, lanes := lanes, fields := c.f, scopeDone := 0 }
  ({ s with nextKey := s.nextKey + 1, barrierQ := if lanes.isEmpty then s.barrierQ else s.barrierQ ++ [r] }).updLanes c Fibre.next

/-- `BINIT` (R275): the checks made in the core, then the request; the port notes the scope (R502). DESIGN CHOICE (log 24): a bad handle is reported
before a bad count. -/
def execBinit (f : Fields) (s : State) : Host.Outcome State Fault Refusal :=
  runBatch 0x100 (.binit f) f s fun c t => residency c t fun u =>
    let scope := c.f.modBits 0 3
    let count (x : Fibre) : Nat := (src32 c x c.f.srcA).toNat
    let check (x : Fibre) : Option LaneFault :=
      match c.handleFault (if scope = 0 then 9 else 1) (handleOf c x) with
      | some e => some e
      | none => if !c.f.mod 3 && (decide (count x = 0) || (decide (scope = 0) && decide (count x > 4096))) then some (c.badOperand c.f.srcA) else none
    match c.laneFault check with
    | some e => .error e
    | none =>
      let lanes := c.passing.map (fun x => (x.index, handleOf c x, count x))
      .ok ((lanes.foldl (fun v e => v.notePort c.core c.launch.areaOwner e.2.1 scope) u).requestOn c .init lanes)

/-- `BINV` (R278). -/
def execBinv (f : Fields) (s : State) : Host.Outcome State Fault Refusal :=
  runBatch 0x105 .binv f s fun c t => residency c t fun u =>
    match c.laneFault (fun x => c.handleFault 1 (handleOf c x)) with
    | some e => .error e
    | none => .ok (u.requestOn c .invalidate (c.passing.map (fun x => (x.index, handleOf c x, 0))))

/-! The unit's answers. -/

/-- After the last request of a name has been answered, the fibres that hold for it run on. -/
def State.answered (s : State) (key id : Nat) : State :=
  if s.barrierQ.any (fun r => r.id = id && r.wg = key) || s.requests.any (fun q => q.barrier?.any (fun r => r.id = id && r.wg = key)) then s
  else
    let mine (x : Fibre) : Bool := decide (x.wait = .answer) && decide (x.waitKey = 2 ^ 40 + id) && decide (x.waitValue = 1)
    s.updWg key (fun w => { w with
      fibres := w.fibres.map (fun x => if mine x then { x with wait := .run } else x)
      lastActive := if w.fibres.any mine then s.tide.toNat else w.lastActive })

/-- A fibre's answer given: it has its result and holds until the whole batch is answered. -/
def State.giveAnswer (s : State) (key id fibre : Nat) (g : Fibre → Fibre) : State :=
  s.updWg key (fun w => w.updFibre fibre (fun x =>
    if x.waitKey = 2 ^ 40 + id then { (g x).next with wait := .answer, waitValue := 1 } else x))

/-- A barrier fault at the unit's answer (R286), with the fibres that failed the check: the batch stays at the instruction. -/
def State.barrierFault (s : State) (w : Workgroup) (r : BarrierRequest) (op cause fibre handle phase : Nat) (failed : List Nat) : State :=
  let who := w.fibres.filter (fun x => decide (x.waitKey = 2 ^ 40 + r.id) && decide (x.waitValue = 0) && decide (x.wait = .answer ∨ x.wait = .barrier))
  let mine (q : BarrierRequest) : Bool := q.id = r.id && q.wg = w.key
  let s1 : State := { s with
    barrierQ := s.barrierQ.filter (fun q => !mine q)
    requests := s.requests.map (fun q => if q.barrier?.any mine then { q with kind := .notice } else q) }
  let s2 := s1.wakeWg w.key (fun x => decide (x.waitKey = 2 ^ 40 + r.id) && decide (x.wait = .answer ∨ x.wait = .barrier)) id
  let c := { Ctx.of0 s w who r op with pc := r.pc }
  s2.park w.key { c.fault 15 fibre handle phase (laneMask (who.filter (fun x => failed.contains x.index))) cause with
    lanes := who.map (fun x => x.index) }
where
  /-- The request's batch as a context. -/
  Ctx.of0 (s : State) (w : Workgroup) (who : List Fibre) (r : BarrierRequest) (op : Nat) : Ctx :=
    let l := (s.launch? w.launch).getD { lseq := w.launch, kind := .packet }
    { core := w.core, slot := 0, wg := w, launch := l, kernel := l.kernel.getD {}, hwarp := r.hwarp, lanes := who, pc := r.pc,
      word := wordOf op r.fields, f := r.fields, ord := none, tide := s.tide, cyc := 0 }

/-- A `BINIT` or `BINV` failure of some lanes found at the unit: held for the home warp (R501). -/
def State.holdBarrier (s : State) (w : Workgroup) (r : BarrierRequest) (cause fibre handle phase : Nat) (failed : List Nat) : State :=
  let mask := failed.foldl (fun m i => m ||| 2 ^ (i % 32)) 0
  let info : FaultInfo :=
    { cls := 15, cause := cause, pc := r.pc, fibre := fibre, deferred := true, body := handle + phase * 2 ^ 64 + mask * 2 ^ 96,
      retry := some (r.lanes, r.fields, decide (r.op = .init)) }
  s.updWg w.key (fun w => { w with
    deferred := w.deferred ++ [{ issuer := issuerOf (s.compat16 w) fibre, cls := 15, info := info, entry := none }] })

/-- The unit's answer to a core that asked for the scope of an arrival's handle (R502); an object that is not valid counts as `.WG`. When every
handle of the batch is known, its `PHASE.REL` is performed at the widest, and its arrivals go to the unit, after the acquire. -/
def State.answerScope (s : State) (r : BarrierRequest) (w : Workgroup) (l : Launch) (h scope : Nat) : State :=
  let s1 := s.notePort w.core l.areaOwner h scope
  let q := s1.barrierQ ++ [{ r with asked := true }]
  let mine (p : BarrierRequest) : Bool := decide (p.id = r.id) && decide (p.wg = r.wg)
  let out := s1.requests.any (fun p => p.barrier?.any mine)
  let batch := q.filter mine
  if batch.all (fun p => p.asked) && !out then
    let sc := s1.widest w.core l.areaOwner (batch.flatMap (fun p => (p.lanes.take 1).map (fun e => e.2.1)))
    let s2 := ({ s1 with barrierQ := q } : State).release w.core (sc - 1)
    let acks := s2.openStores
    let s3 := if acks.isEmpty then s2.acquire w.core (sc - 1) else s2
    { s3 with barrierQ := s3.barrierQ.map (fun p => if mine p then { p with scopeDone := sc, stores := acks, acquires := !acks.isEmpty } else p) }
  else { s1 with barrierQ := q }

/-- An arrival that may be served: the unit has still to be asked, or the `PHASE.AR` has been performed (R502). -/
def BarrierRequest.sent (r : BarrierRequest) : Bool :=
  match r.op with
  | .arrive | .arriveCount | .arriveWait => !r.asked || decide (r.scopeDone ≠ 0)
  | _ => true

/-- A fault of the home warp that the unit has found and that has not been delivered (R501). -/
def Workgroup.refused? (w : Workgroup) (r : BarrierRequest) : Option Deferred :=
  w.deferredOf (fun d => d.cls = 15 ∧ d.info.fibre / 32 = r.hwarp)

/-- The opcode of a request's instruction. -/
def BarrierRequest.opcode (r : BarrierRequest) : Nat :=
  match r.op with
  | .arrive => 0x101
  | .arriveCount => 0x102
  | .await => 0x103
  | .query => 0x106
  | _ => 0x104

/-- Fibres of a request wait on its object from now, for the phase that a token names. -/
def State.stay (s : State) (r : BarrierRequest) (w : Workgroup) (l : Launch) (h phase : Nat) (fibres : List Nat) : State :=
  let line := (headerOf (s.entriesOf l h)).map (fun p => (⟨0, 0, p.pa / 64⟩ : WatchLine))
  fibres.foldl (fun t i => t.updWg w.key (fun w => w.updFibre i (fun x =>
    if x.waitKey = 2 ^ 40 + r.id then { x with waitKey := h, waitValue := phase, waitDst := predOf r.fields.dst, waitLine := line } else x))) s

/-- Fibres of a request return from their wait with a status. -/
def State.back (s : State) (r : BarrierRequest) (w : Workgroup) (fibres : List Nat) (status : Bool) : State :=
  fibres.foldl (fun t i => t.wakeWg w.key (fun x => decide (x.index = i) && decide (x.waitKey = 2 ^ 40 + r.id))
    (fun x => (x.setPred (predOf r.fields.dst) status).next)) s

/-- What the unit's answer to a request does in its core (R275 to R279, R286, R501, R502). -/
def State.takeAnswer (s : State) (r : BarrierRequest) (w : Workgroup) (l : Launch) (b : BarrierAnswer) : State :=
  let h := match r.lanes with | e :: _ => e.2.1 | [] => 0
  let all := r.lanes.map (fun e => e.1)
  let note (scope : Option Nat) : State := match scope with | some n => s.notePort w.core l.areaOwner h n | none => s
  let commits (t : State) (scope : Nat) : State := t.updWg w.key (fun w => { w with committed := w.committed || decide (scope ≠ 0) })
  match b with
  | .failed cause fibres phase scope =>
    let low := fibres.headD 0
    (match r.op with
      | .init | .invalidate => s.holdBarrier w r cause low (((r.lanes.find? (fun e => e.1 = low)).map (fun e => e.2.1)).getD 0) phase fibres
      | _ => (note scope).barrierFault w r r.opcode cause low h phase fibres)
  | .clear => { s with barrierQ := r :: s.barrierQ }
  | .done =>
    let far (e : Nat × Nat × Nat) : Bool := decide (laneHome { fibre := 0, entries := s.entriesOf l e.2.1 } ≠ Config.package)
    let t := s.updWg w.key (fun w => { w with
      liveFar := w.liveFar.filter (fun n => !r.lanes.any (fun e => e.2.1 = n)) ++ (if r.fields.mod 3 then (r.lanes.filter far).map (fun e => e.2.1) else []) })
    commits t (r.fields.modBits 0 3)
  | .scope n =>
    (match r.op with
      | .invalidate => commits s n
      | _ => s.answerScope r w l h n)
  | .again scope =>
    let t := (note (some scope)).release w.core scope
    let acks := t.openStores
    let u := if acks.isEmpty then t.acquire w.core scope else t
    { u with barrierQ := u.barrierQ ++ [{ r with scopeDone := scope + 1, stores := acks, acquires := !acks.isEmpty }] }
  | .token v scope complete =>
    let t := commits (note (some scope)) scope
    (if r.op = .arriveWait then
      (if complete then ((t.back r w all true).acquire w.core scope).answered w.key r.id
      else (t.stay r w l h v all).answered w.key r.id)
    else (all.foldl (fun t i => t.giveAnswer w.key r.id i (fun x => x.set32 r.fields.dst (BitVec.ofNat 32 v))) t).answered w.key r.id)
  | .word v scope =>
    (all.foldl (fun t i => t.giveAnswer w.key r.id i (fun x => x.set32 r.fields.dst (BitVec.ofNat 32 v))) (note (some scope))).answered w.key r.id
  | .waits returned phase scope =>
    let t := (note (some scope)).back r w returned true
    let u := if returned.isEmpty then t else t.acquire w.core scope
    (u.stay r w l h phase (all.filter (fun i => !returned.contains i))).answered w.key r.id
  | .invalid => ((note (some 0)).back r w all false).answered w.key r.id

/-- A request as the unit takes it. -/
def State.askOf (s : State) (r : BarrierRequest) (w : Workgroup) (l : Launch) : BarrierAsk :=
  { op := if r.asked then r.op else .scope, package := Config.package, core := w.core, wgid := w.wgid
    lanes := r.lanes.map (fun e => { fibre := e.1, value := e.2.2, entries := s.entriesOf l e.2.1 })
    scopeDone := r.scopeDone, scope := r.fields.modBits 0 3, live := r.fields.mod 3, select := r.fields.modBits 0 2
    living := w.fibres.map (fun x => x.index) }

/-- A `BINIT` or `BINV` whose lanes name objects of several packages: every unit is asked whether it would fail, and when none would each makes its own
change (R275; DESIGN CHOICE, log 24, for the two rounds). -/
def State.serveMixed (s : State) (r : BarrierRequest) (w : Workgroup) (l : Launch) (a : BarrierAsk) (far : List Nat) : State :=
  let check : BarrierOp := if r.op = .init then .mayInit else .mayInvalidate
  let part (p : Nat) : List BarrierLane := a.lanes.filter (fun x => laneHome x = p)
  let only (p : Nat) : BarrierRequest := { r with lanes := r.lanes.filter (fun e => (part p).any (fun x => x.fibre = e.1)) }
  match s.unit { a with op := check, lanes := part Config.package } with
  | (.failed cause fibres phase scope, _) => s.takeAnswer r w l (.failed cause fibres phase scope)
  | _ =>
    match far.find? (fun p => !r.cleared.contains p) with
    | some p => s.askUnit (.barrier { r with cleared := p :: r.cleared }) { a with op := check, lanes := part p }
    | none =>
      let (b, t) := s.unit { a with lanes := part Config.package }
      far.foldl (fun u p => u.askUnit (.barrier (only p)) { a with lanes := part p }) (t.takeAnswer (only Config.package) w l b)

/-- One request served (R270): by the unit here at once, or by that of the package which is the home of its object's header, whose answer comes later
(R19). -/
def State.serveBarrier (s : State) (r : BarrierRequest) (w : Workgroup) (l : Launch) : State :=
  let a := s.askOf r w l
  match distinct (a.lanes.map laneHome) with
  | [] => s
  | [p] =>
    if p = Config.package then (let (b, t) := s.unit a; t.takeAnswer r w l b) else s.askUnit (.barrier r) a
  | homes => s.serveMixed r w l a (homes.filter (fun p => p ≠ Config.package))

/-- The answer of another package's unit to a request; one of a workgroup that is gone is dropped (R395). -/
def State.barrierAnswered (s : State) (r : BarrierRequest) (b : BarrierAnswer) : State :=
  match s.wg? r.wg with
  | none => s
  | some w => match s.launch? w.launch with
    | none => s
    | some l => s.takeAnswer r w l b

/-- The acquire of an arrival's `PHASE.AR`, once for its batch, before the arrival counts (R229, R231). -/
def State.arAcquired (s : State) (r : BarrierRequest) (w : Workgroup) : State :=
  if r.acquires then
    let t := s.acquire w.core (r.scopeDone - 1)
    { t with barrierQ := t.barrierQ.map (fun p => if decide (p.id = r.id) && decide (p.wg = r.wg) then { p with acquires := false } else p) }
  else s

/-- An earlier request of one of its fibres is with another package's unit (R270). -/
def State.unitBefore (s : State) (r : BarrierRequest) : Bool :=
  s.requests.any (fun q => q.barrier?.any (fun p => decide (p.wg = r.wg) && p.lanes.any (fun e => r.lanes.any (fun d => d.1 = e.1))))

/-- A request that the unit may take now: its release is acknowledged, no earlier one of its fibres is under way, and not while its workgroup is parked with
a fault of its home warp to be delivered, or delivered (R501). -/
def State.mayServe (s : State) (r : BarrierRequest) : Bool :=
  r.sent && !r.stores.any s.asked && !s.unitBefore r && (match s.wg? r.wg with
    | none => true
    | some w => match w.parked with
      | none => true
      | some info => (w.refused? r).isNone && !(info.deferred && decide (info.cls = 15) && decide (info.fibre / 32 = r.hwarp)))

/-- BARRIER_UNIT_REQUEST (R270): the unit performs the request at a place of the queue. One of a home warp with an undelivered fault is refused: the
fault is delivered, and the request stands until the workgroup resumes (R501). A request of a workgroup that is gone is dropped (R395). -/
def execBarrierUnitRequest (i : Nat) (s : State) : Host.Outcome State Fault Refusal :=
  match s.barrierQ[i]? with
  | none => .next s
  | some r =>
    let s1 := { s with barrierQ := listDrop s.barrierQ i }
    match s1.wg? r.wg with
    | none => .next s1
    | some w => match s1.launch? w.launch, w.refused? r with
      | none, _ => .next s1
      | some _, some d => .next (if w.parked.isSome then s else s.deliver w.key d)
      | some l, none => .next ((s1.arAcquired r w).serveBarrier { r with acquires := false } w l)

end Sys2Proof.Machine
end

