-- ==== Sys2Proof/Machine/Flags.lean ====
section
/-! DEFINITION. Flag computations: carries and borrows (R96), saturation (R95), comparisons (R103), and the special functions of R152 to
R154 with the flags they raise. The approximated functions are free values within the bound that R152 states (log 7). -/

namespace Sys2Proof.Machine

/-! Integer. -/

/-- A sum with carry: the low word and bit 32 (R96). -/
def addCarry (a b : Word) (cin : Bool) : Word × Bool :=
  let x := a.toNat + b.toNat + cin.toNat
  (BitVec.ofNat 32 x, decide (x ≥ 2 ^ 32))

/-- A difference with borrow: the low word and whether it is negative (R96). -/
def subBorrow (a b : Word) (cin : Bool) : Word × Bool :=
  let x : Int := (a.toNat : Int) - b.toNat - cin.toNat
  (BitVec.ofInt 32 x, decide (x < 0))

/-- Clamp to the signed 32-bit range (R95). -/
def clampS (x : Int) : Word := BitVec.ofInt 32 (max (-2 ^ 31) (min (2 ^ 31 - 1) x))
/-- Clamp to the unsigned 32-bit range (R95). -/
def clampU (x : Int) : Word := BitVec.ofInt 32 (max 0 (min (2 ^ 32 - 1) x))

/-- A comparison into a predicate with its combine field: 1 and, 2 or (R103, R149). -/
def combine (k : Nat) (t old : Bool) : Bool := match k with | 1 => t && old | 2 => t || old | _ => t

/-! References of the approximated functions, in fixed point of 200 fraction bits, far inside the bounds. -/

/-- A finite operand times 2^200, rounded down. -/
def fixOf (m : Nat) (e : Int) : Nat := if e + 200 ≥ 0 then m <<< (e + 200).toNat else m >>> (-(e + 200)).toNat

/-- exp(t) by its series from term `k`. -/
def expSeries (t : Nat) : Nat → Nat → Nat → Nat → Nat
  | 0, _, _, acc => acc
  | n + 1, k, term, acc => let u := term * t / 2 ^ 200 / k; expSeries t n (k + 1) u (acc + u)

/-- ln 2 times 2^200. -/
def ln2Fix : Nat := 0xB17217F7D1CF79ABC9E3B39803F2F6AF40F343267298B62D8A
/-- pi / 2 times 2^200. -/
def halfPiFix : Nat := 0x1921FB54442D18469898CC51701B839A252049C1114CF98E804

/-- 2^x. -/
def ex2Ref (neg : Bool) (m : Nat) (e : Int) : XReal :=
  let z : Int := if neg then -(fixOf m e : Int) else fixOf m e
  let n := z / 2 ^ 200
  let f := (z - n * 2 ^ 200).toNat
  .fin false (expSeries (f * ln2Fix / 2 ^ 200) 50 1 (2 ^ 200) (2 ^ 200)) (n - 200)

/-- Bits of the fraction of log2 y, for y in 1 to 2, by squaring. -/
def lg2Bits : Nat → Nat → Nat → Nat
  | 0, _, acc => acc
  | n + 1, y, acc =>
    let q := y * y / 2 ^ 200
    if q ≥ 2 ^ 201 then lg2Bits n (q / 2) (2 * acc + 1) else lg2Bits n q (2 * acc)

/-- log2 x. -/
def lg2Ref (m : Nat) (e : Int) : XReal :=
  let l := Nat.log2 m
  XReal.ofInt false (((l : Int) + e) * 2 ^ 80 + lg2Bits 80 (m * 2 ^ 200 / 2 ^ l) 0) (-80)

/-- An alternating series with r squared. -/
def trigSeries (r2 : Int) : Nat → Int → Int → Int → Int
  | 0, _, _, acc => acc
  | n + 1, k, term, acc => let u := -(term * r2 / 2 ^ 200 / (k * (k + 1))); trigSeries r2 n (k + 2) u (acc + u)

/-- sin x, or cos x with `quarter` 1. -/
def sinRef (quarter : Int) (neg : Bool) (m : Nat) (e : Int) : XReal :=
  let z : Int := if neg then -(fixOf m e : Int) else fixOf m e
  let h : Int := halfPiFix
  let q := (2 * z + h) / (2 * h)
  let r := z - q * h
  let r2 := r * r / 2 ^ 200
  let v := if (q + quarter) % 2 = 0 then trigSeries r2 30 2 r r else trigSeries r2 30 1 (2 ^ 200) (2 ^ 200)
  XReal.ofInt false (if (q + quarter) % 4 ≥ 2 then -v else v) (-200)

/-- tanh x. -/
def tanhRef (neg : Bool) (m : Nat) (e : Int) : XReal :=
  let t := expSeries (2 * fixOf m e) 130 1 (2 ^ 200) (2 ^ 200)
  .fin neg ((t - 2 ^ 200) * 2 ^ 200 / (t + 2 ^ 200)) (-200)

/-- 1 / sqrt x. -/
def rsqRef (m : Nat) (e : Int) : XReal :=
  match sqrtX m e with
  | .fin _ m' e' => recipX m' e' false
  | x => x

/-! Bounds and flags. -/

/-- `n` units in the last place of a reference, on a format's grid (R152). -/
def ulps (f : Fmt) (n : Nat) (ref : XReal) : XReal :=
  .fin false n (max ref.floorLog2 (1 - (f.bias : Int)) - f.mant)

/-- The candidate, if it is a finite code within the bound of the reference, else the code nearest the reference (R152). -/
def within (f : Fmt) (cand : Nat) (ref bound : XReal) : Nat :=
  let y := f.value cand
  if y.isFin && XReal.cmp (XReal.addFin false y ref.neg).abs bound ≤ 0 then cand % 2 ^ f.width else (roundTo f .rn false ref).1

/-- Flags of an approximated finite result (R154). -/
def approxFlags (f : Fmt) (code : Nat) : Flags :=
  if XReal.cmp (f.value code).abs (.fin false 1 (-126)) < 0 then Flags.inexact ||| Flags.underflow else .inexact

/-- A result with the flags of an approximation. -/
def approxOf (f : Fmt) (code : Nat) : Nat × Flags := (code, approxFlags f code)

/-- The exponent of a power of two. -/
def pow2Of (m : Nat) (e : Int) : Option Int := if m = 2 ^ Nat.log2 m then some ((Nat.log2 m : Int) + e) else none

/-- The code of ±2^k or of an integer, exact. -/
def exactCode (f : Fmt) (x : XReal) : Nat × Flags := ((roundTo f .rn false x).1, .none)

/-- `RCP` (R152 to R154). -/
def rcp32 (a : Word) : Nat × Flags :=
  let f := Fmt.f32
  match f.value a.toNat with
  | .nan => (f.nanCode, .none)
  | .inf n => (f.signed n 0, .none)
  | .fin n 0 _ => (f.infCode n, .divZero)
  | .fin n m e =>
    if XReal.cmp (.fin false m e) (.fin false 1 (-128)) ≤ 0 then (f.infCode n, Flags.overflow ||| Flags.inexact)
    else match pow2Of m e with
      | some k => exactCode f (.fin n 1 (-k))
      | none => let r := recipX m e n; approxOf f (within f (Config.approx32 0 a).toNat r (ulps f 1 r))

/-- `RSQ` and `RSQ.F64`: a candidate, and a bound in ulps. DEDUCED (log 23): the exact case of an even power of two is `RSQ`'s alone (R154), which
names the two forms apart. -/
def rsqOf (f : Fmt) (code cand n : Nat) : Nat × Flags :=
  match f.value code with
  | .nan => (f.nanCode, .none)
  | .inf false => (0, .none)
  | .inf true => (f.nanCode, .invalid)
  | .fin s 0 _ => (f.infCode s, .divZero)
  | .fin true _ _ => (f.nanCode, .invalid)
  | .fin false m e =>
    let r := rsqRef m e
    let approx := approxOf f (within f cand r (ulps f n r))
    match pow2Of m e with
    | some k => if f = .f32 ∧ k % 2 = 0 then exactCode f (.fin false 1 (-(k / 2))) else approx
    | none => approx

/-- `EX2` (R152 to R154). -/
def ex2 (a : Word) : Nat × Flags :=
  let f := Fmt.f32
  let one := (f.value 0x3F800000)
  match f.value a.toNat with
  | .nan => (f.nanCode, .none)
  | .inf n => (if n then 0 else f.infCode false, .none)
  | .fin _ 0 _ => exactCode f one
  | .fin n m e =>
    let x := XReal.fin n m e
    if XReal.cmp x (.fin false 128 0) ≥ 0 then (f.infCode false, Flags.overflow ||| Flags.inexact)
    else if XReal.cmp x (.fin true 150 0) < 0 then (0, Flags.underflow ||| Flags.inexact)
    else if XReal.cmp x.abs (.fin false 1 (-128)) ≤ 0 then (0x3F800000, .inexact)
    else
      let z := x.coeff (min e 0)
      let whole := z % 2 ^ (-(min e 0)).toNat = 0
      let k := z / 2 ^ (-(min e 0)).toNat
      if whole ∧ -149 ≤ k then exactCode f (.fin false 1 k)
      else
        let r := ex2Ref n m e
        approxOf f (within f (Config.approx32 1 a).toNat r (if r.floorLog2 ≥ -126 then ulps f 2 r else .fin false 2 (-149)))

/-- `LG2` (R152 to R154). -/
def lg2 (a : Word) : Nat × Flags :=
  let f := Fmt.f32
  match f.value a.toNat with
  | .nan => (f.nanCode, .none)
  | .inf n => if n then (f.nanCode, .invalid) else (f.infCode false, .none)
  | .fin _ 0 _ => (f.infCode true, .divZero)
  | .fin true _ _ => (f.nanCode, .invalid)
  | .fin false m e =>
    match pow2Of m e with
    | some k => exactCode f (intX k)
    | none =>
      let r := lg2Ref m e
      let x := XReal.fin false m e
      let near := XReal.cmp x (.fin false 1 (-1)) ≥ 0 ∧ XReal.cmp x (.fin false 2 0) ≤ 0
      approxOf f (within f (Config.approx32 2 a).toNat r (if near then .fin false 1 (-22) else ulps f 2 r))

/-- `SIN` (`cosine` false) and `COS` (R152 to R154). -/
def sinCos (cosine : Bool) (a : Word) : Nat × Flags :=
  let f := Fmt.f32
  match f.value a.toNat with
  | .nan => (f.nanCode, .none)
  | .inf _ => (f.nanCode, .invalid)
  | .fin n 0 _ => if cosine then (0x3F800000, .none) else (f.signed n 0, .none)
  | .fin n m e =>
    if XReal.cmp (.fin false m e) (.fin false 1 (-12)) ≤ 0 then approxOf f (if cosine then 0x3F800000 else a.toNat)
    else
      approxOf f (within f (Config.approx32 (if cosine then 4 else 3) a).toNat (sinRef (if cosine then 1 else 0) n m e) (.fin false 1 (-22)))

/-- `TANH` (R152 to R154). -/
def tanh (a : Word) : Nat × Flags :=
  let f := Fmt.f32
  match f.value a.toNat with
  | .nan => (f.nanCode, .none)
  | .inf n => (f.signed n 0x3F800000, .none)
  | .fin n 0 _ => (f.signed n 0, .none)
  | .fin n m e =>
    if XReal.cmp (.fin false m e) (.fin false 1 (-12)) ≤ 0 then approxOf f a.toNat
    else if XReal.cmp (.fin false (10 * m) e) (.fin false 91 0) ≥ 0 then approxOf f (f.signed n 0x3F800000)
    else let r := tanhRef n m e; approxOf f (within f (Config.approx32 5 a).toNat r (ulps f 2 r))

/-- `RCP.F64`, correctly rounded (R152). DESIGN CHOICE (log 24): of zeros and infinities it has the results and the flags of the `RCP` column (R153). -/
def rcp64 (mode : Mode) (a : DWord) : Nat × Flags :=
  let f := Fmt.f64
  match f.value a.toNat with
  | .nan => (f.nanCode, .none)
  | .inf n => (f.signed n 0, .none)
  | .fin n 0 _ => (f.infCode n, .divZero)
  | .fin n m e => roundTo f mode false (recipX m e n)

/-- `SQRT` and `SQRT.F64`, correctly rounded (R152). -/
def sqrtOf (f : Fmt) (mode : Mode) (code : Nat) : Nat × Flags :=
  match f.value code with
  | .nan => (f.nanCode, .none)
  | .inf n => if n then (f.nanCode, .invalid) else (f.infCode false, .none)
  | .fin n 0 _ => (f.signed n 0, .none)
  | .fin true _ _ => (f.nanCode, .invalid)
  | .fin false m e => roundTo f mode false (sqrtX m e)

/-- The same rule on each half of a packed operand (R142, R143): flags are ORed. -/
def onHalves (g : Nat → Nat → Nat → Nat × Flags) (a b c : Word) : Word × Flags :=
  let lo := g (a.toNat % 2 ^ 16) (b.toNat % 2 ^ 16) (c.toNat % 2 ^ 16)
  let hi := g (a.toNat / 2 ^ 16) (b.toNat / 2 ^ 16) (c.toNat / 2 ^ 16)
  (BitVec.ofNat 32 (lo.1 + hi.1 * 2 ^ 16), lo.2 ||| hi.2)

end Sys2Proof.Machine
end

