-- ==== Sys2Proof/Machine/Brush.lean ====
section
/-! DEFINITION. Brush images (R361 to R364) and the application of a brush (R365). -/

namespace Sys2Proof.Machine

/-! The header (R361). -/

def Brush.field (b : Brush) (lo n : Nat) : Nat := bitsOf b.header lo n
def Brush.length (b : Brush) : Nat := b.field 0 5
def Brush.arity (b : Brush) : Nat := b.field 5 1
def Brush.associative (b : Brush) : Bool := b.field 6 1 = 1
def Brush.commutative (b : Brush) : Bool := b.field 7 1 = 1
def Brush.hasIdentity (b : Brush) : Bool := b.field 8 1 = 1
def Brush.xFmt (b : Brush) : Nat := b.field 16 4
def Brush.yFmt (b : Brush) : Nat := b.field 20 4
def Brush.zFmt (b : Brush) : Nat := b.field 24 4

/-- The identity when the header declares one, +0 otherwise (R365). -/
def Brush.base (b : Brush) : Nat := if b.hasIdentity then b.field 32 32 else 0

/-- The element size in bytes of a brush format (R367). -/
def brushBytes (fmt : Nat) : Nat := if fmt = 1 then 2 else 4

/-! Operation words (R362). -/

def opCode (w : Nat) : Nat := bitsOf w 0 6
def opType (w : Nat) : Nat := bitsOf w 6 2
def opMode (w : Nat) : Nat := bitsOf w 20 2
def opImm (w : Nat) : Bool := bitsOf w 22 1 = 1
def opAux (w : Nat) : Nat := bitsOf w 23 3

/-- "Must be 0" rows of R363. -/
def opPlain (code : Nat) : Bool := [7, 8, 9, 10, 11, 12, 13, 17, 18, 19].contains code

/-- An operation malformed under R362 and R363. -/
def opMalformed (hasTable : Bool) (w : Nat) : Bool :=
  let code := opCode w
  let ty := opType w
  decide (bitsOf w 26 6 ≠ 0) || decide (code ≥ 20) || decide (ty = 3) ||
    (opPlain code && (decide (ty ≠ 0) || decide (opMode w ≠ 0) || decide (opAux w ≠ 0))) ||
    (decide (code = 6) && (decide (ty = 1) || decide (opAux w ≥ 6))) ||
    ((decide (code = 15) || decide (code = 16)) && decide (ty = 2)) ||
    (decide (code = 14) && decide (opAux w % 4 = 3)) || (decide (code = 18) && !hasTable)

/-- A malformed image (R364). -/
def Brush.malformed (b : Brush) : Bool :=
  let fmtOk (f : Nat) : Bool := decide (f = 0) || decide (f = 1) || decide (f = 12)
  let two := b.arity = 1
  decide (b.length = 0) || decide (b.length > 24) || decide (b.field 10 6 ≠ 0) || decide (b.field 28 4 ≠ 0) || decide (b.header / 2 ^ 64 ≠ 0) ||
    (decide (b.zFmt = 1) && decide (b.field 48 16 ≠ 0)) ||
    !fmtOk b.xFmt || !fmtOk b.yFmt || !fmtOk b.zFmt || (!two && decide (b.yFmt ≠ 0)) ||
    (!two && (b.associative || b.commutative)) ||
    (b.associative && !(decide (b.xFmt = b.yFmt) && decide (b.yFmt = b.zFmt))) ||
    b.ops.zipIdx.any (fun e => if e.2 ≥ b.length then e.1 ≠ 0 else opMalformed (b.field 9 1 = 1) e.1)

/-- The image of bytes (R361, R362): 256 or 1,280 of them. -/
def Brush.ofBytes (bytes : List Byte) : Brush :=
  let get (a n : Nat) : Nat := Machine.ofBytes ((bytes.drop a).take n)
  { header := get 0 64, ops := (List.range 24).map (fun i => get (64 + 8 * i) 8),
    table := if bitsOf (get 0 64) 9 1 = 1 then (List.range 256).map (fun i => BitVec.ofNat 32 (get (256 + 4 * i) 4)) else [] }

/-! Application (R363, R365). -/

/-- A brush fault: the operation, its sub-cause (1 floating trap, 2 table index), its three sources and the flags raised (R379). -/
structure BrushFault where
  op : Nat
  sub : Nat
  s1 : Word
  s2 : Word
  s3 : Word
  flags : Flags := 0
  deriving DecidableEq, Repr

/-- A floating result kept as an FP32 pattern: BF16 results once rounded (R363). -/
def brushRound (ty : Nat) (mode : Mode) (r : XReal × Flags) : Word × Flags :=
  if ty = 1 then
    let q := roundTo .bf16 mode false r.1
    (BitVec.ofNat 32 (q.1 * 2 ^ 16), q.2 ||| r.2)
  else
    let q := roundTo .f32 mode false r.1
    (BitVec.ofNat 32 q.1, q.2 ||| r.2)

/-- The effect of an operation on its sources (R363). -/
def opEffect (w : Nat) (table : List Word) (s1 s2 s3 : Word) : Word × Flags :=
  let ty := opType w
  let mode := Mode.ofBits (opMode w)
  let v (x : Word) : XReal := Fmt.f32.value x.toNat
  let plain (x : Word) : Word × Flags := (x, .none)
  match opCode w with
  | 0 => if ty = 2 then plain (s1 + s2) else brushRound ty mode (addX mode (v s1) (v s2))
  | 1 => if ty = 2 then plain (s1 - s2) else brushRound ty mode (addX mode (v s1) (v s2).neg)
  | 2 => if ty = 2 then plain (s1 * s2) else brushRound ty mode (mulX (v s1) (v s2))
  | 3 => if ty = 2 then plain (s1 * s2 + s3) else brushRound ty mode (fmaX mode (v s1) (v s2) (v s3))
  | 4 | 5 =>
    let big := opCode w = 5
    if ty = 2 then plain (if (decide (s1.toInt ≤ s2.toInt)) != big then s1 else s2)
    else
      let r := BitVec.ofNat 32 (fMinMax .f32 big false s1.toNat s2.toNat)
      if ty = 1 then brushRound 1 mode (v r, .none) else plain r
  | 6 =>
    if ty = 2 then plain (if condHolds (opAux w) (s1.toInt - s2.toInt).sign then 1 else 0)
    else plain (if fCompare .f32 (opAux w) false s1.toNat s2.toNat then 1 else 0)
  | 7 => plain (if s1 ≠ 0 then s2 else s3)
  | 8 => plain (s1 &&& s2)
  | 9 => plain (s1 ||| s2)
  | 10 => plain (s1 ^^^ s2)
  | 11 => plain (s1 <<< min s2.toNat 32)
  | 12 => plain (s1 >>> min s2.toNat 32)
  | 13 => plain (s1.sshiftRight (min s2.toNat 32))
  | 14 =>
    let src := opAux w % 4
    if src = ty ∨ (src = 1 ∧ ty = 0) then plain s1
    else if ty = 2 then
      let r := floatToInt 5 mode (v s1)
      (BitVec.ofNat 32 r.1, r.2)
    else if src = 2 then brushRound ty mode (intX s1.toInt, .none)
    else brushRound 1 mode (v s1, .none)
  | 15 | 16 =>
    let r := if opCode w = 15 then ex2 s1 else lg2 s1
    if ty = 1 then brushRound 1 mode (Fmt.f32.value r.1, r.2) else (BitVec.ofNat 32 r.1, r.2)
  | 17 => plain (BitVec.ofNat 32 (w / 2 ^ 32))
  | 18 => plain (table.getD s1.toNat 0)
  | _ => plain s1

/-- The three sources of an operation from the brush registers (R362). -/
def opSources (w : Nat) (regs : List Word) : Word × Word × Word :=
  (regs.getD (bitsOf w 11 3) 0, if opImm w then BitVec.ofNat 32 (w / 2 ^ 32) else regs.getD (bitsOf w 14 3) 0, regs.getD (bitsOf w 17 3) 0)

/-- The operations run in order over eight registers (R365). -/
def runOps (traps : Flags) (table : List Word) : List Nat → Nat → List Word → Flags → Except BrushFault (List Word × Flags)
  | [], _, regs, fl => .ok (regs, fl)
  | w :: rest, i, regs, fl =>
    let (s1, s2, s3) := opSources w regs
    if opCode w = 18 ∧ (table.isEmpty ∨ s1.toNat ≥ 256) then .error { op := i, sub := 2, s1 := s1, s2 := s2, s3 := s3 }
    else
      let r := opEffect w table s1 s2 s3
      if r.2 &&& traps ≠ 0 then .error { op := i, sub := 1, s1 := s1, s2 := s2, s3 := s3, flags := r.2 }
      else runOps traps table rest (i + 1) (listSet regs (bitsOf w 8 3) (fun _ => r.1)) (fl ||| r.2)

/-- An input widened (R365). -/
def brushIn (fmt : Nat) (x : Nat) : Word := if fmt = 1 then BitVec.ofNat 32 (x % 2 ^ 16 * 2 ^ 16) else BitVec.ofNat 32 x

/-- The registers at entry. -/
def Brush.entry (b : Brush) (x y a : Nat) : List Word :=
  [brushIn b.xFmt x, if b.arity = 1 then brushIn b.yFmt y else 0, brushIn b.zFmt a, 0, 0, 0, 0, 0]

/-- One application (R365): the output element and the flags. -/
def Brush.apply (b : Brush) (traps : Flags) (x y a : Nat) : Except BrushFault (Nat × Flags) :=
  match runOps traps b.table (b.ops.take b.length) 0 (b.entry x y a) 0 with
  | .error e => .error e
  | .ok (regs, fl) =>
    let b0 := regs.getD 0 0
    if b.zFmt = 1 then
      let r := roundTo .bf16 .rn false (Fmt.f32.value b0.toNat)
      .ok (r.1, fl ||| r.2)
    else .ok (b0.toNat, fl)

/-! Uncorrectable errors of a brush (R484). DESIGN CHOICE (log 23): brush memory holds an image's 64-bit words as the image has them. -/

/-- The words of a brush in error, among those of the brushes of a memory: 160 words a handle. -/
def badWords (marks : List Nat) (h : Nat) : List Nat := (marks.filter (fun n => n / 160 = h)).map (fun n => n % 160)

/-- The operations use a word in error: an operation's own, or that of a table entry that one of them reads. -/
def runTaints (bad : List Nat) (table : List Word) : List Nat → Nat → List Word → Bool
  | [], _, _ => false
  | w :: rest, i, regs =>
    let (s1, s2, s3) := opSources w regs
    bad.contains (8 + i) || (decide (opCode w = 18) && bad.contains (32 + s1.toNat / 2)) ||
      runTaints bad table rest (i + 1) (listSet regs (bitsOf w 8 3) (fun _ => (opEffect w table s1 s2 s3).1))

/-- An application uses a word in error, so that its output is poisoned: the header's first, or one of its operations'. -/
def Brush.taints (b : Brush) (bad : List Nat) (x y a : Nat) : Bool :=
  !bad.isEmpty && (bad.contains 0 || runTaints bad b.table (b.ops.take b.length) 0 (b.entry x y a))

/-- The first operation that reads a brush register, or the length (R379). -/
def Brush.reader (b : Brush) (reg : Nat) : Nat :=
  let reads (w : Nat) : Bool :=
    let code := opCode w
    (decide (code ≠ 17) && decide (bitsOf w 11 3 = reg)) || (decide (code ≤ 13) && !opImm w && decide (bitsOf w 14 3 = reg)) ||
      ((decide (code = 3) || decide (code = 7)) && decide (bitsOf w 17 3 = reg))
  (b.ops.take b.length).findIdx reads

end Sys2Proof.Machine
end

