-- ==== Sys2Proof/Machine/Engine.lean ====
section
/-! DEFINITION. What engines read and write: slots, accumulator memory, scratchpad and `.G` (R247, R323 to R326), tensor layout records
(R293 to R298), the deferred faults of engine operations (R309, R322, R387), and the copy unit's work on a box, a gather, a scatter
and a cluster copy (R302 to R305, R315). -/

namespace Sys2Proof.Machine

/-! Locations. -/

/-- Where an engine access goes: memory or a scratchpad, tile-slot memory, accumulator memory. -/
inductive Loc where
  | mem (p : Place)
  | tile (byte : Nat)
  | acc (byte : Nat)
  deriving DecidableEq, Repr

/-- A word of a byte range is marked. -/
def marked (poison : List Nat) (a n : Nat) : Bool := (distinct ((List.range n).map (fun i => (a + i) / 4))).any (fun w => poison.contains w)

/-- Marks after a write: set where the data are bad, ended where a whole word is replaced. -/
def remark (poison : List Nat) (a n : Nat) (bad : Bool) : List Nat :=
  (distinct ((List.range n).map (fun i => (a + i) / 4))).foldl (fun p w =>
    if bad then insertNat w p else if a ≤ 4 * w ∧ 4 * w + 4 ≤ a + n then p.filter (fun x => x ≠ w) else p) poison

def State.tileRead (s : State) (k a n : Nat) : List Byte × Bool := let c := s.core k; (Bytes.read c.tiles a n, marked c.tilePoison a n)
def State.tileWrite (s : State) (k a : Nat) (bytes : List Byte) (bad : Bool) : State :=
  s.updCore k (fun c => { c with tiles := Bytes.write c.tiles a bytes, tilePoison := remark c.tilePoison a bytes.length bad })
def State.accRead (s : State) (k a n : Nat) : List Byte × Bool := let c := s.core k; (Bytes.read c.acc a n, marked c.accPoison a n)
def State.accWrite (s : State) (k a : Nat) (bytes : List Byte) (bad : Bool) : State :=
  s.updCore k (fun c => { c with acc := Bytes.write c.acc a bytes, accPoison := remark c.accPoison a bytes.length bad })

def State.locRead (s : State) (k : Nat) (l : Loc) (n : Nat) : List Byte × Bool :=
  match l with
  | .mem p => s.engineReadAt k p n
  | .tile a => s.tileRead k a n
  | .acc a => s.accRead k a n

def State.locWrite (s : State) (k : Nat) (l : Loc) (bytes : List Byte) (bad : Bool) : State :=
  match l with
  | .mem p => s.engineWriteAt k p bytes bad
  | .tile a => s.tileWrite k a bytes bad
  | .acc a => s.accWrite k a bytes bad

/-- A location some bytes further on. -/
def Loc.plus (l : Loc) (n : Nat) : Loc :=
  match l with
  | .mem (.scratch core off space) => .mem (.scratch core (off + n) space)
  | .mem (.home pa a) => .mem (.home (pa + n) a)
  | .tile a => .tile (a + n)
  | .acc a => .acc (a + n)

/-- Bytes, each with the mark of the word it came from (R322). -/
abbrev Marked := List (Byte × Bool)

def Marked.bytes (v : Marked) : List Byte := v.map (fun b => b.1)
def Marked.bad (v : Marked) : Bool := v.any (fun b => b.2)
/-- How far the first marked word lies from the start. -/
def Marked.offset (v : Marked) : Nat := v.findIdx (fun b => b.2)
/-- Bytes under one mark. -/
def Marked.of (bytes : List Byte) (bad : Bool := false) : Marked := bytes.map (fun b => (b, bad))

/-- An engine's read, word by word. -/
def State.locMarked (s : State) (k : Nat) (l : Loc) (n : Nat) : Marked :=
  if n ≤ 4 then let r := s.locRead k l n; Marked.of r.1 r.2
  else (List.range (n / 4)).flatMap (fun i => let r := s.locRead k (l.plus (4 * i)) 4; Marked.of r.1 r.2)

/-- An engine's write: a word whose data are bad is written poisoned (R322). -/
def State.locPut (s : State) (k : Nat) (l : Loc) (v : Marked) : State :=
  if !v.bad then s.locWrite k l v.bytes false
  else (List.range ((v.length + 3) / 4)).foldl (fun t i =>
    let w : Marked := (v.drop (4 * i)).take 4
    t.locWrite k (l.plus (4 * i)) w.bytes w.bad) s

/-! Deferred faults. -/

/-- What stops an engine operation: the cause of R322, the faulting address, the translation cause, and a brush fault. -/
structure EngineFault where
  cause : Nat
  addr : Nat
  xc : Nat := 0
  brush : Option BrushFault := none
  deriving DecidableEq, Repr

/-- An access fault as an engine fault (R322 cause 1). -/
def AccessFault.engine (e : AccessFault) (addr : Nat) : EngineFault := { cause := 1, addr := addr, xc := e.cause }

/-- The operand record of R292. -/
def CopyEntry.record (e : CopyEntry) : Nat :=
  e.a % 2 ^ 64 + e.c % 2 ^ 32 * 2 ^ 64 + (e.b.headD 0).toNat * 2 ^ 96 + e.imm.toNat * 2 ^ 128

/-- The record of a deferred fault of a copy, gather or ring operation (R386, R387 layouts 1 and 3). -/
def CopyEntry.faultInfo (e : CopyEntry) (x : EngineFault) (coords : List Nat) (dense : Nat) : FaultInfo :=
  let base : FaultInfo := { cls := 17, cause := x.cause, pc := e.pc, fibre := e.fibre, deferred := true, entry := some e.id }
  match x.brush, e.kind with
  | some b, .brush h =>
    { base with
      layout := 3, brush := h, opIndex := b.op, subCause := b.sub, flags := b.flags
      body := dense % 2 ^ 16 + e.record * 2 ^ 64 + (b.s1.toNat + b.s2.toNat * 2 ^ 32 + b.s3.toNat * 2 ^ 64) * 2 ^ 224 }
  | _, _ =>
    { base with
      layout := 1
      body := x.addr % 2 ^ 64 + e.record * 2 ^ 64 + (coords.foldr (fun c acc => c % 2 ^ 16 + 2 ^ 16 * acc) 0) * 2 ^ 224 +
        e.entry * 2 ^ 288 + e.cls * 2 ^ 292 + (if x.cause = 1 then x.xc else 0) * 2 ^ 295 }

/-- A copy entry replaced. -/
def State.updEntry (s : State) (k id : Nat) (g : CopyEntry → CopyEntry) : State :=
  s.updCore k (fun c => { c with copyQ := c.copyQ.map (fun e => if e.id = id then g e else e) })

/-- An operation stops with a deferred fault, held for its issuer (R309). -/
def State.holdFault (s : State) (k : Nat) (e : CopyEntry) (info : FaultInfo) : State :=
  let s1 := s.updEntry k e.id (fun x => { x with fault := some info })
  let d : Deferred := { issuer := e.issuer, cls := e.cls, info := info, entry := some e.id }
  (s1.updWg e.wg (fun w => { w with deferred := w.deferred ++ [d] })).checkWaitc e.wg

/-! Tensor layout records (R293 to R298): the 64 bytes as a number. -/

/-- Elements of a box. -/
def tlrElements (t : Nat) : Nat := tlrBox t 0 * tlrBox t 1 * tlrBox t 2 * tlrBox t 3
/-- Box bytes (R294). -/
def tlrBytes (t : Nat) : Nat := tlrElements t * tlrBits t / 8

/-- The period of a stagger (R295). -/
def staggerPeriod (t : Nat) : Nat := match t with | 1 => 256 | 2 => 1024 | 3 => 4096 | _ => 1

/-- The scratchpad or slot side of a transfer, where it has one. -/
def CopyEntry.denseStart (e : CopyEntry) : Option Nat :=
  match e.kind with
  | .ld | .st | .brush _ | .gth | .sct | .sctCl => some e.c
  | .slot | .gthSlot => some 0
  | _ => none

/-- A malformed record (R295) for an operation; `CPY.B` counts its box bytes at the output width (R377). -/
def tlrMalformed (e : CopyEntry) (outBits : Nat) (t : Nat) : Bool :=
  let w := tlrBits t
  let rank := tlrRank t
  let ks := [0, 1, 2, 3]
  let window := e.kind = .sctCl
  let rows : Bool := match e.kind with | .gth | .gthSlot | .sct | .sctCl => true | _ => false
  decide (w = 0) || decide (tlr t 462 18 ≠ 0) || decide (tlrStagger t ≥ 4) || decide (tlrFill t = 3) ||
    ks.any (fun k => decide (tlrDim t k = 0) || decide (tlrBox t k = 0) || decide (tlrStride t k % 16 ≠ 0) || decide (tlrStride t k / 2 ^ 48 ≠ 0)) ||
    ks.any (fun k => decide (k ≥ rank) && (decide (tlrDim t k ≠ 1) || decide (tlrBox t k ≠ 1) || decide (tlrStride t k ≠ 0))) ||
    decide (tlr t 0 64 % 16 ≠ 0) || (if window then decide (tlr t 0 64 ≥ 0xC00000) else !canonical (tlr t 0 64)) ||
    decide (tlrBox t 0 * w % 128 ≠ 0) || decide (tlrElements t * (if outBits = 0 then w else outBits) / 8 > 65536) ||
    (match e.denseStart with | some a => decide (a % staggerPeriod (tlrStagger t) ≠ 0) | none => false) ||
    (decide (w = 4) && (decide (tlrBox t 0 % 2 = 1) || (!rows && (e.b.headD 0).getLsbD 0))) ||
    (rows && decide (rank ≠ 2))

/-- The dense position of a byte with its stagger (R298). -/
def staggered (t o : Nat) : Nat :=
  let g := tlrStagger t
  if g = 0 then o
  else
    let span := 32 * 2 ^ g
    let n := span / 16
    o - o % span + ((o % span / 16 + o / span) % n) * 16 + o % 16

/-- A coordinate is in bounds in every dimension below the rank (R297). -/
def tlrIn (t : Nat) (c : List Int) : Bool :=
  (List.range (tlrRank t)).all (fun k => decide (0 ≤ c.getD k 0) && decide (c.getD k 0 < tlrDim t k))

/-- The address of an element (R294). -/
def tlrAddr (t : Nat) (c : List Int) : Nat :=
  let c0 := c.getD 0 0
  let byte : Int := if tlrBits t = 4 then c0 / 2 else c0 * (tlrBits t / 8 : Nat)
  wrapOf 64 ((tlr t 0 64 : Int) + byte + c.getD 1 0 * tlrStride t 1 + c.getD 2 0 * tlrStride t 2 + c.getD 3 0 * tlrStride t 3)

/-- The fill element (R297). -/
def tlrFillElement (t : Nat) : Nat :=
  match tlrFill t with
  | 1 => if tlrFmt t = 13 then 0xFF else match Fmt.ofCode (tlrFmt t) with | some f => f.nanCode | none => 0
  | 2 => tlr t 480 32 % 2 ^ tlrBits t
  | _ => 0

/-! Elements are handled in units of whole bytes: one element, or two of 4 bits. -/

/-- The box coordinates of a unit's first element, dim 0 fastest. -/
def unitCoords (t i : Nat) : List Nat :=
  let u0 := tlrBox t 0 / unitElems t
  [i % u0 * unitElems t, i / u0 % tlrBox t 1, i / (u0 * tlrBox t 1) % tlrBox t 2, i / (u0 * tlrBox t 1 * tlrBox t 2)]

/-- The place of a tensor access. -/
def State.tensorPlace (s : State) (e : CopyEntry) (w : Workgroup) (l : Launch) (t : Nat) (c : List Int) (perms : Nat) :
    Except EngineFault Place :=
  let a := tlrAddr t c
  match s.place w.core w (s.kernelOf w) (if e.kind = .sctCl then 2 else 0) l.space a 1 perms with
  | .error x => .error (x.engine a)
  | .ok p => .ok p

/-- A place lies in the workgroup's own scratchpad. -/
def State.ownPlace (s : State) (w : Workgroup) (p : Place) : Bool :=
  match p with
  | .scratch core off _ => decide (core = w.core) && decide (w.scratchBase ≤ off) && decide (off < w.scratchBase + (s.kernelOf w).scratchBytes)
  | .home .. => false

/-- An engine's write at a place; outside the workgroup's own scratchpad it commits the workgroup (R398). -/
def State.enginePut (s : State) (w : Workgroup) (p : Place) (v : Marked) : State :=
  let s1 := s.locPut w.core (.mem p) v
  if s.ownPlace w p then s1 else s1.updWg w.key (fun w => { w with committed := true })

/-- A unit read from the tensor, with fill (R297). -/
def State.tensorRead (s : State) (e : CopyEntry) (w : Workgroup) (l : Launch) (t : Nat) (c : List Int) : Except EngineFault Marked :=
  let fill := tlrFillElement t
  let second := (c.headD 0 + 1) :: c.tail
  if tlrIn t c || (unitElems t == 2 && tlrIn t second) then
    match s.tensorPlace e w l t c 1 with
    | .error x => .error x
    | .ok p =>
      let v := s.locMarked w.core (.mem p) (unitBytes t)
      if unitElems t = 1 then .ok v
      else
        let b := ofBytes v.bytes
        let lo := if tlrIn t c then b % 16 else fill
        let hi := if tlrIn t second then b / 16 else fill
        .ok (Marked.of (bytesOf 1 (lo + 16 * hi)) v.bad)
  else .ok (Marked.of (if unitElems t = 1 then bytesOf (unitBytes t) fill else bytesOf 1 (fill + 16 * fill)))

/-- A unit written to the tensor, elements out of bounds left alone (R297). -/
def State.tensorWrite (s : State) (e : CopyEntry) (w : Workgroup) (l : Launch) (t : Nat) (c : List Int) (v : Marked) : Except EngineFault State :=
  let second := (c.headD 0 + 1) :: c.tail
  let first := tlrIn t c
  let both := first && (unitElems t == 1 || tlrIn t second)
  if first || (unitElems t == 2 && tlrIn t second) then
    match s.tensorPlace e w l t c 2 with
    | .error x => .error x
    | .ok p =>
      let data : Marked :=
        if both then v
        else
          let old := ofBytes (s.engineReadAt w.core p 1).1
          let new := ofBytes v.bytes
          Marked.of (bytesOf 1 (if first then new % 16 + old / 16 * 16 else old % 16 + new / 16 * 16)) v.bad
      .ok (s.enginePut w p data)
  else .ok s

/-- The priority that a record's cache hint gives a line that the access hits in the L1 or the RDC, or that its home L2 serves (R201, R293). -/
def State.hintLine (s : State) (k : Nat) (a : Attr) (hint line : Nat) : State :=
  if (s.l1Line? k line).isSome then s.l1Upd k line (fun l => { l with prio := if hint = 3 then l.prio else hintPrio hint l.prio })
  else if a.cache = 0 && remoteTo (dieOf k) (line * 128) && s.rdc.any (fun r => r.die = dieOf k && r.line = line) then
    { s with rdc := s.rdc.map (fun r => if r.die = dieOf k && r.line = line then { r with prio := hintPrio hint r.prio } else r) }
  else if a.cache = 3 then s
  else s.l2Touch line hint a.prio

/-- What an engine's `.G` access of an element does besides: its translation is noted (R193), and its line takes the priority of the record's hint,
with block fetch both lines of the block that a read touches (R293). -/
def State.noteTensor (s : State) (e : CopyEntry) (w : Workgroup) (l : Launch) (t : Nat) (c : List Int) (read : Bool) : State :=
  if e.kind = .sctCl || !tlrIn t c then s
  else
    let s1 := s.noteTlb l.space (tlrAddr t c)
    match s.tensorPlace e w l t c (if read then 1 else 2) with
    | .ok (.home pa a) =>
      let lines := if read && tlr t 459 1 = 1 then [pa / 256 * 2, pa / 256 * 2 + 1] else [pa / 128]
      lines.foldl (fun u n => u.hintLine w.core a (tlr t 460 2) n) s1
    | _ => s1

/-! The core side of a transfer (R302). -/

/-- The location of `n` bytes at a scratchpad offset of the workgroup. -/
def State.scratchLoc (s : State) (w : Workgroup) (o n : Nat) : Except EngineFault Loc :=
  if o + n ≤ (s.kernelOf w).scratchBytes then .ok (.mem (.scratch w.core (w.scratchBase + o) 1)) else .error { cause := 1, addr := o, xc := 8 }

/-- A slot usable by an operation with a name: claimed, or released only after the operation was issued (R302, R338). -/
def Workgroup.slotFor (w : Workgroup) (id n : Nat) : Bool :=
  match w.slotFlags[n]? with
  | some f => (f.claimed && !f.releasing) || (f.releasing && decide (id < f.releasedAt))
  | none => false

/-- The dense side of an operation at a dense offset with its stagger. -/
def State.denseLoc (s : State) (e : CopyEntry) (w : Workgroup) (o n : Nat) : Except EngineFault Loc :=
  match e.kind with
  | .slot | .gthSlot =>
    if w.slotFor e.id (e.c + o / 4096) then .ok (.tile (w.slotAt (e.c + o / 4096) * 4096 + o % 4096)) else .error { cause := 4, addr := e.c * 4096 + o }
  | .accLd | .accSt =>
    if e.c + o + n ≤ (s.kernelOf w).accBytes then .ok (.acc (w.accBase + e.c + o)) else .error { cause := 5, addr := e.c + o }
  | .ring =>
    let r := s.ringRead w.core (w.scratchBase + e.c)
    s.scratchLoc w (r.base + e.ringSlot.getD 0 * r.size * 16 + o) n
  | _ => s.scratchLoc w (e.c + o) n

/-- Accumulator memory and registers ignore the stagger (R298). -/
def CopyEntry.position (e : CopyEntry) (t o : Nat) : Nat := match e.kind with | .accLd | .accSt | .reg _ => o | _ => staggered t o

/-- The origin of a box plus its element coordinates (R297). -/
def CopyEntry.coord (e : CopyEntry) (t : Nat) (box : List Nat) : List Int :=
  (List.range 4).map (fun k => if k < tlrRank t then (e.b.getD k 0).toInt + box.getD k 0 else 0)

/-- What one unit of work leaves: a state, and the fault that stopped it. -/
abbrev Worked := State × Option EngineFault

/-- A value written to the dense side; bad data are written poisoned and stop the operation with cause 3 (R322). -/
def State.landUnit (s : State) (e : CopyEntry) (w : Workgroup) (o : Nat) (v : Marked) (from' : Nat) : Worked :=
  match s.denseLoc e w o v.length with
  | .error x => (s, some x)
  | .ok l => (s.locPut w.core l v, if v.bad then some { cause := 3, addr := from' + v.offset } else none)

/-- One unit of a box landing in the core: `CPY.LD`, `.SLOT`, `.RING`, `.ACC.LD`. -/
def State.boxIn (s : State) (e : CopyEntry) (w : Workgroup) (l : Launch) (t i : Nat) : Worked :=
  let c := e.coord t (unitCoords t i)
  match s.tensorRead e w l t c with
  | .error x => (s, some x)
  | .ok v => (s.noteTensor e w l t c true).landUnit e w (e.position t (i * unitBytes t)) v (tlrAddr t c)

/-- One unit at the dense side written to the tensor; bad data stop the operation with cause 3 (R322). -/
def State.unitOut (s : State) (e : CopyEntry) (w : Workgroup) (l : Launch) (t o : Nat) (c : List Int) : Worked :=
  match s.denseLoc e w o (unitBytes t) with
  | .error x => (s, some x)
  | .ok loc =>
    let v := s.locMarked w.core loc (unitBytes t)
    match (s.noteTensor e w l t c false).tensorWrite e w l t c v with
    | .error x => (s, some x)
    | .ok s1 => (s1, if v.bad then some { cause := 3, addr := e.c + o + v.offset } else none)

/-- One unit of a box leaving the core: `CPY.ST`, `CPY.ACC.ST`. -/
def State.boxOut (s : State) (e : CopyEntry) (w : Workgroup) (l : Launch) (t i : Nat) : Worked :=
  let c := e.coord t (unitCoords t i)
  s.unitOut e w l t (e.position t (i * unitBytes t)) c

/-- A brush of a workgroup (R359). -/
def Workgroup.brush? (w : Workgroup) (h : Nat) : Option Brush := Sparse.get none w.brushes h

/-- One element through the brush of `CPY.B` (R302, R377). -/
def State.boxBrush (s : State) (e : CopyEntry) (w : Workgroup) (l : Launch) (h t i : Nat) : Worked :=
  let c := e.coord t (unitCoords t i)
  match w.brush? h, s.tensorRead e w l t c with
  | none, _ => (s, some { cause := 2, addr := e.a })
  | _, .error x => (s, some x)
  | some b, .ok v =>
    let z := brushBytes b.zFmt
    if v.bad then s.landUnit e w (staggered t (i * z)) (Marked.of (bytesOf z 0) true) (tlrAddr t c + v.offset)
    else match b.apply l.traps (ofBytes v.bytes) 0 b.base with
      | .error f => (s, some { cause := 9, addr := 0, brush := some f })
      | .ok (y, fl) =>
        let r := (s.noteTensor e w l t c true).landUnit e w (staggered t (i * z)) (Marked.of (bytesOf z y) (b.taints (badWords w.brushPoison h) (ofBytes v.bytes) 0 b.base)) (tlrAddr t c)
        if r.2.isNone then (r.1.updWg w.key (fun w => { w with fflags := w.fflags ||| fl }), none) else r

/-! Copies into registers (R304): the box in 32-bit words, a granule of one or two at a time. -/

/-- Units of a granule read in order, with the address of the first marked word. -/
def State.readUnits (s : State) (e : CopyEntry) (w : Workgroup) (l : Launch) (t : Nat) : Nat → Nat → Except EngineFault (Marked × Nat)
  | 0, _ => .ok ([], 0)
  | n + 1, i =>
    let c := e.coord t (unitCoords t i)
    match s.tensorRead e w l t c with
    | .error x => .error x
    | .ok v => match s.readUnits e w l t n (i + 1) with
      | .error x => .error x
      | .ok (rest, a) => .ok (v ++ rest, if v.bad then tlrAddr t c + v.offset else a)

/-- A word written to its target register, its pending bit cleared. -/
def State.regWord (s : State) (e : CopyEntry) (i : Nat) (v : Word) (bad : Bool) : State :=
  let fibre := e.c % 128 * 32 + e.c / 256 % 16 * e.width + i % e.width
  let reg := e.targetBase + i / e.width
  if e.targets.contains fibre then
    s.updWg e.wg (fun w => w.updFibre fibre (fun x => { x.setRegP reg v bad with pendV := x.pendV.filter (fun r => r ≠ reg) }))
  else s

/-- One granule into the registers. -/
def State.boxReg (s : State) (e : CopyEntry) (w : Workgroup) (l : Launch) (t g : Nat) : Worked :=
  match s.readUnits e w l t (granuleUnits t) (g * granuleUnits t) with
  | .error x => (s, some x)
  | .ok (v, a) =>
    let s1 := (List.range (granuleUnits t)).foldl (fun u i => u.noteTensor e w l t (e.coord t (unitCoords t (g * granuleUnits t + i))) true) s
    let s2 := (List.range (granuleBytes t / 4)).foldl (fun u j =>
      let word : Marked := (v.drop (4 * j)).take 4
      u.regWord e (g * (granuleBytes t / 4) + j) (BitVec.ofNat 32 (ofBytes word.bytes)) word.bad) s1
    (s2, if v.bad then some { cause := 3, addr := a } else none)

/-! Gather and scatter (R305). -/

/-- The row bytes of a gather. -/
def rowBytes (t : Nat) : Nat := tlrBox t 0 * tlrBits t / 8

/-- Index `j` of the array in the scratchpad. -/
def State.rowIndex (s : State) (e : CopyEntry) (w : Workgroup) (j : Nat) : Except EngineFault Int :=
  let o := (e.b.headD 0).toNat + 4 * j
  let r := s.scratchRead w.core (w.scratchBase + o) 4
  if r.2 then .error { cause := 3, addr := o } else .ok (signedOf 32 (ofBytes r.1))

/-- One unit of a gather: row `j`, column unit `u`. -/
def State.gatherUnit (s : State) (e : CopyEntry) (w : Workgroup) (l : Launch) (t i : Nat) : Worked :=
  let u0 := tlrBox t 0 / unitElems t
  match s.rowIndex e w (i / u0) with
  | .error x => (s, some x)
  | .ok idx =>
    let c : List Int := [(i % u0 * unitElems t : Nat), idx, 0, 0]
    match s.tensorRead e w l t c with
    | .error x => (s, some x)
    | .ok v => (s.noteTensor e w l t c true).landUnit e w (staggered t (i * unitBytes t)) v (tlrAddr t c)

/-- One unit of a scatter. -/
def State.scatterUnit (s : State) (e : CopyEntry) (w : Workgroup) (l : Launch) (t i : Nat) : Worked :=
  let u0 := tlrBox t 0 / unitElems t
  match s.rowIndex e w (i / u0) with
  | .error x => (s, some x)
  | .ok idx =>
    let c : List Int := [(i % u0 * unitElems t : Nat), idx, 0, 0]
    s.unitOut e w l t (staggered t (i * unitBytes t)) c

/-! Cluster copies (R303): one 16-byte unit. -/

def State.clusterUnit (s : State) (e : CopyEntry) (w : Workgroup) (push : Bool) (i : Nat) : Worked :=
  let k := s.kernelOf w
  let from' := e.a + 16 * i
  let to' := e.c + 16 * i
  match s.place w.core w k (if push then 1 else 2) 0 from' 16 1 with
  | .error x => (s, some (x.engine from'))
  | .ok p => match s.place w.core w k (if push then 2 else 1) 0 to' 16 2 with
    | .error x => (s, some (x.engine to'))
    | .ok q =>
      let v := s.locMarked w.core (.mem p) 16
      (s.enginePut w q v, if v.bad then some { cause := 3, addr := from' + v.offset } else none)

/-! Progress of an operation. -/

/-- Units of an operation's whole work, with its record. -/
def CopyEntry.total (e : CopyEntry) (t : Nat) : Nat :=
  match e.kind with
  | .push | .pull => (e.b.headD 0).toNat / 16
  | .reg _ => tlrBytes t / granuleBytes t
  | .gth | .gthSlot | .sct | .sctCl => (e.b.getD 1 0).toNat * (tlrBox t 0 / unitElems t)
  | _ => tlrElements t / unitElems t

/-- Units that one grant moves: up to 128 bytes (R291). -/
def CopyEntry.perGrant (e : CopyEntry) (t : Nat) : Nat :=
  match e.kind with
  | .push | .pull => 8
  | .reg _ => 128 / granuleBytes t
  | _ => 128 / unitBytes t

/-- One unit of work by kind. -/
def State.workUnit (s : State) (e : CopyEntry) (w : Workgroup) (l : Launch) (t i : Nat) : Worked :=
  match e.kind with
  | .st | .accSt => s.boxOut e w l t i
  | .brush h => s.boxBrush e w l h t i
  | .reg _ => s.boxReg e w l t i
  | .gth | .gthSlot => s.gatherUnit e w l t i
  | .sct | .sctCl => s.scatterUnit e w l t i
  | .push => s.clusterUnit e w true i
  | .pull => s.clusterUnit e w false i
  | _ => s.boxIn e w l t i

/-- Box coordinates of the element at fault for the record (R309, R387): of a granule, the first that fails as the fault says. -/
def State.coordsAt (s : State) (e : CopyEntry) (w : Workgroup) (l : Launch) (t i : Nat) (x : EngineFault) : List Nat :=
  match e.kind with
  | .push | .pull => []
  | .reg _ =>
    let at' (j : Nat) : List Nat := unitCoords t (i * granuleUnits t + j)
    let hit (j : Nat) : Bool := match s.tensorRead e w l t (e.coord t (at' j)) with
      | .error _ => decide (x.cause ≠ 3)
      | .ok v => decide (x.cause = 3) && v.bad
    at' (((List.range (granuleUnits t)).find? hit).getD 0)
  | .gth | .gthSlot | .sct | .sctCl => let u0 := tlrBox t 0 / unitElems t; [i % u0 * unitElems t, i / u0]
  | _ => unitCoords t i

/-! Reads of lines homed on other packages (R16, R438; log 18). -/

/-- An engine's read of `n` bytes within a line that only the home on another package can serve (R247). -/
def State.engineFar (s : State) (k : Nat) (p : Place) (n : Nat) : Bool :=
  match p with
  | .scratch .. => false
  | .home pa a => farHome pa &&
      !(decide (a.cache = 0) && s.rdc.any (fun r => r.die = dieOf k && r.line = pa / 128)) &&
      !(s.l1Line? k (pa / 128)).any (fun l => lineMask pa n &&& ~~~l.valid = 0)

/-- The elements of the tensor that a unit of work reads; of a byte of which a store writes one half, the other is read (R297). -/
def State.unitReads (s : State) (e : CopyEntry) (w : Workgroup) (t i : Nat) : List (List Int) :=
  match e.kind with
  | .st | .accSt =>
    let c := e.coord t (unitCoords t i)
    if unitElems t = 2 && !tlrIn t ((c.headD 0 + 1) :: c.tail) then [c] else []
  | .sct | .sctCl | .push | .pull => []
  | .reg _ => (List.range (granuleUnits t)).map (fun j => e.coord t (unitCoords t (i * granuleUnits t + j)))
  | .gth | .gthSlot =>
    let u0 := tlrBox t 0 / unitElems t
    match s.rowIndex e w (i / u0) with
    | .ok idx => [[((i % u0 * unitElems t : Nat) : Int), idx, 0, 0]]
    | .error _ => []
  | _ => [e.coord t (unitCoords t i)]

/-- A line that another package has to send before a unit of work. -/
def State.unitAwaits (s : State) (e : CopyEntry) (w : Workgroup) (l : Launch) (t i : Nat) : Option Nat :=
  (s.unitReads e w t i).findSome? fun c =>
    if !tlrIn t c then none
    else match s.tensorPlace e w l t c (match e.kind with | .st | .accSt => 2 | _ => 1) with
      | .ok (.home pa a) =>
        if s.engineFar w.core (.home pa a) (unitBytes t) && !s.fetched.contains (.copy e.id, pa / 128) then some (pa / 128) else none
      | _ => none

/-- An operation of the copy unit waits for a line of another package. -/
def State.engineAsked (s : State) (e : CopyEntry) : Bool := s.awaitsLine (.copy e.id)

/-- An operation has read what came for it. -/
def State.copyRead (s : State) (e : CopyEntry) : State := s.readOver (fun r => decide (r = .copy e.id))

/-- Up to `n` units from a position; the operation stops at its first fault, waits before a unit for what another package has to send, and is finished
after its last unit. -/
def State.workUnits (e : CopyEntry) (w : Workgroup) (l : Launch) (t total : Nat) : Nat → Nat → State → State
  | 0, i, s => (s.copyRead e).updEntry w.core e.id (fun x => { x with pos := i, finished := decide (i ≥ total), acks := s.openStores })
  | n + 1, i, s =>
    if i ≥ total then (s.copyRead e).updEntry w.core e.id (fun x => { x with pos := i, finished := true, acks := s.openStores })
    else if let some line := s.unitAwaits e w l t i then
      State.askLine (.copy e.id) ((if i = e.pos then s else s.copyRead e).updEntry w.core e.id (fun x => { x with pos := i })) line
    else match s.workUnit e w l t i with
      | (s1, none) => State.workUnits e w l t total n (i + 1) s1
      | (s1, some x) =>
        ((s1.copyRead e).updEntry w.core e.id (fun y => { y with pos := i })).holdFault w.core e (e.faultInfo x (s.coordsAt e w l t i x) i)

/-- The record's first read (R296), its checks (R295, R304, R305, R377) and the deferred fault of a bad one. -/
def State.readTlr (s : State) (e : CopyEntry) (w : Workgroup) (l : Launch) : State :=
  let stop (s : State) (x : EngineFault) : State := s.holdFault w.core e (e.faultInfo x [] 0)
  match s.place w.core w (s.kernelOf w) 0 l.space e.a 64 1 with
  | .error x => stop s (x.engine e.a)
  | .ok p =>
    let line := match p with | .home pa _ => pa / 128 | .scratch .. => 0
    if s.engineFar w.core p 64 && !s.fetched.contains (.copy e.id, line) then State.askLine (.copy e.id) s line else
    let r := s.engineReadAt w.core p 64
    let t := ofBytes r.1
    let b := match e.kind with | .brush h => w.brush? h | _ => none
    let out := (b.map (fun b => 8 * brushBytes b.zFmt)).getD 0
    let bad : Bool := tlrMalformed e out t ||
      (match e.kind with
        | .reg k => decide (tlrBytes t ≠ 4 * e.width * k)
        | .gth | .gthSlot | .sct | .sctCl => decide ((e.b.getD 1 0).toNat * rowBytes t > 65536)
        | .brush _ => match b with | some b => decide (b.arity ≠ 0) || decide (tlrFmt t ≠ b.xFmt) | none => true
        | _ => false)
    let s1 := (s.noteTlb l.space e.a).copyRead e
    if r.2 then stop s1 { cause := 3, addr := e.a }
    else if bad then stop s1 { cause := 2, addr := e.a }
    else s1.updEntry w.core e.id (fun x => { x with tlr := some t })

/-- A ring slot claimed (R315); an invalid descriptor, a bad stagger or a box larger than a slot is a deferred fault. -/
def State.claimRing (s : State) (e : CopyEntry) (w : Workgroup) (t : Nat) : State :=
  let off := w.scratchBase + e.c
  let r := s.ringRead w.core off
  let stop (s : State) (cause : Nat) : State := s.holdFault w.core e (e.faultInfo { cause := cause, addr := e.c } [] 0)
  if !r.valid (s.kernelOf w).scratchBytes then stop s 6
  else if r.base % staggerPeriod (tlrStagger t) ≠ 0 ∨ r.size * 16 % staggerPeriod (tlrStagger t) ≠ 0 then stop s 2
  else if r.free = 0 then s
  else
    let s1 := (s.ringWrite w.core off { r with free := r.free - 1, head := (r.head + 1) % r.slots }).updEntry w.core e.id
      (fun x => { x with ringSlot := some r.head })
    if tlrBytes t > r.size * 16 then stop s1 6 else s1

/-- The units of one grant. -/
def State.grantUnits (s : State) (e : CopyEntry) (w : Workgroup) (l : Launch) (t : Nat) : State :=
  State.workUnits e w l t (e.total t) (e.perGrant t) e.pos s

/-- One grant of a copy, gather or scatter: its record, then its ring slot, then up to 128 bytes (R291, R302). -/
def State.grantCopy (s : State) (e : CopyEntry) (w : Workgroup) (l : Launch) : State :=
  match e.kind with
  | .push | .pull => s.grantUnits e w l 0
  | _ => match e.tlr with
    | none => s.readTlr e w l
    | some t =>
      if e.kind = .ring ∧ e.ringSlot.isNone then s.claimRing e w t
      else if e.kind = .ring ∧ tlrBytes t > (s.ringRead w.core (w.scratchBase + e.c)).size * 16 then
        s.holdFault w.core e (e.faultInfo { cause := 6, addr := e.c } [] 0)
      else s.grantUnits e w l t

/-! Slots named by outstanding operations (R337, R338). -/

/-- The slots that a copy operation reads or writes; before its record is read, every slot a box could reach. -/
def CopyEntry.slots (e : CopyEntry) : List Nat :=
  let upTo (bytes : Nat) : List Nat := (List.range ((bytes + 4095) / 4096)).map (fun i => e.c + i)
  match e.kind, e.tlr with
  | .slot, some t => upTo (tlrBytes t)
  | .slot, none => upTo 65536
  | .gthSlot, some t => upTo ((e.b.getD 1 0).toNat * rowBytes t)
  | .gthSlot, none => upTo 65536
  | _, _ => []

/-- The fields of an `MLOOP` or `TOUTER` entry (R335): steps, and the slots of a step with whether each is gathered. -/
def EaselEntry.steps (e : EaselEntry) : Nat :=
  match e.kind with
  | .mloop | .count => bitsOf e.imm.toNat 0 16
  | .touter => bitsOf e.a 16 6
  | _ => 1

def EaselEntry.scaleMode (e : EaselEntry) : Nat := match e.kind with | .mloop => bitsOf e.a 12 4 | _ => 0
def EaselEntry.slotA (e : EaselEntry) (s : Nat) : Nat :=
  match e.kind with
  | .touter => bitsOf e.a 0 5 + s
  | _ => bitsOf e.b 0 5 + s * bitsOf e.imm.toNat 16 4
def EaselEntry.slotB (e : EaselEntry) (s : Nat) : Nat :=
  match e.kind with
  | .touter => bitsOf e.a 5 5 + s
  | _ => bitsOf e.b 5 5 + s * bitsOf e.imm.toNat 20 4
def EaselEntry.slotS (e : EaselEntry) (s : Nat) : Nat := bitsOf e.b 10 5 + s * bitsOf e.imm.toNat 24 4

/-- The slots of step `s`. -/
def EaselEntry.slotsOf (e : EaselEntry) (s : Nat) : List Nat :=
  match e.kind with
  | .mloop | .count | .touter => e.slotA s :: e.slotB s :: (if e.scaleMode ≠ 0 then [e.slotS s] else [])
  | .cdrn => if bitsOf e.imm.toNat 5 1 = 1 then [bitsOf e.imm.toNat 0 5] else []
  | _ => []

/-- The gathered slots of step `s` (R344). -/
def EaselEntry.gathered (e : EaselEntry) (s : Nat) : List Nat :=
  match e.kind with
  | .mloop | .count => (if e.mods.getLsbD 1 then [e.slotA s] else []) ++ (if e.mods.getLsbD 2 then [e.slotB s] else [])
  | _ => []

/-- Slots of the steps an entry has not done. -/
def EaselEntry.slots (e : EaselEntry) : List Nat :=
  ((List.range e.steps).filter (fun i => !e.doneSteps.contains i)).flatMap e.slotsOf

/-- Releasing slots that no earlier operation still reads or writes become free (R337); the flags of a saved workgroup are its context's (R328). -/
def State.sweepSlots (s : State) (w : Workgroup) : State :=
  let c := s.core w.core
  let busy (n key : Nat) : Bool :=
    c.copyQ.any (fun e => e.wg = w.key && decide (e.id < key) && e.slots.contains n) ||
    c.easelQ.any (fun e => e.wg = w.key && decide (e.id < key) && e.slots.contains n)
  if w.slotFlags.any (fun f => f.releasing) && decide (w.preempt ≠ .saved) then
    s.updWg w.key (fun w => { w with slotFlags := w.slotFlags.mapIdx (fun i f =>
      if f.releasing && !busy i f.releasedAt then { f with releasing := false, claimed := false, releasedAt := 0 } else f) })
  else s

/-- Operations of one issuer that `FENCE.E` makes wait, an `MSTO` among them (R236, R427): one of an earlier epoch is incomplete, or a write to another
package that the `FENCE.E` orders before them is not yet performed (R218). -/
def State.fenced (s : State) (k wg issuer epoch : Nat) : Bool :=
  let c := s.core k
  c.copyQ.any (fun e => e.wg = wg && e.issuer = issuer && decide (e.epoch < epoch)) ||
    c.easelQ.any (fun e => e.wg = wg && e.issuer = issuer && decide (e.epoch < epoch)) ||
    s.multi.any (fun m => !m.load && decide (m.wg = wg) && decide (m.issuer = issuer) && decide (m.epoch < epoch)) ||
    (s.wg? wg).any (fun w => w.fenceAcks.any (fun q => decide (q.1 = issuer) && decide (q.2.1 ≤ epoch) && q.2.2.any s.asked))

/-- An earlier ring operation of the same warp has not claimed its slot of the same ring (R315); one at fault has not reached it. -/
def Core.ringBefore (c : Core) (e : CopyEntry) : Bool :=
  c.copyQ.any (fun d => decide (d.kind = .ring) && decide (d.wg = e.wg) && decide (d.issuer = e.issuer) && decide (d.c = e.c) && decide (d.id < e.id) &&
    d.ringSlot.isNone && d.fault.isNone)

/-- The Cove of a die in bytes, and what is staged in it (R15, R414). -/
def State.coveBytes (s : State) (die : Nat) : Nat := Sparse.get 1 s.coveWays die * 2 ^ 22
def State.coveUsed (s : State) (die : Nat) : Nat :=
  (s.packets.filter (fun p => decide (p.die = die) && p.staged s.links)).foldl (fun n p => n + p.payload.length) 0 +
    s.peers.foldl (fun n e => (e.2.received.filter (fun a => e.2.dieOf a = die)).foldl (fun m a => m + a.bytes.length) n) 0

/-- An occupied entry that can proceed (R291): not faulted, finished, fenced or waiting for another package; a ring operation has or can claim its slot (R315); a
`PSEND` has not been sent, and once its header is read its start time has come (R432) and the Cove has room for its payload (R414). -/
def State.entryProceeds (s : State) (k : Nat) (e : CopyEntry) : Bool :=
  e.fault.isNone && !e.finished && !s.engineAsked e && !s.fenced k e.wg e.issuer e.epoch &&
    (match e.kind, s.wg? e.wg with
      | _, none => false
      | .ring, some w => e.ringSlot.isSome || e.tlr.isNone || !(s.core k).ringBefore e &&
          (decide ((s.ringRead k (w.scratchBase + e.c)).free > 0) || !(s.ringRead k (w.scratchBase + e.c)).valid (s.kernelOf w).scratchBytes)
      | .psend, some _ => !e.sent && e.tlr.all (fun h => decide (s.tide.toNat ≥ e.start) &&
          (let die := bitsOf h 64 32 % Config.dies; decide (s.coveUsed die + 16 * bitsOf h 20 13 ≤ s.coveBytes die)))
      | _, some _ => true)

/-- A hop entry hands its packet to another package (R416). -/
def hopLeaves (e : Nat) : Bool :=
  decide (bitsOf e 0 4 = 2) || decide (bitsOf e 0 4 = 3) || (decide (bitsOf e 0 4 = 1) && decide (bitsOf e 4 9 ≠ Config.package))

/-- A packet of a `PSEND` that its completion waits for (R433): it has left and is not acknowledged, or it is still to leave. -/
def Packet.awaited (p : Packet) : Bool :=
  p.awaitAck || (List.range (bitsOf p.header 7 4)).any (fun i => decide (i ≥ bitsOf p.header 4 3) && hopLeaves (bitsOf p.header (128 + 48 * i) 48))

/-- An operation has performed its last write, at other packages too (R302), and no unit has its arrival; a `PSEND`, once its packets are acknowledged, or on
an all-local route its last entry has been applied (R433). -/
def State.copyFinished (s : State) (e : CopyEntry) : Bool :=
  e.fault.isNone && !e.acks.any s.asked && !s.requests.any (fun r => decide (r.kind = .arrival e.id)) && (e.finished || (decide (e.kind = .psend) && e.sent &&
    !s.packets.any (fun p => decide (p.fromEntry = some e.id) && (!e.away || p.awaited))))

end Sys2Proof.Machine
end

