-- ==== Sys2Proof/Machine/Easel.lean ====
section
/-! DEFINITION. The Easel's sequencer (R340 to R354, R376): what a unit computes from the slots, banks and accumulator memory when it
starts, which entry may start one, and what it writes when it ends. -/

namespace Sys2Proof.Machine

/-! Float steps (R341). -/

/-- The value of an operand code: INT8-SM reads as its integer, both zero codes as +0. -/
def easelValue (fmt code : Nat) : XReal := if fmt = 9 then intX (smValue 8 (code % 256)) else ((Fmt.ofCode fmt).getD .bf16).value code

/-- A finite term truncated toward zero, as a multiple of 2^q. -/
def truncTo (q : Int) : XReal → Int
  | .fin n m e => let k : Nat := if e ≥ q then m <<< (e - q).toNat else m >>> (q - e).toNat; if n then -(k : Int) else k
  | _ => 0

/-- The new element from its terms (R341). -/
def stepSum (sat : Bool) (terms : List XReal) : Word :=
  if terms.any XReal.isNan || (terms.any (fun t => t = .inf false) && terms.any (fun t => t = .inf true)) then 0x7FC00000
  else if terms.any (fun t => t = .inf false) then 0x7F800000
  else if terms.any (fun t => t = .inf true) then 0xFF800000
  else
    let nz := terms.filter (fun t => !t.isZero)
    match nz with
    | [] => if terms.all XReal.isNeg then 0x80000000 else 0
    | t :: rest =>
      let q := rest.foldl (fun m x => max m x.floorLog2) t.floorLog2 - 60
      let sum := nz.foldl (fun (a : Int) x => a + truncTo q x) 0
      if sum = 0 then 0 else BitVec.ofNat 32 (roundTo .f32 .rn sat (XReal.ofInt false sum q)).1

/-- The step depth K and element bytes of an operand format (R329). -/
def stepDepth (fmt : Nat) : Nat := if fmt = 1 ∨ fmt = 2 then 64 else 128
def stepBytes (fmt : Nat) : Nat := if fmt = 1 ∨ fmt = 2 then 2 else 1

/-- The bytes of a slot of a workgroup. -/
def State.slotData (s : State) (w : Workgroup) (n : Nat) : Array Byte := (Bytes.read (s.core w.core).tiles (w.slotAt n * 4096) 4096).toArray

/-- `n` bytes of slot data as a number. -/
def dataAt (d : Array Byte) (a : Nat) : Nat → Nat
  | 0 => 0
  | n + 1 => (d.getD a 0).toNat + 256 * dataAt d (a + 1) n

/-- A word of the bytes of a slot is poisoned. -/
def State.slotBad (s : State) (w : Workgroup) (slot a n : Nat) : Bool := marked (s.core w.core).tilePoison (w.slotAt slot * 4096 + a) n

/-- The scale bytes of a row (or column) and of a block of `k` (R331). -/
def scaleByte (mode depth : Nat) (column : Bool) (i k : Nat) : Nat :=
  if mode = 1 then (if column then 32 + i else i) else (if column then 128 else 0) + i * (depth / 32) + k / 32

/-- One float step's accumulator words (R341). -/
def State.floatStep (s : State) (e : EaselEntry) (w : Workgroup) (step : Nat) : List (Nat × Word × Bool) :=
  let fa := bitsOf e.a 0 4
  let fb := bitsOf e.a 4 4
  let mode := bitsOf e.a 12 4
  let sat := bitsOf e.a 29 1 = 1
  let depth := stepDepth fa
  let nb := stepBytes fa
  let da := s.slotData w (e.slotA step)
  let db := s.slotData w (e.slotB step)
  let ds := if mode = 0 then #[] else s.slotData w (e.slotS step)
  let scale (column : Bool) (i k : Nat) : XReal := if mode = 0 then .fin false 1 0 else e8m0X (dataAt ds (scaleByte mode depth column i k) 1)
  let one (i j : Nat) : Nat × Word × Bool :=
    let at' := w.accBase + e.c + 4 * (32 * i + j)
    let old := s.accRead w.core at' 4
    let prods := (List.range depth).map (fun k =>
      let x := easelValue fa (dataAt da ((i * depth + k) * nb) nb)
      let y := easelValue fb (dataAt db ((j * depth + k) * nb) nb)
      (mulX (mulX (mulX x y).1 (scale false i k)).1 (scale true j k)).1)
    let scaled (column : Bool) (i : Nat) : Bool :=
      decide (mode ≠ 0) && s.slotBad w (e.slotS step) (scaleByte mode depth column i 0) (if mode = 1 then 1 else depth / 32)
    let bad := old.2 || s.slotBad w (e.slotA step) (i * depth * nb) (depth * nb) || s.slotBad w (e.slotB step) (j * depth * nb) (depth * nb) ||
      scaled false i || scaled true j
    (at', stepSum sat (prods ++ [Fmt.f32.value (ofBytes old.1)]), bad)
  (List.range 32).flatMap (fun i => (List.range 32).map (fun j => one i j))

/-! Count steps (R342). -/

/-- A nibble of slot data. -/
def nibbleAt (d : Array Byte) (n : Nat) : Nat := let b := (d.getD (n / 2) 0).toNat; if n % 2 = 0 then b % 16 else b / 16

/-- The counters, and the poisoned words of four of them, of a bank after a count step: of an element of poisoned codes every one (R356, R484). -/
def State.countStep (s : State) (e : EaselEntry) (w : Workgroup) (step : Nat) (b : FrontBank) : Sparse Nat × List Nat :=
  let da := s.slotData w (e.slotA step)
  let db := s.slotData w (e.slotB step)
  let pairs := (List.range 16).flatMap (fun i => (List.range 16).map (fun j => (i, j)))
  let addOne (i j : Nat) (m : Sparse Nat) (k : Nat) : Sparse Nat :=
    let key := (16 * i + j) * 256 + 16 * nibbleAt da (i * 256 + k) + nibbleAt db (j * 256 + k)
    Sparse.set 0 m key (Sparse.get 0 m key + 1)
  let counters := pairs.foldl (fun m p => (List.range 256).foldl (addOne p.1 p.2) m) b.counters
  let poison := pairs.foldl (fun q p =>
    if s.slotBad w (e.slotA step) (p.1 * 128) 128 || s.slotBad w (e.slotB step) (p.2 * 128) 128 then (List.range 64).foldl (fun q i => insertNat ((16 * p.1 + p.2) * 64 + i) q) q else q) b.poison
  (counters, poison)

/-! Merges and drains (R353, R354). -/

/-- A front bank of a core. -/
def Core.bank (c : Core) (n : Nat) : FrontBank := if n % 2 = 0 then c.bank0 else c.bank1
def Core.setBank (c : Core) (n : Nat) (g : FrontBank → FrontBank) : Core :=
  if n % 2 = 0 then { c with bank0 := g c.bank0 } else { c with bank1 := g c.bank1 }

/-- The deep depth register of a physical accumulator offset (R326). -/
def Core.deep (c : Core) (phys : Nat) : Nat := if phys < 262144 then c.deep0 else c.deep1
def Core.setDeep (c : Core) (phys v : Nat) : Core := if phys < 262144 then { c with deep0 := v } else { c with deep1 := v }

/-- Deep words after a merge: each front counter added to its counter; those of poisoned front words are poisoned (R356). -/
def State.mergeWords (s : State) (e : EaselEntry) (w : Workgroup) (b : FrontBank) : List (Nat × Word × Bool) :=
  let base := w.accBase + e.b
  (distinct (b.counters.map (fun p => p.1) ++ b.poison.flatMap (fun q => (List.range 4).map (fun i => 4 * q + i)))).map (fun n =>
    let old := s.accRead w.core (base + 4 * n) 4
    (base + 4 * n, BitVec.ofNat 32 (ofBytes old.1 + Sparse.get 0 b.counters n), old.2 || b.poison.contains (n / 4)))

/-- The value of a code in a drain (R354). -/
def drainValue (w : Workgroup) (fmt book code : Nat) : XReal :=
  match fmt with
  | 8 => Fmt.bf16.value (Sparse.get 0 w.books (book * 16 + code)).toNat
  | 10 => intX (smValue 4 code)
  | _ => Fmt.e2m1.value code

/-- Two operands of a drain combined: NaN and infinities as R354 gives, numbers exactly; a zero of the sum has no stated sign. -/
def drainAdd (a b : XReal) : XReal :=
  match a, b with
  | .nan, _ | _, .nan => .nan
  | .inf x, .inf y => if x = y then .inf x else .nan
  | .inf x, _ | _, .inf x => .inf x
  | _, _ => XReal.addFin false a b

/-- One drained element (R354): its code, from the counts of code pairs, the scales, and the old element for `.ACC`. -/
def drainElement (sign : Bool) (pairs : List (XReal × Nat)) (scaleA scaleB : Nat) (old : Option XReal) (ofmt : Nat) (oldCode : Nat) (sat : Bool) : Nat :=
  let fmt := if ofmt = 1 then Fmt.bf16 else .f32
  let nanScale : Bool := decide (scaleA = 0xFF) || decide (scaleB = 0xFF)
  let shift : Int := (scaleA : Int) + scaleB - 254
  let products := pairs.map (fun p => match p.1 with
    | .fin n m e => XReal.fin n (m * p.2) (e + shift)
    | x => x)
  let r := if nanScale then .nan else products.foldl drainAdd .zero
  let all := products ++ (match old with | some x => [x] | none => [])
  let v := match old with | some x => drainAdd r x | none => r
  if pairs.isEmpty && !nanScale then (match old with | some _ => oldCode | none => 0)
  else
    let plainZero := all.all (fun x => x = .fin false 0 x.expo)
    if ofmt = 12 then
      match v with
      | .fin n m e =>
        let z : Int := if e ≥ 0 then ((m <<< e.toNat : Nat) : Int) else ((m >>> (-e).toNat : Nat) : Int)
        wrapOf 32 (max (-2 ^ 31) (min (2 ^ 31 - 1) (if n then -z else z)))
      | _ => 0
    else match v with
      | .nan => fmt.nanCode
      | .fin _ 0 _ => fmt.signed (if plainZero then false else sign) 0
      | x => (roundTo fmt .rn sat x).1

/-- Bytes of an output element (R330). -/
def drainBytes (ofmt : Nat) : Nat := if ofmt = 1 then 2 else 4

/-- The accumulator words that a drain writes (R354): the output is 256 elements, packed two to a word for BF16. -/
def State.drainWords (s : State) (e : EaselEntry) (w : Workgroup) : List (Nat × Word × Bool) :=
  let fa := bitsOf e.b 0 4
  let fb := bitsOf e.b 4 4
  let ofmt := bitsOf e.b 8 4
  let ta := bitsOf e.b 16 6
  let tb := bitsOf e.b 22 6
  let integer := e.kind = .cdrnI
  let sat := !integer && bitsOf e.b 29 1 = 1
  let scales := e.kind = .cdrn && bitsOf e.imm.toNat 5 1 = 1
  let slot := bitsOf e.imm.toNat 0 5
  let ds := if scales then s.slotData w slot else #[]
  let nb := drainBytes ofmt
  let base := w.accBase + e.a
  let out := w.accBase + e.c
  let acc := e.mods.getLsbD 0
  let element (n : Nat) : Nat × Bool :=
    let i := n / 16
    let j := n % 16
    let pairs := (List.range 256).filterMap (fun p =>
      let count := ofBytes (s.accRead w.core (base + 4 * (n * 256 + p)) 4).1
      let tainted := (decide (fa = 8) && w.bookPoison.contains (ta * 16 + p / 16)) || (decide (fb = 8) && w.bookPoison.contains (tb * 16 + p % 16))
      if count = 0 then none else some ((mulX (drainValue w fa ta (p / 16)) (drainValue w fb tb (p % 16))).1, count, tainted))
    let old := s.accRead w.core (out + nb * n) nb
    let oldX := if integer then intX (signedOf 32 (ofBytes old.1)) else (if ofmt = 1 then Fmt.bf16 else .f32).value (ofBytes old.1)
    let sa := if scales then dataAt ds i 1 else 127
    let sb := if scales then dataAt ds (16 + j) 1 else 127
    let bad := marked (s.core w.core).accPoison (base + 1024 * n) 1024 || (acc && old.2) ||
      (scales && (s.slotBad w slot i 1 || s.slotBad w slot (16 + j) 1)) || pairs.any (fun p => p.2.2)
    (drainElement (Config.drainSign (s.free + n)) (pairs.map (fun p => (p.1, p.2.1))) sa sb (if acc then some oldX else none) (if integer then 12 else ofmt) (ofBytes old.1) sat, bad)
  if nb = 4 then (List.range 256).map (fun n => let r := element n; (out + 4 * n, BitVec.ofNat 32 r.1, r.2))
  else (List.range 128).map (fun n =>
    let lo := element (2 * n)
    let hi := element (2 * n + 1)
    (out + 4 * n, BitVec.ofNat 32 (lo.1 + hi.1 * 2 ^ 16), lo.2 || hi.2))

/-! `TOUTER` (R376). -/

/-- One element of an outer step: the combining brush over the products, with whether a word in error of a brush has reached it (R484); a fault names the
brush and the position. A brush comes with its words in error. -/
def outerElement (bp bm : Brush × List Nat) (traps : Flags) (x y : Nat → Nat) :
    Nat → Nat → Nat × Bool → Flags → Except (BrushFault × Nat × Nat) ((Nat × Bool) × Flags)
  | 0, _, acc, fl => .ok (acc, fl)
  | n + 1, k, acc, fl =>
    match bm.1.apply traps (x k) (y k) bm.1.base with
    | .error f => .error (f, 1, k)
    | .ok (p, g) => match bp.1.apply traps acc.1 p bp.1.base with
      | .error f => .error (f, 0, k)
      | .ok (v, g') =>
        let bad := bm.1.taints bm.2 (x k) (y k) bm.1.base || bp.1.taints bp.2 acc.1 p bp.1.base
        outerElement bp bm traps x y n (k + 1) (v, acc.2 || bad) (fl ||| g ||| g')

/-- The elements of an outer step in order, or the first fault with its position word (R389). -/
def outerElements (f : Nat → Except (BrushFault × Nat × Nat) ((Nat × Bool) × Flags)) (step : Nat) :
    List Nat → Except (BrushFault × Nat × Nat) (List (Nat × Bool) × Flags)
  | [] => .ok ([], 0)
  | n :: t =>
    match f n with
    | .error (b, which, k) => .error (b, which, step + n / 32 * 2 ^ 5 + n % 32 * 2 ^ 10 + k * 2 ^ 15)
    | .ok (v, fl) => match outerElements f step t with
      | .error x => .error x
      | .ok (l, fl') => .ok (v :: l, fl ||| fl')

/-- The record of a `TOUTER` brush fault (R387 layout 2). -/
def EaselEntry.outerFault (e : EaselEntry) (f : BrushFault) (which position : Nat) : FaultInfo :=
  { cls := 17, cause := 9, pc := e.pc, fibre := e.fibre, deferred := true, entry := some e.id, layout := 2
    brush := if which = 0 then bitsOf e.imm.toNat 0 6 else bitsOf e.imm.toNat 8 6
    whichBrush := which, opIndex := f.op, subCause := f.sub, flags := f.flags
    body := (e.a % 2 ^ 32 + e.c % 2 ^ 32 * 2 ^ 32 + e.b % 2 ^ 32 * 2 ^ 64 + e.imm.toNat * 2 ^ 96) * 2 ^ 64 +
      (f.s1.toNat + f.s2.toNat * 2 ^ 32 + f.s3.toNat * 2 ^ 64) * 2 ^ 192 + position * 2 ^ 288 }

/-- An outer step as a unit. -/
def State.outerStep (s : State) (e : EaselEntry) (w : Workgroup) (l : Launch) (step : Nat) : EaselUnit :=
  let u : EaselUnit := { entry := e.entry, step := step, last := decide (e.doneSteps.length + 1 = e.steps) }
  match w.brush? (bitsOf e.imm.toNat 0 6), w.brush? (bitsOf e.imm.toNat 8 6) with
  | some bp, some bm =>
    let nb := brushBytes bm.xFmt
    let depth := 4096 / (32 * nb)
    let da := s.slotData w (e.slotA step)
    let db := s.slotData w (e.slotB step)
    let at' (n : Nat) : Nat := w.accBase + e.b + 4 * n
    let marked (b : Brush) (lo : Nat) : Brush × List Nat := (b, badWords w.brushPoison (bitsOf e.imm.toNat lo 6))
    let one (n : Nat) : Except (BrushFault × Nat × Nat) ((Nat × Bool) × Flags) :=
      outerElement (marked bp 0) (marked bm 8) l.traps (fun k => dataAt da ((n / 32 * depth + k) * nb) nb) (fun k => dataAt db ((n % 32 * depth + k) * nb) nb)
        depth 0 (ofBytes (s.accRead w.core (at' n) 4).1, false) 0
    match outerElements one step (List.range 1024) with
    | .error (f, which, pos) => { u with fault := some (e.outerFault f which pos), last := false }
    | .ok (vals, fl) =>
      let bad (n : Nat) : Bool := (s.accRead w.core (at' n) 4).2 || s.slotBad w (e.slotA step) (n / 32 * 128) 128 ||
        s.slotBad w (e.slotB step) (n % 32 * 128) 128
      { u with accWords := vals.zipIdx.map (fun v => (at' v.2, BitVec.ofNat 32 v.1.1, v.1.2 || bad v.2)), flags := fl }
  | _, _ => u

/-! Units. -/

/-- What a unit of an entry computes when it starts (R340). -/
def State.unitOf (s : State) (e : EaselEntry) (w : Workgroup) (l : Launch) (step : Nat) : EaselUnit :=
  let c := s.core w.core
  let u : EaselUnit := { entry := e.entry, step := step, last := decide (e.doneSteps.length + 1 = e.steps) }
  match e.kind with
  | .mloop => { u with accWords := s.floatStep e w step }
  | .count => { u with bank := some (e.c, s.countStep e w step (c.bank e.c)) }
  | .touter => s.outerStep e w l step
  | .mzero => { u with zero := some (w.accBase + e.a, bitsOf e.imm.toNat 0 8 * 4096) }
  | .mlda =>
    let k := 2 ^ (e.mods.toNat % 4)
    { u with regs := e.lanes.flatMap (fun p => (List.range k).map (fun i =>
        let r := s.accRead w.core (w.accBase + p.2 + 4 * i) 4
        (p.1, e.dst + i, BitVec.ofNat 32 (ofBytes r.1), r.2))) }
  | .msta =>
    { u with accWords := (e.lanes.zip e.data).flatMap (fun p => p.2.zipIdx.map (fun v => (w.accBase + p.1.2 + 4 * v.2, v.1, false))) }
  | .czero => { u with bank := some (e.a, [], []) }
  | .czeroD => { u with zero := some (w.accBase + e.a, 262144) }
  | .cmrg => { u with accWords := s.mergeWords e w (c.bank e.a), bank := some (e.a, [], []) }
  | .cdrn | .cdrnI => { u with accWords := s.drainWords e w }

/-- Front banks an entry names, and the deep bank by physical offset. -/
def EaselEntry.front (e : EaselEntry) : Option Nat := match e.kind with | .count => some e.c | .czero | .cmrg => some e.a | _ => none
def EaselEntry.deepBank (e : EaselEntry) (w : Workgroup) : Option Nat :=
  match e.kind with
  | .cmrg => some (w.accBase + e.b)
  | .czeroD | .cdrn | .cdrnI => some (w.accBase + e.a)
  | _ => none

/-- Two operations conflict (R347). -/
def conflict (a b : EaselEntry) (wa wb : Workgroup) : Bool :=
  let frontKind (e : EaselEntry) : Bool := e.kind = .czero || e.kind = .cmrg
  let clears (e : EaselEntry) : Bool := e.kind = .czeroD || e.kind = .cmrg
  let sameFront := a.front.isSome && a.front == b.front
  let sameDeep := (a.deepBank wa).isSome && a.deepBank wa == b.deepBank wb
  (sameFront && (frontKind a || frontKind b)) || (sameDeep && (clears a || clears b))

/-- A step's gathered slots are all filled (R344). -/
def stepReady (w : Workgroup) (e : EaselEntry) (step : Nat) : Bool :=
  (e.gathered step).all (fun n => match w.slotFlags[n]? with | some f => f.filled | none => false)

/-- Ready steps kept in the order in which they became ready, lower steps first among new ones (R344). -/
def State.noteReady (s : State) (k : Nat) : State :=
  s.updCore k (fun c => { c with easelQ := c.easelQ.map (fun e =>
    match s.wg? e.wg with
    | some w =>
      let running (i : Nat) : Bool := c.easelUnit.any (fun u => decide (u.entry = e.entry) && decide (u.step = i))
      if (e.kind = .mloop ∨ e.kind = .count) ∧ e.mods ≠ 0 then
        let kept := e.readySteps.filter (stepReady w e)
        let fresh := (List.range e.steps).filter (fun i => !e.doneSteps.contains i && !running i && !kept.contains i && stepReady w e i)
        { e with readySteps := kept ++ fresh }
      else e
    | none => e) })

/-- The next unit of an entry, where it is ready. -/
def EaselEntry.nextStep (w : Workgroup) (e : EaselEntry) : Option Nat :=
  let n := e.doneSteps.length
  match e.kind with
  | .mloop | .count =>
    if e.gathered 0 = [] then some n
    else if bitsOf e.a 28 1 = 1 then (if stepReady w e n then some n else none)
    else e.readySteps.find? (stepReady w e)
  | _ => some n

/-- An entry may start a unit (R346, R236). -/
def State.easelEligible (s : State) (k : Nat) (e : EaselEntry) : Bool :=
  let q := (s.core k).easelQ
  match s.wg? e.wg with
  | none => false
  | some w =>
    e.fault.isNone && (e.nextStep w).isSome && !s.fenced k e.wg e.issuer e.epoch &&
    q.all (fun o => decide (o.id ≥ e.id) || (!(o.wg = e.wg && o.issuer = e.issuer) &&
      (match s.wg? o.wg with | some v => !conflict o e v w | none => true)))

/-- Round-robin order of entry numbers from the one after the last served. -/
def roundRobin (last : Nat) : List Nat := (List.range 16).map (fun i => (last + 1 + i) % 16)

/-- The entry that the free array starts. -/
def State.easelNext (s : State) (k : Nat) : Option EaselEntry :=
  let c := s.core k
  ((roundRobin c.easelLast).filterMap (fun n => c.easelQ.find? (fun e => e.entry = n))).find? (s.easelEligible k)

/-- EASEL_UNIT_START (R340, R344, R346): the unit reads its slots; a gather-fed step clears their filled flags. -/
def execEaselUnitStart (core : Nat) (s : State) : Host.Outcome State Fault Refusal :=
  match (s.core core).easelUnit, s.easelNext core with
  | none, some e =>
    match s.wg? e.wg with
    | none => .next s
    | some w => match e.nextStep w, s.launch? w.launch with
      | some step, some l =>
        let u := s.unitOf e w l step
        let used := e.gathered step
        let s1 := s.updCore core (fun c => { c with
          easelUnit := some u, easelLast := e.entry
          easelQ := c.easelQ.map (fun x => if x.id = e.id then { x with readySteps := x.readySteps.filter (fun i => i ≠ step) } else x) })
        .next (s1.updWg e.wg (fun w => { w with slotFlags := w.slotFlags.mapIdx (fun i f => if used.contains i then { f with filled := false } else f) }))
      | _, _ => .next s
  | _, _ => .next s

/-- What a unit writes when it ends (R340). -/
def State.unitWrites (s : State) (k : Nat) (e : EaselEntry) (u : EaselUnit) : State :=
  let s1 := match u.zero with
    | some (a, n) => s.updCore k (fun c => { c with acc := c.acc.zero a n, accPoison := c.accPoison.filter (fun w => !(a ≤ 4 * w ∧ 4 * w < a + n)) })
    | none => s
  let s2 := u.accWords.foldl (fun t x => t.accWrite k x.1 (bytesOf 4 x.2.1.toNat) x.2.2) s1
  let s3 := match u.bank with
    | some (n, counters, poison) => s2.updCore k (fun c => c.setBank n (fun b => { b with counters := counters, poison := poison }))
    | none => s2
  s3.updWg e.wg (fun w =>
    let w1 := u.regs.foldl (fun v r => v.updFibre r.1 (fun x => { x.setRegP r.2.1 r.2.2.1 r.2.2.2 with pendV := x.pendV.filter (fun p => p ≠ r.2.1) })) w
    { w1 with fflags := w1.fflags ||| u.flags })

/-- EASEL_UNIT_END (R341 to R354): the results are written; after its last unit the operation completes and retires. A unit whose
entry was discarded meanwhile writes nothing (R328). -/
def execEaselUnitEnd (core : Nat) (s : State) : Host.Outcome State Fault Refusal :=
  match (s.core core).easelUnit with
  | none => .next s
  | some u =>
    let s0 := s.updCore core (fun c => { c with easelUnit := none })
    match (s.core core).easelQ.find? (fun e => e.entry = u.entry) with
    | none => .next s0
    | some e =>
      match u.fault with
      | some info =>
        let s1 := s0.updCore core (fun c => { c with easelQ := c.easelQ.map (fun x => if x.id = e.id then { x with fault := some info } else x) })
        let d : Deferred := { issuer := e.issuer, cls := e.cls, info := info, entry := some e.id }
        .next ((s1.updWg e.wg (fun w => { w with deferred := w.deferred ++ [d] })).checkWaitc e.wg)
      | none =>
        let s1 := s0.unitWrites core e u
        if u.last then
          .next ((s1.updCore core (fun c => { c with easelQ := c.easelQ.filter (fun x => x.id ≠ e.id) })).complete e.wg e.issuer e.cls e.id)
        else .next (s1.updCore core (fun c => { c with
          easelQ := c.easelQ.map (fun x => if x.id = e.id then { x with doneSteps := x.doneSteps ++ [u.step] } else x) }))

end Sys2Proof.Machine
end

