-- ==== Sys2Proof/Machine/Matrix.lean ====
section
/-! DEFINITION. The matrix instructions (R332 to R354): claiming slots, queueing Easel operations, their checks at issue. -/

namespace Sys2Proof.Machine

/-- A fault of the issuing lane (R336). -/
def Ctx.leadFault (c : Ctx) (x : Fibre) (cls v0 v1 : Nat) (cause : Nat := 0) : FaultInfo := c.fault cls x.index v0 v1 (laneMask [x]) cause

/-- An illegal operand of the issuing lane at step 7, by operand code. -/
def Ctx.leadOperand (c : Ctx) (x : Fibre) (code : BitVec 9) : FaultInfo := c.leadFault x 5 c.wordHigh code.toNat
/-- A slot fault: the slot mask, bank or offset (R388). -/
def Ctx.slotFault (c : Ctx) (x : Fibre) (v : Nat) : FaultInfo := c.leadFault x 14 v c.f.imm.toNat

/-- Tests in order, the first failure winning. -/
def firstFault : List (Bool × FaultInfo) → Option FaultInfo
  | [] => none
  | (bad, e) :: t => if bad then some e else firstFault t

/-! Slots (R337). -/

/-- The slots that a mask names. -/
def maskSlots (m : Word) : List Nat := (List.range 32).filter (fun i => m.getLsbD i)

/-- A slot of a workgroup is free. -/
def Workgroup.slotFree (w : Workgroup) (n : Nat) : Bool := match w.slotFlags[n]? with | some f => !f.claimed && !f.releasing | none => false
/-- A slot is claimed, and not releasing. -/
def Workgroup.slotClaimed (w : Workgroup) (n : Nat) : Bool := match w.slotFlags[n]? with | some f => f.claimed && !f.releasing | none => false

/-- Slots claimed, their filled flags cleared. -/
def Workgroup.claim (w : Workgroup) (slots : List Nat) : Workgroup :=
  { w with slotFlags := w.slotFlags.mapIdx (fun i f => if slots.contains i then { claimed := true, releasing := false, filled := false } else f) }

/-- A mask bit at or above the slot count. -/
def Ctx.badMask (c : Ctx) (w : Workgroup) (x : Fibre) : Bool := (maskSlots (srcB32 c x)).any (fun n => decide (n ≥ w.slotFlags.length))

/-- `SCLM` may issue: every named slot is free, or the mask is at fault (R337). -/
def Ctx.sclmReady (c : Ctx) (w : Workgroup) : Bool :=
  match c.passing with
  | [] => true
  | x :: _ => c.badMask w x || (maskSlots (srcB32 c x)).all w.slotFree

/-- `SCLM` (R337): while a named slot is not free it does not issue, and nothing changes. -/
def execSclm (f : Fields) (s : State) : Host.Outcome State Fault Refusal :=
  runOnce 0x130 .sclm f s fun c x t =>
    if c.badMask c.wg x then .error (c.slotFault x (srcB32 c x).toNat)
    else if !c.sclmReady c.wg then .ok t
    else .ok ((t.updWg c.wg.key (fun w => w.claim (maskSlots (srcB32 c x)))).lanewise c id)

/-- `SCLM.TRY` (R337). -/
def execSclmTry (f : Fields) (s : State) : Host.Outcome State Fault Refusal :=
  runOnce 0x131 .sclmTry f s fun c x t =>
    if c.badMask c.wg x then .error (c.slotFault x (srcB32 c x).toNat)
    else
      let slots := maskSlots (srcB32 c x)
      let free := slots.all c.wg.slotFree
      let u := if free then t.updWg c.wg.key (fun w => w.claim slots) else t
      .ok (u.lanewise c (fun y => y.setPred (predOf c.f.dst) free))

/-- `SREL` (R337): each named slot becomes releasing; it is freed when no earlier operation uses it. -/
def execSrel (f : Fields) (s : State) : Host.Outcome State Fault Refusal :=
  runOnce 0x132 .sclm f s fun c x t =>
    let slots := maskSlots (srcB32 c x)
    if slots.any (fun n => !c.wg.slotClaimed n) then .error (c.slotFault x (srcB32 c x).toNat)
    else
      let u := ({ t with nextKey := t.nextKey + 1 } : State).updWg c.wg.key (fun w => { w with slotFlags := w.slotFlags.mapIdx (fun i fl =>
        if slots.contains i then { fl with releasing := true, releasedAt := t.nextKey } else fl) })
      .ok (u.lanewise c id)

/-! The operation queue (R346). -/

/-- The lowest free entry number of a core's queue. -/
def Core.easelFree (c : Core) : Option Nat := (List.range 16).find? (fun n => !c.easelQ.any (fun e => e.entry = n))

/-- A batch's issuer has room in the queue and in its counter (R306, R336); a batch with no passing lane needs none. -/
def Ctx.easelReady (c : Ctx) (s : State) (cls : Nat) : Bool :=
  c.passing.isEmpty ||
    ((s.core c.core).easelFree.isSome && decide (((s.wgOf c).stream (issuerOf c.compat16 (lowestFibre c.lanes)) cls).count < 65535))

/-- An operation queued under a new name and counted; the batch moves on. -/
def State.queueEasel (s : State) (c : Ctx) (x : Fibre) (cls : Nat) (g : EaselEntry → EaselEntry) : State :=
  match (s.core c.core).easelFree with
  | none => s
  | some n =>
    let issuer := issuerOf c.compat16 x.index
    let base : EaselEntry :=
      { entry := n, id := s.nextKey, kind := .mzero, wg := c.wg.key, issuer := issuer, cls := cls, fibre := x.index, pc := c.pc,
        epoch := Sparse.get 0 c.wg.fenceEpoch issuer, imm := c.f.imm, mods := c.f.mods }
    let s1 := ({ s with nextKey := s.nextKey + 1 } : State).updCore c.core (fun k => { k with easelQ := k.easelQ ++ [g base] })
    (s1.updWg c.wg.key (fun w => w.countIssue issuer cls s.nextKey)).lanewise c id

/-- An instruction that queues one operation: nothing happens while the queue is full. -/
def runEasel (op : Nat) (sh : Shape) (f : Fields) (s : State) (g : Ctx → Fibre → State → Except FaultInfo State) :
    Host.Outcome State Fault Refusal :=
  runOnce op sh f s (fun c x t => if !c.easelReady t 2 then .ok t else g c x t)

/-! The format word (R332 to R334). -/

def fmtA (w : Nat) : Nat := bitsOf w 0 4
def fmtB (w : Nat) : Nat := bitsOf w 4 4
def fmtOut (w : Nat) : Nat := bitsOf w 8 4
def fmtScale (w : Nat) : Nat := bitsOf w 12 4

/-- Codes of the counting formats. -/
def countFmt (n : Nat) : Bool := n = 7 || n = 8 || n = 10

def floatWord (w : Nat) : Bool :=
  let a := fmtA w
  let b := fmtB w
  let half (n : Nat) : Bool := n = 1 || n = 2
  let narrow (n : Nat) : Bool := decide (3 ≤ n ∧ n ≤ 6)
  ((half a && half b) || (narrow a && narrow b) || (a = 9 && b = 9)) && fmtOut w = 0 && decide (fmtScale w ≤ 2)

def countWord (w : Nat) : Bool :=
  countFmt (fmtA w) && countFmt (fmtB w) && (fmtOut w = 0 || fmtOut w = 1 || fmtOut w = 12) && fmtScale w = 0

def drainWord (w : Nat) : Bool := countFmt (fmtA w) && countFmt (fmtB w) && (fmtOut w = 0 || fmtOut w = 1) && fmtScale w = 0
def drainIntWord (w : Nat) : Bool := fmtA w = 10 && fmtB w = 10 && fmtOut w = 12 && fmtScale w = 0

/-- A legal format word of a use, bits [31:30] zero (R333). -/
def wordLegal (use : Nat → Bool) (w : Nat) : Bool := use w && bitsOf w 30 2 = 0

/-- The format-divergence fault (R334): the lowest lane that differs from the lowest lane. -/
def Ctx.divergence (c : Ctx) (x : Fibre) (word : Fibre → Word) : Option FaultInfo :=
  match c.passing.filter (fun y => word y ≠ word x) with
  | [] => none
  | y :: t => some (c.fault 8 y.index c.wordHigh (word y).toNat (laneMask (y :: t)))

/-- Codebook numbers of CB4 operands are within the workgroup's tables (R333). -/
def booksOk (k : Kernel) (w : Nat) : Bool :=
  (fmtA w ≠ 8 || decide (bitsOf w 16 6 < k.books)) && (fmtB w ≠ 8 || decide (bitsOf w 22 6 < k.books))

/-! `MLOOP` (R339). -/

/-- A slot that a step names and that is not claimed; the first in step order. -/
def unclaimed (w : Workgroup) (e : EaselEntry) : Option Nat := ((List.range e.steps).flatMap e.slotsOf).find? (fun n => !w.slotClaimed n)

/-- The checks of R339 in order, on the entry that would be queued. -/
def Ctx.mloopFault (c : Ctx) (x : Fibre) (s : State) (count : Bool) (e : EaselEntry) : Option FaultInfo :=
  let b := (s.core c.core).bank (e.c % 2)
  let n := e.steps
  firstFault [
    (!wordLegal (if count then countWord else floatWord) e.a, c.leadOperand x c.f.srcA),
    (decide (bitsOf e.b 15 17 ≠ 0), c.leadOperand x c.f.srcB),
    ((unclaimed c.wg e).isSome, c.slotFault x ((unclaimed c.wg e).getD 0)),
    (!count && decide (e.c % 4096 ≠ 0), c.leadFault x 9 e.c 4096),
    (!count && decide (e.c + 4096 > c.kernel.accBytes), c.slotFault x e.c),
    (count && decide (e.c / 2 ≠ 0), c.leadOperand x c.f.srcC),
    (count && decide (b.owner ≠ some c.wg.key), c.slotFault x (e.c % 2)),
    (count && decide (b.depth + 256 * n > 65535),
      c.leadFault x 13 (b.depth % 2 ^ 32 + e.c % 2 * 2 ^ 32) (256 * n) 1)]

/-- A format vote, the checks, then the entry and the count depth (R339). -/
def mloopBody (count : Bool) (c : Ctx) (x : Fibre) (t : State) : Except FaultInfo State :=
  let word (y : Fibre) : Word := src32 c y c.f.srcA
  match c.divergence x word with
  | some e => .error e
  | none =>
    let g (e : EaselEntry) : EaselEntry := { e with
      kind := if count then .count else .mloop, a := (word x).toNat, b := (src32 c x c.f.srcB).toNat, c := (src32 c x c.f.srcC).toNat }
    let e := g { entry := 0, id := 0, kind := .mloop, wg := c.wg.key, issuer := 0, cls := 2, fibre := x.index, pc := c.pc, imm := c.f.imm, mods := c.f.mods }
    match c.mloopFault x t count e with
    | some e => .error e
    | none =>
      let u := t.queueEasel c x 2 g
      .ok (if count then u.updCore c.core (fun k => k.setBank e.c (fun b => { b with depth := b.depth + 256 * e.steps })) else u)

/-- `MLOOP` (R339, R340, R341). -/
def execMloop (f : Fields) (s : State) : Host.Outcome State Fault Refusal := runEasel 0x133 (.mloop f) f s (mloopBody false)
/-- `MLOOP.C` (R339, R342). -/
def execMloopC (f : Fields) (s : State) : Host.Outcome State Fault Refusal := runEasel 0x134 (.mloop f) f s (mloopBody true)
/-- `MLOOP.G` (R339, R344). -/
def execMloopG (f : Fields) (s : State) : Host.Outcome State Fault Refusal :=
  runEasel 0x135 (.mloopG f) f s (fun c => mloopBody (c.f.mod 0) c)

/-! Accumulator access (R350, R351). -/

/-- `MZERO` (R350). -/
def execMzero (f : Fields) (s : State) : Host.Outcome State Fault Refusal :=
  runEasel 0x136 (.mzero f) f s fun c x t =>
    let a := (src32 c x c.f.srcA).toNat
    let tiles := c.f.immBits 0 8
    match firstFault [(decide (a % 4096 ≠ 0), c.leadFault x 9 a (tiles * 4096)), (decide (a + tiles * 4096 > c.kernel.accBytes), c.slotFault x a)] with
    | some e => .error e
    | none => .ok (t.queueEasel c x 2 (fun e => { e with kind := .mzero, a := a }))

/-- The offset of a lane (R351). -/
def accOffset (c : Ctx) (x : Fibre) : Nat := (src32 c x c.f.srcA + c.f.imm).toNat
/-- Words of a lane. -/
def accWords (f : Fields) : Nat := 2 ^ f.modBits 0 2

/-- The failure of a lane's offset. -/
def accFault (c : Ctx) (x : Fibre) : Option LaneFault :=
  let o := accOffset c x
  let n := 4 * accWords c.f
  if o % n ≠ 0 then some { cls := 9, v0 := o, v1 := n }
  else if o + n > c.kernel.accBytes then some { cls := 14, v0 := o, v1 := c.f.imm.toNat }
  else none

/-- `MLDA` (R351): the registers are pending until the unit ends. -/
def execMlda (f : Fields) (s : State) : Host.Outcome State Fault Refusal :=
  runEasel 0x137 (.mlda f) f s fun c x t =>
    match c.laneFault (accFault c) with
    | some e => .error e
    | none =>
      let n := c.f.dst.toNat
      let u := t.queueEasel c x 2 (fun e => { e with kind := .mlda, lanes := c.passing.map (fun y => (y.index, accOffset c y)), dst := n })
      .ok (u.updLanes c (fun y => if passes c.f y then { y with pendV := (List.range (accWords c.f)).foldl (fun l i => insertNat (n + i) l) y.pendV } else y))

/-- `MSTA` (R351): the registers are read at issue, the highest lane stands. -/
def execMsta (f : Fields) (s : State) : Host.Outcome State Fault Refusal :=
  runEasel 0x138 (.msta f) f s fun c x t =>
    match c.laneFault (accFault c) with
    | some e => .error e
    | none => .ok (t.queueEasel c x 2 (fun e => { e with
        kind := .msta, lanes := c.passing.map (fun y => (y.index, accOffset c y)), data := c.passing.map (fun y => srcRun y c.f.srcB (accWords c.f)) }))

/-! Counts (R352 to R354). -/

/-- The checks of a deep offset (R326, R353). -/
def Ctx.deepFaults (c : Ctx) (x : Fibre) (o : Nat) : List (Bool × FaultInfo) :=
  [(decide (o ≠ 0 ∧ o ≠ 262144), c.leadFault x 9 o 262144), (decide (o + 262144 > c.kernel.accBytes), c.slotFault x o)]

/-- A front bank named by source A: bits [31:1] are zero (R335). -/
def Ctx.frontOf (c : Ctx) (x : Fibre) : Nat := (src32 c x c.f.srcA).toNat

/-- `CZERO` may issue: no other workgroup owns the bank (R352). -/
def Ctx.czeroReady (c : Ctx) (s : State) : Bool :=
  match c.passing with
  | [] => true
  | x :: _ => match ((s.core c.core).bank (c.frontOf x)).owner with | some k => decide (k = c.wg.key) | none => true

/-- `CZERO` (R352): ownership and the depth change at issue. -/
def execCzero (f : Fields) (s : State) : Host.Outcome State Fault Refusal :=
  runEasel 0x13C (.czero f) f s fun c x t =>
    let b := c.frontOf x
    if b / 2 ≠ 0 then .error (c.leadOperand x c.f.srcA)
    else if !c.czeroReady t then .ok t
    else .ok ((t.queueEasel c x 2 (fun e => { e with kind := .czero, a := b })).updCore c.core
      (fun k => k.setBank b (fun q => { q with owner := some c.wg.key, depth := 0 })))

/-- `CZERO.D` (R352). -/
def execCzeroD (f : Fields) (s : State) : Host.Outcome State Fault Refusal :=
  runEasel 0x13D (.czero f) f s fun c x t =>
    let o := (src32 c x c.f.srcA).toNat
    match firstFault (c.deepFaults x o) with
    | some e => .error e
    | none => .ok ((t.queueEasel c x 2 (fun e => { e with kind := .czeroD, a := o })).updCore c.core (fun k => k.setDeep (c.wg.accBase + o) 0))

/-- `CMRG` (R353): depth accounting, and with `.REL` the release of the bank, at issue. -/
def execCmrg (f : Fields) (s : State) : Host.Outcome State Fault Refusal :=
  runEasel 0x139 (.cmrg f) f s fun c x t =>
    let b := c.frontOf x
    let o := (src32 c x c.f.srcB).toNat
    let core := t.core c.core
    let bank := core.bank b
    let deep := core.deep (c.wg.accBase + o)
    match firstFault ([(decide (b / 2 ≠ 0), c.leadOperand x c.f.srcA), (decide (bank.owner ≠ some c.wg.key), c.slotFault x b)] ++ c.deepFaults x o ++
        [(decide (deep + bank.depth > 2 ^ 32 - 1), c.leadFault x 13 (deep % 2 ^ 32 + o * 2 ^ 32) bank.depth 2)]) with
    | some e => .error e
    | none => .ok ((t.queueEasel c x 2 (fun e => { e with kind := .cmrg, a := b, b := o })).updCore c.core (fun k =>
        (k.setDeep (c.wg.accBase + o) (deep + bank.depth)).setBank b (fun q =>
          { q with depth := 0, owner := if c.f.mod 0 then none else q.owner })))

/-- The checks and the entry of a drain (R354). -/
def drainBody (integer : Bool) (c : Ctx) (x : Fibre) (t : State) : Except FaultInfo State :=
  let word (y : Fibre) : Word := src32 c y c.f.srcB
  match c.divergence x word with
  | some e => .error e
  | none =>
    let w := (word x).toNat
    let a := (src32 c x c.f.srcA).toNat
    let o := (src32 c x c.f.srcC).toNat
    let size := if !integer && fmtOut w = 1 then 512 else 1024
    let slot := c.f.immBits 0 5
    match firstFault ([(!wordLegal (if integer then drainIntWord else drainWord) w || (!integer && !booksOk c.kernel w), c.leadOperand x c.f.srcB)] ++
        c.deepFaults x a ++ [(decide (o % size ≠ 0), c.leadFault x 9 o size), (decide (o + size > c.kernel.accBytes), c.slotFault x o),
          (!integer && c.f.immBits 5 1 = 1 && !c.wg.slotClaimed slot, c.slotFault x slot)]) with
    | some e => .error e
    | none => .ok (t.queueEasel c x 2 (fun e => { e with kind := if integer then .cdrnI else .cdrn, a := a, b := w, c := o }))

/-- `CDRN` (R354). -/
def execCdrn (f : Fields) (s : State) : Host.Outcome State Fault Refusal := runEasel 0x13A (.cdrn f) f s (drainBody false)
/-- `CDRN.I` (R354). -/
def execCdrnI (f : Fields) (s : State) : Host.Outcome State Fault Refusal := runEasel 0x13B (.cdrnI f) f s (drainBody true)

end Sys2Proof.Machine
end

