-- ==== Sys2Proof/Machine/Async.lean ====
section
/-! DEFINITION. The asynchronous copy instructions (R299 to R316): their checks at issue and entries, sealing and waiting, sync words
and rings, and the completion of a copy-unit operation. -/

namespace Sys2Proof.Machine

/-! Checks at issue (R301, R303 to R305). -/

/-- Lane tests in order, the first failure winning. -/
def firstLane : List (Bool × LaneFault) → Option LaneFault
  | [] => none
  | (bad, e) :: t => if bad then some e else firstLane t

/-- A misalignment of a lane (R388: the address and the width). -/
def misaligned (a n : Nat) : LaneFault := { cls := 9, v0 := a, v1 := n }
/-- A slot fault of a lane (R388). -/
def Ctx.slotLane (c : Ctx) (v : Nat) : LaneFault := { cls := 14, v0 := v, v1 := c.f.imm.toNat }

/-- The address of the record, and source C, of a lane. -/
def tlrAddress (c : Ctx) (x : Fibre) : Nat := (src64 c x c.f.srcA).toNat
def offsetC (c : Ctx) (x : Fibre) : Nat := (src32 c x c.f.srcC).toNat

/-- Tests of the record's address (R301). -/
def tlrTests (c : Ctx) (x : Fibre) : List (Bool × LaneFault) :=
  let a := tlrAddress c x
  [(!canonical a, { cls := 10, cause := 6, v0 := a, v1 := 64 }), (decide (a % 64 ≠ 0), misaligned a 64)]

/-- The first slot of `CPY.SLOT` and `GTH.SLOT` (R301). -/
def slotTests (c : Ctx) (x : Fibre) : List (Bool × LaneFault) :=
  let n := offsetC c x
  [(decide (n > 31) || !c.wg.slotClaimed n, c.slotLane n)]

/-- Entries that admission reserved for the workgroup (R290, R51). -/
def Ctx.reserved (c : Ctx) : Nat := bitsOf c.kernel.header.toNat 4 4

/-- No reserved entry at all (R301). -/
def reservedTests (c : Ctx) : List (Bool × LaneFault) := [(decide (c.reserved = 0), c.badOperand c.f.srcB)]

/-- The test of a completion action (R301): the sync word exists, is valid; the handle's entry is within
the table, on a page that translates (R268). -/
def Ctx.actionFault (c : Ctx) (s : State) (push : Bool) : Option LaneFault :=
  let imm := c.f.imm.toNat
  match bitsOf imm 30 2 with
  | 1 =>
    let t := bitsOf imm 0 24
    match s.place c.core c.wg c.kernel (if push then 2 else 1) 0 t 16 3 with
    | .error e => some (e.lane t 16)
    | .ok (.scratch k o _) => if (s.syncRead k o).valid then none else some (barrierLane 2 t 0)
    | .ok _ => none
  | 2 => let h := bitsOf imm 0 20; if (headerOf (s.entriesOf c.launch h)).isNone then some (barrierLane 5 h 0) else none
  | _ => none

/-- A lane's tests, then those of the reserved entries and the action. -/
def Ctx.issueFault (c : Ctx) (s : State) (push : Bool) (tests : Fibre → List (Bool × LaneFault)) (x : Fibre) : Option LaneFault :=
  (firstLane (tests x ++ reservedTests c)).orElse (fun _ => c.actionFault s push)

/-- Tests of the index array of a gather or scatter (R305). -/
def indexTests (c : Ctx) (x : Fibre) : List (Bool × LaneFault) :=
  let o := (x.reg c.f.srcB.toNat).toNat
  let n := (x.reg (c.f.srcB.toNat + 1)).toNat
  [(decide (o % 4 ≠ 0), misaligned o 4), (decide (n = 0 ∨ n > 256), c.badOperand c.f.srcB),
    (decide (o + 4 * n > c.kernel.scratchBytes), { cls := 10, cause := 8, v0 := max o c.kernel.scratchBytes, v1 := 4 })]

/-! Entries (R290, R292). -/

/-- Entries in use by a workgroup. -/
def Core.copyUsed (c : Core) (wg : Nat) : Nat := (c.copyQ.filter (fun e => e.wg = wg)).length

/-- The entry number that an operation takes. DESIGN CHOICE (log 23): the lowest free one, which neither R290 nor R292 says. -/
def Core.copyFree (c : Core) : Nat := ((List.range 16).find? (fun n => !c.copyQ.any (fun e => e.entry = n))).getD 16

/-- A batch has a free reserved entry for each issuing lane, and room in its counter (R290, R306). -/
def Ctx.copyReady (c : Ctx) (s : State) (cls : Nat) : Bool :=
  let n := c.passing.length
  n = 0 || c.reserved = 0 ||
    (decide ((s.core c.core).copyUsed c.wg.key + n ≤ c.reserved) &&
      (cls = 0 || decide (((s.wgOf c).stream (issuerOf c.compat16 (lowestFibre c.lanes)) cls).count + n ≤ 65535)))

/-- The references that an operation takes (R301, R315). -/
def State.takeRefs (s : State) (c : Ctx) (e : CopyEntry) : State :=
  let s1 := match bitsOf e.imm.toNat 30 2, e.kind with
    | _, .reg _ => s
    | 1, _ => let (k, off) := State.actionWord c.wg e; s.syncRefs k off 1
    | 2, _ => s.objRefs c.launch (bitsOf e.imm.toNat 0 20) true
    | _, _ => s
  match e.kind with
  | .ring =>
    let off := c.wg.scratchBase + e.c
    let r := s1.ringRead c.core off
    s1.ringWrite c.core off { r with refs := r.refs + 1 }
  | _ => s1

/-- One lane's operation queued under a new name, with the values of R292, and counted. -/
def State.queueCopy (s : State) (c : Ctx) (cls : Nat) (g : CopyEntry → CopyEntry) (x : Fibre) : State :=
  let issuer := issuerOf c.compat16 x.index
  let base : CopyEntry :=
    { entry := (s.core c.core).copyFree, id := s.nextKey, kind := .ld, wg := c.wg.key, issuer := issuer, cls := cls, fibre := x.index, pc := c.pc,
      a := 0, b := [], c := 0, imm := c.f.imm, mods := c.f.mods, epoch := Sparse.get 0 c.wg.fenceEpoch issuer }
  let e := g base
  let s1 := ({ s with nextKey := s.nextKey + 1 } : State).updCore c.core (fun k => { k with copyQ := k.copyQ ++ [e] })
  (s1.takeRefs c e).updWg c.wg.key (fun w => w.countIssue issuer cls e.id)

/-- The issue of a copy-unit operation by every passing lane: not while an entry is missing; all lanes' checks before any effect. -/
def copyBody (cls : Nat) (ready : Ctx → State → Bool) (fault : Ctx → State → Fibre → Option LaneFault) (mk : Ctx → Fibre → CopyEntry → CopyEntry)
    (c : Ctx) (t : State) : Except FaultInfo State :=
  if !c.copyReady t cls then .ok t
  else match c.laneFault (fault c t) with
    | some e => .error e
    | none =>
      if !ready c t then .ok t
      else .ok ((c.passing.foldl (fun u x => u.queueCopy c cls (mk c x) x) t).updLanes c Fibre.next)

/-- Always ready but for entries. -/
def noMore : Ctx → State → Bool := fun _ _ => true

/-- The four coordinates of a lane. -/
def coordsOf (c : Ctx) (x : Fibre) : List Word := srcRun x c.f.srcB 4

/-- The entry of a box copy. -/
def boxEntry (kind : CopyKind) (c : Ctx) (x : Fibre) (e : CopyEntry) : CopyEntry :=
  { e with kind := kind, a := tlrAddress c x, b := coordsOf c x, c := offsetC c x }

/-- A 16-byte aligned offset C. -/
def alignTests (n : Nat) (c : Ctx) (x : Fibre) : List (Bool × LaneFault) := [(decide (offsetC c x % n ≠ 0), misaligned (offsetC c x) n)]

/-- `CPY.LD`, `CPY.ST` (R301, R302). -/
def execCpy (f : Fields) (s : State) : Host.Outcome State Fault Refusal :=
  runBatch 0x110 (.cpyDir f) f s
    (copyBody 0 noMore (fun c t => c.issueFault t false (fun x => tlrTests c x ++ alignTests 16 c x))
      (fun c x => boxEntry (if c.f.mod 0 then .st else .ld) c x))

/-- `CPY.SLOT` (R301, R302). -/
def execCpySlot (f : Fields) (s : State) : Host.Outcome State Fault Refusal :=
  runBatch 0x111 (.cpySlot f) f s
    (copyBody 0 noMore (fun c t => c.issueFault t false (fun x => tlrTests c x ++ slotTests c x)) (boxEntry .slot))

/-- `CPY.CL.PUSH`, `CPY.CL.PULL` (R303). -/
def execCpyCl (f : Fields) (s : State) : Host.Outcome State Fault Refusal :=
  runBatch 0x112 (.cpyCl f) f s
    (copyBody 0 noMore
      (fun c t => c.issueFault t (!c.f.mod 0) (fun x =>
        let a := (src32 c x c.f.srcA).toNat
        let n := (src32 c x c.f.srcB).toNat
        [(decide (a % 16 ≠ 0), misaligned a 16)] ++ alignTests 16 c x ++ [(decide (n % 16 ≠ 0 ∨ n < 16 ∨ n > 65536), c.badOperand c.f.srcB)]))
      (fun c x e => { e with
        kind := if c.f.mod 0 then .pull else .push, a := (src32 c x c.f.srcA).toNat, b := [src32 c x c.f.srcB], c := offsetC c x }))

/-! Copies into registers (R304). -/

/-- The target of a lane: home warp, tile, width, live target fibres. -/
def Ctx.regTarget (c : Ctx) (x : Fibre) : Nat × Nat × Nat × List Fibre :=
  let v := offsetC c x
  let h := v % 128
  let t := v / 256 % 16
  let w := partWidth c.compat16 c.wg h
  (h, t, w, c.wg.fibres.filter (fun y => y.hwarp = h && decide (t * w ≤ y.lane) && decide (y.lane < t * w + w)))

/-- The workgroup's home-warp count (R304). -/
def Workgroup.homeWarps (w : Workgroup) : Nat := w.fibres.foldl (fun m y => max m (y.hwarp + 1)) 0

/-- Registers of `CPY.REG`. -/
def regRun (f : Fields) : Nat := 2 ^ f.modBits 0 2

/-- The tests of a lane's target: illegal operand, then the windows of the target fibres. -/
def targetTests (c : Ctx) (x : Fibre) : List (Bool × LaneFault) :=
  let v := offsetC c x
  let (h, t, w, fibres) := c.regTarget x
  let top := c.f.dst.toNat + regRun c.f
  let tight := fibres.filter (fun y => decide (top > y.allot))
  [(decide (v ≠ h + 256 * t) || decide (h ≥ c.wg.homeWarps) || decide (t ≥ 32 / w), c.badOperand c.f.srcC),
    (!tight.isEmpty, { cls := 6, v0 := c.wordHigh, v1 := max c.f.dst.toNat ((tight.map (fun y => y.allot)).headD 0) })]

/-- No pending bit that the issue would set is set (R304), a destination of an open rendezvous among them (R164). -/
def regReady (c : Ctx) (s : State) : Bool :=
  c.passing.all (fun x => (c.regTarget x).2.2.2.all (fun y =>
    match (s.wgOf c).fibre? y.index with
    | some z => (List.range (regRun c.f)).all (fun i => !(z.pendV ++ (s.wgOf c).laneDst z).contains (c.f.dst.toNat + i))
    | none => true))

/-- `CPY.REG` (R304): the registers are pending in every live target. -/
def execCpyReg (f : Fields) (s : State) : Host.Outcome State Fault Refusal :=
  runBatch 0x113 (.cpyReg f) f s fun c t =>
    let body := copyBody 0 regReady (fun c t => c.issueFault t false (fun x => tlrTests c x ++ targetTests c x))
      (fun c x e =>
        let (_, _, w, fibres) := c.regTarget x
        { e with
          kind := .reg (regRun c.f), a := tlrAddress c x, b := coordsOf c x, c := offsetC c x, targets := fibres.map (fun y => y.index)
          targetBase := c.f.dst.toNat, width := w })
    (body c t).map (fun u =>
      if u.nextKey = t.nextKey then u
      else
        let hit := c.passing.flatMap (fun x => (c.regTarget x).2.2.2.map (fun y => y.index))
        u.updWg c.wg.key (fun w => { w with fibres := w.fibres.map (fun y =>
          if hit.contains y.index then { y with pendV := (List.range (regRun c.f)).foldl (fun l i => insertNat (c.f.dst.toNat + i) l) y.pendV } else y) }))

/-- `CPY.RING` (R315): the descriptor is aligned and within the scratchpad. -/
def execCpyRing (f : Fields) (s : State) : Host.Outcome State Fault Refusal :=
  runBatch 0x114 (.cpyRing f) f s
    (copyBody 0 noMore (fun c t => c.issueFault t false (fun x => tlrTests c x ++ alignTests 32 c x ++
      [(decide (offsetC c x + 32 > c.kernel.scratchBytes), { cls := 10, cause := 8, v0 := offsetC c x, v1 := 32 })])) (boxEntry .ring))

/-- `CPY.ACC` (R301, R302). -/
def execCpyAcc (f : Fields) (s : State) : Host.Outcome State Fault Refusal :=
  runBatch 0x115 (.cpyDir f) f s
    (copyBody 0 noMore (fun c t => c.issueFault t false (fun x => tlrTests c x ++ alignTests 16 c x ++
      [(decide (offsetC c x ≥ c.kernel.accBytes), c.slotLane (offsetC c x))])) (fun c x => boxEntry (if c.f.mod 0 then .accSt else .accLd) c x))

/-- `CPY.B` (R301, R302, R377). -/
def execCpyB (f : Fields) (s : State) : Host.Outcome State Fault Refusal :=
  runBatch 0x116 (.cpyB f) f s
    (copyBody 0 noMore (fun c t => c.issueFault t false (fun x => tlrTests c x ++ alignTests 16 c x ++
      [((c.wg.brush? (c.f.modBits 0 6)).isNone, c.badOperand c.f.srcB)])) (fun c x => boxEntry (.brush (c.f.modBits 0 6)) c x))

/-! Gather and scatter (R305). -/

/-- The entry of a gather or scatter. -/
def gatherEntry (kind : CopyKind) (c : Ctx) (x : Fibre) (e : CopyEntry) : CopyEntry :=
  { e with kind := kind, a := tlrAddress c x, b := srcRun x c.f.srcB 2, c := offsetC c x }

/-- `GTH` (R305). -/
def execGth (f : Fields) (s : State) : Host.Outcome State Fault Refusal :=
  runBatch 0x117 (.gth f true) f s
    (copyBody 1 noMore (fun c t => c.issueFault t false (fun x => tlrTests c x ++ indexTests c x)) (gatherEntry .gth))

/-- `GTH.SLOT` (R305). -/
def execGthSlot (f : Fields) (s : State) : Host.Outcome State Fault Refusal :=
  runBatch 0x118 (.gth f true) f s
    (copyBody 1 noMore (fun c t => c.issueFault t false (fun x => tlrTests c x ++ slotTests c x ++ indexTests c x)) (gatherEntry .gthSlot))

/-- `SCT` (R305). -/
def execSct (f : Fields) (s : State) : Host.Outcome State Fault Refusal :=
  runBatch 0x119 (.gth f false) f s
    (copyBody 1 noMore (fun c t => c.issueFault t false (fun x => tlrTests c x ++ indexTests c x)) (gatherEntry .sct))

/-- `SCT.CL` (R305). -/
def execSctCl (f : Fields) (s : State) : Host.Outcome State Fault Refusal :=
  runBatch 0x11A (.gth f false) f s
    (copyBody 1 noMore (fun c t => c.issueFault t false (fun x => tlrTests c x ++ indexTests c x)) (gatherEntry .sctCl))

/-! Sealing and waiting (R307, R308). -/

/-- `SEAL` may issue: the copy counter has room for the batch it would count (R306). -/
def Ctx.sealReady (c : Ctx) (w : Workgroup) : Bool :=
  let t := w.stream (issuerOf c.compat16 (lowestFibre c.lanes)) 0
  !t.unsealedAny || decide (t.count < 65535)

/-- `SEAL` (R307). -/
def execSeal (f : Fields) (s : State) : Host.Outcome State Fault Refusal :=
  runBatch 0x11B (.sealBatch f) f s fun c t =>
    if !c.sealReady c.wg then .ok t
    else
      let issuer := issuerOf c.compat16 (lowestFibre c.lanes)
      let q := c.wg.stream issuer 0
      let number : Nat := if q.unsealedAny then q.sealedCount else q.sealedCount + (2 ^ 32 - 1)
      let u := if q.unsealedAny then
          t.updWg c.wg.key (fun w => w.updStream issuer 0 (fun q => { q with
            pending := retire (q.pending ++ [(q.sealedCount, q.unsealed)])
            unsealed := [], unsealedAny := false, sealedCount := q.sealedCount + 1 }))
        else t
      .ok ((u.lanewise c (fun x => x.set32 c.f.dst (BitVec.ofNat 32 number))).checkWaitc c.wg.key)

/-- `WAITC` (R308, R309): a fault held for the home warp is delivered first, whatever `n`; otherwise its fibres wait, and go on at
once where the counter already allows it. -/
def execWaitc (f : Fields) (s : State) : Host.Outcome State Fault Refusal :=
  runBatch 0x11C (.waitc f) f s fun c t =>
    let issuer := issuerOf c.compat16 (lowestFibre c.lanes)
    let cls := c.f.modBits 0 3
    match c.wg.deferredOf (fun d => (decide (d.issuer = issuer) && decide (d.cls = cls)) || (decide (d.cls ≥ 11) && decide (d.info.fibre / 32 = c.hwarp))) with
    | some d => .ok (t.deliver c.wg.key d)
    | none =>
      let n := match c.lanes with | x :: _ => (srcB32 c x).toNat | [] => 0
      .ok ((t.updLanes c (fun x => x.sleep .waitc cls n 0 0 t.tide.toNat)).checkWaitc c.wg.key)

/-! Sync words (R311, R312). -/

/-- The space of a sync-word instruction: 1 `.S`, 2 `.C`. -/
def syncSpace (f : Fields) : Nat := if f.mod 0 then 2 else 1

/-- The bank of a lane's sync word. -/
def Ctx.bankOf (c : Ctx) (s : State) (space width : Nat) (x : Fibre) : Nat × Nat :=
  match c.placeOf s space width 2 x with
  | .scratch k o _ => (k, o)
  | .home _ _ => (0, 0)

/-- Lanes in ascending order, each updating its bank word or failing; then nothing of the instruction takes effect. The record's mask has the lanes that
fail the same check (R387), each on what the lanes before it that pass have done. -/
def bankLanes (c : Ctx) (act : State → Fibre → Except LaneFault State) : List Fibre → State → Except FaultInfo State
  | [], s => .ok s
  | x :: t, s =>
    match act s x with
    | .error e => .error (c.fault e.cls x.index e.v0 e.v1 (laneMask (x :: (t.foldl (also e.cause) (s, [])).2)) e.cause)
    | .ok s1 => bankLanes c act t s1
where
  /-- A later lane of a failed instruction, among those that fail as the lowest does. -/
  also (cause : Nat) (a : State × List Fibre) (x : Fibre) : State × List Fibre :=
    match act a.1 x with
    | .ok s1 => (s1, a.2)
    | .error e => (a.1, if e.cause = cause then a.2 ++ [x] else a.2)

/-- An instruction that updates a bank word for each passing lane after the address checks of all. -/
def bankBody (space width : Nat) (act : Ctx → State → Fibre → Except LaneFault State) (c : Ctx) (t : State) : Except FaultInfo State :=
  match c.laneFault (c.accessFault t space width 2) with
  | some e => .error e
  | none => (bankLanes c (act c) c.passing t).map (fun u => (u.commits c (decide (space = 2) && !c.passing.isEmpty)).updLanes c Fibre.next)

/-- `SWINIT` (R311). -/
def execSwinit (f : Fields) (s : State) : Host.Outcome State Fault Refusal :=
  runBatch 0x11D .swinit f s (bankBody (syncSpace f) 16 fun c t x =>
    let (k, o) := c.bankOf t (syncSpace f) 16 x
    let y := t.syncRead k o
    if y.waiters > 0 ∨ y.refs > 0 then .error (barrierLane 1 (addrOf (syncSpace f) c x) 0)
    else .ok (t.syncWrite k o { count := (src32 c x c.f.srcB).toInt, completions := 0, valid := true, waiters := 0, refs := 0 }))

/-- `SWEXP` (R311). -/
def execSwexp (f : Fields) (s : State) : Host.Outcome State Fault Refusal :=
  runBatch 0x11E .swinit f s (bankBody (syncSpace f) 16 fun c t x =>
    let (k, o) := c.bankOf t (syncSpace f) 16 x
    if !(t.syncRead k o).valid then .error (barrierLane 2 (addrOf (syncSpace f) c x) 0)
    else match t.syncAdd k o (src32 c x c.f.srcB).toInt with
      | none => .error (barrierLane 7 (addrOf (syncSpace f) c x) 0)
      | some u => .ok u)

/-- A lane's `SWWAIT` at its bank (R312). -/
def State.syncWait (s : State) (c : Ctx) (x : Fibre) (k o : Nat) : State :=
  let y := s.syncRead k o
  let dst := predOf c.f.dst
  let upd (s : State) (g : Fibre → Fibre) : State := s.updWg c.wg.key (fun w => w.updFibre x.index g)
  if !y.valid then upd s (fun z => (z.setPred dst false).next)
  else if y.count = 0 then (upd s (fun z => (z.setPred dst true).next)).acquire c.core 2
  else upd (s.syncWrite k o { y with waiters := y.waiters + 1 }) (fun z =>
    { z.sleep .swwait (bankKey k o) 0 dst (2 ^ 64) s.tide.toNat with waitFields := some c.f })

/-- `SWWAIT` (R312). -/
def execSwwait (f : Fields) (s : State) : Host.Outcome State Fault Refusal :=
  runBatch 0x11F .swwait f s fun c t =>
    match c.laneFault (c.accessFault t (syncSpace f) 16 2) with
    | some e => .error e
    | none =>
      let u := c.passing.foldl (fun u x => let (k, o) := c.bankOf t (syncSpace f) 16 x; u.syncWait c x k o) t
      .ok (u.updLanes c (fun x => if passes c.f x then x else x.next))

/-- SWWAIT_REREAD (R312): after 1 ms of Tide a waiter reads the word again. -/
def execSwwaitReread (wg fibre : Nat) (s : State) : Host.Outcome State Fault Refusal :=
  match (s.wg? wg).bind (fun w => (w.fibre? fibre).map (fun x => (w, x))) with
  | none => .next s
  | some (w, x) =>
    if x.wait ≠ .swwait then .next s
    else
      let k := x.waitKey / 2 ^ 18
      let o := x.waitKey % 2 ^ 18
      let y := s.syncRead k o
      if y.count = 0 then
        let s1 := s.syncWrite k o { y with waiters := y.waiters - 1 }
        .next ((s1.wakeWg wg (fun z => z.index = fibre) (fun z => (z.setPred x.waitDst true).next)).acquire w.core 2)
      else .next (s.updWg wg (fun w => w.updFibre fibre (fun z => { z with waitSince := s.tide.toNat })))

/-! Rings (R316). -/

/-- A lane's address and descriptor are good for a ring instruction. -/
def ringFault (c : Ctx) (t : State) (x : Fibre) : Option LaneFault :=
  match c.accessFault t 1 32 2 x with
  | some e => some e
  | none =>
    let (k, o) := c.bankOf t 1 32 x
    if (t.ringRead k o).valid c.kernel.scratchBytes then none else some (barrierLane 2 (addrOf 1 c x) 0)

/-- A lane's `RWAIT` at its bank. -/
def State.ringWait (s : State) (c : Ctx) (x : Fibre) (k o : Nat) : State :=
  let r := s.ringRead k o
  let upd (s : State) (g : Fibre → Fibre) : State := s.updWg c.wg.key (fun w => w.updFibre x.index g)
  if r.filled = 0 then
    let s1 := ({ s with nextKey := s.nextKey + 1 } : State).ringWrite k o { r with waiters := r.waiters + 1 }
    upd s1 (fun z => z.sleep .rwait (bankKey k o) s.nextKey c.f.dst.toNat (2 ^ 64) s.tide.toNat)
  else
    let s1 := s.ringWrite k o { r with filled := r.filled - 1, tail := (r.tail + 1) % r.slots }
    upd s1 (fun z => (z.set32 c.f.dst (BitVec.ofNat 32 (r.base + r.tail * r.size * 16))).next)

/-- `RWAIT` (R316). -/
def execRwait (f : Fields) (s : State) : Host.Outcome State Fault Refusal :=
  runBatch 0x120 .rwait f s fun c t =>
    match c.laneFault (ringFault c t) with
    | some e => .error e
    | none =>
      let u := c.passing.foldl (fun u x => let (k, o) := c.bankOf t 1 32 x; u.ringWait c x k o) t
      .ok (u.updLanes c (fun x => if passes c.f x then x else x.next))

/-- `RREL` (R316): it waits for the fibre's earlier loads. -/
def execRrel (f : Fields) (s : State) : Host.Outcome State Fault Refusal :=
  runBatch 0x121 .rrel f s fun c t =>
    if (t.core c.core).loading c.wg.key c.lanes then .ok t
    else match c.laneFault (ringFault c t) with
      | some e => .error e
      | none => bankBody 1 32 (fun c t x =>
          let (k, o) := c.bankOf t 1 32 x
          let r := t.ringRead k o
          let n := r.free + (src32 c x c.f.srcB).toNat
          if (src32 c x c.f.srcB) = 0 ∨ n > r.slots then .error (barrierLane 7 (addrOf 1 c x) 0)
          else .ok (t.ringWrite k o { r with free := n })) c t

/-! Completion (R302, R309, R311). -/

/-- Box bytes that an operation's sync-word action subtracts (R303, R305, R311, R377). -/
def CopyEntry.bytes (e : CopyEntry) (w : Workgroup) : Nat :=
  let t := e.tlr.getD 0
  match e.kind with
  | .push | .pull => (e.b.headD 0).toNat
  | .gth | .gthSlot | .sct | .sctCl => (e.b.getD 1 0).toNat * rowBytes t
  | .brush h => tlrElements t * ((w.brush? h).map (fun b => brushBytes b.zFmt)).getD 0
  | _ => tlrBytes t

/-- The arrival of an operation at a barrier object as its unit takes it (R272, R276). -/
def State.arrivalOf (s : State) (e : CopyEntry) (w : Workgroup) (l : Launch) (scopeDone : Nat) : BarrierAsk :=
  { op := .arriveCount, package := Config.package, core := w.core, wgid := w.wgid, scopeDone := scopeDone
    lanes := [{ fibre := e.fibre, value := 1, entries := s.entriesOf l (bitsOf e.imm.toNat 0 20) }], living := w.fibres.map (fun x => x.index) }

/-- An operation's release for its arrival at a scope; where other packages have still to acknowledge something, it waits, and its acquire follows (R229,
R502). -/
def State.arrivalReleased (s : State) (e : CopyEntry) (w : Workgroup) (scope : Nat) : State :=
  let t := s.release w.core scope
  let u := if t.openStores.isEmpty then t.acquire w.core scope else t
  u.updEntry w.core e.id (fun x => { x with
    arrival := none, arriveScope := scope + 1, acks := t.openStores, acquires := !t.openStores.isEmpty })

/-- A finished operation after the rest of its completion: its action's state, or its deferred fault. -/
def State.retireCopy (s : State) (e : CopyEntry) (w : Workgroup) (a : Except EngineFault State) : State :=
  match a with
  | .error x => s.holdFault w.core e (e.faultInfo x [] 0)
  | .ok s1 =>
    let s2 := (s1.updCore w.core (fun c => { c with copyQ := c.copyQ.filter (fun x => x.id ≠ e.id) })).releaseRefs w e
    let s3 := match e.kind, e.ringSlot with
      | .ring, some j => s2.ringMark w.core (w.scratchBase + e.c) j
      | _, _ => s2
    (s3.updWg e.wg (fun w => w.fillSlots e.slots)).complete e.wg e.issuer e.cls e.id

/-- What a unit's answer to an operation's arrival makes of the operation. -/
def State.arrivalAnswered (s : State) (e : CopyEntry) (w : Workgroup) (b : BarrierAnswer) : State :=
  match b with
  | .again scope => s.arrivalReleased e w scope
  | .token _ scope _ => s.retireCopy e w (.ok (s.updWg w.key (fun w => { w with committed := w.committed || decide (scope ≠ 0) })))
  | _ => (s.updEntry w.core e.id (fun x => { x with arrival := none })).retireCopy e w (.error { cause := 8, addr := bitsOf e.imm.toNat 0 20 })

/-- An operation's arrival at its barrier object (R300, R302): at the unit here, at once after its `PHASE.AR` where no acknowledgement is awaited, or at
another package's (R19). -/
def State.arriveCopy (s : State) (e : CopyEntry) (w : Workgroup) (l : Launch) : State :=
  let s0 := if e.acquires then (s.acquire w.core (e.arriveScope - 1)).updEntry w.core e.id (fun x => { x with acquires := false }) else s
  match e.arrival with
  | some b => s0.arrivalAnswered e w b
  | none =>
    let a := s0.arrivalOf e w l e.arriveScope
    if a.lanes.any (fun x => laneHome x ≠ Config.package) then s0.askUnit (.arrival e.id) a
    else match s0.unit a with
      | (.again scope, s1) =>
        let s2 := s1.arrivalReleased e w scope
        if !s2.openStores.isEmpty then s2
        else (let (b, s3) := s2.unit (s2.arrivalOf e w l (scope + 1)); s3.arrivalAnswered e w b)
      | (b, s1) => s1.arrivalAnswered e w b

/-- An operation completes: its action (R300), with its arrival where it has one; then its slot published or filled, its references released, its
counter. -/
def State.completeCopy (s : State) (e : CopyEntry) (w : Workgroup) (l : Launch) : State :=
  match bitsOf e.imm.toNat 30 2 with
  | 1 =>
    let (k, off) := State.actionWord w e
    s.retireCopy e w (match s.syncAdd k off (-(e.bytes w : Int)) with
      | some s1 => .ok (if k = w.core && decide (e.kind ≠ .push) then s1 else s1.updWg w.key (fun w => { w with committed := true }))
      | none => .error { cause := 7, addr := bitsOf e.imm.toNat 0 24 })
  | 2 => s.arriveCopy e w l
  | _ => s.retireCopy e w (.ok s)

/-- ENGINE_OP_COMPLETE (R302): an operation whose last write has been performed. -/
def execEngineOpComplete (core entry : Nat) (s : State) : Host.Outcome State Fault Refusal :=
  match (s.core core).copyQ.find? (fun e => decide (e.entry = entry) && s.copyFinished e) with
  | none => .next s
  | some e => match s.wg? e.wg with
    | none => .next s
    | some w => match s.launch? w.launch with
      | none => .next s
      | some l => .next (s.completeCopy e w l)

end Sys2Proof.Machine
end

