-- ==== Sys2Proof/Machine/Admission.lean ====
section
/-! DEFINITION. Kernel descriptors as the launch processor reads them (R50 to R52), whether a workgroup fits a core (R451, R455, R456),
and what admission sets (R64, R133, R174, R182, R324, R454, R456). -/

namespace Sys2Proof.Machine

/-! The hub's reads. -/

/-- An address field: bits [56:lo] of a canonical address (R450). -/
def vaOf (field lo : Nat) : Nat := let v := field * 2 ^ lo; if v / 2 ^ 56 % 2 = 1 then v % 2 ^ 57 + (2 ^ 64 - 2 ^ 57) else v

/-- `n` bytes read at their home through an address space: none where they do not translate with R permission or are poisoned. -/
def State.hubRead (s : State) (space va n : Nat) : Option (List Byte) :=
  match s.translate space va with
  | .error _ => none
  | .ok (pa, leaf) =>
    let r := s.homeRead pa n
    if pte leaf 2 1 = 0 ∨ r.2 then none else some r.1

/-- The lines of other packages that such a read needs and that have not come for its reader (log 18). -/
def State.hubLacks (s : State) (who : Reader) (space va n : Nat) : List Nat :=
  match s.translate space va with
  | .error _ => []
  | .ok (pa, leaf) => if pte leaf 2 1 = 0 then [] else s.lacking who [pa / 128, (pa + n - 1) / 128]

/-! Kernel descriptors. -/

/-- A descriptor's words parsed (R50); none where R52 rejects it. -/
def parseKernel (bytes : List Byte) : Option Kernel :=
  let w (i : Nat) : Nat := ofBytes ((bytes.drop (4 * i)).take 4)
  let k : Kernel :=
    { header := BitVec.ofNat 32 (w 0), entry := BitVec.ofNat 64 (w 1 + w 2 * 2 ^ 32), cap := bitsOf (w 3) 0 16, dimX := bitsOf (w 4) 0 16,
      dimY := bitsOf (w 4) 16 16, dimZ := bitsOf (w 5) 0 16, accBytes := w 6, brushes := bitsOf (w 7) 0 7, books := bitsOf (w 7) 8 7,
      palette := bitsOf (w 7) 16 13 }
  let reserved := decide (bitsOf (w 0) 3 1 ≠ 0) || decide (bitsOf (w 0) 29 3 ≠ 0) || decide (bitsOf (w 3) 16 16 ≠ 0) || decide (bitsOf (w 5) 16 16 ≠ 0) ||
    decide (bitsOf (w 7) 7 1 ≠ 0) || decide (bitsOf (w 7) 15 1 ≠ 0) || decide (bitsOf (w 7) 29 3 ≠ 0) || decide (bitsOf (w 8) 8 24 ≠ 0) ||
    (List.range 23).any (fun i => w (9 + i) ≠ 0)
  let dim (d : Nat) : Bool := decide (1 ≤ d ∧ d ≤ 4096)
  let ok := decide (bitsOf (w 8) 0 8 = 7) && decide (k.cap ≤ 4096) && dim k.dimX && dim k.dimY && dim k.dimZ && decide (k.fibres ≤ 4096) &&
    decide (k.accBytes % 4096 = 0) && decide (k.accBytes ≤ 524288) && decide (k.brushes ≤ 64) && decide (k.books ≤ 64) &&
    decide (k.palette ≤ 4096) && decide (k.palette % 64 = 0) && decide (1 ≤ bitsOf (w 0) 8 8 ∧ bitsOf (w 0) 8 8 ≤ 15) && pcLegal k.entry
  if reserved || !ok then none else some k

/-- A descriptor read and accepted (R451, R52). -/
def State.readKernel (s : State) (space addr : Nat) : Option Kernel :=
  if addr % 128 ≠ 0 then none else (s.hubRead space addr 128).bind parseKernel

/-- The lines that a reader of a descriptor lacks. -/
def State.kernelLacks (s : State) (who : Reader) (space addr : Nat) : List Nat := if addr % 128 ≠ 0 then [] else s.hubLacks who space addr 128

/-- A launch's kernel can never be admitted (R451): an empty core has no room, or fibres beyond *R* have no store. -/
def Launch.rejects (l : Launch) (k : Kernel) : Bool :=
  decide (k.reserved > 65536) || decide (k.placed > 2048) ||
    (decide (k.fibres > k.resident) && (decide (l.storeArea < (k.fibres - k.resident) * Machine.recordBytes k.allot) || decide (l.storeAreas = 0)))

/-! Fitting a core. -/

/-- The lowest place of `size` bytes or slots among candidates, clear of the ranges taken. -/
def firstFit (taken : List (Nat × Nat)) (size limit : Nat) (places : List Nat) : Option Nat :=
  places.find? (fun a => decide (a + size ≤ limit) && taken.all (fun r => decide (a + size ≤ r.1) || decide (r.1 + r.2 ≤ a) || decide (r.2 = 0)))

/-- Where a workgroup would stand on a core. -/
structure Placement where
  scratch : Nat
  slots : List Nat
  acc : Nat
  deriving DecidableEq, Repr

/-- Registers that a core's workgroups take, reserved or beyond their reservations, and their resident fibres, with what a restore under way
reserves (R258, R262, R455). -/
def State.usedRegs (s : State) (core : Nat) : Nat :=
  (s.wgsOn core).foldl (fun n w => n + (s.kernelOf w).reserved + (w.windows + (s.reservedFor w).2 - (s.kernelOf w).reserved)) 0
def State.residents (s : State) (core : Nat) : Nat :=
  (s.wgsOn core).foldl (fun n w => n + (w.fibres.filter (fun x => x.resident)).length + (s.reservedFor w).1) 0

/-- The reservations of R455 met from what a core's workgroups leave, and the 2,048 resident fibres of R258. Tile slots are any that are free, the
lowest first. -/
def State.placeOn (s : State) (core : Nat) (k : Kernel) : Option Placement :=
  let here := s.wgsOn core
  let sum (g : Kernel → Nat) : Nat := here.foldl (fun n w => n + g (s.kernelOf w)) 0
  let ranges (g : Workgroup → Nat) (n : Kernel → Nat) : List (Nat × Nat) := here.map (fun w => (g w, n (s.kernelOf w)))
  let copies (k : Kernel) : Nat := bitsOf k.header.toNat 4 4
  let slots (k : Kernel) : Nat := bitsOf k.header.toNat 24 5
  let room := decide (s.usedRegs core + k.reserved ≤ 65536) && decide (s.residents core + k.placed ≤ 2048) &&
    decide (sum copies + copies k ≤ 16) && decide (sum Kernel.brushes + k.brushes ≤ 64) && decide (sum Kernel.books + k.books ≤ 64) &&
    decide (sum Kernel.palette + k.palette ≤ 4096)
  let free := (List.range 32).filter (fun n => !here.any (fun w => w.slots.contains n))
  let freeSlotList (n : Nat) : Option (List Nat) := if n ≤ free.length then some (free.take n) else none
  if !room then none
  else
    match firstFit (ranges (fun w => w.scratchBase) Kernel.scratchBytes) k.scratchBytes (2 ^ 18) ((List.range 257).map (fun i => 1024 * i)),
      freeSlotList (slots k),
      firstFit (ranges (fun w => w.accBase) (fun k => k.accBytes)) k.accBytes 524288
        (if k.accBytes ≥ 262144 then [0, 262144] else (List.range 129).map (fun i => 4096 * i)) with
    | some a, some b, some c => some { scratch := a, slots := b, acc := c }
    | _, _, _ => none

/-- A free store area, of a launch that has any (R456). -/
def State.freeArea (s : State) (l : Launch) : Option Nat :=
  let used := (s.wgs.filter (fun w => (s.launch? w.launch).any (fun m => m.areaOwner = l.areaOwner))).filterMap (fun w => w.storeArea)
  (List.range l.storeAreas).find? (fun i => !used.contains i)

/-- The area condition of R456: launches without a rotation store need none. -/
def State.areaOk (s : State) (l : Launch) : Bool := decide (l.storeAreas = 0) || (s.freeArea l).isSome

/-- The cores in the order of the admission pointer (R456). -/
def State.coreOrder (s : State) : List Nat := (List.range Config.cores).map (fun i => (s.admitPointer + i) % Config.cores)

/-- The first core that fits. -/
def State.firstCore (s : State) (k : Kernel) : Option (Nat × Placement) :=
  s.coreOrder.findSome? (fun c => (s.placeOn c k).map (fun p => (c, p)))

/-! Admission. -/

/-- The scheduler with the most free warp slots, the lowest on ties (R67). -/
def State.startScheduler (s : State) (core : Nat) : Nat :=
  [1, 2, 3].foldl (fun best i => if s.freeSlots core i > s.freeSlots core best then i else best) 0

/-- The initial fibres (R64, R456): the first *R* resident. -/
def Kernel.initial (k : Kernel) (now : Nat) : List Fibre :=
  (List.range k.fibres).map (fun i =>
    let here := decide (i < k.resident)
    { index := i, pc := k.entry, allot := k.allot, resident := here, residentSince := now, queuedSince := now, fresh := true })

/-- Bytes and marks of a range zeroed. -/
def zeroRange (m : Bytes) (poison : List Nat) (a n : Nat) : Bytes × List Nat := (m.zero a n, poison.filter (fun w => decide (4 * w + 4 ≤ a) || decide (a + n ≤ 4 * w)))

/-- The scratchpad, slots, accumulator range and deep depths of a placement set to zero (R182, R324). -/
def Core.cleared (c : Core) (k : Kernel) (p : Placement) : Core :=
  let (sm, sp) := zeroRange c.scratch c.scratchPoison p.scratch k.scratchBytes
  let (tm, tp) := p.slots.foldl (fun e n => zeroRange e.1 e.2 (4096 * n) 4096) (c.tiles, c.tilePoison)
  let (am, ap) := zeroRange c.acc c.accPoison p.acc k.accBytes
  let covers (o : Nat) : Bool := decide (p.acc ≤ o) && decide (o + 262144 ≤ p.acc + k.accBytes)
  { c with
    scratch := sm, scratchPoison := sp, tiles := tm, tilePoison := tp, acc := am, accPoison := ap
    deep0 := if covers 0 then 0 else c.deep0, deep1 := if covers 262144 then 0 else c.deep1 }

/-- Workgroup `i` of a launch admitted to a core (R456), after the acquire of R454. -/
def State.admitOn (s : State) (l : Launch) (k : Kernel) (i core : Nat) (p : Placement) : State :=
  let now := s.tide.toNat
  let job := decide (l.kind = .job)
  let w : Workgroup :=
    { key := s.nextKey, launch := l.lseq, core := core, startSched := s.startScheduler core, wgid := i
      wgx := if job then i else i % l.gridX, wgy := if job then 0 else i / l.gridX % l.gridY, wgz := if job then 0 else i / (l.gridX * l.gridY)
      args := if job then (l.args + l.recordBytes * i) % 2 ^ 64 else l.args
      fibres := k.initial now
      queue := ((List.range k.fibres).filter (fun j => decide (j ≥ k.resident)))
      scratchBase := p.scratch, slots := p.slots, accBase := p.acc
      slotFlags := List.replicate (bitsOf k.header.toNat 24 5) {}
      storeArea := s.freeArea l, lastActive := now }
  let s0 := ({ s with wgs := s.wgs ++ [w], nextKey := s.nextKey + 1, admitPointer := (core + 1) % Config.cores } : State).updCore core
    (fun c => { c.cleared k p with idleSince := now })
  let s1 := s0.updLaunch l.lseq (fun m =>
    if m.code.isSome then m else { m with code := some s.mem, codeFrom := s.lineLog.length })
  if l.acquire = 7 then s1 else s1.acquire core l.acquire

end Sys2Proof.Machine
end

