-- ==== Sys2Proof/Machine/System.lean ====
section
/-! DEFINITION. Fault records and their ring (R386, R390, R409), handlers (R391, R392), resumption and kill by record (R393 to R396),
pre-emption (R397 to R399), the watchdog (R400), CSRs (R401, R402), and the system instructions (R404 to R406). -/

namespace Sys2Proof.Machine

/-! Fault records. -/

/-- A record as a 512-bit number (R386, R387). -/
def recordWord (info : FaultInfo) (launch wgid core : Nat) : Nat :=
  info.pc.toNat + launch % 2 ^ 32 * 2 ^ 64 + wgid % 2 ^ 32 * 2 ^ 96 + info.fibre % 2 ^ 12 * 2 ^ 128 + info.cls % 2 ^ 6 * 2 ^ 140 +
    info.cause % 2 ^ 8 * 2 ^ 146 + info.flags.toNat * 2 ^ 154 + info.slotNo % 8 * 2 ^ 159 + (if info.prefixed then 2 ^ 162 else 0) +
    (if info.deferred then 2 ^ 163 else 0) + core % 2 ^ 10 * 2 ^ 164 + info.brush % 64 * 2 ^ 174 + info.whichBrush % 2 * 2 ^ 180 +
    info.opIndex % 32 * 2 ^ 181 + info.subCause % 4 * 2 ^ 186 + info.layout % 16 * 2 ^ 188 + info.body % 2 ^ 320 * 2 ^ 192

/-- Where the next record goes: the virtual and physical address of its ring entry, where the ring has room and the page a valid leaf
(R390, R409). -/
def State.ringEntry (s : State) : Option (Nat × Nat × Attr) :=
  if s.frwp - s.frrp = s.frsize then none
  else
    let va := (s.frbase.toNat + 64 * (s.frwp.toNat % max 1 s.frsize.toNat)) % 2 ^ 64
    match s.translate 0 va with
    | .ok (pa, leaf) => some (va, pa, attrOf leaf pa)
    | .error _ => none

/-- A device handler launch started with a record's address (R391, R392, R464); none where its descriptor starts nothing. -/
def State.startHandler (s : State) (cls va : Nat) : Option State :=
  let vector := (Sparse.get 0 s.fvec cls).toNat
  let addr := vaOf (bitsOf vector 7 50) 7
  let l : Launch :=
    { lseq := s.lseqCounter, kind := .handler, priority := 3, privileged := true, kernelAddr := addr, args := va, acquire := 6, active := true }
  match s.readKernel 0 addr with
  | none => none
  | some k =>
    if l.rejects k then none
    else some { s with lseqCounter := s.lseqCounter + 1, launches := s.launches ++ [{ l with kernel := some k }] }

/-- The lines of the descriptor of a class's handler that other packages have still to send for the record of a workgroup. -/
def State.handlerLacks (s : State) (key cls : Nat) : List Nat := s.kernelLacks (.handler key) 0 (vaOf (bitsOf (Sparse.get 0 s.fvec cls).toNat 7 50) 7)

/-- The hub writes no record while the descriptor of the oldest one's handler is on its way. -/
def State.handlerComes (s : State) : Bool := match s.records with | [] => false | r :: _ => s.awaitsLine (.handler r.2.2.2.2)

/-- The oldest waiting record written, and its handler started (R390, R391), once the handler's descriptor is there; while it cannot be written it waits,
with one black-box entry of kind 9. -/
def State.writeRecord (s : State) : State :=
  match s.records with
  | [] => s
  | (info, launch, wgid, core, key) :: rest =>
    match s.ringEntry with
    | none => if s.frBlocked then s else ({ s with frBlocked := true } : State).log 9 core info.cls info.cause wgid info.pc.toNat 0
    | some (va, pa, a) =>
      let host := (s.launch? launch).any (fun l => l.kind = .handler) || !(Sparse.get 0 s.fvec info.cls).getLsbD 0
      if !host && !(s.handlerLacks key info.cls).isEmpty then s.askLines (.handler key) (s.handlerLacks key info.cls) else
      let s1 := ({ s with records := rest, frwp := s.frwp + 1, frBlocked := false } : State).homePut a pa (bytesOf 64 (recordWord info launch wgid core))
      let s2 := (s1.updWg key (fun w => { w with recordAt := some va })).readOver (fun r => decide (r = .handler key))
      if host then s2.say (.msix 0) else (s2.startHandler info.cls va).getD (s2.say (.msix 0))

/-- FAULT_RECORD_WRITE (R390). -/
def execFaultRecordWrite (s : State) : Host.Outcome State Fault Refusal := .next s.writeRecord

/-- FAULT_RING_RETRY (R409): the hub tries a blocked write again. -/
def execFaultRingRetry (s : State) : Host.Outcome State Fault Refusal := .next s.writeRecord

/-- FAULT_RING_READ_INDEX_WRITE (R390): a write to `csr.frrp` frees entries. -/
def execFaultRingReadIndexWrite (value : Word) (s : State) : Host.Outcome State Fault Refusal := .next { s with frrp := value }

/-! Resumption and kill by record (R393). -/

/-- The parked workgroup whose outstanding record lies at a physical address, as the launch and workgroup fields of the 64 bytes read select. -/
def State.parkedAt (s : State) (pa : Nat) (bytes : List Byte) : Option Workgroup :=
  let field (o : Nat) : Nat := ofBytes ((bytes.drop o).take 4)
  s.wgs.find? (fun w => w.parked.isSome && decide (w.launch % 2 ^ 32 = field 8) && decide (w.wgid = field 12) &&
    (match w.recordAt with
      | some va => (match s.translate 0 va with | .ok (q, _) => decide (q = pa) | .error _ => false)
      | none => false))

/-- The same for a record named by an address of address space 0 (R401). -/
def State.parkedVa (s : State) (va : Nat) : Option Workgroup :=
  match s.translate 0 va with
  | .ok (pa, _) => s.parkedAt pa (s.mem.read pa 64)
  | .error _ => none

/-! Agents (R401). -/

def State.agent (s : State) (a : Agent) : AgentCsr :=
  match a with
  | .host => s.hostCsr
  | .workgroup key => ((s.wg? key).map (fun w => w.csr)).getD {}

def State.updAgent (s : State) (a : Agent) (g : AgentCsr → AgentCsr) : State :=
  match a with
  | .host => { s with hostCsr := g s.hostCsr }
  | .workgroup key => s.updWg key (fun w => { w with csr := g w.csr })

/-- A command of `csr.fcmd` (R393, R401): 1 resume at, 2 resume past, 3 kill; the result goes to bit 31. 0 is no command. A handler's release is that of
its own fibre (R394). -/
def State.fcmd (s : State) (a : Agent) (cmd : Nat) (value : Option Word) : State :=
  let done (s : State) (b : Bool) : State := s.updAgent a (fun c => { c with fcmd := if b then 0x80000000 else 0 })
  if cmd = 0 then s else match s.parkedVa (s.agent a).fres.toNat with
  | none => done s false
  | some w =>
    let s1 := match a with | .workgroup key => ((s.wg? key).map (fun (v : Workgroup) => s.release v.core 6)).getD s | .host => s
    match cmd with
    | 1 => done (s1.resume w.key false value) true
    | 2 => done (s1.resume w.key true value) true
    | 3 => done (s.kill w.key) true
    | _ => done s false

/-- FCMD_RESUME_AT_PC (R394). -/
def execFcmdResumeAtPc (a : Agent) (value : Option Word) (s : State) : Host.Outcome State Fault Refusal := .next (s.fcmd a 1 value)
/-- FCMD_RESUME_PAST (R394). -/
def execFcmdResumePast (a : Agent) (value : Option Word) (s : State) : Host.Outcome State Fault Refusal := .next (s.fcmd a 2 value)
/-- FCMD_KILL (R395). -/
def execFcmdKill (a : Agent) (s : State) : Host.Outcome State Fault Refusal := .next (s.fcmd a 3 none)

/-! Pre-emption (R397 to R399). -/

/-- Front banks that a workgroup owns. -/
def State.banksOf (s : State) (w : Workgroup) : Nat :=
  let c := s.core w.core
  (if c.bank0.owner = some w.key then 1 else 0) + (if c.bank1.owner = some w.key then 1 else 0)

/-- The context bytes of R397. -/
def State.contextBytes (s : State) (w : Workgroup) : Nat :=
  let k := s.kernelOf w
  w.fibres.foldl (fun n x => n + recordBytes x.allot) 0 + k.scratchBytes + 4096 * w.slotFlags.length + k.accBytes + 131072 * s.banksOf w +
    32 * k.books + 1280 * k.brushes + k.palette

/-- The methods: 0 drain, 1 save, 2 flush, each with its estimate in cycles as a fraction where it is eligible (R397). -/
def State.methods (s : State) (w : Workgroup) : List (Nat × Nat × Nat) :=
  let ended := (s.core w.core).endedStats.find? (fun e => e.1 = w.launch)
  let issued := w.fibres.foldl (fun n x => n + x.issued) 0
  let drain := match ended with
    | some (_, n, total) => if w.parked.isNone && decide (n > 0) then [(0, w.fibres.length * total - issued * n, 4 * n)] else []
    | none => []
  let flush := if (s.kernelOf w).header.getLsbD 2 && !w.committed then [(2, 64, 1)] else []
  [(1, s.contextBytes w, 64)] ++ drain ++ flush

/-- The cheapest method within the bound, ties to save; save where none is, with the bound missed. -/
def chooseMethod (l : List (Nat × Nat × Nat)) (bound : Nat) : (Nat × Nat × Nat) × Bool :=
  let within := l.filter (fun m => decide (m.2.1 * 10 ≤ bound * 36 * m.2.2))
  match within with
  | [] => ((l.find? (fun m => m.1 = 1)).getD (1, 0, 1), true)
  | m :: t => (t.foldl (fun b x => if x.2.1 * b.2.2 < b.2.1 * x.2.2 then x else b) m, false)

/-- The target of a pre-emption command (R401). -/
def State.preemptTarget (s : State) (a : Agent) : Option Workgroup :=
  let c := s.agent a
  s.wgs.find? (fun w => decide (w.launch % 2 ^ 32 = c.pwg.toNat) && decide (w.wgid = c.pwgid.toNat))

def State.setPstat (s : State) (a : Agent) (v : Nat) : State := s.updAgent a (fun c => { c with pstat := BitVec.ofNat 32 v })

/-- A flushed workgroup (R317, R398, R399): its entries are discarded, its resources released, its readmission queued, its hint undone as though it had
not run. -/
def State.flushWg (s : State) (w : Workgroup) : State :=
  let s1 := (s.dropRefs w).releaseCore w
  let s2 := ({ s1 with wgs := s1.wgs.filter (fun x => x.key ≠ w.key) } : State).dropRecord w.key
  (s2.updLaunch w.launch (fun l => { l with readmit := l.readmit ++ [w.wgid], hinted := if w.hinted then l.hinted - 1 else l.hinted })).updCore w.core (fun c => { c with idleSince := s.tide.toNat })

/-- A pre-emption request (R397, R399); spin records are voided (R266). -/
def State.preempt (s : State) (a : Agent) : State :=
  match s.preemptTarget a with
  | none => s.setPstat a 5
  | some w =>
    if w.preempt ≠ .running then s.setPstat a 6
    else
      let c := s.agent a
      let ((m, num, den), missed) := chooseMethod (s.methods w) c.pbound.toNat
      let detail := m + num * 10 / (36 * max 1 den) * 2 ^ 32
      let s1 := s.log 2 w.core 0 0 w.wgid 0 detail
      let s2 := if missed then s1.log 3 w.core 0 0 w.wgid 0 detail else s1
      let bits := (if missed then 8 else 0) + (if w.parked.isSome then 16 else 0)
      let held (p : Preempt) : State := (s2.updWg w.key (fun w => { w with
        preempt := p, preemptBy := a, saveArea := c.psave.toNat, fibres := w.fibres.map Fibre.voidSpin })).setPstat a (1 + bits)
      match m with
      | 0 => held .draining
      | 1 => held .saving
      | _ => (s2.flushWg w).setPstat a (4 + bits)

/-- PREEMPT_REQUEST (R397). -/
def execPreemptRequest (a : Agent) (s : State) : Host.Outcome State Fault Refusal := .next (s.preempt a)

/-- A saving workgroup's engines have finished, faulted, or stopped where R317 and R328 let them stop, and nothing of it is on its way. -/
def State.saveReady (s : State) (w : Workgroup) : Bool :=
  let c := s.core w.core
  !c.loads.any (fun p => p.wg = w.key) && w.holds.isEmpty && !s.multi.any (fun m => m.wg = w.key) && !s.barrierAsked w.key &&
    !c.transfer.any (fun t => t.wg = w.key) && !w.fenceAcks.any (fun q => q.2.2.any s.asked) &&
    !c.copyQ.any (fun e => e.wg = w.key && e.fault.isNone && (e.finished || e.kind = .psend || s.engineAsked e || s.entryProceeds w.core e)) &&
    !(match c.easelUnit with | some u => c.easelQ.any (fun e => e.wg = w.key && e.entry = u.entry) | none => false) &&
    !c.easelQ.any (fun e => e.wg = w.key && e.fault.isNone && (e.nextStep w).isSome && !s.fenced w.core w.key e.issuer e.epoch &&
      c.easelQ.all (fun o => decide (o.id ≥ e.id) || o.wg ≠ w.key || o.issuer ≠ e.issuer))

/-- Bytes and marks of a range, by offset within it. -/
def takeRange (m : Bytes) (poison : List Nat) (a n : Nat) : Bytes × List Nat :=
  ((Sparse.keep (fun i => decide (a ≤ i ∧ i < a + n)) m).map (fun e => (e.1 - a, e.2)),
    (poison.filter (fun w => decide (a ≤ 4 * w ∧ 4 * w < a + n))).map (fun w => w - a / 4))

/-- The reverse, into a range that is zero. -/
def putRange (m : Bytes) (poison : List Nat) (a : Nat) (b : Bytes) (q : List Nat) : Bytes × List Nat :=
  (b.foldl (fun m e => Sparse.set 0 m (a + e.1) e.2) m, q.foldl (fun p w => insertNat (a / 4 + w) p) poison)

/-- What a context holds of its core. -/
def State.capture (s : State) (w : Workgroup) : Saved :=
  let c := s.core w.core
  let k := s.kernelOf w
  let (sm, sp) := takeRange c.scratch c.scratchPoison w.scratchBase k.scratchBytes
  let (tm, tp) := w.slots.zipIdx.foldl (fun (e : Bytes × List Nat) z =>
    let (m, p) := takeRange c.tiles c.tilePoison (4096 * z.1) 4096
    putRange e.1 e.2 (4096 * z.2) m p) ([], [])
  let (am, ap) := takeRange c.acc c.accPoison w.accBase k.accBytes
  let own (b : FrontBank) : Option FrontBank := if b.owner = some w.key then some b else none
  { scratch := sm, scratchPoison := sp, tiles := tm, tilePoison := tp, acc := am, accPoison := ap, bank0 := own c.bank0, bank1 := own c.bank1
    deep := ([0, 262144].filter (fun o => decide (o + 262144 ≤ k.accBytes))).map (fun o => (o, c.deep (w.accBase + o)))
    copyQ := c.copyQ.filter (fun e => e.wg = w.key), easelQ := c.easelQ.filter (fun e => e.wg = w.key)
    ringDone := (c.ringDone.filter (fun r => decide (w.scratchBase ≤ r.1 ∧ r.1 < w.scratchBase + k.scratchBytes))).map (fun r => (r.1 - w.scratchBase, r.2)) }

/-- Bytes of a save area, whose layout the spec keeps to the G7: free values (log 14). -/
def State.fillArea (space : Nat) : Nat → Nat → State → State
  | 0, _, s => s
  | n + 1, va, s =>
    let s1 := match s.translate space va with
      | .ok (pa, leaf) => s.homePut (attrOf leaf pa) pa [Config.saveBytes s.free]
      | .error _ => s
    State.fillArea space n ((va + 1) % 2 ^ 64) s1.drawn

/-- A context saved (R232, R328, R399): dirty words go home at `.SYS`, the area is written, resources are released. -/
def State.saveDone (s : State) (w : Workgroup) : State :=
  let s1 := State.fillArea 0 (4096 + s.contextBytes w) w.saveArea ((s.wgRelease w))
  let v := s1.capture w
  let s2 := ((s1.updCore w.core (fun c => { c with idleSince := s.tide.toNat })).releaseCore w).updWg w.key (fun w => { w with
    preempt := .saved, saved := some v, fibres := w.fibres.map (fun x => { x with yielded := false }) })
  s2.setPstat w.preemptBy (3 + (s.agent w.preemptBy).pstat.toNat / 8 % 2 * 8 + (if w.parked.isSome then 16 else 0))

/-- PREEMPT_SAVE_DONE (R399). -/
def execPreemptSaveDone (wg : Nat) (s : State) : Host.Outcome State Fault Refusal :=
  match s.wg? wg with
  | none => .next s
  | some w => if w.preempt = .saving && s.saveReady w then .next (s.saveDone w) else .next s

/-- A watched line of the workgroup's own scratchpad named at its new place. -/
def WatchLine.moved (w : Workgroup) (size core base : Nat) (l : WatchLine) : WatchLine :=
  if l.space ≠ 0 && l.place = w.core && decide (w.scratchBase / 64 ≤ l.line) && decide (l.line < (w.scratchBase + size) / 64) then
    { l with place := core, line := l.line - w.scratchBase / 64 + base / 64 }
  else l

/-- A fibre's names of its workgroup's scratchpad after a move. -/
def Fibre.moved (w : Workgroup) (size core base : Nat) (x : Fibre) : Fibre :=
  let key := x.waitKey
  let mine : Bool := (decide (x.wait = .swwait) || decide (x.wait = .rwait)) &&
    decide (bankKey w.core w.scratchBase ≤ key) && decide (key < bankKey w.core (w.scratchBase + size))
  { x with
    waitKey := if mine then bankKey core (base + (key - bankKey w.core w.scratchBase)) else key
    waitLine := x.waitLine.map (WatchLine.moved w size core base)
    watch := x.watch.map (fun e => (e.1.moved w size core base, e.2))
    spin := { x.spin with lines := x.spin.lines.map (WatchLine.moved w size core base) } }

/-- A saved workgroup placed on a core (R232, R399): its context is back, `PHASE.ACQ.SYS` performed, its abandoned operations settled. Its
fibres keep their saved state, and the runnable ones enter the queue in ascending index (R260). -/
def State.restoreTo (s : State) (w : Workgroup) (v : Saved) (core : Nat) (p : Placement) : State :=
  let k := s.kernelOf w
  let put (c0 : Core) : Core :=
    let c := c0.cleared k p
    let (sm, sp) := putRange c.scratch c.scratchPoison p.scratch v.scratch v.scratchPoison
    let (tm, tp) := p.slots.zipIdx.foldl (fun (e : Bytes × List Nat) z =>
      let (m, q) := takeRange v.tiles v.tilePoison (4096 * z.2) 4096
      putRange e.1 e.2 (4096 * z.1) m q) (c.tiles, c.tilePoison)
    let (am, ap) := putRange c.acc c.accPoison p.acc v.acc v.accPoison
    let c1 := { c with
      scratch := sm, scratchPoison := sp, tiles := tm, tilePoison := tp, acc := am, accPoison := ap
      bank0 := v.bank0.getD c.bank0, bank1 := v.bank1.getD c.bank1
      ringDone := c.ringDone ++ v.ringDone.map (fun r => (r.1 + p.scratch, r.2)), idleSince := s.tide.toNat }
    let c2 := v.deep.foldl (fun c d => c.setDeep (p.acc + d.1) d.2) c1
    let c3 := v.copyQ.foldl (fun (c : Core) e => { c with copyQ := c.copyQ ++ [{ e with entry := ((List.range 16).find? (fun n => !c.copyQ.any (fun x => x.entry = n))).getD 16 }] }) c2
    v.easelQ.foldl (fun (c : Core) e => { c with easelQ := c.easelQ ++ [{ e with entry := ((List.range 16).find? (fun n => !c.easelQ.any (fun x => x.entry = n))).getD 16 }] }) c3
  let sched := s.startScheduler core
  let s1 := (s.updWg w.key (fun w => { w with
    core := core, startSched := sched, scratchBase := p.scratch, slots := p.slots, accBase := p.acc, preempt := .running, saved := none
    restoring := false, lastActive := s.tide.toNat
    queue := (w.fibres.filter (fun x => x.wait = .run)).map (fun x => x.index)
    fibres := w.fibres.map (fun x => { x.moved w k.scratchBytes core p.scratch with
      resident := false, leaving := false, queuedSince := s.tide.toNat }) |>.map Fibre.regrown })).updCore
      core put
  let s2 : State := { s1 with admitPointer := (core + 1) % Config.cores }
  (v.abandon.foldl (fun t id => t.abandon w.key id) (s2.acquire core 6)).checkWaitc w.key

/-- Room for an entry of each kind and free banks of the numbers that the context owns. -/
def State.roomFor (s : State) (v : Saved) (core : Nat) : Bool :=
  let c := s.core core
  (v.bank0.isNone || c.bank0.owner.isNone) && (v.bank1.isNone || c.bank1.owner.isNone) && decide (c.easelQ.length + v.easelQ.length ≤ 16)

/-- A saved workgroup asked for is admitted where it fits (R399). -/
def State.tryRestore (s : State) (w : Workgroup) : Option State :=
  match w.saved with
  | none => none
  | some v => (s.coreOrder.findSome? (fun c => if s.roomFor v c then (s.placeOn c (s.kernelOf w)).map (fun p => (c, p)) else none)).map
      (fun e => s.restoreTo w v e.1 e.2)

/-- A restore command: at once where it fits, else at a later admission. -/
def State.restore (s : State) (a : Agent) : State :=
  match s.preemptTarget a with
  | none => s.setPstat a 5
  | some w =>
    if w.preempt ≠ .saved then s.setPstat a 6
    else ((s.tryRestore w).getD (s.updWg w.key (fun w => { w with restoring := true }))).setPstat a 0

/-- PREEMPT_RESTORE (R399). -/
def execPreemptRestore (a : Agent) (s : State) : Host.Outcome State Fault Refusal := .next (s.restore a)

/-- A kill command for a parked or saved workgroup (R395, R399). -/
def State.killSaved (s : State) (a : Agent) : State :=
  match s.preemptTarget a with
  | none => s.setPstat a 5
  | some w => if w.preempt = .saved || w.parked.isSome then (s.kill w.key).setPstat a 7 else s.setPstat a 6

/-- PREEMPT_KILL_SAVED (R399). -/
def execPreemptKillSaved (a : Agent) (s : State) : Host.Outcome State Fault Refusal := .next (s.killSaved a)

/-! The watchdog (R400). -/

/-- The waiting-state code of R257; 0 for a fibre that does not wait. -/
def waitCode (x : Fibre) : Nat :=
  match x.wait with
  | .run | .answer => 0
  | .barrier => 1
  | .waitw => 2
  | .lane => 3
  | .swwait => 4
  | .rwait => 5
  | .waitc => 6
  | .waitpred => 7
  | .twait => 8
  | .spinning => 9

/-- A workgroup on a core is stalled. -/
def State.stalled (s : State) (w : Workgroup) : Bool :=
  decide (s.wdog ≠ 0) && w.parked.isNone && !w.fibres.isEmpty && decide (w.preempt ≠ .saved) &&
    decide (s.tide.toNat ≥ w.lastActive + s.wdog.toNat * 1000000)

/-- WATCHDOG_EXPIRY (R400). -/
def execWatchdogExpiry (wg : Nat) (s : State) : Host.Outcome State Fault Refusal :=
  match s.wg? wg with
  | none => .next s
  | some w =>
    if !s.stalled w then .next s
    else match (w.fibres.find? (fun x => decide (waitCode x ≠ 0))).orElse (fun _ => w.fibres.head?) with
      | none => .next s
      | some x =>
        let info : FaultInfo := { cls := 16, pc := x.pc, fibre := x.index, body := s.tide.toNat + waitCode x * 2 ^ 64 + 2 ^ x.lane * 2 ^ 96 }
        .next ((s.log 8 w.core 16 0 w.wgid x.pc.toNat 0).park wg info)

/-! CSRs (R401). -/

/-- A listed CSR: readable by any launch, and writable. -/
def csrListed (n : Nat) : Bool :=
  [0x001, 0x002, 0x003, 0x004, 0x005, 0x010, 0x011, 0x012, 0x013, 0x014, 0x015, 0x016, 0x017, 0x018, 0x020, 0x021, 0x022, 0x030, 0x031, 0x032,
    0x033, 0x034, 0x080, 0x081, 0x082, 0x083, 0x084, 0x085, 0x090, 0x091, 0x092, 0x093, 0x094, 0x095, 0x096, 0x097, 0x0A0, 0x0A1].contains n ||
    decide (0x40 ≤ n ∧ n ≤ 0x7F) || decide (0xA8 ≤ n ∧ n ≤ 0xAF)
def csrUser (n : Nat) : Bool := n = 0x013
def csrReadOnly (n : Nat) : Bool := n = 0x013 || n = 0x096 || n = 0x0A1 || decide (0xA8 ≤ n ∧ n ≤ 0xAF)

/-- A black-box entry by its index in the ring of 4,096 (R403). -/
def State.boxEntry (s : State) (die idx : Nat) : Nat :=
  let wp := Sparse.get 0 s.blackBoxWp die
  ((Sparse.get [] s.blackBox die)[(wp + 2 ^ 32 - 1 - idx) % 4096]?).getD 0

/-- A 64-bit quantity's half. -/
def halfOf (v : DWord) (high : Bool) : Word := if high then hiWord v else loWord v
def setHalf (v : DWord) (high : Bool) (x : Word) : DWord :=
  if high then x ++ loWord v else hiWord v ++ x

/-- A multicast group. -/
def State.group (s : State) (g : Nat) : Group := Sparse.get {} s.groups g

/-- The value read from a CSR by an agent. DESIGN CHOICE (log 22): `csr.coveways` reads as the count in force while a written one waits (R15). -/
def State.csrRead (s : State) (a : Agent) (n : Nat) : Word :=
  let c := s.agent a
  let g := s.group (c.mgsel.toNat % 256)
  let die := c.bbsel.toNat % 4
  match n with
  | 0x001 => s.dbg
  | 0x002 => c.csel
  | 0x003 => c.asel
  | 0x004 => c.mgsel
  | 0x005 => c.bbsel
  | 0x010 => halfOf s.frbase false
  | 0x011 => halfOf s.frbase true
  | 0x012 => s.frsize
  | 0x013 => s.frwp
  | 0x014 => s.frrp
  | 0x015 => halfOf c.fres false
  | 0x016 => halfOf c.fres true
  | 0x017 => c.fresv
  | 0x018 => c.fcmd
  | 0x020 => (s.core c.csel.toNat).quantum
  | 0x021 => s.wdog
  | 0x022 => BitVec.ofNat 32 (Sparse.get 1 s.coveWays (dieOf c.csel.toNat))
  | 0x030 => halfOf (Sparse.get 0 s.ptroot c.asel.toNat) false
  | 0x031 => halfOf (Sparse.get 0 s.ptroot c.asel.toNat) true
  | 0x033 => halfOf c.tlbva false
  | 0x034 => halfOf c.tlbva true
  | 0x080 => halfOf g.va false
  | 0x081 => halfOf g.va true
  | 0x082 => g.len
  | 0x083 => g.ctl
  | 0x084 => c.mgmidx
  | 0x085 => BitVec.ofNat 32 (Sparse.get 0 g.pkgs c.mgmidx.toNat)
  | 0x090 => c.pwg
  | 0x091 => c.pwgid
  | 0x092 => c.pbound
  | 0x093 => halfOf c.psave false
  | 0x094 => halfOf c.psave true
  | 0x096 => c.pstat
  | 0x0A0 => c.bbidx
  | 0x0A1 => BitVec.ofNat 32 (Sparse.get 0 s.blackBoxWp die)
  | _ =>
    if 0x40 ≤ n ∧ n ≤ 0x7F then halfOf (Sparse.get 0 s.fvec ((n - 0x40) / 2)) (n % 2 = 1)
    else if 0xA8 ≤ n ∧ n ≤ 0xAF then BitVec.ofNat 32 (bitsOf (s.boxEntry die (c.bbidx.toNat % 4096)) (32 * (n - 0xA8)) 32)
    else 0

/-- An invalidation of translations (R193, R401): of a space or of all, of all pages or the one at `csr.tlbva`; it is complete at once. -/
def State.tlbInvalidate (s : State) (a : Agent) (v : Word) : State :=
  let va := (s.agent a).tlbva.toNat
  let hit (e : Nat × Nat × DWord) : Bool :=
    (v.getLsbD 8 || decide (e.1 = v.toNat % 256)) &&
      (!v.getLsbD 9 || decide (e.2.1 / pageBytes (pte e.2.2 5 2) = va / pageBytes (pte e.2.2 5 2)))
  { s with tlb := s.tlb.filter (fun e => !hit e) }

/-- TLB_INVALIDATE (R193). -/
def execTlbInvalidate (a : Agent) (value : Word) (s : State) : Host.Outcome State Fault Refusal := .next (s.tlbInvalidate a value)

/-- A launch counter disarmed without dispatch (R401). -/
def State.disarm (s : State) (v : Word) : State := { s with counters := Sparse.set {} s.counters (v.toNat % 4096) {} }

/-- LAUNCH_COUNTER_DISARM (R401). -/
def execLaunchCounterDisarm (value : Word) (s : State) : Host.Outcome State Fault Refusal := .next (s.disarm value)

/-- A Cove way count written (R15): at once where no chunk is staged on the die, else when none is. Values beyond 1 to 8 are ignored. -/
def State.coveWrite (s : State) (a : Agent) (v : Word) : State :=
  let die := dieOf (s.agent a).csel.toNat
  if v = 0 ∨ v.toNat > 8 then s
  else if s.staged die then { s with covePending := Sparse.set 0 s.covePending die v.toNat }
  else s.setCoveWays die v.toNat

/-- COVE_WAYS_WRITE (R15). -/
def execCoveWaysWrite (a : Agent) (value : Word) (s : State) : Host.Outcome State Fault Refusal := .next (s.coveWrite a value)

/-- The bits of a vector's half that R391 does not reserve: a value written to the others is ignored (R4). -/
def vectorFields (high : Bool) : Word := if high then 0x01FFFFFF else 0xFFFFFF81

/-- The bits a CSR's row gives a field (R401); every bit where the row gives a quantity. -/
def csrFields (n : Nat) : Word :=
  match n with
  | 0x001 => 1
  | 0x002 => 0x3FF
  | 0x003 => 0xFF
  | 0x004 => 0xFF
  | 0x005 => 3
  | 0x083 => 0x1F3F
  | 0x084 => 0x1F
  | 0x085 => 0x1FF
  | 0x018 => 7
  | 0x032 => 0x3FF
  | 0x097 => 0xFFF
  | 0x0A0 => 0xFFF
  | _ => 0xFFFFFFFF

/-- Whether every field of a written value lies in the range its CSR's row gives (R402); bits outside a row's fields are read as a
field that holds only zero (DEDUCED, log 16). -/
def csrInRange (n : Nat) (v : Word) : Bool :=
  decide (v &&& ~~~ csrFields n = 0) &&
    match n with
    | 0x002 => decide (v.toNat < Config.cores)
    | 0x005 => decide (v.toNat < Config.dies)
    | 0x010 => decide (v.toNat % 4096 = 0)
    | 0x012 => decide (16 ≤ v.toNat ∧ v.toNat ≤ 65536 ∧ v.toNat = 2 ^ Nat.log2 v.toNat)
    | 0x021 => decide (v.toNat ≤ 65535)
    | 0x080 => decide (v.toNat % 2 ^ 21 = 0)
    | 0x082 => decide (1 ≤ v.toNat ∧ v.toNat ≤ 512)
    | 0x093 => decide (v.toNat % 4096 = 0)
    | _ => true

/-- A write of a CSR by an agent, of a value in its row's range (R401). -/
def State.csrStore (s : State) (a : Agent) (n : Nat) (v : Word) : State :=
  let c := s.agent a
  let mine (g : AgentCsr → AgentCsr) : State := s.updAgent a g
  let grp (g : Group → Group) : State :=
    { s with groups := Sparse.set {} s.groups (c.mgsel.toNat % 256) (g (s.group (c.mgsel.toNat % 256))) }
  let x := v.toNat
  match n with
  | 0x001 => { s with dbg := v }
  | 0x002 => mine (fun c => { c with csel := v })
  | 0x003 => mine (fun c => { c with asel := v })
  | 0x004 => mine (fun c => { c with mgsel := v })
  | 0x005 => mine (fun c => { c with bbsel := v })
  | 0x010 => { s with frbase := setHalf s.frbase false v }
  | 0x011 => { s with frbase := setHalf s.frbase true v }
  | 0x012 => { s with frsize := v }
  | 0x014 => { s with frrp := v }
  | 0x015 => mine (fun c => { c with fres := setHalf c.fres false v })
  | 0x016 => mine (fun c => { c with fres := setHalf c.fres true v })
  | 0x017 => mine (fun c => { c with fresv := v })
  | 0x018 => s.fcmd a (x % 4) (if v.getLsbD 2 then some c.fresv else none)
  | 0x020 => s.updCore c.csel.toNat (fun k => { k with quantum := if x < 16 then 16 else if x > 1024 then 1024 else v })
  | 0x021 => { s with wdog := v }
  | 0x022 => s.coveWrite a v
  | 0x030 => { s with ptroot := Sparse.set 0 s.ptroot c.asel.toNat (setHalf (Sparse.get 0 s.ptroot c.asel.toNat) false v) }
  | 0x031 => { s with ptroot := Sparse.set 0 s.ptroot c.asel.toNat (setHalf (Sparse.get 0 s.ptroot c.asel.toNat) true v) }
  | 0x032 => s.tlbInvalidate a v
  | 0x033 => mine (fun c => { c with tlbva := setHalf c.tlbva false v })
  | 0x034 => mine (fun c => { c with tlbva := setHalf c.tlbva true v })
  | 0x080 => grp (fun g => { g with va := setHalf g.va false v })
  | 0x081 => grp (fun g => { g with va := setHalf g.va true v })
  | 0x082 => grp (fun g => { g with len := v })
  | 0x083 => grp (fun g => { g with ctl := v })
  | 0x084 => mine (fun c => { c with mgmidx := v })
  | 0x085 => grp (fun g => { g with pkgs := Sparse.set 0 g.pkgs c.mgmidx.toNat x })
  | 0x090 => mine (fun c => { c with pwg := v })
  | 0x091 => mine (fun c => { c with pwgid := v })
  | 0x092 => mine (fun c => { c with pbound := v })
  | 0x093 => mine (fun c => { c with psave := setHalf c.psave false v })
  | 0x094 => mine (fun c => { c with psave := setHalf c.psave true v })
  | 0x095 => match x with | 1 => s.preempt a | 2 => s.restore a | 3 => s.killSaved a | _ => s
  | 0x097 => s.disarm v
  | 0x0A0 => mine (fun c => { c with bbidx := v })
  | _ =>
    if 0x40 ≤ n ∧ n ≤ 0x7F then
      let i := (n - 0x40) / 2
      let high := n % 2 = 1
      { s with fvec := Sparse.set 0 s.fvec i (setHalf (Sparse.get 0 s.fvec i) high (v &&& vectorFields high)) }
    else s

/-- A write of a CSR by an agent (R401, R402): a value outside its row's range leaves the CSR unchanged. -/
def State.csrWrite (s : State) (a : Agent) (n : Nat) (v : Word) : State := if csrInRange n v then s.csrStore a n v else s

/-- CSR_WRITE (R402): a write by an agent that may write it. -/
def execCsrWrite (a : Agent) (num : BitVec 12) (value : Word) (s : State) : Host.Outcome State Fault Refusal :=
  if csrReadOnly num.toNat then .next s else .next (s.csrWrite a num.toNat value)

/-! The system instructions (R405). -/

/-- The record fault of `TRAP`, `BRK` and `SYSC`: the participants' mask and the code. -/
def Ctx.trapFault (c : Ctx) (cls v0 : Nat) : FaultInfo :=
  { c.fault cls (lowestFibre c.passing) v0 (c.f.immBits 0 16) (laneMask c.passing) with
    parts := c.passing.map (fun x => x.index), dst := c.f.dst.toNat, lanes := c.lanes.map (fun x => x.index) }

/-- `TRAP` (R405). -/
def execTrap (f : Fields) (s : State) : Host.Outcome State Fault Refusal :=
  runOnce 0x150 (.trap f) f s fun c _ _ => .error (c.trapFault 18 0)

/-- `SYSC` (R398, R405): it parks for service, and commits the workgroup. -/
def execSysc (f : Fields) (s : State) : Host.Outcome State Fault Refusal :=
  runOnce 0x151 (.sysc f) f s fun c x t =>
    .ok ((t.commits c true).parkBatch c (c.trapFault 20 ((src32 c x c.f.srcA).toNat + (src32 c x c.f.srcB).toNat * 2 ^ 32)))

/-- `BRK` (R405): without effect while `csr.dbg` bit 0 is clear. -/
def execBrk (f : Fields) (s : State) : Host.Outcome State Fault Refusal :=
  runOnce 0x156 (.trap f) f s fun c _ t => if t.dbg.getLsbD 0 then .error (c.trapFault 19 0) else .ok (t.lanewise c id)

/-- The agent of a batch. -/
def Ctx.agent (c : Ctx) : Agent := .workgroup c.wg.key

/-- A CSR that a launch may not use so (R405): its number is no operand code, so the code recorded is 0 (log 16). -/
def Ctx.csrFault (c : Ctx) (x : Fibre) (write : Bool) : Option FaultInfo :=
  let n := c.f.immBits 0 12
  if !csrListed n || (!c.launch.privileged && (write || !csrUser n)) || (write && csrReadOnly n) then
    some (c.fault 5 x.index c.wordHigh 0 (laneMask [x])) else none

/-- `CSRR` (R405). -/
def execCsrr (f : Fields) (s : State) : Host.Outcome State Fault Refusal :=
  runOnce 0x152 (.csrr f) f s fun c x t =>
    match c.csrFault x false with
    | some e => .error e
    | none =>
      let v := t.csrRead c.agent (c.f.immBits 0 12)
      .ok (t.lanewise c (fun y => y.set32 c.f.dst v))

/-- A CSR written from its old value and source B, which commits the workgroup (R398). The batch moves on before the write takes
effect, so that a command that ends or moves its own workgroup finds it past the instruction. -/
def csrBody (g : Word → Word → Word) (c : Ctx) (x : Fibre) (t : State) : Except FaultInfo State :=
  match c.csrFault x true with
  | some e => .error e
  | none =>
    let n := c.f.immBits 0 12
    .ok (((t.lanewise c id).commits c true).csrWrite c.agent n (g (t.csrRead c.agent n) (src32 c x c.f.srcB)))

/-- `CSRW` (R405). -/
def execCsrw (f : Fields) (s : State) : Host.Outcome State Fault Refusal := runOnce 0x153 (.csrw f) f s (csrBody (fun _ b => b))
/-- `CSRS` (R405). -/
def execCsrs (f : Fields) (s : State) : Host.Outcome State Fault Refusal := runOnce 0x154 (.csrw f) f s (csrBody (fun o b => o ||| b))
/-- `CSRC` (R405). -/
def execCsrc (f : Fields) (s : State) : Host.Outcome State Fault Refusal := runOnce 0x155 (.csrw f) f s (csrBody (fun o b => o &&& ~~~b))

/-- The record of `FRD`, `FRES` and `FKILL` (R405): privilege, alignment, then the read as an `LD.G`; the parked workgroup it selects. -/
def State.recordOf (s : State) (c : Ctx) (x : Fibre) : Except FaultInfo (Option Workgroup × State) :=
  let a := (src64 c x c.f.srcA).toNat
  let bad := c.fault 5 x.index c.wordHigh c.f.srcA.toNat (laneMask [x])
  if !c.launch.privileged || decide (a % 64 ≠ 0) then .error bad
  else match s.place c.core c.wg c.kernel 0 c.launch.space a 64 1 with
    | .error e => .error (c.fault e.cls x.index a 64 (laneMask [x]) e.cause)
    | .ok p =>
      let (v, s1) := State.readWords c.core 0 0 4 16 p s
      match v.findIdx? (fun b => b.2), p with
      | some i, _ => .error (c.fault 11 x.index (a + i) c.f.srcA.toNat (laneMask [x]))
      | none, .home pa _ => .ok (s1.parkedAt pa (v.map (fun b => b.1)), s1.noteTlb c.launch.space a)
      | none, .scratch .. => .ok (none, s1)

/-- The word that an `FRD` selector names of a parked workgroup, and whether it is poisoned (R406). -/
def Workgroup.peek (w : Workgroup) (sel : Nat) : Word × Bool :=
  let i := bitsOf sel 8 12
  let r := bitsOf sel 20 8
  let none' : Word × Bool := (0xFFFFFFFF, false)
  match bitsOf sel 0 3, w.fibre? i with
  | 0, some x => if r < x.allot then (x.reg r, x.poison.contains r) else none'
  | 1, _ => if r < 64 ∧ i < 128 then (Sparse.get 0 w.scalars (i * 64 + r), w.scalarPoison.contains (i * 64 + r)) else none'
  | 2, some x => (x.preds.zeroExtend 32, false)
  | 3, some x => (loWord x.pc, false)
  | 4, some x => (hiWord x.pc, false)
  | 5, some x => (BitVec.ofNat 32 x.allot, false)
  | _, _ => none'

/-- `FRD` (R406). -/
def execFrd (f : Fields) (s : State) : Host.Outcome State Fault Refusal :=
  runOnce 0x157 (.frd f) f s fun c x t =>
    let sel := (src32 c x c.f.srcB).toNat
    match t.recordOf c x with
    | .error e => .error e
    | .ok (found, u) =>
      if bitsOf sel 0 3 ≥ 6 ∨ bitsOf sel 3 5 ≠ 0 ∨ bitsOf sel 28 4 ≠ 0 then .error (c.fault 5 x.index c.wordHigh c.f.srcB.toNat (laneMask [x]))
      else
        let (v, bad) := (found.map (fun w => w.peek sel)).getD (0xFFFFFFFF, false)
        .ok (u.lanewise c (fun y => if c.f.dst.toNat < 240 then y.setRegP c.f.dst.toNat v bad else y))

/-- The predicate of the participants, the batch past its instruction; then `act` where the record was found (R393). -/
def recordAct (act : Ctx → Fibre → Nat → State → State) (c : Ctx) (x : Fibre) (t : State) : Except FaultInfo State :=
  match t.recordOf c x with
  | .error e => .error e
  | .ok (found, u) =>
    let v := u.lanewise c (fun y => y.setPred (predOf c.f.dst) found.isSome)
    .ok (match found with | some w => act c x w.key v | none => v)

/-- `FRES` (R393, R394). -/
def execFres (f : Fields) (s : State) : Host.Outcome State Fault Refusal :=
  runOnce 0x158 (.fres f) f s (recordAct (fun c x key t =>
    (t.release c.core 6).resume key (c.f.mod 0) (if c.f.mod 1 then some (src32 c x c.f.srcB) else none)))

/-- `FKILL` (R393, R395). -/
def execFkill (f : Fields) (s : State) : Host.Outcome State Fault Refusal :=
  runOnce 0x159 (.fkill f) f s (recordAct (fun _ _ key t => t.kill key))

end Sys2Proof.Machine
end

