-- ==== Sys2Proof/Machine/Launch.lean ====
section
/-! DEFINITION. Queues and packets (R448 to R452), admission (R453, R456), jobs and launch counters (R424, R457 to R459), the end of
workgroups, jobs and launches (R86, R462, R463, R468), and the launch instructions (R460, R461). -/

namespace Sys2Proof.Machine

/-! The hub's writes. -/

/-- Bytes written at their home through an address space with W permission; nothing where they do not translate. -/
def State.hubWrite (s : State) (space va : Nat) (bytes : List Byte) : State :=
  match s.translate space va with
  | .error _ => s
  | .ok (pa, leaf) => if pte leaf 3 1 = 0 then s else s.homePut (attrOf leaf pa) pa bytes

/-- The signal word of a launch with a status (R463). -/
def signalWord (lseq status : Nat) : Nat := lseq % 2 ^ 62 + status % 4 * 2 ^ 62

/-- A launch's signal word written, where it names one. -/
def State.signalLaunch (s : State) (l : Launch) (status : Nat) : State :=
  if l.signal = 0 then s else s.hubWrite l.space l.signal (bytesOf 8 (signalWord l.lseq status))

/-! Launches. -/

def Launch.total (l : Launch) : Nat := l.gridX * l.gridY * l.gridZ
/-- Every workgroup has been admitted once, or the launch is over. -/
def Launch.allAdmitted (l : Launch) : Bool := l.done || decide (l.admitted ≥ l.total)

/-- The predecessor of a launch meets a condition, or there is none. -/
def State.predIs (s : State) (l : Launch) (p : Launch → Bool) : Bool :=
  match l.predecessor with
  | none => true
  | some q => match s.launch? q with | none => true | some m => p m

/-- The launch stands at the head of its queue (R451, R452). -/
def State.atHead (s : State) (l : Launch) : Bool := s.predIs l Launch.allAdmitted

/-- The conditions of R452. -/
def State.packetReady (s : State) (l : Launch) : Bool :=
  s.atHead l && (!l.serial || s.predIs l (fun p => p.done)) &&
    (!l.dependent || s.predIs l (fun p => p.done || decide (p.hinted ≥ p.total))) && (!l.timed || decide (s.tide.toNat ≥ l.start))

/-! Packets (R449, R450). -/

/-- A packet's fields as a launch, and whether it is malformed (R450, R451). -/
def parsePacket (p lseq q prio : Nat) : Launch × Bool :=
  let f (lo n : Nat) : Nat := bitsOf p lo n
  let l : Launch :=
    { lseq := lseq, kind := .packet, queue := some q, priority := prio, privileged := f 13 1 = 1, space := f 19 8, traps := BitVec.ofNat 5 (f 14 5)
      kernelAddr := vaOf (f 96 50) 7, args := vaOf (f 160 53) 4, gridX := f 32 32, gridY := f 64 16, gridZ := f 80 16, signal := vaOf (f 224 54) 3
      acquire := f 4 3, release := f 7 3, predScope := f 27 3, serial := f 10 1 = 1, dependent := f 11 1 = 1, timed := f 12 1 = 1, start := f 448 64
      storeBase := vaOf (f 320 45) 12, storeArea := 16 * f 288 20, storeAreas := f 365 16, barrierBase := vaOf (f 384 45) 12, barrierEntries := f 429 19 }
  let reserved := [(30, 2), (146, 14), (213, 11), (278, 10), (308, 12), (381, 3)].any (fun r => f r.1 r.2 ≠ 0)
  (l, decide (f 0 4 ≠ 1) || reserved || (l.serial && l.dependent) || decide (l.gridX = 0) || decide (l.gridY = 0) || decide (l.gridZ = 0) ||
    decide (l.total > 2 ^ 32))

/-- A field of a queue's descriptor in the table (R448). -/
def State.queueField (s : State) (q off n : Nat) : Nat := s.mem.readN (s.queueBase.toNat + 64 * q + off) n

/-- Bytes of a queue's descriptor written by the launch processor. -/
def State.queueSet (s : State) (q off : Nat) (bytes : List Byte) : State := s.homeWrite .other 0 (cellsOf (s.queueBase.toNat + 64 * q + off) bytes)

/-- A queue stopped on an error (R449, R452, R475). -/
def State.queueError (s : State) (q : Nat) : State :=
  let b := s.queueField q 24 1
  ((({ s with queuePred := Sparse.set 0 s.queuePred q 0 } : State).queueSet q 24 (bytesOf 1 (b ||| 1)))).say (.msix 1)

/-- One packet accepted (R449, R464). -/
def State.acceptPacket (s : State) (q : Nat) (bytes : List Byte) : State :=
  let bits := s.queueField q 8 1
  let (l, malformed) := parsePacket (ofBytes bytes) s.lseqCounter q (bits / 16 % 4)
  let pred := Sparse.get 0 s.queuePred q
  let m := { l with
    predecessor := if pred = 0 then none else some pred
    rejected := malformed || (l.privileged && decide (bits / 128 % 2 = 0)) }
  let s1 : State := { s with lseqCounter := s.lseqCounter + 1, launches := s.launches ++ [m], queuePred := Sparse.set 0 s.queuePred q l.lseq }
  (s1.queueSet q 16 (bytesOf 4 (s.queueField q 16 4 + 1))).signalLaunch m 0

/-- The address of the slot of a queue's next packet. -/
def State.packetAt (s : State) (q : Nat) : Nat :=
  let slots := 2 ^ (bitsOf (s.queueField q 8 1) 0 4 + 4)
  (s.queueField q 0 8 + 64 * (s.queueField q 16 4 % slots)) % 2 ^ 64

/-- Packets that a queue has still to accept. -/
def State.queueTodo (s : State) (q : Nat) : Nat := (s.queueField q 20 4 + 2 ^ 32 - s.queueField q 16 4) % 2 ^ 32

/-- Packets accepted in order, `n` at most, until one cannot be read, or another package has to send its line first. -/
def State.acceptPackets (q : Nat) : Nat → State → State
  | 0, s => s
  | n + 1, s =>
    let space := s.queueField q 9 1
    let far := s.hubLacks (.queue q) space (s.packetAt q) 64
    if !far.isEmpty then s.askLines (.queue q) far else
    let t := s.readOver (fun r => decide (r = .queue q))
    match s.hubRead space (s.packetAt q) 64 with
    | none => t.queueError q
    | some bytes => State.acceptPackets q n (t.acceptPacket q bytes)

/-- QUEUE_NOTIFY (R449): before the device is ready the write is discarded, and so is one to a queue the table does not hold. The event
carries the table's base and count where the host has written them to the launch register block since the last notify. -/
def execQueueNotify (queue : Nat) (index : Word) (table : Option (BitVec 64 × Word)) (s0 : State) : Host.Outcome State Fault Refusal :=
  let s : State := match table with | some (b, n) => { s0 with queueBase := b, queueCount := n } | none => s0
  if !s.ready || s.lifeCycle ≠ .deployed || decide (queue ≥ s.queueCount.toNat) then .next s
  else
    let s1 := s.queueSet queue 20 (bytesOf 4 index.toNat)
    let bits := s.queueField queue 8 1
    let todo := (index.toNat + 2 ^ 32 - s.queueField queue 16 4) % 2 ^ 32
    if s.queueField queue 24 1 % 2 = 1 then .next s1
    else if bits % 16 ≥ 13 ∨ bits / 64 % 2 = 0 ∨ todo > 2 ^ (bits % 16 + 4) then .next (s1.queueError queue)
    else .next (State.acceptPackets queue todo s1)

/-! Launches made active or rejected (R451, R452). -/

/-- A launch over without running: its signal carries status 3. -/
def State.rejectLaunch (s : State) (l : Launch) : State :=
  (s.signalLaunch l 3).updLaunch l.lseq (fun m => { m with rejected := true, done := true })

/-- The lines of a launch's or a job's descriptor that other packages have still to send. -/
def State.launchLacks (s : State) (l : Launch) : List Nat := s.kernelLacks (.launch l.lseq) l.space l.kernelAddr

/-- One packet's launch looked at: rejected at the head of its queue, or made active when ready. -/
def State.promoteOne (s : State) (lseq : Nat) : State :=
  match s.launch? lseq with
  | none => s
  | some l =>
    if l.kind ≠ .packet || l.done || l.active || l.kernel.isSome || !s.atHead l then s
    else if l.rejected then s.rejectLaunch l
    else if !(s.launchLacks l).isEmpty then s.askLines (.launch lseq) (s.launchLacks l)
    else match s.readKernel l.space l.kernelAddr with
      | none => s.rejectLaunch l
      | some k =>
        if l.rejects k then s.rejectLaunch l
        else if s.packetReady l && decide ((s.launches.filter (fun m => m.active)).length < 64) then
          (s.updLaunch lseq (fun m => { m with active := true, kernel := some k })).readOver (fun r => decide (r = .launch lseq))
        else s

/-- Every launch looked at, in order of acceptance. -/
def State.promote (s : State) : State := (s.launches.map (fun l => l.lseq)).foldl State.promoteOne s

/-- A launch that `promote` would change. -/
def State.promotable (s : State) (l : Launch) : Bool :=
  decide (l.kind = .packet) && !l.done && !l.active && l.kernel.isNone && s.atHead l &&
    (l.rejected || (if !(s.launchLacks l).isEmpty then !s.awaitsLine (.launch l.lseq) else !((s.readKernel l.space l.kernelAddr).any (fun k => !l.rejects k)) ||
      (s.packetReady l && decide ((s.launches.filter (fun m => m.active)).length < 64))))

/-- START_TIME_REACHED (R452): once the Tide has reached it, what waited for it is looked at again. -/
def execStartTimeReached (value : Nat) (s : State) : Host.Outcome State Fault Refusal :=
  if s.tide.toNat ≥ value then .next s.promote else .next s

/-! Admission (R453, R456). -/

/-- An admission that could be made: the launch, the workgroup, its place, and whether it comes from a core's chunk. -/
structure Candidate where
  launch : Launch
  kernel : Kernel
  wgid : Nat
  core : Nat
  place : Placement
  chunk : Bool
  deriving DecidableEq, Repr

/-- Effective priority (R453). -/
def State.effective (s : State) (l : Launch) : Nat :=
  match l.kind, l.owner with
  | .job, some o => if l.priority = 3 then 3 else ((s.launch? o).map (fun m => min 3 (m.priority + m.waiting / 1000000))).getD l.priority
  | _, _ => min 3 (l.priority + l.waiting / 1000000)

/-- The next workgroup of a launch that is not dealt in chunks: a flushed one first. -/
def Launch.nextWgid (l : Launch) : Option Nat :=
  match l.readmit with
  | i :: _ => some i
  | [] => if l.kind ≠ .job && l.active && decide (l.admitted < l.total) then some l.admitted else none

/-- A launch's candidate: the first core from the admission pointer that fits. -/
def State.launchCandidate (s : State) (l : Launch) : Option Candidate :=
  match l.nextWgid, l.kernel with
  | some i, some k =>
    if !s.areaOk l || l.done then none
    else (s.firstCore k).map (fun e => { launch := l, kernel := k, wgid := i, core := e.1, place := e.2, chunk := false })
  | _, _ => none

/-- A core's candidate from its chunk (R458). -/
def State.chunkCandidate (s : State) (core : Nat) (c : Core) : Option Candidate :=
  c.chunk.bind fun (lseq, next, _) =>
    (s.launch? lseq).bind fun l => l.kernel.bind fun k =>
      if !s.areaOk l then none
      else (s.placeOn core k).map (fun p => { launch := l, kernel := k, wgid := next, core := core, place := p, chunk := true })

/-- Every admission that could be made now. -/
def State.candidates (s : State) : List Candidate :=
  s.launches.filterMap s.launchCandidate ++ s.cores.filterMap (fun e => s.chunkCandidate e.1 e.2)

/-- The distance of a candidate's queue from the queue served last. -/
def State.turn (s : State) (c : Candidate) : Nat := (c.launch.queue.getD 1024 + 1024 - s.lastQueue) % 1025

/-- The candidate served: the highest effective priority, ties by queue order from the last (R453). -/
def State.chosen (s : State) : Option Candidate :=
  s.candidates.foldl (fun (best : Option Candidate) c =>
    match best with
    | none => some c
    | some b =>
      if s.effective c.launch > s.effective b.launch then some c
      else if s.effective c.launch = s.effective b.launch && decide (s.turn c < s.turn b) then some c else some b) none

/-- A candidate admitted, and its launch's or core's place in the work moved on. -/
def State.admitCandidate (s : State) (c : Candidate) : State :=
  let s1 := s.admitOn c.launch c.kernel c.wgid c.core c.place
  let s2 := s1.updLaunch c.launch.lseq (fun l =>
    let n := if l.readmit.isEmpty then l.admitted + 1 else l.admitted
    { l with waiting := 0, admitted := n, readmit := if c.chunk then l.readmit else l.readmit.drop 1
             active := l.active && (decide (l.kind = .job) || decide (n < l.total)) })
  let s3 := if c.chunk then s2.updCore c.core (fun k => { k with chunk := k.chunk.bind (fun (l, i, e) => if i + 1 < e then some (l, i + 1, e) else none) }) else s2
  { s3 with lastQueue := c.launch.queue.getD s3.lastQueue }

/-- A saved workgroup whose restore was asked for and that now fits (R399). -/
def State.restorable (s : State) : Option State := (s.wgs.filter (fun w => w.restoring)).findSome? s.tryRestore

/-- WORKGROUP_ADMISSION (R453, R456): launches that have become ready are made active, then one restore or admission is made. -/
def execWorkgroupAdmission (s : State) : Host.Outcome State Fault Refusal :=
  let s1 := s.promote
  match s1.restorable with
  | some t => .next t
  | none => match s1.chosen with
    | some c => .next (s1.admitCandidate c)
    | none => .next s1

/-! Jobs and launch counters (R424, R457, R458). -/

def cardKernel (b : Nat) : Nat := bitsOf b 0 64
def cardBase (b : Nat) : Nat := bitsOf b 64 64
def cardCount (b : Nat) : Nat := bitsOf b 128 32
def cardSize (b : Nat) : Nat := bitsOf b 160 16
def cardKey (b : Nat) : Nat := bitsOf b 176 32

/-- A card that breaks R457. -/
def cardBad (b : Nat) : Bool :=
  decide (cardCount b = 0) || decide (bitsOf b 221 35 ≠ 0) || !canonical (cardKernel b) || decide (cardKernel b % 128 ≠ 0) ||
    !canonical (cardBase b) || decide (cardBase b % 16 ≠ 0) || decide (cardSize b > 4096)

/-- Slices of the task queue, and the slice of an affinity key (R458). -/
def sliceCount : Nat := match Config.grade with | .g7200 => 32 | _ => 64
def sliceOf (key : Nat) : Nat := key * 0x9E3779B1 % 2 ^ 32 / (2 ^ 32 / sliceCount)

/-- A segment has room for a card. -/
def State.segmentRoom (s : State) (key : Nat) : Bool := decide ((Sparse.get [] s.segments (sliceOf key)).length < 256)

/-- Stores that a launch or job waits for: of its workgroups, and of the releases before a job, that other packages have still to acknowledge (R252, R460). -/
def State.storesOut (s : State) (l : Launch) : Bool := l.acks.any s.asked

/-- A card enqueued for an owner launch (R457, R464); a counter's dispatch gives priority 3 (R453). `acks` are the stores of its releases that other
packages have to acknowledge before the job begins. -/
def State.enqueueCard (s : State) (b : Nat) (owner : Nat) (start : Nat) (counter : Bool) (acks : List Nat) : State :=
  match s.launch? owner with
  | none => s
  | some o =>
    let l : Launch :=
      { lseq := s.lseqCounter, kind := .job, queue := o.queue, priority := if counter then 3 else o.priority, privileged := o.privileged, space := o.space
        traps := o.traps, kernelAddr := cardKernel b, args := cardBase b, recordBytes := 16 * cardSize b, gridX := cardCount b, acquire := 4
        storeBase := o.storeBase, storeArea := o.storeArea, storeAreas := o.storeAreas, barrierBase := o.barrierBase
        barrierEntries := o.barrierEntries, rejected := cardBad b, owner := some o.areaOwner, acks := acks, counter := if bitsOf b 220 1 = 1 then some (bitsOf b 208 12) else none }
    let k := sliceOf (cardKey b)
    let card : Card := { lseq := l.lseq, start := start, next := 0, total := cardCount b }
    { s with
      lseqCounter := s.lseqCounter + 1, launches := s.launches ++ [l]
      segments := Sparse.set [] s.segments k (Sparse.get [] s.segments k ++ [card]) }

def State.counter (s : State) (n : Nat) : LaunchCounter := Sparse.get {} s.counters n

/-- A counter at its new value: armed and at 0, it dispatches its card and is cleared (R424). -/
def State.counterSet (s : State) (n : Nat) (c : LaunchCounter) : State :=
  if c.armed && decide (c.value = 0) then
    ({ s with counters := Sparse.set {} s.counters n {} } : State).enqueueCard (ofBytes c.card) c.launch 0 true c.acks
  else { s with counters := Sparse.set {} s.counters n c }

/-- A decrement (R424): none where it would leave the signed range. -/
def State.decrement (s : State) (n : Nat) : Option State :=
  let c := s.counter n
  if c.value - 1 < -2 ^ 31 then none else some (s.counterSet n { c with value := c.value - 1 })

/-- A job over (R459): its owner marked failed where it failed, its counter lowered. -/
def State.finishJob (s : State) (l : Launch) (failed : Bool) : State :=
  let s1 := s.updLaunch l.lseq (fun m => { m with done := true, failed := failed })
  let s2 := match l.owner with
    | some o => if failed then s1.updLaunch o (fun m => { m with failed := true }) else s1
    | none => s1
  match l.counter with
  | some n => (s2.decrement n).getD s2
  | none => s2

/-- The first card of a segment in arrival order whose start time has come. -/
def State.cardOf (s : State) (slice : Nat) : Option Card := (Sparse.get [] s.segments slice).find? (fun c => decide (s.tide.toNat ≥ c.start))

/-- The die of a slice (R14). -/
def sliceDie (slice : Nat) : Nat := slice / 16

/-- A job's kernel: as read before, or read now; none where the job fails (R459), as one of a card that breaks R457 does. -/
def State.jobKernel (s : State) (l : Launch) : Option Kernel :=
  if l.rejected then none
  else match l.kernel with
  | some k => some k
  | none => (s.readKernel l.space l.kernelAddr).filter (fun k => !l.rejects k)

/-- A core finds work of its own (R458): a chunk in the segments of its die's slices, or a workgroup of an active launch that fits it. -/
def State.findsWork (s : State) (core : Nat) : Bool :=
  (List.range 16).any (fun i => (s.cardOf (16 * dieOf core + i)).isSome) ||
    s.launches.any (fun m => match m.nextWgid, m.kernel with | some _, some k => (s.placeOn core k).isSome && s.areaOk m | _, _ => false)

/-- A core may take a chunk of a slice's card (R458): it has none, it has room, and for another die's slice 2 µs have passed in which it
found nothing else (`Core.gainsRoom`). -/
def State.mayTake (s : State) (core slice : Nat) : Bool :=
  let c := s.core core
  c.chunk.isNone && decide (core < Config.cores) && decide (slice < sliceCount) &&
    (match (s.cardOf slice).bind (fun d => s.launch? d.lseq) with
      | none => false
      | some l => !s.storesOut l && !s.awaitsLine (.launch l.lseq) &&
        (match s.jobKernel l with | none => true | some k => (s.placeOn core k).isSome && s.areaOk l) &&
          (decide (dieOf core = sliceDie slice) ||
            (decide (s.tide.toNat ≥ c.idleSince + 2000) && !s.findsWork core)))

/-- The size of a chunk (R458): `dies` are the owning one and those that have taken a chunk of the card before (DEDUCED, log 16). -/
def chunkSize (remaining dies : Nat) : Nat := max 1 ((remaining + 2 * (192 * dies) - 1) / (2 * (192 * dies)))

/-- A chunk taken, once the job's descriptor is there. -/
def State.takeChunk (s : State) (core slice : Nat) : State :=
  match s.cardOf slice with
  | none => s
  | some d => match s.launch? d.lseq with
    | none => s
    | some l =>
      let put (s : State) (g : List Card → List Card) : State :=
        ({ s with segments := Sparse.set [] s.segments slice (g (Sparse.get [] s.segments slice)) } : State).readOver (fun r => decide (r = .launch l.lseq))
      if l.kernel.isNone && !l.rejected && !(s.launchLacks l).isEmpty then s.askLines (.launch l.lseq) (s.launchLacks l) else
      match s.jobKernel l with
      | none => (put s (fun q => q.filter (fun c => c.lseq ≠ d.lseq))).finishJob l true
      | some k =>
        let die := dieOf core
        let others := if die = sliceDie slice || d.otherDies.contains die then d.otherDies else d.otherDies ++ [die]
        let n := chunkSize (d.total - d.next) (1 + d.otherDies.length)
        let e := min d.total (d.next + n)
        let s1 := put s (fun q => if e ≥ d.total then q.filter (fun c => c.lseq ≠ d.lseq) else q.map (fun c => if c.lseq = d.lseq then { c with next := e, otherDies := others } else c))
        (s1.updLaunch l.lseq (fun m => { m with kernel := some k })).updCore core (fun c => { c with chunk := some (l.lseq, d.next, e), idleSince := s.tide.toNat })

/-- CHUNK_TAKE (R458). -/
def execChunkTake (core slice : Nat) (s : State) : Host.Outcome State Fault Refusal :=
  if s.mayTake core slice then .next (s.takeChunk core slice) else .next s

/-! Ends. -/

/-- A request is an atomic of a workgroup, at another package's home. -/
def RequestKind.atomicOf (key : Nat) : RequestKind → Bool
  | .atomic wg .. => decide (wg = key)
  | _ => false

/-- A workgroup's last fibre has ended, and its operations have completed or stopped with a fault (R86 step 1); the homes of its atomics have answered, since
a poisoned word that a `RED` met is reported at the end (R246). -/
def State.wgDone (s : State) (w : Workgroup) : Bool :=
  let c := s.core w.core
  w.fibres.isEmpty && w.parked.isNone && decide (w.preempt ≠ .saved) && !c.loads.any (fun p => p.wg = w.key) && !s.multi.any (fun m => m.wg = w.key) &&
    !s.barrierAsked w.key && !s.requests.any (fun q => q.kind.atomicOf w.key) && !c.copyQ.any (fun e => e.wg = w.key && e.fault.isNone) &&
    !c.easelQ.any (fun e => e.wg = w.key && e.fault.isNone)

/-- A workgroup ends (R86, R468): a deferred fault parks it; otherwise its core writes back at `.SYS`, and everything is released. -/
def State.endWg (s : State) (w : Workgroup) : State :=
  match w.deferred with
  | d :: _ => s.deliver w.key d
  | [] =>
    let s1 := (s.wgRelease w).releaseCore w
    let base := w.scratchBase
    let size := (s.kernelOf w).scratchBytes
    let s2 := ({ s1 with wgs := s1.wgs.filter (fun x => x.key ≠ w.key) } : State).updCore w.core (fun c => { c with
      ringDone := c.ringDone.filter (fun r => !decide (base ≤ r.1 ∧ r.1 < base + size)), idleSince := s.tide.toNat })
    let s3 := s2.updLaunch w.launch (fun l => { l with ended := l.ended + 1, hinted := if w.hinted then l.hinted else l.hinted + 1 })
    if w.preempt = .running then s3 else s3.setPstat w.preemptBy (2 + (s3.agent w.preemptBy).pstat.toNat / 8 % 2 * 8)

/-- WORKGROUP_END (R86). -/
def execWorkgroupEnd (wg : Nat) (s : State) : Host.Outcome State Fault Refusal :=
  match s.wg? wg with
  | none => .next s
  | some w => if s.wgDone w then .next (s.endWg w) else .next s

/-- A packet that a launch or a job has sent is still to be acknowledged (R252). -/
def State.packetsOut (s : State) (l : Launch) : Bool := s.packets.any (fun p => p.sender.any (fun e => decide (e.1 = l.lseq)) && p.awaited)

/-- A job's last workgroup has ended, and every effect of R252 has been performed (R459). -/
def State.jobOver (s : State) (l : Launch) : Bool :=
  decide (l.kind = .job) && !l.done && l.readmit.isEmpty && decide (l.ended ≥ l.total) && !s.packetsOut l && !s.storesOut l

/-- JOB_COMPLETE (R459). -/
def execJobComplete (launch : Nat) (s : State) : Host.Outcome State Fault Refusal :=
  match s.launch? launch with
  | none => .next s
  | some l => if s.jobOver l then .next (s.finishJob l l.failed) else .next s

/-- The conditions of R462. -/
def State.launchOver (s : State) (l : Launch) : Bool :=
  decide (l.kind ≠ .job) && !l.done && l.kernel.isSome && l.readmit.isEmpty && decide (l.ended ≥ l.total) &&
    s.launches.all (fun m => decide (m.owner ≠ some l.lseq) || m.done) &&
    s.counters.all (fun e => !(e.2.armed && decide (e.2.launch = l.lseq))) &&
    !s.packetsOut l && !s.storesOut l

/-- Fibres in `WAITPRED` for a launch move on, with the acquire of their packet (R461). -/
def State.predDone (s : State) (lseq : Nat) : State :=
  s.wgs.foldl (fun t w =>
    match t.launch? w.launch with
    | some l =>
      if l.predecessor = some lseq && w.fibres.any (fun x => x.wait = .waitpred) then
        let t1 := t.wakeWg w.key (fun x => decide (x.wait = .waitpred)) Fibre.next
        if l.predScope = 7 then t1 else t1.acquire w.core l.predScope
      else t
    | none => t) s

/-- LAUNCH_COMPLETE (R462, R463): the signal is written, then waiting fibres of the successor go on. -/
def execLaunchComplete (launch : Nat) (s : State) : Host.Outcome State Fault Refusal :=
  match s.launch? launch with
  | none => .next s
  | some l =>
    if !s.launchOver l then .next s
    else
      let s1 := (s.signalLaunch l (if l.failed then 2 else 1)).updLaunch launch (fun m => { m with done := true, active := false })
      .next (s1.predDone launch)

/-! The instructions (R460, R461). -/

/-- A 32-byte card read as an `LD.G` of a lane (R434, R460): canonical, aligned, then R203 and poison. -/
def State.readCard (s : State) (c : Ctx) (x : Fibre) (a : Nat) (code : BitVec 9) : Except FaultInfo (Nat × State) :=
  if a % 32 ≠ 0 ∧ canonical a then .error (c.leadFault x 9 a 32)
  else match s.place c.core c.wg c.kernel 0 c.launch.space a 32 1 with
    | .error e => .error (c.leadFault x e.cls a 32 e.cause)
    | .ok p =>
      let (v, s1) := State.readWords c.core 0 0 4 8 p s
      if v.any (fun b => b.2) then .error (c.leadFault x 11 (a + v.findIdx (fun b => b.2)) code.toNat)
      else .ok (ofBytes (v.map (fun b => b.1)), s1.noteTlb c.launch.space a)

/-- The card of a `TASK` after its release. -/
def Ctx.taskCard (c : Ctx) (x : Fibre) (t : State) : Except FaultInfo (Nat × State) :=
  match (t.release c.core 4).readCard c x (src64 c x c.f.srcA).toNat c.f.srcA with
  | .error e => .error e
  | .ok (b, u) => if cardBad b then .error (c.leadOperand x c.f.srcA) else .ok (b, u)

/-- A `TASK` may issue: the card's segment has room, or the card is at fault (R460). -/
def Ctx.taskReady (c : Ctx) (s : State) : Bool :=
  match c.passing with
  | [] => true
  | x :: _ => match c.taskCard x s with | .error _ => true | .ok (b, _) => s.segmentRoom (cardKey b)

/-- The body of `TASK` and `TASK.T`. -/
def taskBody (start : Ctx → Fibre → Nat) (c : Ctx) (x : Fibre) (t : State) : Except FaultInfo State :=
  match c.taskCard x t with
  | .error e => .ok ((t.release c.core 4).parkBatch c e)
  | .ok (b, u) =>
    if !t.segmentRoom (cardKey b) then .ok t
    else .ok ((((u.enqueueCard b c.launch.areaOwner (start c x) false u.openStores).commits c true).lanewise c id).holdStores c)

/-- `TASK` (R460). -/
def execTask (f : Fields) (s : State) : Host.Outcome State Fault Refusal := runOnce 0x170 (.task f false) f s (taskBody (fun _ _ => 0))
/-- `TASK.T` (R460). -/
def execTaskT (f : Fields) (s : State) : Host.Outcome State Fault Refusal :=
  runOnce 0x171 (.task f true) f s (taskBody (fun c x => (src64 c x c.f.srcC).toNat))

/-- `HINTS` (R460). -/
def execHints (f : Fields) (s : State) : Host.Outcome State Fault Refusal :=
  runOnce 0x172 (.hints f) f s fun c _ t =>
    let u := if c.wg.hinted then t
      else (t.updWg c.wg.key (fun w => { w with hinted := true })).updLaunch c.launch.lseq (fun l => { l with hinted := l.hinted + 1 })
    .ok (u.lanewise c id)

/-- `WAITPRED` (R461): a waiting state; its fibres go on at once where there is no predecessor or it has completed. -/
def execWaitpred (f : Fields) (s : State) : Host.Outcome State Fault Refusal :=
  runBatch 0x173 (.hints f) f s fun c t =>
    if c.passing.isEmpty then .ok (t.lanewise c id)
    else
      let u := t.updLanes c (fun x => if passes c.f x then x.sleep .waitpred c.launch.lseq 0 0 0 t.tide.toNat else x.next)
      if !t.predIs c.launch (fun p => p.done) then .ok u
      else
        let v := u.wakeWg c.wg.key (fun x => decide (x.wait = .waitpred) && c.active x) Fibre.next
        .ok (if c.launch.predScope = 7 then v else v.acquire c.core c.launch.predScope)

end Sys2Proof.Machine
end

