-- ==== Sys2Proof/Machine/Packet.lean ====
section
/-! DEFINITION. The 64-byte header of a packet and its hop entries (R415 to R417), as a number. -/

namespace Sys2Proof.Machine

def pkNext (h : Nat) : Nat := bitsOf h 4 3
def pkEntries (h : Nat) : Nat := bitsOf h 7 4
def pkMember (h : Nat) : Nat := bitsOf h 11 5
def pkFmt (h : Nat) : Nat := bitsOf h 16 4
def pkLength (h : Nat) : Nat := 16 * bitsOf h 20 13
def pkChunk (h : Nat) : Nat := bitsOf h 64 32
/-- Hop entry `i`. -/
def pkHop (h i : Nat) : Nat := bitsOf h (128 + 48 * i) 48

/-- A field of a header replaced. -/
def setField (h lo n v : Nat) : Nat := h - bitsOf h lo n * 2 ^ lo + v % 2 ^ n * 2 ^ lo

def pkSetNext (h v : Nat) : Nat := setField h 4 3 v
def pkSetPayload (h fmt bytes : Nat) : Nat := setField (setField h 16 4 fmt) 20 13 (bytes / 16)

def hopKind (e : Nat) : Nat := bitsOf e 0 4
def hopBrush (e : Nat) : Nat := bitsOf e 7 6
def hopGroup (e : Nat) : Nat := bitsOf e 19 8
def hopOffset (e : Nat) : Nat := 512 * bitsOf e 27 21
/-- The packets a reduce entry combines. -/
def hopCount (e : Nat) : Nat := bitsOf e 13 5 + 1

/-- An entry that R417 calls malformed. -/
def hopMalformed (e : Nat) : Bool :=
  match hopKind e with
  | 1 => decide (e / 2 ^ 19 ≠ 0)
  | 2 => decide (e / 2 ^ 10 ≠ 0)
  | 3 => decide (e / 2 ^ 13 ≠ 0)
  | 4 => decide (bitsOf e 4 3 > 3)
  | 5 => decide (bitsOf e 4 3 ≠ 0) || decide (bitsOf e 14 5 ≠ 0)
  | 6 => decide (bitsOf e 4 3 ≠ 0) || decide (bitsOf e 13 4 > 1) || decide (e / 2 ^ 17 ≠ 0)
  | 7 => decide (bitsOf e 4 15 ≠ 0)
  | 8 => decide (e / 2 ^ 16 ≠ 0)
  | _ => true

/-- A malformed header (R417). -/
def pkMalformed (h : Nat) : Bool :=
  decide (bitsOf h 0 4 ≠ 1) || decide (pkEntries h = 0) || decide (pkEntries h > 8) || decide (pkNext h ≥ pkEntries h) ||
    decide (bitsOf h 33 31 ≠ 0) || decide (bitsOf h 96 32 ≠ 0) || !([0, 1, 8, 12].contains (pkFmt h)) ||
    decide (pkLength h = 0) || decide (pkLength h > 65536) ||
    (List.range 8).any (fun i => if i < pkEntries h then hopMalformed (pkHop h i) else decide (pkHop h i ≠ 0))

/-- An entry names a package brush. -/
def hopNames (e b : Nat) : Bool :=
  ((decide (hopKind e = 4) && decide (bitsOf e 4 3 = 3)) || decide (hopKind e = 5) || decide (hopKind e = 6)) && decide (hopBrush e = b)

/-- A header's entries from `next` on name a package brush. -/
def pkNames (h b : Nat) : Bool := (List.range (pkEntries h)).any (fun i => decide (i ≥ pkNext h) && hopNames (pkHop h i) b)

end Sys2Proof.Machine
end

