-- ==== Sys2Proof/Machine/Fabric.lean ====
section
/-! DEFINITION. The collective engines: group windows (R419), the Cove (R414), the hop actions (R418 to R425), and what arrives at the
Colnal and Strand ports (R438 to R442). -/

namespace Sys2Proof.Machine

/-! Group windows (R419). -/

/-- The places of `n` pieces of `step` bytes from an address of space 0, with a permission (bit of the leaf): none where one does not
translate with it. -/
def State.windowPlaces (s : State) (perm step : Nat) : Nat → Nat → Option (List (Nat × Attr))
  | 0, _ => some []
  | n + 1, va =>
    match s.translate 0 (va % 2 ^ 64) with
    | .error _ => none
    | .ok (pa, leaf) =>
      if pte leaf perm 1 = 0 then none
      else (s.windowPlaces perm step n (va + step)).map (fun t => (pa, attrOf leaf pa) :: t)

/-- The places of a part of the window of a group, as its CSRs stood for the operation: none where the group is not valid or the part passes the window's
end. -/
def State.windowPart (s : State) (q : Group) (off perm step n : Nat) : Option (List (Nat × Attr)) :=
  if q.ctl.toNat % 2 = 0 ∨ off + step * n > q.len.toNat * 2 ^ 21 then none else s.windowPlaces perm step n (q.va.toNat + off)

/-- Bytes of a group's window read at their homes; none where one fails or is poisoned. -/
def State.windowRead (s : State) (q : Group) (off step n : Nat) : Option (List Byte) :=
  match s.windowPart q off 2 step n with
  | none => none
  | some places =>
    if places.any (fun p => (s.homeRead p.1 step).2) then none else some (places.flatMap (fun p => (s.homeRead p.1 step).1))

/-- The lines of other packages that a read of a window needs and that have not come for its reader (R419; log 18). -/
def State.windowLacks (s : State) (who : Reader) (q : Group) (off step n : Nat) : List Nat :=
  s.lacking who (((s.windowPart q off 2 step n).getD []).map (fun p => p.1 / 128))

/-- Bytes written at their places in pieces. -/
def State.writePieces (step : Nat) : List (Nat × Attr) → List Byte → State → State
  | [], _, s => s
  | p :: t, bytes, s => State.writePieces step t (bytes.drop step) (s.homePut p.2 p.1 (bytes.take step))

/-- Bytes written to a group's window at their homes, 4-byte words of them poisoned; none, and nothing written, where one fails. -/
def State.windowWrite (s : State) (q : Group) (off step : Nat) (bytes : List Byte) (poison : List Nat) : Option State :=
  (s.windowPart q off 3 step (bytes.length / step)).map (fun places =>
    State.poisonWords (poison.filterMap (fun i => (places[4 * i / step]?).map (fun p => (p.1 + 4 * i % step) / 4))) (State.writePieces step places bytes s))

/-! Payload elements. -/

def payloadFmt (fmt : Nat) : Fmt := if fmt = 1 then .bf16 else .f32
def payloadBytes (fmt : Nat) : Nat := if fmt = 1 then 2 else 4

/-- Elements of `n` bytes each. -/
def elementsOf (n : Nat) : Nat → List Byte → List Nat
  | 0, _ => []
  | k + 1, bytes => ofBytes (bytes.take n) :: elementsOf n k (bytes.drop n)

/-- The elements of a payload in its format. -/
def payloadElems (fmt : Nat) (bytes : List Byte) : List Nat := elementsOf (payloadBytes fmt) (bytes.length / payloadBytes fmt) bytes

/-! Reduction (R420). -/

/-- One element combined: operation, the brush of operation 3, format. None where the brush faults. -/
def combineElem (op : Nat) (b : Option Brush) (fmt x y : Nat) : Option Nat :=
  match op with
  | 0 => some (if fmt = 12 then (x + y) % 2 ^ 32 else (fAdd (payloadFmt fmt) .rn ((payloadFmt fmt).value x) ((payloadFmt fmt).value y)).1)
  | 3 => b.bind (fun b => match b.apply 0 x y b.base with | .ok r => some r.1 | .error _ => none)
  | k =>
    if fmt = 12 then some (if (decide (signedOf 32 x ≤ signedOf 32 y)) != decide (k = 2) then x else y)
    else some (fMinMax (payloadFmt fmt) (k = 2) false x y)

/-- Two payloads combined element by element. -/
def combineAll (op : Nat) (b : Option Brush) (fmt : Nat) : List Nat → List Nat → Option (List Nat)
  | x :: t, y :: u => match combineElem op b fmt x y, combineAll op b fmt t u with
    | some v, some r => some (v :: r)
    | _, _ => none
  | _, _ => some []

/-- The payloads of packets folded in order into an accumulator. -/
def combinePackets (op : Nat) (b : Option Brush) (fmt : Nat) : List Packet → Option (List Nat) → Option (Option (List Nat))
  | [], acc => some acc
  | p :: t, none => combinePackets op b fmt t (some (payloadElems fmt p.payload))
  | p :: t, some acc => match combineAll op b fmt acc (payloadElems fmt p.payload) with
    | none => none
    | some r => combinePackets op b fmt t (some r)

/-- Elements whose combination by a brush, over the packets in order, uses a word in error of it (R484). -/
def packetTaints (b : Brush) (bad : List Nat) (fmt : Nat) : List Packet → Option (List Nat) → List Nat
  | [], _ => []
  | p :: t, none => packetTaints b bad fmt t (some (payloadElems fmt p.payload))
  | p :: t, some acc =>
    let xs := payloadElems fmt p.payload
    ((acc.zip xs).zipIdx.filter (fun e => b.taints bad e.1.1 e.1.2 b.base)).map (fun e => e.2) ++
      packetTaints b bad fmt t (combineAll 3 (some b) fmt acc xs)

/-- A packet put into its place in the order of R420: by source member, then arrival; for a commutative brush by arrival alone. -/
def insertPacket (byArrival : Bool) (p : Packet) : List Packet → List Packet
  | [] => [p]
  | q :: t =>
    let before : Bool :=
      if byArrival then decide (p.order < q.order)
      else decide (pkMember p.header < pkMember q.header) || (decide (pkMember p.header = pkMember q.header) && decide (p.order < q.order))
    if before then p :: q :: t else q :: insertPacket byArrival p t

/-! Compression (R421, R422). -/

/-- The codebook of a package brush: entries 0 to 15 of its table as FP32 values; none without a table. -/
def State.packetBook (s : State) (h : Nat) : Option (List Word) :=
  match Sparse.get none s.pkgBrushes h with
  | some (b, _) => if b.table.isEmpty then none else some (b.table.take 16)
  | none => none

/-- The value of entry `i`. -/
def bookValue (tab : List Word) (i : Nat) : XReal := Fmt.f32.value (tab.getD i 0).toNat

/-- The exponent *E* of R421: of the largest finite magnitude; none where no finite entry has one. -/
def bookExponent (tab : List Word) : Option Int :=
  (List.range 16).foldl (fun (best : Option Int) i =>
    match bookValue tab i with
    | .fin n (m + 1) e =>
      let v := (XReal.fin n (m + 1) e).floorLog2
      some (match best with | some b => max b v | none => v)
    | _ => best) none

/-- The scale of a block. -/
def blockScale (ex : Int) (block : List XReal) : Nat :=
  if block.any (fun x => x.isNan || x.isInf) then 255
  else
    let tops := block.filterMap (fun x => if x.isZero then none else some x.floorLog2)
    match tops with
    | [] => 0
    | t :: r => (max 0 (min 254 (r.foldl max t - ex + 127))).toNat

/-- A block compressed: its codes, and what is left of each element. -/
def blockCodes (tab : List Word) (scale : Nat) (block : List XReal) : List (Nat × Nat) :=
  block.map fun x =>
    if scale = 255 then (0, 0)
    else
      let k : Int := scale - 127
      let code := (cbq (Fmt.f32.value (roundTo .f32 .rn false (x.scaled (-k))).1) (bookValue tab)).1
      (code, (roundTo .f32 .rn false (addX .rn x ((bookValue tab code).scaled k).neg).1).1)

/-- Blocks of 64 elements. -/
def blocksOf {α : Type} : Nat → List α → List (List α)
  | 0, _ => []
  | n + 1, l => l.take 64 :: blocksOf n (l.drop 64)

/-- Codes two to a byte, the even element low. -/
def packCodes : List Nat → List Byte
  | a :: b :: t => BitVec.ofNat 8 (a % 16 + 16 * b) :: packCodes t
  | _ => []

/-- Zero bytes up to a multiple of 16. -/
def padTo16 (bytes : List Byte) : List Byte := bytes ++ List.replicate ((16 - bytes.length % 16) % 16) 0

/-- A payload compressed, with the residuals: none where the entry fails. -/
def compress (tab : List Word) (fmt : Nat) (payload : List Byte) (residual : Option (List Nat)) : Option (List Byte × List Nat) :=
  let xs := (payloadElems fmt payload).map (payloadFmt fmt).value
  match bookExponent tab with
  | none => none
  | some ex =>
    if fmt = 8 ∨ fmt = 12 ∨ xs.length % 64 ≠ 0 then none
    else
      let ys := match residual with
        | none => xs
        | some r => (xs.zip r).map (fun e => Fmt.f32.value (fAdd .f32 .rn e.1 (Fmt.f32.value e.2)).1)
      let done := (blocksOf (ys.length / 64) ys).map (fun b => let sc := blockScale ex b; (sc, blockCodes tab sc b))
      let codes := done.flatMap (fun d => d.2)
      some (padTo16 (packCodes (codes.map (fun c => c.1)) ++ done.map (fun d => BitVec.ofNat 8 d.1)), codes.map (fun c => c.2))

/-- The code of an element of a compressed payload, and the scale of its block among `n` elements (R422). -/
def codeOf (payload : List Byte) (i : Nat) : Nat := (payload.getD (i / 2) 0).toNat / 16 ^ (i % 2) % 16
def scaleOf (payload : List Byte) (n i : Nat) : Nat := (payload.getD (n / 2 + i / 64) 0).toNat

/-- A compressed payload expanded into a format: none where it holds no block or the result is longer than a packet. -/
def expandPayload (tab : List Word) (fmt : Nat) (payload : List Byte) : Option (List Byte) :=
  let n := 64 * (payload.length / 33)
  if n = 0 ∨ n * payloadBytes fmt > 65536 then none
  else
    let f := payloadFmt fmt
    some ((List.range n).flatMap fun i =>
      let sc := scaleOf payload n i
      let v : XReal := if sc = 255 then .nan else (bookValue tab (codeOf payload i)).scaled ((sc : Int) - 127)
      bytesOf (payloadBytes fmt) (roundTo f .rn false v).1)

/-- The codebook of a package brush has a word in error: the header's first, or one of entries 0 to 15 of the table (R361, R421, R484). -/
def bookBad (bad : List Nat) : Bool := bad.any (fun n => decide (n = 0) || (decide (32 ≤ n) && decide (n < 40)))

/-- The blocks of 64 elements that poisoned words of a payload lie in; every one where the codebook has a word in error. -/
def taintedBlocks (bytes : Nat) (poison : List Nat) (brush : Bool) (blocks : Nat) : List Nat :=
  if brush then List.range blocks else distinct (poison.map (fun w => 4 * w / bytes / 64))

/-- The words of `n` elements compressed that come from blocks: their codes and their scale. -/
def compressedWords (n : Nat) (blocks : List Nat) : List Nat :=
  distinct (blocks.flatMap (fun b => (List.range 8).map (fun i => 8 * b + i) ++ [(n / 2 + b) / 4]))

/-- The words of `n` expanded elements of `bytes` that come from poisoned words of codes or scales, or from a word in error of the codebook. -/
def expandedWords (n bytes : Nat) (payload : List Byte) (poison bad : List Nat) : List Nat :=
  let entry (i : Nat) : Bool := bad.contains 0 || (decide (scaleOf payload n i ≠ 255) && bad.contains (32 + codeOf payload i / 2))
  distinct (((List.range n).filter (fun i => entry i || poison.contains (i / 8) || poison.contains ((n / 2 + i / 64) / 4))).map (fun i => bytes * i / 4))

/-! Packets of a package. -/

/-- A packet replaced, by its arrival number. -/
def State.updPacket (s : State) (n : Nat) (g : Packet → Packet) : State := { s with packets := s.packets.map (fun p => if p.order = n then g p else p) }
def State.dropPackets (s : State) (gone : Packet → Bool) : State := { s with packets := s.packets.filter (fun p => !gone p) }

/-- An entry fails: its packet is dropped and counted (R425). -/
def State.failPacket (s : State) (p : Packet) : State := { s.dropPackets (fun q => q.order = p.order) with drops := s.drops + 1 }

/-- An entry done: the packet goes on, or retires after its last (R418). -/
def State.advance (s : State) (p : Packet) : State :=
  let next := pkNext p.header + 1
  if next ≥ pkEntries p.header then s.dropPackets (fun q => q.order = p.order)
  else s.updPacket p.order (fun q => { q with header := pkSetNext p.header next, payload := p.payload, poison := p.poison, waiting := false, acks := [] })

/-- An entry that has written is done, once other packages have performed what it wrote there (R418). -/
def State.performed (before s : State) (p : Packet) : State :=
  let out := s.openStores.filter (fun n => decide (before.nextKey ≤ n))
  if out.isEmpty then s.advance p else s.updPacket p.order (fun q => { p with waiting := q.waiting, acks := out })

/-- A packet's bytes as it leaves with its remaining entries: header, then payload. -/
def Packet.wire (p : Packet) : List Byte := bytesOf 64 (pkSetNext p.header (pkNext p.header + 1)) ++ p.payload

/-- The plane of a packet that may take any (R416). -/
def anyPlane (p : Packet) : Nat := pkChunk p.header % 32

/-! Colnal ports (R16, R438). -/

/-- The port has credit for a flit on a channel: what its training and the other end have granted, less what it has spent. -/
def Link.credit (l : Link) (port channel : Nat) : Bool :=
  decide (Sparse.get 0 l.spent channel < Config.linkCredits port channel + Sparse.get 0 l.granted channel)

/-- The tag of a request that a flit carries to another package's home. -/
def Flit.request : Flit → Option Nat
  | .load tag .. | .store tag .. | .atomic tag .. | .barrier tag _ => some tag
  | _ => none

/-- A flit may leave: a request only once the earlier ones of its line are answered, where it or one of them writes, so that the home performs them in
the package's order (log 18). -/
def State.mayLeave (s : State) (f : Flit) : Bool :=
  match f.request.bind (fun tag => s.requests.find? (fun r => r.tag = tag)) with
  | none => true
  | some r => !s.requests.any (fun q => decide (q.tag < r.tag) && decide (q.line = r.line) && (q.kind.writes || r.kind.writes))

/-- The oldest flit of a channel with credit that may leave does, and is kept for a retry. -/
def State.sendFlit (s : State) (port : Nat) : State :=
  let l := s.link port
  match l.queue.find? (fun e => l.credit port e.1 && s.mayLeave e.2) with
  | none => s
  | some (ch, f) =>
    (s.updLink port (fun l => { l with
      queue := l.queue.erase (ch, f), spent := Sparse.set 0 l.spent ch (Sparse.get 0 l.spent ch + 1), next := l.next + 1
      retry := l.retry ++ [(l.next, ch, f)] })).say (.flit port l.next ch f)

/-- Flits of a port sent while any can be. -/
def State.drainLink (port : Nat) : Nat → State → State
  | 0, s => s
  | n + 1, s => State.drainLink port n (s.sendFlit port)

/-- Every port that has trained sends what it has credit for. -/
def State.settleLinks (s : State) : State := if s.linksDown then s else s.links.foldl (fun t e => State.drainLink e.1 e.2.queue.length t) s

/-- Flits of a port sent again from a number on: a black-box entry of kind 4 with the port and a count for each (R438, R403). -/
def State.sendAgain (s : State) (port number : Nat) : State :=
  ((s.link port).retry.filter (fun e => e.1 ≥ number)).foldl (fun t e =>
    (({ t with colnalRetries := t.colnalRetries + 1 } : State).log 4 0x3FF 0 0 0 port 0).say (.flit port e.1 e.2.1 e.2.2)) s

/-- The flits of a packet to a package: 256 bytes each, with the words of the payload in them that are poisoned. -/
def packetFlits (order package : Nat) (bytes : List Byte) (poison : List Nat) : List Flit :=
  let n := (bytes.length + 255) / 256
  (List.range n).map (fun i => .part order package (decide (i + 1 = n)) ((bytes.drop (256 * i)).take 256) (poison.filter (fun w => (64 + 4 * w) / 256 = i)))

/-- A copy operation changed where it stands, on its core or in a saved workgroup. -/
def State.updCopy (s : State) (id : Nat) (g : CopyEntry → CopyEntry) : State :=
  let mark (q : List CopyEntry) : List CopyEntry := q.map (fun e => if e.id = id then g e else e)
  { s with
    cores := s.cores.map (fun e => (e.1, { e.2 with copyQ := mark e.2.copyQ }))
    wgs := s.wgs.map (fun w => { w with saved := w.saved.map (fun v => { v with copyQ := mark v.copyQ }) }) }

/-- The `PSEND` that sent a packet has had one leave the package (R433). -/
def State.wentAway (s : State) (p : Packet) : State :=
  match p.fromEntry with
  | none => s
  | some id => s.updCopy id (fun e => { e with away := true })

/-- A packet put on a plane to a package; it waits for the acknowledgement of the port that receives it (R433, R438). -/
def State.sendColnal (s : State) (p : Packet) (package plane : Nat) : State :=
  ((packetFlits p.order package p.wire p.poison).foldl (fun t f => t.queueFlit plane 3 f) (s.wentAway p)).updPacket p.order (fun q => { q with awaitAck := true })

/-! Strand peers (R439 to R442). -/

def State.peer (s : State) (k : Nat) : Peer := Sparse.get {} s.peers k
def State.updPeer (s : State) (k : Nat) (g : Peer → Peer) : State := { s with peers := Sparse.set {} s.peers k (g (s.peer k)) }

/-- The fields of a peer entry as management writes them (R439, log 15): the replay window less one in MiB, 1 to 256; the Strand port, 0 to 7; the
MAC address, 6 bytes; the secure channels. -/
def entryWindow (entry : List Byte) : Nat := ((entry.headD 0).toNat + 1) * 2 ^ 20
def entryPort (entry : List Byte) : Nat := (entry.getD 1 0).toNat
def entryMac (entry : List Byte) : List Byte := (entry.drop 2).take 6

/-- The EtherType of Strand frames (R439). -/
def etherType : Nat := 0x88B5

/-- The replay window of a peer in bytes, and what it holds. -/
def Peer.window (p : Peer) : Nat := entryWindow p.entry
def Peer.held (p : Peer) : Nat := p.unacked.foldl (fun n e => n + e.bytes.length) 0

/-- A packet's segments of up to 8,192 payload bytes with the packet's offset of each, the header before the first. -/
def Packet.segments (p : Packet) : List (Nat × List Byte) :=
  let head := p.wire.take 64
  (List.range (max 1 ((p.payload.length + 8191) / 8192))).map (fun i =>
    (8192 * i, (if i = 0 then head else []) ++ (p.payload.drop (8192 * i)).take 8192))

/-- A segment leaves in a frame of its entry's port, under the transmit key's next packet number (R440, R477). -/
def State.sendSegment (s : State) (k : Nat) (g : Segment) : State :=
  match (s.peer k).txKeys with
  | [] => s
  | (key, n) :: t => (s.updPeer k (fun q => { q with txKeys := (key, n + 1) :: t })).say (.strand (entryPort g.entry) (entryMac g.entry) etherType k n { g with seq := g.seq % 2 ^ 32 })

/-- A packet sent to a peer: its segments numbered, kept in the replay window, and sent (R439, R441, R477). -/
def State.sendStrand (s : State) (p : Packet) (k : Nat) : State :=
  let q := s.peer k
  let segs := p.segments
  let numbered := segs.zipIdx.map (fun e =>
    ({ seq := q.nextSeq + e.2, offset := e.1.1, last := decide (e.2 + 1 = segs.length), bytes := e.1.2, since := s.tide.toNat, order := p.order
       entry := q.entry, poison := p.poison.filter (fun w => e.1.1 ≤ 4 * w ∧ 4 * w < e.1.1 + 8192) } : Segment))
  let s1 := (s.wentAway p).updPeer k (fun q => { q with
    nextSeq := q.nextSeq + segs.length, lastAck := if q.unacked.isEmpty then s.tide.toNat else q.lastAck, unacked := q.unacked ++ numbered })
  (numbered.foldl (fun t g => t.sendSegment k g) s1).updPacket p.order (fun q => { q with awaitAck := true, peer := some k })

/-- Packets that stand at one reduce entry's chunk, group and offset (R420). -/
def Packet.meets (p q : Packet) : Bool :=
  let e := pkHop p.header (pkNext p.header)
  let d := pkHop q.header (pkNext q.header)
  decide (hopKind e = 4) && decide (hopKind d = 4) && decide (pkChunk q.header = pkChunk p.header) && decide (hopGroup d = hopGroup e) &&
    decide (hopOffset d = hopOffset e)

/-- Lines have been asked for a packet's entry. -/
def State.packetReads (s : State) (p : Packet) : Bool :=
  s.awaitsLine (.packet p.order) || s.fetched.any (fun e => decide (e.1 = .packet p.order))

/-- A packet may be worked on (R413): not waiting, its last entry performed and the lines of this one's window there, with none before it that completes the
same reduction, and a Strand forward has a key to protect its frames and room in its window. -/
def State.packetGoes (s : State) (p : Packet) : Bool :=
  let e := pkHop p.header (pkNext p.header)
  !p.waiting && !p.awaitAck && !p.acks.any s.asked && !s.awaitsLine (.packet p.order) &&
    !s.packets.any (fun q => decide (q.order ≠ p.order) && p.meets q && s.packetReads q) &&
    (decide (hopKind e ≠ 2) ||
      (let q := s.peer (bitsOf e 4 6)
       !q.valid || !q.up || (!q.txKeys.isEmpty && decide (q.held + p.wire.length ≤ q.window))))

/-- A peer marked down (R442): its unacknowledged packets are dropped, each counted. -/
def State.peerDown (s : State) (k : Nat) : State :=
  let gone (p : Packet) : Bool := p.awaitAck && decide (p.peer = some k)
  let n := (s.packets.filter gone).length
  ({ s.dropPackets gone with drops := s.drops + n } : State).updPeer k (fun q => { q with up := false, unacked := [] })

/-- Packets whose segments a peer has all acknowledged leave the package (R433, R441). -/
def State.retireAcked (s : State) (k : Nat) : State :=
  let q := s.peer k
  s.dropPackets (fun p => p.awaitAck && decide (p.peer = some k) && q.unacked.all (fun e => e.order ≠ p.order))

/-- Segments sent again: a black-box entry of kind 4 with the port, and a count, for each (R403, R441). -/
def State.resend (s : State) (k : Nat) (which : Nat → Bool) : State :=
  let again := (s.peer k).unacked.filter (fun e => which e.seq)
  let s1 := s.updPeer k (fun q => { q with unacked := q.unacked.map (fun e => if which e.seq then { e with since := s.tide.toNat } else e) })
  again.foldl (fun t e => ({ t.sendSegment k e with strandRetries := t.strandRetries + 1 } : State).log 4 0x3FF 0 0 0 (entryPort e.entry) 0) s1

/-! The hop actions (R418 to R424). -/

/-- The workgroup that sent a packet from this package has been killed (R414). -/
def State.senderKilled (s : State) (p : Packet) : Bool :=
  p.sender.any (fun e => (s.launch? e.1).any (fun l => l.killed.contains e.2))

/-- Packets that wait at a packet's reduce entry (R420). -/
def State.packetsMet (s : State) (p : Packet) : List Packet := s.packets.filter (fun q => q.waiting && p.meets q)

/-- Lines of other packages that a packet's entry reads of its group's window and that have not come: the old values of a reduction that it completes, and the
residuals of a compression. -/
def State.hopLacks (s : State) (p : Packet) : List Nat :=
  let e := pkHop p.header (pkNext p.header)
  let lacks (n : Nat) : List Nat := s.windowLacks (.packet p.order) (s.group (hopGroup e)) (hopOffset e) 16 n
  match hopKind e with
  | 4 => if bitsOf e 18 1 = 1 ∧ (s.packetsMet p).length + 1 ≥ hopCount e ∧ !s.senderKilled p then lacks (p.payload.length / 16) else []
  | 5 => if bitsOf e 13 1 = 1 then lacks ((payloadElems (pkFmt p.header) p.payload).length / 4) else []
  | _ => []

/-- A packet reaches a reduce entry, or completes it (R420). One of a killed workgroup is dropped there (R414). -/
def State.reduceHop (s : State) (p : Packet) (e : Nat) : State :=
  let fmt := pkFmt p.header
  let op := bitsOf e 4 3
  let brush : Option Brush := (Sparse.get none s.pkgBrushes (hopBrush e)).map (fun b => b.1)
  let brushOk : Bool := match brush with | some b => decide (b.arity = 1 ∧ b.xFmt = fmt ∧ b.yFmt = fmt ∧ b.zFmt = fmt) | none => false
  let held := s.packetsMet p
  if s.senderKilled p then s.dropPackets (fun q => q.order = p.order)
  else if fmt = 8 ∨ (op = 3 ∧ !brushOk) ∨ held.any (fun q => decide (pkFmt q.header ≠ fmt) || decide (q.payload.length ≠ p.payload.length)) then s.failPacket p
  else if held.length + 1 < hopCount e then s.updPacket p.order (fun q => { q with waiting := true })
  else
    let byArrival : Bool := decide (op = 3) && (brush.map Brush.commutative).getD false
    let order := (held ++ [p]).foldl (fun l q => insertPacket byArrival q l) []
    let failAll (s : State) : State := order.foldl State.failPacket s
    let start : Option (Option (List Nat)) :=
      if bitsOf e 18 1 = 0 then some none
      else (s.windowRead (s.group (hopGroup e)) (hopOffset e) 16 (p.payload.length / 16)).map (fun b => some (payloadElems fmt b))
    match start.bind (combinePackets op brush fmt order), order with
    | some (some acc), first :: others =>
      let s1 := s.dropPackets (fun q => others.any (fun o => o.order = q.order))
      let tainted := match brush, start with
        | some b, some acc => if op = 3 then (packetTaints b (badWords s.pkgBrushPoison (hopBrush e)) fmt order acc).map (fun i => payloadBytes fmt * i / 4) else []
        | _, _ => []
      s1.advance { first with payload := acc.flatMap (bytesOf (payloadBytes fmt)), poison := order.foldl (fun l q => q.poison.foldl (fun m w => insertNat w m) l) (distinct tainted) }
    | _, _ => failAll s

/-- A compress entry (R421). -/
def State.compressHop (s : State) (p : Packet) (e : Nat) : State :=
  let fmt := pkFmt p.header
  let n := (payloadElems fmt p.payload).length
  let feedback : Bool := bitsOf e 13 1 = 1
  let old : Option (Option (List Nat)) :=
    if feedback then
      (if (s.windowPart (s.group (hopGroup e)) (hopOffset e) 3 16 (n / 4)).isNone then none
       else (s.windowRead (s.group (hopGroup e)) (hopOffset e) 16 (n / 4)).map (fun b => some (elementsOf 4 n b)))
    else some none
  match s.packetBook (hopBrush e), old with
  | some tab, some r => match compress tab fmt p.payload r with
    | none => s.failPacket p
    | some (bytes, left) =>
      let blocks := taintedBlocks (payloadBytes fmt) p.poison (bookBad (badWords s.pkgBrushPoison (hopBrush e))) (n / 64)
      let residuals := blocks.flatMap (fun b => (List.range 64).map (fun i => 64 * b + i))
      let s1 := if feedback then (s.windowWrite (s.group (hopGroup e)) (hopOffset e) 16 (left.flatMap (bytesOf 4)) residuals).getD s else s
      State.performed s s1 { p with header := pkSetPayload p.header 8 bytes.length, payload := bytes, poison := compressedWords n blocks }
  | _, _ => s.failPacket p

/-- An expand entry (R422). -/
def State.expandHop (s : State) (p : Packet) (e : Nat) : State :=
  let fmt := bitsOf e 13 4
  match s.packetBook (hopBrush e), (if pkFmt p.header = 8 then some p.payload else none) with
  | some tab, some bytes => match expandPayload tab fmt bytes with
    | none => s.failPacket p
    | some out => s.advance { p with
        header := pkSetPayload p.header fmt out.length, payload := out
        poison := expandedWords (out.length / payloadBytes fmt) (payloadBytes fmt) bytes p.poison (badWords s.pkgBrushPoison (hopBrush e)) }
  | _, _ => s.failPacket p

/-- A packet added to those held, under the next arrival number. -/
def State.addPacket (s : State) (header : Nat) (payload : List Byte) (poison : List Nat) (entry : Option Nat) (sender : Option (Nat × Nat)) : State :=
  let p : Packet :=
    { header := header, payload := payload, die := pkChunk header % Config.dies, fromEntry := entry, sender := sender, order := s.nextKey, poison := poison }
  { s with nextKey := s.nextKey + 1, packets := s.packets ++ [p] }

/-- A multicast entry (R418): a copy sent to each other member, and this one going on where it includes itself. -/
def State.multicastHop (s : State) (p : Packet) (e : Nat) : State :=
  let q := s.group (bitsOf e 4 8)
  if q.ctl.toNat % 2 = 0 then s.failPacket p
  else
    let members := ((List.range (bitsOf q.ctl.toNat 1 5 + 1)).map (fun i => Sparse.get 0 q.pkgs i)).filter (fun m => m ≠ Config.package)
    let s1 := members.foldl (fun t m =>
      (t.addPacket p.header p.payload p.poison p.fromEntry p.sender).sendColnal { p with order := t.nextKey } m (anyPlane p)) s
    if bitsOf e 12 1 = 1 then s1.advance p else s1.dropPackets (fun q => q.order = p.order)

/-- A Colnal forward: to another package it leaves; to this one it goes on. -/
def State.forwardHop (s : State) (p : Packet) (e : Nat) : State :=
  let dest := bitsOf e 4 9
  if dest = Config.package then s.advance p else s.sendColnal p dest (if bitsOf e 18 1 = 1 then anyPlane p else bitsOf e 13 5)

/-- A Strand forward: an invalid peer fails the entry, and one marked down drops the packet (R442). -/
def State.strandHop (s : State) (p : Packet) (e : Nat) : State :=
  let k := bitsOf e 4 6
  if !(s.peer k).valid || !(s.peer k).up then s.failPacket p else s.sendStrand p k

/-- The action of a packet's entry `next` (R418). -/
def State.hopAction (s : State) (p : Packet) : State :=
  let e := pkHop p.header (pkNext p.header)
  match hopKind e with
  | 1 => s.forwardHop p e
  | 2 => s.strandHop p e
  | 3 => s.multicastHop p e
  | 4 => s.reduceHop p e
  | 5 => s.compressHop p e
  | 6 => s.expandHop p e
  | 7 => match s.windowWrite (s.group (hopGroup e)) (hopOffset e) 16 p.payload p.poison with
    | some s1 => State.performed s s1 p
    | none => s.failPacket p
  | 8 => match s.decrement (bitsOf e 4 12) with
    | some s1 => s1.advance p
    | none => s.failPacket p
  | _ => s.failPacket p

/-- The entry `next` of a packet applied (R418): its writes at other packages have been performed, or its lines of them are asked for first. -/
def State.hop (s : State) (p : Packet) : State :=
  if !p.acks.isEmpty then s.advance p
  else if !(s.hopLacks p).isEmpty then s.askLines (.packet p.order) (s.hopLacks p)
  else (s.hopAction p).readOver (fun r => decide (r = .packet p.order))

/-- PACKET_HOP (R418): the `i`-th packet held applies its next entry. -/
def execPacketHop (i : Nat) (s : State) : Host.Outcome State Fault Refusal :=
  match s.packets[i]? with
  | none => .next s
  | some p => if s.packetGoes p then .next (s.hop p) else .next s

/-! Arrivals (R414, R425, R438, R441). -/

/-- The Cove can hold an arriving packet of these bytes. -/
def State.coveRoom (s : State) (bytes : List Byte) : Bool :=
  let die := pkChunk (ofBytes (bytes.take 64)) % Config.dies
  decide (s.coveUsed die + (bytes.length - 64) ≤ s.coveBytes die)

/-- A packet that has arrived whole: a malformed one is dropped (R417). -/
def State.arrivePacket (s : State) (bytes : List Byte) (poison : List Nat) : State :=
  let h := ofBytes (bytes.take 64)
  let payload := bytes.drop 64
  if pkMalformed h ∨ payload.length ≠ pkLength h then { s with drops := s.drops + 1 } else s.addPacket h payload poison none none

/-- The atomics that another package may send, by number (R241). -/
def atomicOps : List AtomOp :=
  [.add32, .add64, .addF32, .addBf16x2, .minS, .minU, .maxS, .maxU, .and, .or, .xor, .exch 4, .exch 8, .cas 4, .cas 8, .inc]

/-- An address of this package's memory, which its home serves to other packages. -/
def servedHere (pa n : Nat) : Bool :=
  decide (paPackage pa = Config.package) &&
    (match paTier pa with
      | 0 => decide (paOffset pa + n ≤ Config.hbmBytes)
      | 1 => decide (paOffset pa + n ≤ Config.tierTwoBytes)
      | _ => false)

/-- Another package's atomic performed at the home (R228, R243, R246), its lanes in order: its answer is the word before, with its poison. -/
def State.serveAtomic (s : State) (port tag pa comp : Nat) (o : AtomOp) (lanes : List (Nat × Nat)) : State :=
  let p : Place := .home pa { comp := comp }
  match s.atomRead p o.width with
  | (m, some i) => s.queueFlit port 2 (.answer tag (bytesOf o.width m) [i])
  | (m, none) => (s.atomWrite p o.width (o.group m lanes).2).queueFlit port 2 (.answer tag (bytesOf o.width m) [])

/-- The words of `n` bytes from an address that are poisoned, counted from the word of the address. -/
def State.poisonFrom (s : State) (pa n : Nat) : List Nat := (List.range ((pa % 4 + n + 3) / 4)).filter (fun i => s.poisonedAt (pa / 4 + i))

/-! Answers to this package's requests (R16, R438; log 18). -/

/-- What another package's home has told of bytes of a line, taken into `mem` but for the bytes of this package's stores sent after the request. -/
def State.known (s : State) (tag : Nat) (cells : List (Nat × Byte)) (poisoned : List Nat) : State :=
  let mine := s.requests.flatMap (fun r => match r.kind with | .store bytes => if r.tag > tag then bytes else [] | _ => [])
  let fresh := cells.filter (fun e => !mine.contains e.1)
  let t : State := { s with
    mem := fresh.foldl (fun m e => Sparse.set 0 m e.1 e.2) s.mem
    memPoison := (wordsIn fresh).foldl (fun p w => if poisoned.contains w then insertNat w p else p.filter (fun x => x ≠ w)) s.memPoison }
  t.noteLines fresh

/-- What a home has sent of a line to a core: the die's RDC copy and the clean bytes in the core's L1 take it (R186, R222, R223). -/
def State.lineCame (s : State) (k line : Nat) : State :=
  (s.rdcRefresh (dieOf k) line false (BitVec.allOnes 128) 0 0).l1Upd k line (fun l => l.renewed (s.mem.read (line * 128) 128) (s.linePoison line))

/-- A load that an answered request brings: its value, and what it does to its core's L1 and its die's RDC where it may fill them (R185, R201). -/
def Load.arrive (k wg tag : Nat) (l1 rdc : Bool) (line : List Byte) (poison : List Nat) (l : Load) (s : State) : Load × State :=
  if l.request ≠ some tag || l.value.isSome then (l, s)
  else
    let v := l.answered line poison
    let step := min l.width 4
    let s1 := match l.place with
      | .scratch .. => s
      | .home pa a =>
        if l1 then (State.readWords k l.hint l.scope step (l.width / step) l.place s).2
        else if a.cache = 3 then s
        else s.rdcRefresh (dieOf k) (pa / 128) (rdc && decide (a.cache = 0) && decide (l.scope = 0 ∨ l.scope = 3)) (lineMask pa l.width) l.hint a.prio
    ({ l with value := some v }, s1.spinNote wg l v)

/-- The loads of a list that a request brings. -/
def arriveAll (k wg tag : Nat) (l1 rdc : Bool) (line : List Byte) (poison : List Nat) : List Load → State → List Load × State
  | [], s => ([], s)
  | l :: t, s =>
    let (l', s1) := l.arrive k wg tag l1 rdc line poison s
    let rest := arriveAll k wg tag l1 rdc line poison t s1
    (l' :: rest.1, rest.2)

/-- The loads that are on their way to a core and that a request brings. -/
def State.arriveLoads (r : Request) (l1 rdc : Bool) (line : List Byte) (poison : List Nat) (s : State) (k : Nat) : State :=
  if !(s.core k).loads.any (fun p => p.loads.any (fun l => l.request = some r.tag)) then s
  else
    (List.range (s.core k).loads.length).foldl (fun t i =>
      match (t.core k).loads[i]? with
      | none => t
      | some p =>
        let e := arriveAll k p.wg r.tag l1 rdc line poison p.loads t
        e.2.updCore k (fun c => { c with loads := listSet c.loads i (fun q => { q with loads := e.1 }) })) (s.lineCame k r.line)

/-- The results of an answered atomic, by fibre: the old value of each lane (R243). -/
def atomResults (o : AtomOp) (dst m : Nat) (bad : Bool) (lanes : List (Nat × Nat × Nat)) : List (Nat × Nat × Word × Bool) :=
  let olds := if bad then lanes.map (fun _ => m) else (o.group m (lanes.map (fun e => e.2))).1
  (lanes.zip olds).flatMap (fun e => (wordsOf (o.width / 4) (bytesOf o.width e.2)).zipIdx.map (fun w => (e.1.1, dst + w.2, w.1, bad)))

/-- An atomic answered (R243, R246): the home has performed it, or has found its word poisoned. -/
def State.atomAnswered (s : State) (tag wg pa : Nat) (o : AtomOp) (lanes : List (Nat × Nat × Nat)) (dst : Option Nat) (info : FaultInfo)
    (m : Nat) (poison : List Nat) : State :=
  let new := (o.group m (lanes.map (fun e => e.2))).2
  let s1 :=
    if poison.isEmpty then
      let t := s.known tag (cellsOf pa (bytesOf o.width new)) []
      ((wordsIn (cellsOf pa (bytesOf o.width new))).foldl (fun u w => u.ownWord .other w) t).fire none ⟨0, 0, pa / 64⟩
    else s
  match dst with
  | some n => { s1 with cores := s1.cores.map (fun e => (e.1, { e.2 with loads := e.2.loads.map (fun p =>
      if p.request = some tag then { p with request := none, writes := atomResults o n m (!poison.isEmpty) lanes } else p) })) }
  | none =>
    if poison.isEmpty then s1
    else s1.updWg wg (fun w => { w with deferred := w.deferred ++ [{ issuer := issuerOf (s.compat16 w) info.fibre, cls := 11, entry := none
                                                                     info := { info with body := info.body + 4 * poison.headD 0 } }] })

/-- A line that another package's home has sent reaches whoever asked for it. -/
def State.lineAnswered (s : State) (r : Request) (line : List Byte) (poison : List Nat) : State :=
  let at' (l1 rdc : Bool) (t : State) : State := (t.cores.map (fun e => e.1)).foldl (State.arriveLoads r l1 rdc line poison) t
  match r.kind with
  | .load _ l1 rdc => at' l1 rdc s
  | .prefetch core l1 hint a =>
    at' true true (if l1 then (s.lineCame core r.line).l1Fill core a hint r.line (BitVec.allOnes 128)
      else s.rdcRefresh (dieOf core) r.line true (BitVec.allOnes 128) hint a.prio)
  | .poll wg fibre => s.updWg wg (fun w => w.updFibre fibre (fun x => if x.wait = .waitw then { x with polled := true, waitDue := true } else x))
  | .read (some who) => { s with fetched := (who, r.line) :: s.fetched }
  | _ => s

/-- A request of this package that has left and is not yet answered (R16, R438), and the state without it. -/
def State.requestOut (s : State) (tag : Nat) : Option (Request × State) :=
  if s.links.any (fun e => e.2.queue.any (fun q => q.2.request = some tag)) then none
  else (s.requests.find? (fun r => r.tag = tag)).map (fun r => (r, { s with requests := s.requests.filter (fun q => q.tag ≠ tag) }))

/-- The answer of another package's barrier unit to this package's request (R19, R270). -/
def State.unitAnswered (s : State) (tag : Nat) (b : BarrierAnswer) : State :=
  match s.requestOut tag with
  | none => s
  | some (r, t) =>
    match r.kind with
    | .barrier q => t.barrierAnswered q b
    | .arrival id => t.updCopy id (fun e => { e with arrival := some b })
    | .notice => t
    | _ => s

/-- A request of this package to a home answered. -/
def State.answerRequest (s : State) (tag : Nat) (bytes : List Byte) (poison : List Nat) : State :=
  match s.requestOut tag with
  | none => s
  | some (r, t) =>
      match r.kind with
      | .barrier _ | .arrival _ | .notice => s
      | .store _ => t
      | .atomic wg op pa lanes dst info => match atomicOps[op]? with
        | some o => t.atomAnswered tag wg pa o lanes dst info (ofBytes (bytes.take o.width)) poison
        | none => t
      | _ =>
        let line := bytes.take 128 ++ List.replicate (128 - bytes.length) 0
        (t.known tag (cellsOf (r.line * 128) line) (poison.map (fun w => r.line * 32 + w))).lineAnswered r line poison

/-- Words at another package's home have been written by others than this package: their owned marks end, and watchers of their lines are told (R226,
R228, R265). -/
def State.writtenFar (s : State) (pa n : Nat) : State :=
  let cells := (cellsOf pa (List.replicate (min n 128) 0)).filter (fun e => farHome e.1)
  (distinct (cells.map (fun e => e.1 / 64))).foldl (fun t l => t.fire none ⟨0, 0, l⟩) ((wordsIn cells).foldl (fun t w => t.ownWord .other w) s)

/-- What a good flit completes at a port (R414, R433, R438): another package's load, store, atomic or request to the barrier unit is served at the home and
answered; a packet for which the Cove has room is taken and acknowledged; an answer or a notice of another home or its barrier unit is taken; each message
taken grants a flit on its channel. -/
def State.takeItem (s : State) (port : Nat) : ColnalItem → State
  | .part => s
  | .packet tag bytes poison => if !s.coveRoom bytes then s else ((s.arrivePacket bytes poison).queueFlit port 2 (.accepted tag)).say (.grant port 3)
  | .load tag pa n =>
    if !servedHere pa n then s
    else (s.queueFlit port 2 (.answer tag (s.homeRead pa n).1 (s.poisonFrom pa n))).say (.grant port 0)
  | .store tag pa comp bytes poisoned =>
    if !servedHere pa bytes.length then s
    else ((s.homeWrite .other comp (cellsOf pa bytes) poisoned).queueFlit port 2 (.answer tag [] [])).say (.grant port 1)
  | .atomic tag pa comp op lanes =>
    match atomicOps[op]? with
    | none => s
    | some o => if !servedHere pa o.width then s else (s.serveAtomic port tag pa comp o lanes).say (.grant port 0)
  | .answer tag bytes poison => (s.answerRequest tag bytes poison).say (.grant port 2)
  | .written pa n => (s.writtenFar pa n).say (.grant port 2)
  | .barrier tag a =>
    if a.package = Config.package || !a.lanes.all (fun x => (headerOf x.entries).any (fun p => servedHere p.pa 64)) then s
    else (let (b, t) := s.unit a; t.queueFlit port 2 (.barrierAnswer tag b)).say (.grant port 0)
  | .barrierAnswer tag b => (s.unitAnswered tag b).say (.grant port 2)
  | .woken header status scope => (if farHome header then s.wokenHere header status scope else s).say (.grant port 2)
  | .accepted order => s.dropPackets (fun p => p.awaitAck && p.peer.isNone && decide (p.order = order))
  | .credit channel n => s.updLink port (fun l => { l with granted := Sparse.set 0 l.granted channel (Sparse.get 0 l.granted channel + n) })
  | .again number => s.sendAgain port number
  | .taken number => s.updLink port (fun l => { l with retry := l.retry.filter (fun e => e.1 ≥ number) })

/-- COLNAL_FLIT_RECEIVE (R438): a flit that fails its check is asked for again, with a black-box entry of kind 4 that names the port. There are 32
ports; before they have trained nothing comes (R480). -/
def execColnalFlitReceive (port : Nat) (crcGood : Bool) (item : ColnalItem) (s : State) : Host.Outcome State Fault Refusal :=
  if port ≥ 32 ∨ s.linksDown = true then .next s
  else if !crcGood then .next ((({ s with colnalRetries := s.colnalRetries + 1 } : State).log 4 0x3FF 0 0 0 port 0).say (.retry port))
  else .next (s.takeItem port item)

/-- A segment put into its place. -/
def insertSegment (e : Arrived) : List Arrived → List Arrived
  | [] => [e]
  | d :: t => if e.seq < d.seq then e :: d :: t else d :: insertSegment e t

/-- The first segment number not yet received, from one on. -/
def contiguous (l : List Arrived) : Nat → Nat → Nat
  | 0, n => n
  | k + 1, n => if l.any (fun e => e.seq = n) then contiguous l k (n + 1) else n

/-- The number nearest to a known one of which a frame carries the low 32 bits (R439). -/
def seqNear (known wire : Nat) : Nat :=
  let up := (wire + 2 ^ 32 - known % 2 ^ 32) % 2 ^ 32
  if up < 2 ^ 31 ∨ known + up < 2 ^ 32 then known + up else known + up - 2 ^ 32

/-- The bytes of a packet from its segments; none where their offsets do not follow one another. -/
def packetBytes (segs : List Arrived) : List Byte :=
  if segs.zipIdx.all (fun e => decide (e.1.offset = 8192 * e.2)) then segs.flatMap (fun e => e.bytes) else []

/-- Packets whose segments have all come, taken from the head of the segments received. -/
def State.reassemble (k : Nat) : Nat → State → State
  | 0, s => s
  | n + 1, s =>
    let q := s.peer k
    let front := q.received.takeWhile (fun e => decide (e.seq < q.expected))
    match front.findIdx? (fun e => e.last) with
    | none => s
    | some i =>
      State.reassemble k n ((s.updPeer k (fun q => { q with received := q.received.drop (i + 1) })).arrivePacket (packetBytes (q.received.take (i + 1)))
        ((q.received.take (i + 1)).flatMap (fun e => e.poison)))

/-- A selective acknowledgement sent in a protected frame (R440, R441); none without a key. -/
def State.sendSack (s : State) (k : Nat) : State :=
  let q := s.peer k
  match q.txKeys with
  | [] => s
  | (key, n) :: t =>
    (s.say (.sack (entryPort q.entry) (entryMac q.entry) etherType k n (q.expected % 2 ^ 32) ((q.received.filter (fun e => e.seq ≥ q.expected)).map (fun e => e.seq % 2 ^ 32)))).updPeer k
      (fun q => { q with txKeys := (key, n + 1) :: t, sinceSack := 0, lastSack := s.tide.toNat })

/-- A frame counts (R439, R440): it comes from its peer's address through its peer's port under the EtherType of Strand, and passes its integrity and replay checks. -/
def State.frameGood (s : State) (h : StrandHead) : Bool :=
  let q := s.peer h.peer
  q.valid && !s.linksDown && decide (h.port = entryPort q.entry) && decide (h.mac = entryMac q.entry) && decide (h.etherType = etherType) && h.checkPasses && (q.rxKeys[h.association]?).any (fun k => decide (h.packetNumber > k.2))

/-- Its packet number noted. -/
def State.noteFrame (s : State) (h : StrandHead) : State :=
  s.updPeer h.peer (fun q => { q with rxKeys := listSet q.rxKeys h.association (fun k => (k.1, h.packetNumber)) })

/-- A frame's segment taken from its peer, unless it is a duplicate, and the packets it makes whole put into the Cove (R441). -/
def State.takeFrame (s : State) (frame : StrandFrame) : State :=
  let k := frame.head.peer
  let q := s.peer k
  let n := seqNear q.expected frame.seq
  let fresh := decide (n ≥ q.expected) && !q.received.any (fun e => e.seq = n)
  let got := if fresh then insertSegment { seq := n, offset := frame.offset, last := frame.last, bytes := frame.bytes, poison := frame.poison } q.received else q.received
  State.reassemble k got.length ((s.noteFrame frame.head).updPeer k (fun q => { q with
    received := got, expected := contiguous got (got.length + 1) q.expected, sinceSack := q.sinceSack + 1
    lastSack := if q.sinceSack = 0 then s.tide.toNat else q.lastSack }))

/-- The Coves hold what a frame brings, beside all that is staged in them (R414). -/
def State.frameFits (s : State) (frame : StrandFrame) : Bool :=
  (List.range Config.dies).all (fun d => decide ((s.takeFrame frame).coveUsed d ≤ max (s.coveUsed d) (s.coveBytes d)))

/-- STRAND_FRAME_RECEIVE (R440, R441): a good frame brings a segment, unless the Cove has no room. -/
def execStrandFrameReceive (frame : StrandFrame) (s : State) : Host.Outcome State Fault Refusal :=
  if !s.frameGood frame.head || !s.frameFits frame then .next s
  else
    let t := s.takeFrame frame
    .next (if (t.peer frame.head.peer).sinceSack ≥ 64 then t.sendSack frame.head.peer else t)

/-- Segments below a number, and those whose bit is set from it on, are acknowledged; one missing below an acknowledged segment is sent again, and
packets wholly acknowledged are done (R441). -/
def State.takeSack (s : State) (k cumulative : Nat) (bitmap : BitVec 64) : State :=
  let base := seqNear (s.peer k).nextSeq cumulative
  let acked (n : Nat) : Bool := decide (n < base) || (decide (n - base < 64) && bitmap.getLsbD (n - base))
  let top := ((s.peer k).unacked.filter (fun e => acked e.seq)).foldl (fun m e => max m e.seq) 0
  let any := (s.peer k).unacked.any (fun e => acked e.seq)
  let s1 := s.updPeer k (fun q => { q with
    unacked := q.unacked.filter (fun e => !acked e.seq), lastAck := if any then s.tide.toNat else q.lastAck })
  (s1.resend k (fun n => any && decide (n < top))).retireAcked k

/-- STRAND_SACK_RECEIVE (R440, R441). -/
def execStrandSackReceive (head : StrandHead) (cumulative : Nat) (bitmap : BitVec 64) (s : State) : Host.Outcome State Fault Refusal :=
  if !s.frameGood head then .next s else .next ((s.noteFrame head).takeSack head.peer cumulative bitmap)

/-- STRAND_SACK_TIMER (R441): acknowledgements go out at least every 16 µs. -/
def execStrandSackTimer (peer : Nat) (s : State) : Host.Outcome State Fault Refusal :=
  if (s.peer peer).sinceSack > 0 ∧ s.tide.toNat ≥ (s.peer peer).lastSack + 16000 then .next (s.sendSack peer) else .next s

/-- STRAND_RETRANSMIT_TIMEOUT (R441): 1.5 round-trip times, which the outside measures, have passed for a segment. -/
def execStrandRetransmitTimeout (peer seq : Nat) (s : State) : Host.Outcome State Fault Refusal := .next (s.resend peer (fun n => n % 2 ^ 32 = seq % 2 ^ 32))

/-- STRAND_PEER_TIMEOUT (R442): nothing acknowledged for 50 ms. -/
def execStrandPeerTimeout (peer : Nat) (s : State) : Host.Outcome State Fault Refusal :=
  let q := s.peer peer
  if q.up && !q.unacked.isEmpty && decide (s.tide.toNat ≥ q.lastAck + 50000000) then .next (s.peerDown peer) else .next s

end Sys2Proof.Machine
end

