-- ==== Sys2Proof/Machine/TileUnit.lean ====
section
/-! DEFINITION. The copy unit's work on tiles (R367, R372 to R374, R379): one line at a time. -/

namespace Sys2Proof.Machine

/-! Tile descriptors (R367). -/

/-- A tile operand: its base, pitch, space (`.G` or `.S`), columns, rows and element bytes. -/
structure Tile where
  base : Nat
  pitch : Nat
  global : Bool
  cols : Nat
  rows : Nat
  bytes : Nat
  deriving DecidableEq, Repr

/-- The tile of a run of four words, for a brush format. -/
def Tile.ofRun (run : List Word) (fmt : Nat) : Tile :=
  let w (i : Nat) : Nat := (run.getD i 0).toNat
  { base := w 0 + w 1 * 2 ^ 32, pitch := bitsOf (w 2) 0 20, global := bitsOf (w 2) 31 1 = 1, cols := bitsOf (w 3) 0 16, rows := bitsOf (w 3) 16 16,
    bytes := brushBytes fmt }

/-- What R367 asks of the words, apart from the base. -/
def tileWordsOk (run : List Word) (fmt : Nat) : Bool :=
  let t := Tile.ofRun run fmt
  decide (bitsOf (run.getD 2 0).toNat 20 11 = 0) && decide (t.pitch % 4 = 0) && decide (1 ≤ t.cols ∧ t.cols ≤ 4096) &&
    decide (1 ≤ t.rows ∧ t.rows ≤ 4096) && decide (t.rows * t.cols ≤ 65536) && (decide (t.rows ≤ 1) || decide (t.pitch ≥ t.cols * t.bytes)) &&
    (t.global || decide (t.base / 2 ^ 32 = 0))

/-- The address of an element. -/
def Tile.addr (t : Tile) (r c : Nat) : Nat := (t.base + r * t.pitch + c * t.bytes) % 2 ^ 64

/-- The location of an element. -/
def State.tileLoc (s : State) (w : Workgroup) (l : Launch) (t : Tile) (r c perms : Nat) : Except EngineFault Loc :=
  let a := t.addr r c
  if t.global then
    match s.place w.core w (s.kernelOf w) 0 l.space a 1 perms with
    | .ok p => .ok (.mem p)
    | .error x => .error (x.engine a)
  else s.scratchLoc w a t.bytes

/-- An element with whether an uncorrectable error of the brush has reached it (R484), or why it cannot be read (R379). -/
abbrev Elem := Except EngineFault (Nat × Bool)

def State.tileElem (s : State) (w : Workgroup) (l : Launch) (t : Tile) (r c : Nat) : Elem :=
  match s.tileLoc w l t r c 1 with
  | .error x => .error x
  | .ok loc =>
    let v := s.locRead w.core loc t.bytes
    if v.2 then .error { cause := 3, addr := t.addr r c } else .ok (ofBytes v.1, false)

/-! Applications within a line. -/

/-- Why a line stops: the engine fault, and for a data fault the operation and the entry values (R379). -/
structure LineFault where
  fault : EngineFault
  op : Nat := 0
  sub : Nat := 0
  flags : Flags := 0
  s1 : Word := 0
  s2 : Word := 0
  s3 : Word := 0
  /-- The position word of R389 within the line. -/
  pos : Nat := 0
  deriving DecidableEq, Repr

/-- A missing input's value. -/
def Elem.orZero (e : Elem) : Nat := match e with | .ok v => v.1 | .error _ => 0

/-- A data fault of an application: the first missing input's register names the operation (R379). -/
def dataFault (b : Brush) (x : EngineFault) (reg pos : Nat) (u v a : Elem) : LineFault :=
  let entry := b.entry u.orZero v.orZero a.orZero
  { fault := x, op := b.reader reg, s1 := entry.getD 0 0, s2 := entry.getD 1 0, s3 := entry.getD 2 0, pos := pos }

/-- A brush with its words in error, and the traps with which it applies. -/
structure Applier where
  brush : Brush
  bad : List Nat
  traps : Flags
  deriving DecidableEq, Repr

/-- The identity, or +0, as an input (R365). -/
def Applier.base (p : Applier) : Nat × Bool := (p.brush.base, p.bad.contains 0)

/-- One application on elements, at a position (R365). -/
def Applier.at (p : Applier) (pos : Nat) (u v a : Elem) : Except LineFault ((Nat × Bool) × Flags) :=
  match u, v, a with
  | .error x, _, _ => .error (dataFault p.brush x 0 pos u v a)
  | _, .error x, _ => .error (dataFault p.brush x 1 pos u v a)
  | _, _, .error x => .error (dataFault p.brush x 2 pos u v a)
  | .ok x, .ok y, .ok z => match p.brush.apply p.traps x.1 y.1 z.1 with
    | .ok r => .ok ((r.1, x.2 || y.2 || z.2 || p.brush.taints p.bad x.1 y.1 z.1), r.2)
    | .error f => .error { fault := { cause := 9, addr := 0 }, op := f.op, sub := f.sub, flags := f.flags, s1 := f.s1, s2 := f.s2, s3 := f.s3, pos := pos }

/-- An output that is an input as it stands. -/
def Applier.take (p : Applier) (pos : Nat) (e : Elem) : Except LineFault (Nat × Bool) :=
  match e with
  | .ok v => .ok (v.1, v.2 || p.bad.contains 0)
  | .error x => .error { fault := x, op := p.brush.reader 0, pos := pos }

/-- f(u, v) of R373 at an application number: the position word holds it in bits [23:12]. -/
def Applier.fold (p : Applier) (n : Nat) (u v : Elem) : Except LineFault ((Nat × Bool) × Flags) := p.at (n * 2 ^ 12) u v (.ok p.base)

/-- One round of the pairwise tree (R373). -/
def treeRound (p : Applier) : List Elem → Nat → Flags → Except LineFault (List Elem × Nat × Flags)
  | u :: v :: t, n, fl =>
    match p.fold n u v with
    | .error e => .error e
    | .ok (z, g) => match treeRound p t (n + 1) (fl ||| g) with
      | .error e => .error e
      | .ok (l, m, fl') => .ok (.ok z :: l, m, fl')
  | l, n, fl => .ok (l, n, fl)

/-- The tree to its one element (R373). -/
def treeFold (p : Applier) : Nat → List Elem → Nat → Flags → Except LineFault (Elem × Nat × Flags)
  | _, [e], n, fl => .ok (e, n, fl)
  | 0, l, n, fl => .ok (l.headD (.ok (0, false)), n, fl)
  | k + 1, l, n, fl => match treeRound p l n fl with
    | .error e => .error e
    | .ok (l', n', fl') => treeFold p k l' n' fl'

/-- The strict left fold (R373). -/
def leftFold (p : Applier) : List Elem → Elem → Nat → Flags → Except LineFault (Elem × Nat × Flags)
  | [], acc, n, fl => .ok (acc, n, fl)
  | e :: t, acc, n, fl => match p.fold n acc e with
    | .error x => .error x
    | .ok (z, g) => leftFold p t (.ok z) (n + 1) (fl ||| g)

/-- A line of `TFOLD`: its result and flags. -/
def foldLine (p : Applier) (acc : Option Elem) (es : List Elem) : Except LineFault ((Nat × Bool) × Flags) :=
  let b := p.brush
  if b.associative then
    match treeFold p 13 es 0 0 with
    | .error x => .error x
    | .ok (e, n, fl) => match acc with
      | some old => match p.fold n old e with
        | .error x => .error x
        | .ok (z, g) => .ok (z, fl ||| g)
      | none => match p.take (n * 2 ^ 12) e with
        | .error x => .error x
        | .ok v => .ok (v, fl)
  else
    let start : Elem × List Elem := match acc with
      | some old => (old, es)
      | none => if b.hasIdentity then (.ok p.base, es) else (es.headD (.ok (0, false)), es.tail)
    match leftFold p start.2 start.1 0 0 with
    | .error x => .error x
    | .ok (e, n, fl) => match p.take (n * 2 ^ 12) e with
      | .error x => .error x
      | .ok v => .ok (v, fl)

/-- One round of stride doubling (R374): position *i* in bits [23:12], the round in [27:24]. -/
def scanRound (p : Applier) (prev : List Elem) (d round : Nat) : Nat → Nat → Flags → Except LineFault (List Elem × Flags)
  | 0, _, fl => .ok ([], fl)
  | k + 1, i, fl =>
    let e : Except LineFault (Elem × Flags) :=
      if i < d then .ok (prev.getD i (.ok (0, false)), 0)
      else match p.at (i * 2 ^ 12 + round * 2 ^ 24) (prev.getD (i - d) (.ok (0, false))) (prev.getD i (.ok (0, false))) (.ok p.base) with
        | .error x => .error x
        | .ok (z, g) => .ok (.ok z, g)
    match e with
    | .error x => .error x
    | .ok (v, g) => match scanRound p prev d round k (i + 1) (fl ||| g) with
      | .error x => .error x
      | .ok (l, fl') => .ok (v :: l, fl')

def scanRounds (p : Applier) : Nat → List Elem → Nat → Nat → Flags → Except LineFault (List Elem × Flags)
  | 0, l, _, _, fl => .ok (l, fl)
  | k + 1, l, d, round, fl =>
    if d ≥ l.length then .ok (l, fl)
    else match scanRound p l d round l.length 0 fl with
      | .error x => .error x
      | .ok (l', fl') => scanRounds p k l' (2 * d) (round + 1) fl'

/-- The sequential scan (R374). -/
def scanSeq (p : Applier) : List Elem → Elem → Nat → Flags → Except LineFault (List Elem × Flags)
  | [], _, _, fl => .ok ([], fl)
  | e :: t, prev, i, fl => match p.at (i * 2 ^ 12) prev e (.ok p.base) with
    | .error x => .error x
    | .ok (z, g) => match scanSeq p t (.ok z) (i + 1) (fl ||| g) with
      | .error x => .error x
      | .ok (l, fl') => .ok (.ok z :: l, fl')

/-- Elements that stand as they are, in order. -/
def takeAll (p : Applier) : List Elem → Nat → Except LineFault (List (Nat × Bool))
  | [], _ => .ok []
  | e :: t, i => match p.take (i * 2 ^ 12) e with
    | .error x => .error x
    | .ok v => match takeAll p t (i + 1) with
      | .error x => .error x
      | .ok l => .ok (v :: l)

/-- A line of `TSCAN`: its outputs and flags. -/
def scanLine (p : Applier) (exclusive : Bool) (es : List Elem) : Except LineFault (List (Nat × Bool) × Flags) :=
  let r := if p.brush.associative then scanRounds p 13 es 1 0 0
    else match es with
      | [] => .ok ([], 0)
      | e :: t => match scanSeq p t e 1 0 with
        | .error x => .error x
        | .ok (l, fl) => .ok (e :: l, fl)
  match r with
  | .error x => .error x
  | .ok (l, fl) => match takeAll p (if exclusive then l.dropLast else l) 0 with
    | .error x => .error x
    | .ok vs => .ok (if exclusive then p.base :: vs else vs, fl)

/-! Lines of an operation. -/

/-- The tiles of an entry: x or the source, y, the destination. -/
def CopyEntry.xTile (e : CopyEntry) (b : Brush) : Tile := Tile.ofRun e.b (match e.kind with | .tfold => b.yFmt | _ => b.xFmt)
def CopyEntry.yTile (e : CopyEntry) (b : Brush) : Tile := Tile.ofRun e.yRun b.yFmt
def CopyEntry.zTile (e : CopyEntry) (b : Brush) : Tile := Tile.ofRun e.dstRun b.zFmt

/-- The number of lines (R366). -/
def CopyEntry.lines (e : CopyEntry) (b : Brush) : Nat :=
  let x := e.xTile b
  match e.kind with
  | .tzip => x.rows * x.cols
  | _ => if e.mods.getLsbD 0 then x.cols else x.rows

/-- The elements of a source line. -/
def State.lineElems (s : State) (w : Workgroup) (l : Launch) (t : Tile) (column : Bool) (n : Nat) : List Elem :=
  if column then (List.range t.rows).map (fun i => s.tileElem w l t i n) else (List.range t.cols).map (fun i => s.tileElem w l t n i)

/-- A line computed (R372 to R374): where each output goes with its value, the flags; or the fault with its position word. -/
def State.tileLine (s : State) (e : CopyEntry) (w : Workgroup) (l : Launch) (b : Brush) (n : Nat) : Except LineFault (List (Nat × Nat × Nat × Bool) × Flags) :=
  let p : Applier := { brush := b, bad := badWords w.brushPoison (bitsOf e.imm.toNat 0 6), traps := l.traps }
  let x := e.xTile b
  let z := e.zTile b
  let col := e.mods.getLsbD 0
  match e.kind with
  | .tzip =>
    let r := n / x.cols
    let c := n % x.cols
    let y : Elem := if b.arity = 1 then s.tileElem w l (e.yTile b) r c else .ok (0, false)
    let a : Elem := if e.mods.getLsbD 0 then s.tileElem w l z r c else .ok p.base
    match p.at (r + c * 2 ^ 12) (s.tileElem w l x r c) y a with
    | .error f => .error f
    | .ok (v, fl) => .ok ([(r, c, v)], fl)
  | .tfold =>
    let at' := if col then (0, n) else (n, 0)
    let old := if e.mods.getLsbD 1 then some (s.tileElem w l z at'.1 at'.2) else none
    match foldLine p old (s.lineElems w l x col n) with
    | .error f => .error { f with pos := f.pos + n }
    | .ok (v, fl) => .ok ([(at'.1, at'.2, v)], fl)
  | _ =>
    match scanLine p (e.mods.getLsbD 1) (s.lineElems w l x col n) with
    | .error f => .error { f with pos := f.pos + n }
    | .ok (vs, fl) => .ok (vs.zipIdx.map (fun v => if col then (v.2, n, v.1) else (n, v.2, v.1)), fl)

/-- The locations of outputs, or the first that cannot be written with its place in the line. -/
def State.outLocs (s : State) (w : Workgroup) (l : Launch) (z : Tile) : Nat → List (Nat × Nat × Nat × Bool) → Except (EngineFault × Nat) (List (Loc × Nat × Bool))
  | _, [] => .ok []
  | i, (r, c, v) :: t => match s.tileLoc w l z r c 2 with
    | .error x => .error (x, i)
    | .ok loc => match s.outLocs w l z (i + 1) t with
      | .error x => .error x
      | .ok rest => .ok ((loc, v) :: rest)

/-- The record of a tile fault (R387 layout 2, R389). -/
def CopyEntry.tileFault (e : CopyEntry) (f : LineFault) : FaultInfo :=
  let pos := f.pos % 2 ^ 28 + (if f.fault.cause = 1 then f.fault.xc % 16 * 2 ^ 28 else 0)
  let head (l : List Word) : Nat := (l.headD 0).toNat
  { cls := 17, cause := f.fault.cause, pc := e.pc, fibre := e.fibre, deferred := true, entry := some e.id, layout := 2
    brush := bitsOf e.imm.toNat 0 6, opIndex := f.op, subCause := f.sub, flags := f.flags
    body := f.fault.addr % 2 ^ 64 + (head e.b + head e.dstRun * 2 ^ 32 + head e.yRun * 2 ^ 64 + e.imm.toNat * 2 ^ 96) * 2 ^ 64 +
      (f.s1.toNat + f.s2.toNat * 2 ^ 32 + f.s3.toNat * 2 ^ 64) * 2 ^ 192 + pos * 2 ^ 288 }

/-- Translations of a tile's line noted (R193). -/
def State.noteTile (s : State) (l : Launch) (t : Tile) (outs : List (Nat × Nat × Nat × Bool)) : State :=
  if t.global then outs.foldl (fun u o => u.noteTlb l.space (t.addr o.1 o.2.1)) s else s

/-- The output that an application at fault would have made: of `TZIP` the element, of `TFOLD` the line's, of `TSCAN` the one at its position. -/
def CopyEntry.outputAt (e : CopyEntry) (b : Brush) (pos : Nat) : Option (Nat × Nat) :=
  let x := e.xTile b
  let n := e.pos
  let col := e.mods.getLsbD 0
  match e.kind with
  | .tzip => some (n / x.cols, n % x.cols)
  | .tfold => some (if col then (0, n) else (n, 0))
  | _ =>
    let i := bitsOf pos 12 12 + (if e.mods.getLsbD 1 then 1 else 0)
    if i < (if col then x.rows else x.cols) then some (if col then (i, n) else (n, i)) else none

/-- The destination word of an application whose data are uncorrectable is written poisoned (R322). -/
def State.poisonOutput (s : State) (e : CopyEntry) (w : Workgroup) (l : Launch) (b : Brush) (f : LineFault) : State :=
  let z := e.zTile b
  match (if f.fault.cause = 3 then e.outputAt b f.pos else none) with
  | none => s
  | some (r, c) => match s.tileLoc w l z r c 2 with
    | .error _ => s
    | .ok loc => (s.locWrite w.core loc (bytesOf z.bytes 0) true).updWg w.key (fun w => { w with committed := w.committed || z.global })

/-- The elements that a line of an operation reads. -/
def CopyEntry.lineReads (e : CopyEntry) (b : Brush) : List (Tile × Nat × Nat) :=
  let x := e.xTile b
  let n := e.pos
  match e.kind with
  | .tzip =>
    let here (t : Tile) : Tile × Nat × Nat := (t, n / x.cols, n % x.cols)
    here x :: ((if b.arity = 1 then [here (e.yTile b)] else []) ++ (if e.mods.getLsbD 0 then [here (e.zTile b)] else []))
  | k =>
    let col := e.mods.getLsbD 0
    (if col then (List.range x.rows).map (fun i => (x, i, n)) else (List.range x.cols).map (fun i => (x, n, i))) ++
      (if k = .tfold && e.mods.getLsbD 1 then [if col then (e.zTile b, 0, n) else (e.zTile b, n, 0)] else [])

/-- Lines of them that other packages have still to send (R247, R378; log 18). -/
def State.tileAwaits (s : State) (e : CopyEntry) (w : Workgroup) (l : Launch) (b : Brush) : List Nat :=
  s.lacking (.copy e.id) ((e.lineReads b).filterMap (fun q => match s.tileLoc w l q.1 q.2.1 q.2.2 1 with
    | .ok (.mem (.home pa a)) => if s.engineFar w.core (.home pa a) q.1.bytes then some (pa / 128) else none
    | _ => none))

/-- One grant of a tile operation: one line, or for `TZIP` one element (R366, R380, log 11), once what other packages have to send of it has come. -/
def State.grantTile (s : State) (e : CopyEntry) (w : Workgroup) (l : Launch) : State :=
  match w.brush? (bitsOf e.imm.toNat 0 6) with
  | none => s
  | some b =>
    let far := s.tileAwaits e w l b
    if !far.isEmpty then s.askLines (.copy e.id) far else
    let s := s.copyRead e
    let z := e.zTile b
    match s.tileLine e w l b e.pos with
    | .error f => (s.poisonOutput e w l b f).holdFault w.core e (e.tileFault f)
    | .ok (outs, fl) => match s.outLocs w l z 0 outs with
      | .error (x, i) =>
        let pos := match e.kind with | .tzip => let x := e.xTile b; e.pos / x.cols + e.pos % x.cols * 2 ^ 12 | _ => e.pos + i * 2 ^ 12
        s.holdFault w.core e (e.tileFault { fault := x, pos := pos })
      | .ok locs =>
        let s1 := locs.foldl (fun t o => t.locWrite w.core o.1 (bytesOf z.bytes o.2.1) o.2.2) s
        let s2 := (s1.noteTile l z outs).updWg w.key (fun w => { w with fflags := w.fflags ||| fl, committed := w.committed || z.global })
        s2.updEntry w.core e.id (fun x => { x with pos := e.pos + 1, finished := decide (e.pos + 1 ≥ e.lines b), acks := s2.openStores })

end Sys2Proof.Machine
end

