-- ==== Sys2Proof/Machine/Collective.lean ====
section
/-! DEFINITION. The collective instructions: multicast loads and stores (R428 to R431), sending packets (R432, R433), launch counters
(R434), the Tide (R436, R437); and what one grant of the copy unit does (R291). -/

namespace Sys2Proof.Machine

/-! Multicast loads and stores (R428 to R431). -/

/-- The offsets of an operation, each once, in ascending order. -/
def MultiOp.offsets (m : MultiOp) : List Nat := distinct (m.lanes.map (fun e => e.2.1))

/-- The value that a lane's store leaves at an offset: of lanes that name one offset, the highest (R430). -/
def MultiOp.dataAt (m : MultiOp) (off : Nat) : Nat := (((m.lanes.filter (fun e => e.2.1 = off)).getLast?).map (fun e => e.2.2)).getD 0

/-- What a member answered for an offset, this package for itself: none where it is missing. -/
def MultiOp.answer (m : MultiOp) (off k : Nat) : Option Nat :=
  if m.missing.contains k then none
  else
    let given : Option MemberAnswer :=
      if m.members[k]? = some Config.package then (m.own.find? (fun e => e.1 = off)).map (fun e => e.2)
      else (m.answers.getD [])[m.offsets.findIdx (fun o => o = off) * m.members.length + k]?
    match given with
    | some (.data v) => some v
    | _ => none

/-- The members that are missing for an offset. -/
def MultiOp.missingAt (m : MultiOp) (off : Nat) : List Nat := (List.range m.members.length).filter (fun k => (m.answer off k).isNone)

/-- The sum of R428 in ascending member index, over codes of an element format. -/
def memberSum (fmt : Fmt) : List Nat → Nat
  | [] => Fmt.f32.nanCode
  | c :: t => t.foldl (fun acc d => (fAdd .f32 .rn (Fmt.f32.value acc) (fmt.value d)).1) (roundTo .f32 .rn false (fmt.value c)).1

/-- The result of an offset. -/
def MultiOp.result (m : MultiOp) (off : Nat) : Word :=
  let codes := (List.range m.members.length).filterMap (m.answer off)
  BitVec.ofNat 32 (if codes.length < m.members.length then Fmt.f32.nanCode else memberSum (if m.width = 2 then .bf16 else .f32) codes)

/-- The bitmap of missing members (R429). -/
def MultiOp.status (m : MultiOp) : Word :=
  BitVec.ofNat 32 ((List.range m.members.length).foldl (fun b k => if m.offsets.any (fun o => (m.missingAt o).contains k) then b + 2 ^ k else b) 0)

/-- An operation that has started waits for a member: for the switch's answers, or for this package's own. -/
def MultiOp.awaits (m : MultiOp) (k : Nat) : Bool :=
  !m.missing.contains k && (m.answers.isNone || (decide (m.members[k]? = some Config.package) && m.own.isEmpty))

/-- Everything an operation waits for has come. -/
def MultiOp.answered (m : MultiOp) : Bool := m.sent && !(List.range m.members.length).any m.awaits

/-- A lane of a completed operation: its destination and status predicate, no longer pending. -/
def MultiOp.land (m : MultiOp) (x : Fibre) : Fibre :=
  match m.lanes.find? (fun e => e.1 = x.index) with
  | none => x
  | some (_, off, _) =>
    let y := if m.load && decide (m.dst < 240) then { x.setReg m.dst (m.result off) with pendV := x.pendV.filter (fun r => r ≠ m.dst) } else x
    match m.statusPred with
    | some q => { y.setPred q (m.missingAt off).isEmpty with pendP := y.pendP.filter (fun p => p ≠ q) }
    | none => y

/-- An operation completes. -/
def State.finishMulti (s : State) (m : MultiOp) : State :=
  let s1 := ({ s with multi := s.multi.filter (fun n => n.id ≠ m.id) } : State).updWg m.wg (fun w => { w with
    fibres := w.fibres.map m.land, mstat := if m.load then Sparse.set 0 w.mstat m.issuer m.status else w.mstat
    srPoison := if m.load then w.srPoison.filter (fun n => n ≠ srKey (((m.lanes.head?.map (fun e => e.1)).getD 0) / 32) 31) else w.srPoison })
  if m.load then s1 else s1.complete m.wg m.issuer 4 m.id

/-- The first operation that can complete: loads of one issuer complete in issue order (R429). -/
def State.readyMulti (s : State) : Option MultiOp :=
  s.multi.find? (fun m => m.answered && !m.acks.any s.asked && (!m.load || !s.multi.any (fun n => n.load && decide (n.wg = m.wg ∧ n.issuer = m.issuer ∧ n.id < m.id))))

def State.finishMultis : Nat → State → State
  | 0, s => s
  | n + 1, s => match s.readyMulti with
    | none => s
    | some m => State.finishMultis n (s.finishMulti m)

/-- This package serves a member's request for its window: an element read, or written (R419, R430, R431). -/
def State.memberRead (s : State) (group : Group) (off width : Nat) : MemberAnswer :=
  match s.windowRead group off width 1 with | some bytes => .data (ofBytes bytes) | none => .absent
def State.memberWrite (s : State) (group : Group) (off width v : Nat) : State × MemberAnswer :=
  match s.windowWrite group off width (bytesOf width v) [] with | some t => (t, .data 0) | none => (s, .absent)

/-- Lines of its window that this package's own part of an operation reads and that other packages have still to send. -/
def State.ownLacks (s : State) (m : MultiOp) : List Nat :=
  if m.load then distinct (m.offsets.flatMap (fun off => s.windowLacks (.member m.id) m.base off m.width 1)) else []

/-- This package, a member of its own operation, serves it once for each offset, with the group as it stood at the issue (R402), after the lines of its
window that other packages have to send. -/
def State.serveOwn (s : State) (m : MultiOp) : State :=
  if !m.own.isEmpty || !m.members.contains Config.package || !m.sent then s
  else if !(s.ownLacks m).isEmpty then s.askLines (.member m.id) (s.ownLacks m)
  else
    let r := m.offsets.foldl (fun (acc : State × List (Nat × MemberAnswer)) off =>
      if m.load then (acc.1, acc.2 ++ [(off, acc.1.memberRead m.base off m.width)])
      else let (t, a) := acc.1.memberWrite m.base off m.width (m.dataAt off); (t, acc.2 ++ [(off, a)])) (s, [])
    let acks := r.1.openStores.filter (fun n => decide (s.nextKey ≤ n))
    ({ r.1 with multi := r.1.multi.map (fun n => if n.id = m.id then { n with own := r.2, acks := acks } else n) } : State).readOver
      (fun q => decide (q = .member m.id))

/-- The same for an operation by its number; of an `MSTO`, the earlier ones of its home warp before it (R430). -/
def State.serveMember (s : State) (op : Nat) : State :=
  match s.multi.find? (fun m => m.id = op) with
  | none => s
  | some m =>
    let before := if m.load then [] else s.multi.filter (fun n => !n.load && decide (n.wg = m.wg) && decide (n.issuer = m.issuer) && decide (n.id < op))
    (before ++ [m]).foldl State.serveOwn s

/-- MULTICAST_RESPONSE (R428 to R430): the switch's answers for an operation, one for each offset and member; this package has served it. -/
def execMulticastResponse (op : Nat) (answers : List MemberAnswer) (s : State) : Host.Outcome State Fault Refusal :=
  let s0 := s.serveMember op
  let s1 : State := { s0 with multi := s0.multi.map (fun m => if m.id = op && m.sent && m.answers.isNone then { m with answers := some answers } else m) }
  .next (State.finishMultis s1.multi.length s1)

/-- MULTICAST_MEMBER_TIMEOUT (R431): 2 µs without an answer of a member. -/
def execMulticastMemberTimeout (op member : Nat) (s : State) : Host.Outcome State Fault Refusal :=
  let s1 : State := { s with multi := s.multi.map (fun m =>
    if m.id = op && m.sent && m.awaits member && decide (s.tide.toNat ≥ m.since + 2000) then { m with missing := insertNat member m.missing } else m) }
  .next (State.finishMultis s1.multi.length s1)

/-- The answer of this package to a request of the switch, with the state after it: none while other packages have lines to send or writes to acknowledge. -/
def State.memberAnswer (s : State) (r : MemberServe) : Option MemberAnswer × State :=
  match r.answer, r.op with
  | some a, _ => (if r.acks.any s.asked then none else some a, s)
  | none, some op =>
    let t := s.serveMember op
    match t.multi.find? (fun n => n.id = op) with
    | none => (some .absent, t)
    | some m =>
      if m.acks.any t.asked || (m.sent && m.own.isEmpty && m.members.contains Config.package) then (none, t)
      else (some (((m.own.find? (fun e => e.1 = r.off)).map (fun e => e.2)).getD .absent), t)
  | none, none =>
    let far := s.windowLacks (.member r.id) r.group r.off r.width 1
    if far.isEmpty then (some (s.memberRead r.group r.off r.width), s.readOver (fun q => decide (q = .member r.id)))
    else (none, s.askLines (.member r.id) far)

/-- A request answered, or kept until it can be. -/
def State.serveSwitch (s : State) (r : MemberServe) : State :=
  match s.memberAnswer r with
  | (some a, t) => ({ t with serving := t.serving.filter (fun q => q.id ≠ r.id) } : State).say (.multicast r.member a)
  | (none, t) => if t.serving.any (fun q => q.id = r.id) then t else { t with serving := t.serving ++ [r] }

/-- Requests and operations that waited for other packages go on (R428, R430, R431). -/
def State.settleMulti (s : State) : State :=
  let t := (s.multi.filter (fun m => m.answers.isSome && m.own.isEmpty)).foldl (fun t m => t.serveMember m.id) (s.serving.foldl State.serveSwitch s)
  State.finishMultis t.multi.length t

/-- MULTICAST_MEMBER_REQUEST (R430, R431): this package serves a request of the switch for its window, and answers. One for an operation of its own
serves the operation. -/
def execMulticastMemberRequest (member group offset width : Nat) (value : MemberAsk) (s : State) : Host.Outcome State Fault Refusal :=
  let r : MemberServe := { id := s.nextKey, member := member, off := offset, width := width }
  let t : State := { s with nextKey := s.nextKey + 1 }
  if s.linksDown then .next s
  else match value with
  | .load => .next (t.serveSwitch { r with group := s.group group })
  | .store v =>
    let (u, a) := t.memberWrite (s.group group) offset width v
    .next (u.serveSwitch { r with answer := some a, acks := u.openStores.filter (fun n => decide (t.nextKey ≤ n)) })
  | .own op => .next (t.serveSwitch { r with op := some op })

/-- The checks of R428 for a lane. -/
def Ctx.multiTests (c : Ctx) (s : State) (w : Nat) (x : Fibre) : List (Bool × LaneFault) :=
  let q := s.group (c.f.immBits 0 8)
  let a := (src32 c x c.f.srcA).toNat
  [(decide (q.ctl.toNat % 2 = 0), c.badOperand c.f.srcB), (decide (a % w ≠ 0), misaligned a w),
    (decide (a + w > q.len.toNat * 2 ^ 21), c.badOperand c.f.srcA)]

/-- An operation's requests given to the links: each distinct offset on plane (A >> 7) mod 32, with the member list (R428). -/
def State.requestMembers (s : State) (m : MultiOp) : State :=
  m.offsets.foldl (fun t off => t.queueFlit (off / 128 % 32) (if m.load then 0 else 1)
    (.member m.id off m.width m.group m.members (if m.load then none else some (m.dataAt off)))) s

/-- An `MSTO` that a `FENCE.E` held back starts once the earlier operations are complete (R236). -/
def State.releaseMulti (s : State) : State :=
  s.multi.foldl (fun t m =>
    if m.sent then t
    else match t.wg? m.wg with
      | none => t
      | some w => if t.fenced w.core m.wg m.issuer m.epoch then t
        else ({ t with multi := t.multi.map (fun n => if n.id = m.id then { n with sent := true, since := t.tide.toNat } else n) } : State).requestMembers m) s

/-- An operation made, and sent to the switch unless a `FENCE.E` holds it back. -/
def State.sendMulti (s : State) (c : Ctx) (load : Bool) (w : Nat) (status : Option Nat) : State :=
  let q := s.group (c.f.immBits 0 8)
  let issuer := issuerOf c.compat16 (lowestFibre c.lanes)
  let epoch := Sparse.get 0 c.wg.fenceEpoch issuer
  let m : MultiOp :=
    { id := s.nextKey, wg := c.wg.key, issuer := issuer, load := load, width := w, group := c.f.immBits 0 8, base := q
      members := (List.range (bitsOf q.ctl.toNat 1 5 + 1)).map (fun i => Sparse.get 0 q.pkgs i)
      lanes := c.passing.map (fun x => (x.index, (src32 c x c.f.srcA).toNat, (src32 c x c.f.srcB).toNat % 2 ^ (8 * w)))
      dst := c.f.dst.toNat, statusPred := status, since := s.tide.toNat, epoch := epoch, sent := load || !s.fenced c.core c.wg.key issuer epoch }
  let hold (x : Fibre) : Fibre := { x with
    pendV := if load && decide (m.dst < 240) then insertNat m.dst x.pendV else x.pendV
    pendP := match status with | some p => insertNat p x.pendP | none => x.pendP }
  let s1 : State := { s with nextKey := s.nextKey + 1, multi := s.multi ++ [m] }
  (if m.sent then s1.requestMembers m else s1).lanewise c hold

/-- The body of `MLDR`. -/
def mldrBody (w : Nat) (c : Ctx) (t : State) : Except FaultInfo State :=
  match c.laneFault (fun x => firstLane (c.multiTests t w x)) with
  | some e => .error e
  | none =>
    if c.passing.isEmpty then .ok (t.lanewise c id)
    else .ok (t.sendMulti c true w (if c.f.mod 0 then some (c.f.modBits 1 4) else none))

/-- `MLDR` (R428). -/
def execMldr (f : Fields) (s : State) : Host.Outcome State Fault Refusal := runBatch 0x160 (.mldr f) f s (mldrBody 2)
/-- `MLDR.F32` (R428). -/
def execMldrF32 (f : Fields) (s : State) : Host.Outcome State Fault Refusal := runBatch 0x161 (.mldr f) f s (mldrBody 4)

/-- Room for one more operation in the collective counter of the issuer (R306). -/
def Ctx.collReady (c : Ctx) (s : State) : Bool :=
  c.passing.isEmpty || decide (((s.wgOf c).stream (issuerOf c.compat16 (lowestFibre c.lanes)) 4).count < 65535)

/-- `MSTO` (R430): counted until every member has answered or been found missing. -/
def execMsto (f : Fields) (s : State) : Host.Outcome State Fault Refusal :=
  runBatch 0x162 (.msto f) f s fun c t =>
    let w := if f.mod 0 then 4 else 2
    match c.laneFault (fun x => firstLane (c.multiTests t w x)) with
    | some e => .error e
    | none =>
      if c.passing.isEmpty then .ok (t.lanewise c id)
      else if !c.collReady t then .ok t
      else
        let issuer := issuerOf c.compat16 (lowestFibre c.lanes)
        let u := t.sendMulti c false w (if f.mod 1 then some (f.modBits 2 4) else none)
        .ok ((u.updWg c.wg.key (fun v => v.countIssue issuer 4 t.nextKey)).commits c true)

/-! Sending packets (R432, R433). -/

/-- `PSEND` may issue: a reserved entry is free (R290), and its counter has room. -/
def Ctx.psendReady (c : Ctx) (s : State) : Bool :=
  c.passing.isEmpty || decide (c.reserved = 0) || (decide ((s.core c.core).copyUsed c.wg.key < c.reserved) && c.collReady s)

/-- The checks of R432. -/
def Ctx.psendFault (c : Ctx) (x : Fibre) : Option LaneFault :=
  let a := (src64 c x c.f.srcA).toNat
  let b := (src64 c x c.f.srcB).toNat
  firstLane ([(!canonical a, { cls := 10, cause := 6, v0 := a, v1 := 64 }), (decide (a % 64 ≠ 0), misaligned a 64),
    (!canonical b, { cls := 10, cause := 6, v0 := b, v1 := 16 }), (decide (b % 16 ≠ 0), misaligned b 16)] ++ reservedTests c)

/-- The body of `PSEND` and `PSEND.T`. -/
def psendBody (start : Ctx → Fibre → Nat) (c : Ctx) (x : Fibre) (t : State) : Except FaultInfo State :=
  match c.psendFault x with
  | some e => .error (c.leadFault x e.cls e.v0 e.v1 e.cause)
  | none =>
    if !c.psendReady t then .ok t
    else
      let b := src64 c x c.f.srcB
      let mk (e : CopyEntry) : CopyEntry :=
        { e with kind := .psend, a := (src64 c x c.f.srcA).toNat, b := [loWord b, hiWord b], c := start c x % 2 ^ 32, start := start c x }
      .ok (((t.queueCopy c 4 mk x).commits c true).lanewise c id)

/-- `PSEND` (R432). -/
def execPsend (f : Fields) (s : State) : Host.Outcome State Fault Refusal := runOnce 0x163 (.psend f false) f s (psendBody (fun _ _ => 0))
/-- `PSEND.T` (R432). -/
def execPsendT (f : Fields) (s : State) : Host.Outcome State Fault Refusal :=
  runOnce 0x164 (.psend f true) f s (psendBody (fun c x => (src64 c x c.f.srcC).toNat))

/-- The lines of other packages that pieces of a workgroup's memory lie in and that have not come for an operation, up to the first that does not
translate (R251; log 18). -/
def State.pieceLacks (s : State) (e : CopyEntry) (w : Workgroup) (l : Launch) (step n va : Nat) : List Nat :=
  let place (i : Nat) : Option Nat := match s.place w.core w (s.kernelOf w) 0 l.space ((va + step * i) % 2 ^ 64) 1 1 with
    | .ok (.home pa _) => some (pa / 128)
    | _ => none
  s.lacking (.copy e.id) (((List.range n).map place).takeWhile (fun p => p.isSome)).reduceOption

/-- `n` pieces of 16 bytes read at their homes for a workgroup, or the fault of the first that fails (R432, R251). -/
def State.homePieces (s : State) (w : Workgroup) (l : Launch) (step : Nat) : Nat → Nat → Except EngineFault (List Byte)
  | 0, _ => .ok []
  | n + 1, va =>
    match s.place w.core w (s.kernelOf w) 0 l.space (va % 2 ^ 64) 1 1 with
    | .error e => .error (e.engine va)
    | .ok (.scratch ..) => .error { cause := 1, addr := va }
    | .ok (.home pa _) =>
      let r := s.homeRead pa step
      if r.2 then .error { cause := 3, addr := va }
      else match s.homePieces w l step n (va + step) with
        | .error e => .error e
        | .ok rest => .ok (r.1 ++ rest)

/-- The record of a deferred fault of a `PSEND` (R387: layout 0, whose values R388 does not give; log 18). -/
def CopyEntry.packetFault (e : CopyEntry) (values : Nat) (x : EngineFault) : FaultInfo :=
  { cls := 17, cause := x.cause, pc := e.pc, fibre := e.fibre, deferred := true, entry := some e.id, body := values % 2 ^ 96 + 2 ^ (96 + e.fibre % 32) }

/-- The address and the pieces of what a `PSEND` reads next: its header, or its payload. -/
def CopyEntry.sends (e : CopyEntry) : Nat × Nat × Nat :=
  match e.tlr with
  | none => (e.a, 64, 1)
  | some h => ((e.b.getD 0 0).toNat + (e.b.getD 1 0).toNat * 2 ^ 32, 16, pkLength h / 16)

/-- What a `PSEND` reads taken: its header, then its payload, with which the packet is held (R432). -/
def State.readPsend (s : State) (e : CopyEntry) (w : Workgroup) (l : Launch) : State :=
  let stop (x : EngineFault) : State := s.drawn.holdFault w.core e (e.packetFault (Config.packetRecord s.free) x)
  match e.tlr with
  | none => match s.homePieces w l 64 1 e.a with
    | .error x => stop x
    | .ok bytes =>
      if pkMalformed (ofBytes bytes) then stop { cause := 2, addr := e.a }
      else (s.noteTlb l.space e.a).updEntry w.core e.id (fun x => { x with tlr := some (ofBytes bytes) })
  | some h =>
    let va := e.sends.1
    match s.homePieces w l 16 (pkLength h / 16) va with
    | .error x => stop x
    | .ok bytes => ((s.noteTlb l.space va).addPacket h bytes [] (some e.id) (some (l.lseq, w.key))).updEntry w.core e.id (fun x => { x with sent := true })

/-- One grant of a `PSEND`: its header, then, from its start time on, its payload, each once the lines that other packages have to send have come. -/
def State.grantPsend (s : State) (e : CopyEntry) (w : Workgroup) (l : Launch) : State :=
  let far := s.pieceLacks e w l e.sends.2.1 e.sends.2.2 e.sends.1
  if far.isEmpty then (s.copyRead e).readPsend e w l else s.askLines (.copy e.id) far

/-! The copy unit (R291). -/

/-- COPY_UNIT_GRANT (R291): an entry that can proceed moves on. -/
def execCopyUnitGrant (core entry : Nat) (s : State) : Host.Outcome State Fault Refusal :=
  match (s.core core).copyQ.find? (fun e => e.entry = entry) with
  | none => .next s
  | some e => match s.wg? e.wg with
    | none => .next s
    | some w => match s.launch? w.launch with
      | none => .next s
      | some l =>
        if !s.entryProceeds core e then .next s
        else
          let s1 := s.updCore core (fun c => { c with copyLast := entry })
          match e.kind with
          | .psend => .next (s1.grantPsend e w l)
          | .tzip | .tfold | .tscan => .next (s1.grantTile e w l)
          | _ => .next (s1.grantCopy e w l)

/-! Launch counters (R434). -/

/-- A counter's new value (R434): none outside the signed range. -/
def addCounter (value : Int) (b : Word) : Option Int :=
  let x := value + b.toInt
  if x < -2 ^ 31 ∨ x > 2 ^ 31 - 1 then none else some x

/-- `LCARM` (R434): the release stays performed where a later check faults. -/
def execLcarm (f : Fields) (s : State) : Host.Outcome State Fault Refusal :=
  runOnce 0x165 (.lcarm f) f s fun c x t =>
    let a := (src32 c x f.srcA).toNat
    if a / 4096 ≠ 0 then .error (c.leadOperand x f.srcA)
    else
      let u := t.release c.core 4
      let q := u.counter a
      let stop (cause : Nat) : Except FaultInfo State := .ok (u.parkBatch c (c.leadFault x 15 a 0 cause))
      if q.armed then stop 1
      else match u.readCard c x (src64 c x f.srcC).toNat f.srcC with
        | .error e => .ok (u.parkBatch c e)
        | .ok (card, v) => match addCounter q.value (src32 c x f.srcB) with
          | none => stop 7
          | some n =>
            .ok ((((v.counterSet a { value := n, armed := true, card := bytesOf 32 card, launch := c.launch.areaOwner, acks := q.acks ++ u.openStores }).commits c true).lanewise
              c id).holdStores c)

/-- `LCARM.ADD` (R434). -/
def execLcarmAdd (f : Fields) (s : State) : Host.Outcome State Fault Refusal :=
  runOnce 0x166 (.lcarmAdd f) f s fun c x t =>
    let a := (src32 c x f.srcA).toNat
    if a / 4096 ≠ 0 then .error (c.leadOperand x f.srcA)
    else
      let u := t.release c.core 4
      let q := u.counter a
      match addCounter q.value (src32 c x f.srcB) with
      | none => .ok (u.parkBatch c (c.leadFault x 15 a 0 7))
      | some n => .ok ((((u.counterSet a { q with value := n, acks := q.acks ++ u.openStores }).commits c true).lanewise c id).holdStores c)

/-! The Tide (R436, R437). -/

/-- The fibres of a batch wait for their targets; one already reached wakes at once. -/
def twaitBody (target : Ctx → Fibre → Nat) (c : Ctx) (t : State) : Except FaultInfo State :=
  let now := t.tide.toNat
  let u := t.updLanes c (fun x => if passes c.f x then x.sleep .twait 0 0 0 (target c x) now else x.next)
  .ok (u.wakeWg c.wg.key (fun x => decide (x.wait = .twait) && c.active x && decide (x.deadline ≤ now)) Fibre.next)

/-- `TWAIT` (R436). -/
def execTwait (f : Fields) (s : State) : Host.Outcome State Fault Refusal :=
  runBatch 0x167 (.twait f) f s (twaitBody (fun c x => (src64 c x c.f.srcA).toNat))
/-- `TWAIT.REL` (R436). -/
def execTwaitRel (f : Fields) (s : State) : Host.Outcome State Fault Refusal :=
  runBatch 0x168 .twaitRel f s (twaitBody (fun c x => c.tide.toNat + (srcB32 c x).toNat))

/-- TIDE_TARGET_REACHED (R436). -/
def execTideTargetReached (wg fibre : Nat) (s : State) : Host.Outcome State Fault Refusal :=
  .next (s.wakeWg wg (fun x => decide (x.index = fibre) && decide (x.wait = .twait) && decide (x.deadline ≤ s.tide.toNat)) Fibre.next)

/-- `TREAD` (R437): one value for every lane. -/
def execTread (f : Fields) (s : State) : Host.Outcome State Fault Refusal := runLanes 0x169 (.tread f) f s (fun c x => x.set64 c.f.dst c.tide)

end Sys2Proof.Machine
end

