-- ==== Sys2Proof/Machine/Convert.lean ====
section
/-! DEFINITION. The conversion, packing, codebook and block-scale instructions (R123 to R139). -/

namespace Sys2Proof.Machine

/-- The format of a code of R113; FP32 for a code that names none (step 4 has refused those). -/
def fmtOf (code : Nat) : Fmt := (Fmt.ofCode code).getD .f32

/-- The value of source A in the source format. -/
def cvtValue (c : Ctx) (x : Fibre) : XReal := let f := fmtOf c.f.fmtSrc; f.value (srcFmt f c x c.f.srcA)

/-- A value rounded into the destination format (R126, R128). -/
def cvtRound (c : Ctx) (x : Fibre) (v : XReal) : Fibre × Flags :=
  let f := fmtOf c.f.fmtDst
  let r := roundTo f c.f.mode c.f.satf v
  (x.setFmt f c.f.dst r.1, r.2)

/-- The value of an integer source of 32 or 64 bits (R123). -/
def cvtInt (c : Ctx) (x : Fibre) : Int :=
  intValue c.f.fmtSrc (if c.f.fmtSrc ≥ 8 then (src64 c x c.f.srcA).toNat else (src32 c x c.f.srcA).toNat)

/-- `CVT.DN` (R126). -/
def execCvtDn (f : Fields) (s : State) : Host.Outcome State Fault Refusal :=
  runFloat 0x050 (.cvt .dn f) f s fun c x => cvtRound c x (cvtValue c x)

/-- `CVT.UP` (R126). -/
def execCvtUp (f : Fields) (s : State) : Host.Outcome State Fault Refusal :=
  runLanes 0x051 (.cvt .up f) f s fun c x => x.set32 c.f.dst (BitVec.ofNat 32 (roundTo .f32 .rn false (cvtValue c x)).1)

/-- `CVT.D` (R126). -/
def execCvtD (f : Fields) (s : State) : Host.Outcome State Fault Refusal :=
  runFloat 0x052 (.cvt .d f) f s fun c x => cvtRound c x (cvtValue c x)

/-- `CVT.F2I` (R127). -/
def execCvtF2i (f : Fields) (s : State) : Host.Outcome State Fault Refusal :=
  runFloat 0x053 (.cvt .f2i f) f s fun c x =>
    let r := floatToInt c.f.fmtDst c.f.mode (cvtValue c x)
    (x.set32 c.f.dst (BitVec.ofNat 32 r.1), r.2)

/-- `CVT.I2F` (R128). -/
def execCvtI2f (f : Fields) (s : State) : Host.Outcome State Fault Refusal :=
  runFloat 0x054 (.cvt .i2f f) f s fun c x => cvtRound c x (intX (cvtInt c x))

/-- `CVT.F2L` (R127). -/
def execCvtF2l (f : Fields) (s : State) : Host.Outcome State Fault Refusal :=
  runFloat 0x055 (.cvt .f2l f) f s fun c x =>
    let r := floatToInt c.f.fmtDst c.f.mode (cvtValue c x)
    (x.set64 c.f.dst (BitVec.ofNat 64 r.1), r.2)

/-- `CVT.L2F` (R128). -/
def execCvtL2f (f : Fields) (s : State) : Host.Outcome State Fault Refusal :=
  runFloat 0x056 (.cvt .l2f f) f s fun c x => cvtRound c x (intX (cvtInt c x))

/-- `CVT.I2I` (R129). -/
def execCvtI2i (f : Fields) (s : State) : Host.Outcome State Fault Refusal :=
  runLanes 0x057 (.cvt .i2i f) f s fun c x => x.set32 c.f.dst (BitVec.ofNat 32 (intEncode c.f.fmtDst (intClamp c.f.fmtDst (cvtInt c x))))

/-! `PACK` and `UNPK` (R130, R131). -/

/-- The element width of a packed register (R130). -/
def packWidth (k : Nat) : Nat := match k with | 2 => 16 | 4 => 8 | 5 => 6 | _ => 4

/-- One element of `PACK`: its code and flags. -/
def packElement (f : Fields) (w : Word) : Nat × Flags :=
  let sm := f.fmtDst - 3
  if f.fmtDst = 9 ∨ f.fmtDst = 10 then
    (if f.fmtSrc = 12 then (intEncode sm (intClamp sm w.toInt), .none) else floatToInt sm f.mode (Fmt.f32.value w.toNat))
  else roundTo (fmtOf f.fmtDst) f.mode f.satf (Fmt.f32.value w.toNat)

/-- `PACK.k` of one lane. -/
def pack (k : Nat) (c : Ctx) (x : Fibre) : Fibre × Flags :=
  let codes := (srcRun x c.f.srcA k).map (packElement c.f)
  let v := codes.foldr (fun e acc => e.1 % 2 ^ packWidth k + 2 ^ packWidth k * acc) 0
  (x.set32 c.f.dst (BitVec.ofNat 32 v), codes.foldl (fun fl e => fl ||| e.2) 0)

/-- `PACK.2` (R130). -/
def execPack2 (f : Fields) (s : State) : Host.Outcome State Fault Refusal := runFloat 0x058 (.cvt (.pack 2) f) f s (pack 2)
/-- `PACK.4` (R130). -/
def execPack4 (f : Fields) (s : State) : Host.Outcome State Fault Refusal := runFloat 0x059 (.cvt (.pack 4) f) f s (pack 4)
/-- `PACK.5` (R130). -/
def execPack5 (f : Fields) (s : State) : Host.Outcome State Fault Refusal := runFloat 0x05A (.cvt (.pack 5) f) f s (pack 5)
/-- `PACK.8` (R130). -/
def execPack8 (f : Fields) (s : State) : Host.Outcome State Fault Refusal := runFloat 0x05B (.cvt (.pack 8) f) f s (pack 8)

/-- The number of a codebook table: bits [5:0] (R133). -/
def bookNumber (w : Word) : Nat := w.toNat % 64

/-- An entry of a table (R133). -/
def Workgroup.book (w : Workgroup) (t i : Nat) : Nat := (Sparse.get 0 w.books (t * 16 + i)).toNat

/-- An entry of a table carries an uncorrectable error: what is computed from it is poisoned (R484). -/
def Workgroup.bookBad (w : Workgroup) (t i : Nat) : Bool := w.bookPoison.contains (t * 16 + i)

/-- A table number beyond the workgroup's tables (R133): the record names the value. DEDUCED (log 23): it stands as value 1 of the layout, where
class 5 has an operand code otherwise (R388). DESIGN CHOICE (log 24): the value is the whole source word, bits [31:6] included. -/
def badBook (c : Ctx) (number : Fibre → Word) (x : Fibre) : Option LaneFault :=
  if bookNumber (number x) ≥ c.kernel.books then some { cls := 5, v0 := c.wordHigh, v1 := (number x).toNat } else none

/-- `UNPK.k` of one lane. -/
def unpack (k : Nat) (c : Ctx) (x : Fibre) : Fibre :=
  let a := (src32 c x c.f.srcA).toNat
  let t := bookNumber (src32 c x c.f.srcB)
  let one (i : Nat) : Word :=
    let e := bitsOf a (i * packWidth k) (packWidth k)
    match c.f.fmtSrc with
    | 8 => BitVec.ofNat 32 (widenTo32 .bf16 (c.wg.book t e))
    | 9 => BitVec.ofInt 32 (smValue 8 e)
    | 10 => BitVec.ofInt 32 (smValue 4 e)
    | n => BitVec.ofNat 32 (widenTo32 (fmtOf n) e)
  (List.range k).foldl (fun y i => y.tainted c.f.dst i (decide (c.f.fmtSrc = 8) && c.wg.bookBad t (bitsOf a (i * packWidth k) (packWidth k))))
    (x.setRun c.f.dst.toNat ((List.range k).map one))

/-- `UNPK.k`: for CB4 the table number is checked first. -/
def runUnpack (op k : Nat) (f : Fields) (s : State) : Host.Outcome State Fault Refusal :=
  runBatch op (.cvt (.unpk k) f) f s fun c t =>
    match (if c.f.fmtSrc = 8 then c.laneFault (badBook c (fun x => src32 c x c.f.srcB)) else none) with
    | some e => .error e
    | none => .ok (t.lanewise c (unpack k c))

/-- `UNPK.2` (R131). -/
def execUnpk2 (f : Fields) (s : State) : Host.Outcome State Fault Refusal := runUnpack 0x05C 2 f s
/-- `UNPK.4` (R131). -/
def execUnpk4 (f : Fields) (s : State) : Host.Outcome State Fault Refusal := runUnpack 0x05D 4 f s
/-- `UNPK.5` (R131). -/
def execUnpk5 (f : Fields) (s : State) : Host.Outcome State Fault Refusal := runUnpack 0x05E 5 f s
/-- `UNPK.8` (R131). -/
def execUnpk8 (f : Fields) (s : State) : Host.Outcome State Fault Refusal := runUnpack 0x05F 8 f s

/-! Codebooks (R134, R135, R137). -/

/-- An entry of a table written. -/
def Workgroup.setBook (w : Workgroup) (t i v : Nat) : Workgroup :=
  { w with books := Sparse.set 0 w.books (t * 16 + i) (BitVec.ofNat 16 v), bookPoison := w.bookPoison.filter (fun n => n ≠ t * 16 + i) }

/-- `CBLD` (R134): ascending lanes, so the higher lane's value stands. -/
def execCbld (f : Fields) (s : State) : Host.Outcome State Fault Refusal :=
  runBatch 0x060 (.cbld f) f s fun c t =>
    match c.laneFault (badBook c (fun x => src32 c x c.f.srcA)) with
    | some e => .error e
    | none =>
      let one (w : Workgroup) (x : Fibre) : Workgroup :=
        w.setBook (bookNumber (src32 c x c.f.srcA)) (x.lane % 16) ((srcB32 c x).toNat % 2 ^ 16)
      .ok ((t.updWg c.wg.key (fun w => c.passing.foldl one w)).lanewise c id)

/-- `CBLD.M` (R135, R136): the tables are loading until their reads return. DESIGN CHOICE (log 22): of a lane's failures at step 7 the table number
comes first. -/
def execCbldM (f : Fields) (s : State) : Host.Outcome State Fault Refusal :=
  runBatch 0x061 .cbldM f s fun c t =>
    let addr (x : Fibre) : Nat := (src32 c x c.f.srcB + c.f.imm).toNat
    let check (x : Fibre) : Option LaneFault :=
      (badBook c (fun x => src32 c x c.f.srcA) x).orElse fun _ =>
        match t.place c.core c.wg c.kernel 1 c.launch.space (addr x) 32 1 with
        | .error e => some (e.lane (addr x) 32)
        | .ok _ => (t.scratchBad c.core (c.wg.scratchBase + addr x) 32).map
            (fun a => { cls := 11, v0 := a - c.wg.scratchBase, v1 := c.f.srcB.toNat })
    match c.laneFault check with
    | some e => .error e
    | none =>
      let load (x : Fibre) : Load :=
        { fibre := x.index, dst := .book (bookNumber (src32 c x c.f.srcA)), place := .scratch c.core (c.wg.scratchBase + addr x) 1, width := 32 }
      .ok ((t.sendTables c.core c.wg.key (c.passing.map load)).lanewise c id)

/-- A quantisation to table B of some values, packed four bits each (R137). -/
def quantise (c : Ctx) (x : Fibre) (values : List Word) : Fibre × Flags :=
  let t := bookNumber (srcB32 c x)
  let codes := values.map (fun w => cbq (Fmt.f32.value w.toNat) (fun i => Fmt.bf16.value (c.wg.book t i)))
  ((x.set32 c.f.dst (BitVec.ofNat 32 (codes.foldr (fun e acc => e.1 + 16 * acc) 0))).tainted c.f.dst 0 ((List.range 16).any (c.wg.bookBad t)), codes.foldl (fun fl e => fl ||| e.2) 0)

/-- `CBQ` and `CBQ.P`: the table number first, then each lane. -/
def runQuantise (op : Nat) (sh : Shape) (f : Fields) (s : State) (values : Ctx → Fibre → List Word) : Host.Outcome State Fault Refusal :=
  runBatch op sh f s fun c t =>
    match c.laneFault (badBook c (srcB32 c)) with
    | some e => .error e
    | none => t.lanewiseF c (fun x => quantise c x (values c x))

/-- `CBQ` (R137). -/
def execCbq (f : Fields) (s : State) : Host.Outcome State Fault Refusal := runQuantise 0x062 .cbq f s (fun c x => [src32 c x c.f.srcA])
/-- `CBQ.P` (R137). -/
def execCbqP (f : Fields) (s : State) : Host.Outcome State Fault Refusal := runQuantise 0x063 .cbqP f s (fun c x => srcRun x c.f.srcA 8)

/-! Block scales (R138, R139). -/

/-- The E8M0 code of a lane (R138). -/
def bsclCode (c : Ctx) (x : Fibre) : Nat :=
  scaleCode ((emax (c.f.immBits 0 4)).getD 0) (Fmt.f32.value (src32 c x c.f.srcA).toNat).abs

/-- `BSCL.GET` (R138). -/
def execBsclGet (f : Fields) (s : State) : Host.Outcome State Fault Refusal :=
  runLanes 0x064 (.bsclGet f) f s fun c x => x.set32 c.f.dst (BitVec.ofNat 32 (bsclCode c x))

/-- `BSCL.GET.32` (R138). -/
def execBsclGet32 (f : Fields) (s : State) : Host.Outcome State Fault Refusal :=
  runLanes 0x065 (.bsclGet f) f s fun c x => x.set32 c.f.dst (BitVec.ofNat 32 (roundTo .f32 .rn false (e8m0X (bsclCode c x))).1)

/-- A value scaled by a power of two of an E8M0 code (R139). -/
def scaleBy (up : Bool) (c : Ctx) (x : Fibre) : Fibre × Flags :=
  let code := (srcB32 c x).toNat % 256
  let k : Int := if up then (code : Int) - 127 else 127 - code
  let v := (Fmt.f32.value (src32 c x c.f.srcA).toNat).scaled k
  let r := if code = 255 then (Fmt.f32.nanCode, Flags.none) else roundTo .f32 c.f.mode false v
  (x.set32 c.f.dst (BitVec.ofNat 32 r.1), r.2)

/-- `BSCL.APPLY` (R139). -/
def execBsclApply (f : Fields) (s : State) : Host.Outcome State Fault Refusal := runFloat 0x066 .bscl f s (scaleBy true)
/-- `BSCL.INV` (R139). -/
def execBsclInv (f : Fields) (s : State) : Host.Outcome State Fault Refusal := runFloat 0x067 .bscl f s (scaleBy false)

end Sys2Proof.Machine
end

