-- ==== Sys2Proof/Machine/Residency.lean ====
section
/-! DEFINITION. Watched words (R280 to R282), register windows (R283, R284), and the rotation unit's events (R260 to R266). -/

namespace Sys2Proof.Machine

/-! Watched words. -/

/-- `WATCH` (R280): a fifth line is a barrier fault of cause 9. DESIGN CHOICE (log 24): value 0 of its record is 0, since `WATCH` has no handle (R388). -/
def execWatch (f : Fields) (s : State) : Host.Outcome State Fault Refusal :=
  runBatch 0x107 (.watch f) f s fun c t => residency c t fun u =>
    let space := c.f.modBits 0 2
    let lineOf (x : Fibre) : WatchLine := (c.placeOf u space 4 1 x).watchLine
    let check (x : Fibre) : Option LaneFault :=
      match c.accessFault u space 4 1 x with
      | some e => some e
      | none => if !x.watch.any (fun e => decide (e.1 = lineOf x)) && decide (x.watch.length ≥ 4) then some (barrierLane 9 0 0) else none
    match c.laneFault check with
    | some e => .error e
    | none => .ok (u.lanewise c (fun x =>
        if x.watch.any (fun e => decide (e.1 = lineOf x)) then x else { x with watch := x.watch ++ [(lineOf x, false)] }))

/-- `WATCH.CLR` (R280). -/
def execWatchClr (f : Fields) (s : State) : Host.Outcome State Fault Refusal :=
  runBatch 0x108 .watchClr f s fun c t => residency c t fun u => .ok (u.lanewise c (fun x => { x with watch := [] }))

/-- One turn of the loop of R281 for a fibre and its word's place, with the value and the deadline that its operands had at the issue (R109; 2^64
for none): its status, or none where it goes on waiting, and the state after the read. DESIGN CHOICE (log 24): the word's bytes are compared as they are,
poisoned or not. -/
def waitwTurn (core scope : Nat) (p : Place) (value deadline : Nat) (s : State) (x : Fibre) : Option Bool × State :=
  let ((bytes, _), s1) := s.readAt core 0 scope p 4
  if ofBytes bytes ≠ value then (some true, s1)
  else if x.watch.any (fun e => e.2) then (some false, s1)
  else if s.tide.toNat ≥ deadline then (some false, s1)
  else (none, s1)

/-- A fibre returns from `WAITW` with a status (R281): fired flags cleared, then `PHASE.ACQ` at the scope. -/
def Fibre.waitwReturn (x : Fibre) (dst : Nat) (status : Bool) : Fibre :=
  { (x.setPred dst status).next.voidSpin with watch := x.watch.map (fun e => (e.1, false)), waitDue := false, polled := false }

/-- The lanes of a `WAITW` at its issue, in ascending order, each at the place that its checks found in `s0`. One whose word another package has to
give waits for it. -/
def State.waitwLanes (s0 : State) (c : Ctx) (timed : Bool) (scope : Nat) : List Fibre → State → State
  | [], s => s
  | x :: t, s =>
    let dst := predOf c.f.dst
    let p := c.placeOf s0 (c.f.modBits 0 2) 4 1 x
    let value := (src32 c x c.f.srcB).toNat
    let deadline := if timed then (src64 c x c.f.srcC).toNat else 2 ^ 64
    let far := s.needsFar c.core scope 4 p
    let s2 := match (if far then (none, s) else waitwTurn c.core scope p value deadline s x) with
      | (some status, s1) => (s1.updWg c.wg.key (fun w => w.updFibre x.index (fun y => y.waitwReturn dst status))).acquire c.core scope
      | (none, s1) =>
        let space := c.f.modBits 0 2
        s1.updWg c.wg.key (fun w => w.updFibre x.index (fun y =>
          { y.sleep .waitw (addrOf space c x) value dst deadline s.tide.toNat with
            waitFields := some c.f, waitLine := some p.watchLine, waitDue := far, polled := false }))
    s0.waitwLanes c timed scope t s2

/-- The body of `WAITW` (R281). -/
def waitwBody (timed : Bool) (c : Ctx) (t : State) : Except FaultInfo State :=
  residency c t fun u =>
    match c.laneFault (c.accessFault u (c.f.modBits 0 2) 4 1) with
    | some e => .error e
    | none =>
      let v := u.waitwLanes c timed (c.f.modBits 2 3) c.passing u
      .ok (v.updLanes c (fun x => if passes c.f x then x else x.next))

/-- `WAITW` (R281). -/
def execWaitw (f : Fields) (s : State) : Host.Outcome State Fault Refusal := runBatch 0x109 (.waitw f false) f s (waitwBody false)
/-- `WAITW.T` (R281). -/
def execWaitwT (f : Fields) (s : State) : Host.Outcome State Fault Refusal := runBatch 0x10A (.waitw f true) f s (waitwBody true)

/-- A waiting fibre's instruction as a context of that fibre alone. -/
def Ctx.waiting (s : State) (w : Workgroup) (x : Fibre) (op : Nat) (f : Fields) : Ctx :=
  let l := (s.launch? w.launch).getD { lseq := w.launch, kind := .packet }
  { core := w.core, slot := 0, wg := w, launch := l, kernel := l.kernel.getD {}, hwarp := x.hwarp, lanes := [x], pc := x.pc,
    word := wordOf op f, f := f, ord := none, tide := s.tide, cyc := s.cyc.getD w.core 0 }

/-- The word of a waiting `WAITW` asked of its home on another package (R16). -/
def State.poll (s : State) (key fibre pa : Nat) : State :=
  (s.sendRequest (.poll key fibre) (pa / 128) 0 (fun tag => .load tag (pa / 128 * 128) 128)).updWg key (fun w => w.updFibre fibre (fun y =>
    { y with waitDue := false, waitSince := s.tide.toNat }))

/-- A waiting `WAITW`'s read is under way. -/
def State.polling (s : State) (key fibre : Nat) : Bool := s.requests.any (fun r => decide (r.kind = .poll key fibre))

/-- A waiting `WAITW` reads again, at the address of its issue (R281): it returns, faults at its instruction, or waits on. A word homed on another package
is asked for first. -/
def State.waitwAgain (s : State) (key fibre : Nat) : State :=
  match (s.wg? key).bind (fun w => (w.fibre? fibre).map (fun x => (w, x))) with
  | none => s
  | some (w, x) =>
    match x.wait, x.waitFields with
    | .waitw, some f =>
      let c := Ctx.waiting s w x (if x.deadline = 2 ^ 64 then 0x109 else 0x10A) f
      match s.place w.core w c.kernel (f.modBits 0 2) c.launch.space x.waitKey 4 1 with
      | .error e =>
        (s.wakeWg key (fun y => y.index = fibre) (fun y => y)).park key
          { c.fault e.cls fibre x.waitKey 4 (laneMask [x]) e.cause with lanes := [fibre] }
      | .ok p =>
        let scope := f.modBits 2 3
        if s.needsFar w.core scope 4 p && !x.polled then (match p with | .home pa _ => s.poll key fibre pa | .scratch .. => s) else
        match waitwTurn w.core scope p x.waitValue x.deadline s x with
        | (some status, s1) => (s1.wakeWg key (fun y => y.index = fibre) (fun y => y.waitwReturn x.waitDst status)).acquire w.core scope
        | (none, s1) => s1.updWg key (fun w => w.updFibre fibre (fun y => { y with waitSince := s.tide.toNat, waitDue := false, polled := false }))
    | _, _ => s

/-- WAITW_REREAD (R281): after a write to its line, a fired watch, or 1 ms of Tide. -/
def execWaitwReread (wg fibre : Nat) (s : State) : Host.Outcome State Fault Refusal := .next (s.waitwAgain wg fibre)

/-- WAITW_DEADLINE (R281): the Tide has reached the deadline; the loop's turn ends with status 0 where the word has not changed. -/
def execWaitwDeadline (wg fibre : Nat) (s : State) : Host.Outcome State Fault Refusal :=
  if ((s.wg? wg).bind (fun w => w.fibre? fibre)).any (fun x => decide (x.wait = .waitw) && decide (s.tide.toNat ≥ x.deadline)) then
    .next (s.waitwAgain wg fibre)
  else .next s

/-! Register windows. -/

/-- A legal allotment (R283, R284). -/
def legalAllot (n : Nat) : Bool := decide (n % 16 = 0) && decide (16 ≤ n) && decide (n ≤ 240)

/-- A fibre chosen to be saved at a step: it leaves its batch, and its results are written before it goes (R259, R288). -/
def Fibre.saving (at' : Nat) (x : Fibre) : Fibre := { x.voidSpin with leaving := true, yielded := false, chosenAt := at' }

/-- A fibre saved: waiting, or runnable at the tail of its queue (R260, R288); in a parked workgroup it enters the queue at the resumption. -/
def Workgroup.save (w : Workgroup) (now i : Nat) : Workgroup :=
  match w.fibre? i with
  | none => w
  | some x =>
    { w.updFibre i (fun x => { x.voidSpin.regrown with resident := false, leaving := false, queuedSince := now, yielded := false }) with
      queue := if decide (x.wait = .run) && w.queues then w.queue ++ [i] else w.queue }

/-- The lanes of an `RGROW` in ascending order (R283). DEDUCED (log 16): the extra registers fit when n - a of them do, the four bytes of each
being what 4(n - a) counts. A fibre whose window does not fit is saved, with its new allotment, once its results are written (R259). The lanes that
fail stand in the record's mask (R387). DESIGN CHOICE (log 24): value 1 of a register-window fault is n, since RGROW names no register (R388). -/
def State.growLanes (try' : Bool) (c : Ctx) : List Fibre → State → Except FaultInfo State
  | [], s => .ok s
  | x :: t, s =>
    let n := (srcB32 c x).toNat
    let w := s.wgOf c
    let upd (g : Fibre → Fibre) : State := s.updWg c.wg.key (fun w => w.updFibre x.index g)
    let status (b : Bool) (y : Fibre) : Fibre := if try' then y.setPred (predOf c.f.dst) b else y
    let illegal (y : Fibre) : Bool := !legalAllot (srcB32 c y).toNat || decide ((srcB32 c y).toNat < y.allot)
    if illegal x then .error (c.fault 5 x.index c.wordHigh c.f.srcB.toNat (laneMask ((x :: t).filter illegal)))
    else if n = x.allot then State.growLanes try' c t (upd (status true))
    else if s.fits w 0 (n - x.allot) then
      State.growLanes try' c t (upd (fun y => status true { y with allot := n, growFrom := min y.growFrom x.allot, growAge := 0 }))
    else if try' then State.growLanes try' c t (upd (status false))
    else if s.storeRoom w 1 n then State.growLanes try' c t (upd (fun y => { y.saving s.free with toAllot := n }))
    else
      let none' (y : Fibre) : Bool := let m := (srcB32 c y).toNat
        legalAllot m && decide (m > y.allot) && !s.fits w 0 (m - y.allot) && !s.storeRoom w 1 m
      .error (c.fault 6 x.index c.wordHigh n (laneMask ((x :: t).filter none')))

/-- `RGROW` (R283). -/
def execRgrow (f : Fields) (s : State) : Host.Outcome State Fault Refusal :=
  runBatch 0x10B .rgrow f s fun c t => residency c t fun u => (State.growLanes false c c.passing u).map (fun v => v.updLanes c Fibre.next)

/-- `RGROW.TRY` (R283). -/
def execRgrowTry (f : Fields) (s : State) : Host.Outcome State Fault Refusal :=
  runBatch 0x10C .rgrowTry f s fun c t => residency c t fun u => (State.growLanes true c c.passing u).map (fun v => v.updLanes c Fibre.next)

/-- `RSHRINK` (R284): it waits until no register it releases is pending. -/
def execRshrink (f : Fields) (s : State) : Host.Outcome State Fault Refusal :=
  runBatch 0x10D .rgrow f s fun c t => residency c t fun u =>
    let size (x : Fibre) : Nat := (srcB32 c x).toNat
    match c.laneFault (fun x => if !legalAllot (size x) || decide (size x > x.allot) then some (c.badOperand c.f.srcB) else none) with
    | some e => .error e
    | none =>
      if c.passing.any (fun x => x.pendV.any (fun r => decide (r ≥ size x))) then .ok u
      else .ok (u.lanewise c (fun x => { x with
          allot := size x, regs := Sparse.keep (fun r => decide (r < size x)) x.regs, poison := x.poison.filter (fun r => r < size x) }))

/-! Warp slots (R66 to R72). -/

/-- The lowest fibre of a warp slot's batch; one chosen to be saved has left it (R259, R288). -/
def Workgroup.head (w : Workgroup) (sl : Slot) : Option Fibre := w.fibres.find? (fun x => sl.lanes.contains x.index && !x.leaving)

/-- The scheduler of a slot. -/
def Slot.sched (sl : Slot) : Nat := sl.id / 16

/-- Occupied slots of a scheduler. -/
def Core.occupied (c : Core) (sched : Nat) : Nat := (c.slots.filter (fun sl => sl.sched = sched)).length

/-- The lowest free slot number of a scheduler. -/
def Core.lowestSlot (c : Core) (sched : Nat) : Option Nat :=
  ((List.range 16).map (fun i => 16 * sched + i)).find? (fun n => !c.slots.any (fun z => z.id = n))

/-- The place of a slot in its scheduler's age order, ties by position in the list. -/
def Core.place (c : Core) (z : Slot) (i : Nat) : Nat :=
  (c.slots.zipIdx.filter (fun y => decide (y.1.sched = z.sched) &&
    (decide (y.1.age < z.age) || (decide (y.1.age = z.age) && decide (y.2 < i))))).length

/-- The counters of a scheduler are 0 to *n* - 1 in their order: those above a slot that was left drop by one (R72). -/
def Core.ranked (c : Core) : Core := { c with slots := c.slots.zipIdx.map (fun z => { z.1 with age := c.place z.1 z.2 }) }

/-- Fibres put on a free slot at the back of the age order, which slots left in the same step are no longer of; none where no slot is free (R68, R72,
R262). -/
def State.takeSlot (s : State) (k : Nat) (w : Workgroup) (sl : Slot) (hwarp : Nat) (lanes : List Nat) : Option State :=
  let sched := w.scheduler hwarp
  if s.freeSlots k sched = 0 then none
  else ((s.core k).lowestSlot sched).map fun n =>
    s.updCore k (fun c => { c.ranked with slots := c.ranked.slots ++ [{ sl with id := n, wg := w.key, lanes := lanes, age := c.occupied sched }] })

/-- Fibres for which a split or a return finds no slot: to be saved (R68, R260); while the workgroup is parked they stand without one (R384). -/
def State.saveFibres (s : State) (key : Nat) (lanes : List Nat) : State :=
  s.updWg key (fun w => if w.parked.isSome then w else { w with fibres := w.fibres.map (fun x => if lanes.contains x.index then x.saving s.free else x) })

/-- A resident fibre without a slot joins a batch of its like, or takes a free slot, or is saved (R69, R262); a fibre at its entry PC
enters its line (R27). -/
def State.placeFibre (s : State) (k key i : Nat) : State :=
  match s.wg? key with
  | none => s
  | some w => match w.fibre? i with
    | none => s
    | some x =>
      match (s.core k).slots.find? (fun z => z.wg = key && (w.head z).any (fun y => decide (y.index ≠ i) && sameBatch (s.compat16 w) x y)) with
      | some z => s.updCore k (fun c => { c with slots := c.slots.map (fun q => if q.id = z.id then
          { q with lanes := insertNat i q.lanes, line := if x.fresh then none else q.line } else q) })
      | none => (s.takeSlot k w { id := 0, wg := key, lanes := [], age := 0 } x.hwarp [i]).getD (s.saveFibres key [i])

/-! The rotation unit. -/

/-- A fibre that can be saved at once: no result pending but those of the instruction at which it waits (R259, R262), and none to come from the unit for
which its batch holds (R276). -/
def Fibre.savable (x : Fibre) : Bool := x.pendV.isEmpty && x.pendP.isEmpty && decide (x.wait ≠ .answer)

/-- The candidate longest of some fibres, the lowest index on ties (the list is in ascending index). -/
def longest (since : Fibre → Nat) (l : List Fibre) : Option Fibre :=
  l.foldl (fun best x => match best with | none => some x | some b => if since x < since b then some x else some b) none

/-- *Q* in nanoseconds of Tide (R262). -/
def Core.quantumNs (c : Core) : Nat := max 16 (min 1024 c.quantum.toNat) * 1000

/-- What R262 has the unit do for a workgroup's queue head: a restore, or a save of another fibre. `slice` allows step 4. -/
def State.rotation (s : State) (w : Workgroup) (slice : Bool) : Option Transfer :=
  match w.queue with
  | [] => none
  | h :: _ =>
    match w.fibre? h with
    | none => none
    | some x =>
      let now := s.tide.toNat
      let q := (s.core w.core).quantumNs
      let here := w.fibres.filter (fun y => y.resident && !y.leaving && y.savable)
      let waiting := here.filter (fun y => decide (y.wait ≠ .run) && decide (y.wait ≠ .answer))
      let yielding := here.filter (fun y => decide (y.wait = .run) && y.yielded)
      let running := here.filter (fun y => decide (y.wait = .run) && !y.yielded)
      if s.freeContext w x then some { wg := w.key, fibre := h, save := false }
      else match longest (fun y => y.candidateSince) waiting with
        | some y => some { wg := w.key, fibre := y.index, save := true }
        | none => match longest (fun y => y.candidateSince) yielding with
          | some y => some { wg := w.key, fibre := y.index, save := true }
          | none =>
            if slice && decide (now ≥ x.queuedSince + q) then
              match longest (fun y => y.residentSince) running with
              | some y => if now ≥ y.residentSince + q then some { wg := w.key, fibre := y.index, save := true } else none
              | none => none
            else none

/-- The unit of a core may start a transfer for a workgroup (R262, R384): one transfer at a time, none while parked or held. -/
def State.mayRotate (s : State) (core : Nat) (w : Workgroup) : Bool :=
  decide (w.core = core) && w.parked.isNone && decide (w.preempt = .running ∨ w.preempt = .draining) && (s.core core).transfer.isNone

/-- A transfer started: a fibre to be saved is out of its batch from now (R288). -/
def State.startTransfer (s : State) (core wg : Nat) (slice : Bool) : State :=
  match s.wg? wg with
  | none => s
  | some w =>
    if !s.mayRotate core w then s
    else match s.rotation w slice with
      | none => s
      | some t => (s.updCore core (fun c => { c with transfer := some t })).updWg wg (fun w => if t.save then w.updFibre t.fibre (Fibre.saving s.free) else w)

/-- Resident fibres of a core's workgroups that a split, an `RGROW` or a decision has chosen to be saved, each with its workgroup, where the unit may move
them (R259, R384). -/
def State.leaving (s : State) (core : Nat) : List (Workgroup × Fibre) :=
  (s.wgs.filter (fun w => decide (w.core = core) && w.parked.isNone && decide (w.preempt = .running ∨ w.preempt = .draining))).flatMap (fun w =>
    (w.fibres.filter (fun x => x.leaving && x.resident && x.savable)).map (fun x => (w, x)))

/-- The unit, between two transfers, starts the save of the fibre that was chosen first, before it decides anew (R262). DESIGN CHOICE (log 24): of those
whose results are written; a fibre whose results are not does not hold back the transfers decided after it. -/
def State.startSave (s : State) (core : Nat) : State :=
  if (s.core core).transfer.isSome then s
  else match (s.leaving core).foldl (fun (best : Option (Workgroup × Fibre)) e => match best with
      | none => some e
      | some b => if e.2.chosenAt < b.2.chosenAt then some e else some b) none with
    | none => s
    | some (w, x) => s.updCore core (fun c => { c with transfer := some { wg := w.key, fibre := x.index, save := true } })

/-- ROTATION_DECISION (R262, steps 1 to 3 and 5). -/
def execRotationDecision (core wg : Nat) (s : State) : Host.Outcome State Fault Refusal := .next (s.startTransfer core wg false)

/-- ROTATION_QUANTUM_EXPIRY (R262, step 4). -/
def execRotationQuantumExpiry (core wg : Nat) (s : State) : Host.Outcome State Fault Refusal := .next (s.startTransfer core wg true)

/-- A fibre as its record in the rotation store has it (R257, R260): its PC, predicates and window, from the pieces whose page has a valid entry; a
register of a piece without one is as it was. -/
def State.fromRecord (s : State) (w : Workgroup) (x : Fibre) : Fibre :=
  match x.stored, w.storeArea, s.launch? w.launch with
  | some (o, _), some k, some l =>
    let word (i : Nat) : Option (Word × Bool) :=
      match s.translate l.space (l.storeBase + k * l.storeArea + o + 4 * i) with
      | .ok (pa, _) => some (s.mem.word pa, s.poisonedAt (pa / 4))
      | .error _ => none
    let head (i : Nat) : Option Nat := (word i).map (fun v => v.1.toNat)
    let y := match head 0, head 1, head 2 with
      | some a, some b, some p => { x with pc := BitVec.ofNat 64 (a + b * 2 ^ 32), preds := BitVec.ofNat 16 p }
      | _, _, _ => x
    (List.range x.allot).foldl (fun y r => match word (4 + r) with
      | some (v, bad) => if y.reg r = v && !bad then y else y.setRegP r v (bad || y.poison.contains r)
      | none => y) y
  | _, _, _ => x

/-- The lines of other packages that hold the record of a fibre to be restored and that have not come (R19; log 18). -/
def State.recordLacks (s : State) (tr : Transfer) : List Nat :=
  match (s.wg? tr.wg).bind (fun w => (w.fibre? tr.fibre).map (fun x => (w, x))) with
  | none => []
  | some (w, x) => match x.stored, w.storeArea, s.launch? w.launch with
    | some (o, bytes), some k, some l =>
      s.lacking (.restore tr.wg tr.fibre) ((List.range (bytes.length / 16)).filterMap (fun i =>
        match s.translate l.space (l.storeBase + k * l.storeArea + o + 16 * i) with
        | .ok (pa, _) => some (pa / 128)
        | .error _ => none))
    | _, _, _ => []

/-- ROTATION_TRANSFER_DONE (R260, R262, R288): the fibre enters its new state; one restored has its window loaded from its record, once the lines of it
that other packages have to send have come, and joins a batch or takes the slot reserved for it before any other can. -/
def execRotationTransferDone (core : Nat) (s0 : State) : Host.Outcome State Fault Refusal :=
  match (s0.core core).transfer with
  | none => .next s0
  | some tr =>
    if !tr.save && !(s0.recordLacks tr).isEmpty then .next (s0.askLines (.restore tr.wg tr.fibre) (s0.recordLacks tr)) else
    let s := s0.readOver (fun r => decide (r = .restore tr.wg tr.fibre))
    let s1 := s.updCore core (fun c => { c with transfer := none })
    .next (if tr.save then s1.updWg tr.wg (fun w => w.save s.tide.toNat tr.fibre)
      else (s1.updWg tr.wg (fun w =>
        { w.updFibre tr.fibre (fun x => { s1.fromRecord w x with resident := true, residentSince := s.tide.toNat }) with
          queue := w.queue.filter (fun i => i ≠ tr.fibre) })).placeFibre core tr.wg tr.fibre)

/-- SPIN_TIMEOUT (R266): a spinning fibre runs again at its branch target; for the watchdog it counts as not woken (R400). -/
def execSpinTimeout (wg fibre : Nat) (s : State) : Host.Outcome State Fault Refusal :=
  match (s.wg? wg).bind (fun w => w.fibre? fibre) with
  | none => .next s
  | some x =>
    if x.wait ≠ .spinning then .next s
    else
      let quiet := some (x.pc, x.spin.branch)
      let last := ((s.wg? wg).map (fun w => w.lastActive)).getD 0
      let s1 := s.wakeWg wg (fun y => y.index = fibre) (fun y => y)
      .next (s1.updWg wg (fun w => { w.updFibre fibre (fun y => { y with quiet := quiet }) with lastActive := last }))

end Sys2Proof.Machine
end

