-- ==== Sys2Proof/Machine/Edges.lean ====
section
/-! DEFINITION. What comes back to a core (R28, R76, R193, R204, R226), and the package at its edges: the host (R471 to R475),
management (R476, R477), resets and bring-up (R478 to R481), soft errors (R484), power (R485, R486). -/

namespace Sys2Proof.Machine

/-! What comes back to a core. -/

/-- LOAD_DATA_RETURN (R204): what is on its way to a core arrives, its loads performed by now and written, their pending bits cleared. -/
def execLoadDataReturn (core i : Nat) (s : State) : Host.Outcome State Fault Refusal := .next (s.returnLoad core i)

/-- HOME_WRITE_PERFORMED (R185, R186, R226): the `i`-th line of a core's L1 leaves it where it is the victim of its full set, its dirty words performed
at their home. -/
def execHomeWritePerformed (core i : Nat) (s : State) : Host.Outcome State Fault Refusal :=
  match (s.core core).l1[i]? with
  | none => .next s
  | some l => .next (if (s.core core).l1Victim l.line = some l.line then s.l1Evict core l.line else s)

/-- PAGE_WALK_COMPLETE (R193): a translation the walker has found is held. -/
def execPageWalkComplete (space va : Nat) (s : State) : Host.Outcome State Fault Refusal := .next (s.noteTlb space va)

/-- The fault of a batch that enters a line (R27, R28, R76): checks 1 to 5, then for fibres at their entry PC the target mask. -/
def lineEntryFault (w : Workgroup) (sl : Slot) (x : Fibre) (line : Except Nat (BitVec 512)) : Option FaultInfo :=
  match entryFault line x.pc x.index (laneMask (w.fibres.filter (fun y => sl.lanes.contains y.index))) with
  | some e => some e
  | none =>
    let fresh := w.fibres.filter (fun y => sl.lanes.contains y.index && y.fresh)
    match fresh, line with
    | y :: _, .ok b => if targetBit b (pcSlot x.pc) then none
        else some { cls := 4, pc := x.pc, fibre := y.index, body := x.pc.toNat + (laneMask fresh).toNat * 2 ^ 96 }
    | _, _ => none

/-- LINE_FETCH_RETURN (R28, R76): the line a batch enters is checked whole, and latched for its slot or at fault. -/
def execLineFetchReturn (core slot : Nat) (s : State) : Host.Outcome State Fault Refusal :=
  match (s.core core).slots.find? (fun sl => sl.id = slot) with
  | none => .next s
  | some sl => match s.wg? sl.wg with
    | none => .next s
    | some w => match w.head sl with
      | none => .next s
      | some x =>
        let l := (s.launch? w.launch).getD { lseq := w.launch, kind := .packet }
        let who : Reader := .batch w.key x.index
        let far := s.lacking who (s.farCode l x.pc).toList
        if !far.isEmpty then .next (s.askLines who far) else
        let line := s.fetchLine l x.pc
        match lineEntryFault w sl x line, line with
        | some e, _ => .next (s.park w.key { e with lanes := sl.lanes })
        | none, .error _ => .next s
        | none, .ok b =>
          let s1 := (s.noteTlb l.space (pcOf (pcLine x.pc) 0).toNat).readOver (fun r => decide (r = who))
          let s2 := s1.updCore core (fun c => { c with slots := c.slots.map (fun z => if z.id = slot then { z with line := some (pcLine x.pc, b) } else z) })
          .next (s2.updWg w.key (fun w => { w with fibres := w.fibres.map (fun y => if sl.lanes.contains y.index then { y with fresh := false } else y) }))

/-! The host (R471 to R475). -/

/-- An address of this package that the HDM decoders present (R473), or host memory, whose contents the host writes itself (log 3). -/
def hostReaches (pa n : Nat) : Bool :=
  match paTier pa with
  | 0 => decide (paPackage pa = Config.package) && decide (paOffset pa + n ≤ Config.hbmBytes - Config.reservedHbmBytes)
  | 1 => decide (paPackage pa = Config.package) && decide (paOffset pa + n ≤ Config.tierTwoBytes)
  | 2 => true
  | _ => false

/-- CXL_MEM_ACCESS (R473, R479): a host read or write performed at the home; during a wipe reads are poisoned and writes discarded. The host's own
store to host memory finds no copy in the package (R474). -/
def execCxlMemAccess (pa : Nat) (data : Option (List Byte)) (length : Nat) (s : State) : Host.Outcome State Fault Refusal :=
  let device := decide (paTier pa ≠ 2)
  match data with
  | none =>
    if !hostReaches pa length then .next (s.say .error)
    else if device && !s.memActive then .next (s.say (.memRead pa (List.replicate length 0) true))
    else let r := s.homeRead pa length; .next (s.say (.memRead pa r.1 r.2))
  | some bytes =>
    if !hostReaches pa bytes.length then .next (s.say .error)
    else if device && !s.memActive then .next s
    else
      let t := s.homeWrite .other 0 (cellsOf pa bytes)
      .next (if device then t else (distinct ((cellsOf pa bytes).map (fun e => e.1 / 128))).foldl (fun u n => u.cleanHost n true) t)

/-- CXL_CACHE_SNOOP (R474): the merged bytes of a host line, left clean. A snoop for the host's own use alone finds nothing held after. -/
def execCxlCacheSnoop (pa : Nat) (exclusive : Bool) (s : State) : Host.Outcome State Fault Refusal :=
  let line := pa / 128
  .next ((s.cleanHost line exclusive).say (.snoop (line * 128) (s.mem.read (line * 128) 128) (s.holdsDirty line)))

/-- The code of a life-cycle state (R481). -/
def LifeCycle.code : LifeCycle → Nat
  | .manufacture => 0
  | .provisioned => 1
  | .deployed => 2
  | .returned => 3

/-- Device status (R472). -/
def State.deviceStatus (s : State) : Nat := s.ready.toNat + 2 * s.memActive.toNat + 4 * s.wiping.toNat + 8 * s.lifeCycle.code

/-- The 32-bit word of BAR0 at an offset, as the host reads it (R448, R472); a notify register reads as its queue's write index (log 22). A read changes
nothing, so it is no step of the machine. -/
def State.bar0Word (s : State) (o : Nat) : Word :=
  if o = 0 then halfOf s.queueBase false
  else if o = 4 then halfOf s.queueBase true
  else if o = 8 then s.queueCount
  else if 0x1000 ≤ o ∧ o < 0x1000 + 8 * s.queueCount.toNat ∧ o % 8 = 0 then BitVec.ofNat 32 (s.queueField ((o - 0x1000) / 8) 20 4)
  else if 0x4000 ≤ o ∧ o < 0x8000 then s.csrRead .host ((o - 0x4000) / 4)
  else if o = 0x8000 then BitVec.ofNat 32 s.deviceStatus
  else if o = 0x8004 then BitVec.ofNat 32 (Config.reservedHbmBytes / 2 ^ 30)
  else if o = 0x8008 then BitVec.ofNat 32 (Config.tierTwoBytes / 2 ^ 30)
  else 0

/-- A host read of BAR0 (R472): of 4 or 8 bytes, aligned; any other reads as all ones. -/
def State.bar0Read (s : State) (o n : Nat) : Nat :=
  if o % n ≠ 0 then 2 ^ (8 * n) - 1
  else if n = 4 then (s.bar0Word o).toNat
  else if n = 8 then (s.bar0Word o).toNat + (s.bar0Word (o + 4)).toNat * 2 ^ 32
  else 2 ^ (8 * n) - 1

/-! Management (R476, R477). The layouts of arguments and answers are the model's (log 15). -/

/-- MGMT_READ_BLACK_BOX (R403, R476): entries of a die from an index on. -/
def execMgmtReadBlackBox (die first count : Nat) (s : State) : Host.Outcome State Fault Refusal :=
  if die ≥ Config.dies then .next (s.say .error)
  else .next (s.say (.management ((List.range count).flatMap (fun i => bytesOf 32 (s.boxEntry die ((first + i) % 4096))))))

/-- A management command other than 0x01, which the hub does not answer in recovery (R482). -/
def State.managed (s : State) (o : Host.Outcome State Fault Refusal) : Host.Outcome State Fault Refusal := if s.recovery then .next s else o

/-- The figures of a power reading in watts (R485): the package's, each die's, the hub's. -/
def State.powerFigures (s : State) : List Nat := (List.range (Config.dies + 2)).map (Config.power s.free)

/-- MGMT_READ_POWER (R485): the figures, 4 bytes each (log 15). -/
def execMgmtReadPower (s : State) : Host.Outcome State Fault Refusal :=
  s.managed (.next (s.say (.management (s.powerFigures.flatMap (bytesOf 4)))).drawn)

/-- MGMT_READ_COUNTERS (R476): the drop count, the retry counts of the Colnal and the Strand ports, and the ECC counts, 8 bytes each (log 15). -/
def execMgmtReadCounters (s : State) : Host.Outcome State Fault Refusal :=
  s.managed (.next (s.say (.management ([s.drops, s.colnalRetries, s.strandRetries, s.eccCorrected, s.eccPoisoned].flatMap (bytesOf 8)))))

/-- MGMT_WRITE_PEER (R439, R477): the peer's number, then its entry; segments that have left keep the entry they left with. -/
def execMgmtWritePeer (bytes : List Byte) (s : State) : Host.Outcome State Fault Refusal :=
  s.managed (match bytes with
    | k :: entry =>
      if k.toNat > 63 ∨ entry.length < 8 ∨ entryPort entry > 7 then .next (s.say .error)
      else .next (s.updPeer k.toNat (fun p => { p with entry := entry, up := p.up || !p.valid, valid := true }))
    | _ => .next (s.say .error))

/-- MGMT_INSTALL_KEY (R440, R477): the peer, the direction (0 transmit, 1 receive), the key; the previous key is kept beside it. Packet numbers of a
key begin at 1. -/
def execMgmtInstallKey (bytes : List Byte) (s : State) : Host.Outcome State Fault Refusal :=
  s.managed (match bytes with
    | k :: d :: key =>
      if k.toNat > 63 ∨ d.toNat > 1 ∨ key.length ≠ 32 then .next (s.say .error)
      else .next (s.updPeer k.toNat (fun p =>
        if d = 0 then { p with txKeys := (key, 1) :: p.txKeys.take 1 } else { p with rxKeys := (key, 0) :: p.rxKeys.take 1 }))
    | _ => .next (s.say .error))

/-- MGMT_PEER_UP (R442). -/
def execMgmtPeerUp (peer : Nat) (s : State) : Host.Outcome State Fault Refusal :=
  s.managed (if peer > 63 then .next (s.say .error) else .next (s.updPeer peer (fun p => { p with up := true })))

/-- MGMT_PEER_DOWN (R442, R477). -/
def execMgmtPeerDown (peer : Nat) (s : State) : Host.Outcome State Fault Refusal :=
  s.managed (if peer > 63 then .next (s.say .error) else .next (s.peerDown peer))

/-! Resets (R478 to R480). -/

/-- Memory without what only an L2 held: lines of host memory as the host has them (R474, R478). -/
def State.hostMemory (s : State) : Bytes :=
  s.hostDirty.foldl (fun m e => (cellsOf (e.1 * 128) e.2.1).foldl (fun m c => Sparse.set 0 m c.1 c.2) m) s.mem

/-- The poison of memory without what only an L2 held. -/
def State.keptPoison (s : State) : List Nat :=
  (s.hostDirty.flatMap (fun e => e.2.2.map (fun w => e.1 * 32 + w))).foldl (fun p w => insertNat w p)
    (s.memPoison.filter (fun w => !s.l2Poison.contains w && !s.holdsDirty (w / 32)))

/-- The state after a reset, with what outlives every reset: what the memories hold (a wipe follows where R479 has one), the fused life
cycle, the hub's own power domain, and the model's fields. -/
def State.afterReset (s : State) : State :=
  { State.reset with
    mem := s.hostMemory, memPoison := s.keptPoison, compCodes := s.compCodes
    blackBox := s.blackBox, blackBoxWp := s.blackBoxWp, lifeCycle := s.lifeCycle, lifeCyclePending := s.lifeCyclePending
    identityKey := s.identityKey, i3cAddress := s.i3cAddress
    firmware := s.firmware, flash := s.flash, rollback := s.rollback
    free := s.free, inputs := s.inputs, outputs := s.outputs, nextKey := s.nextKey }

/-- A reset that has ended without a wipe: its entry, and the interrupt of the changed status (R475, R478). -/
def State.resetEnded (s : State) : State := (s.log 10 0x3FF 0 0 0 0 0).say (.msix 3)

/-- A byte of this package's HBM or tier two, which its wipes zero; host memory and the memories of other packages are not. -/
def ownByte (pa : Nat) : Bool := decide (paTier pa < 2) && decide (paPackage pa = Config.package)

/-- HBM and tier two with every byte and compression code zero; the writes take every owned mark of their words (R228, R479). -/
def State.wiped (s : State) : State :=
  { s with
    mem := Sparse.keep (fun a => !ownByte a) s.mem, memPoison := s.memPoison.filter (fun w => !ownByte (4 * w))
    l2Poison := s.l2Poison.filter (fun w => !ownByte (4 * w))
    compCodes := Sparse.keep (fun b => !ownByte (256 * b)) s.compCodes, owners := Sparse.keep (fun w => !ownByte (4 * w)) s.owners
    cores := s.cores.map (fun e => (e.1, { e.2 with l1 := e.2.l1.map (fun l => if ownByte (l.line * 128) then { l with owned := 0 } else l) })) }

/-- A wipe begun (R479): memory is inactive until it ends. -/
def State.startWipe (s : State) : State := { s.wiped with memActive := false, wiping := true }

/-- Peers after a tenant reset: entries and keys stay, what they held in flight is discarded. -/
def keptPeers (p : Sparse Peer) : Sparse Peer := p.map (fun e => (e.1, { e.2 with unacked := [], received := [] }))

/-- Colnal ports after a tenant reset: kept up, with no packet left to send. -/
def keptLinks (l : Sparse Link) : Sparse Link := l.map (fun e => (e.1, { e.2 with queue := e.2.queue.filter (fun q => q.1 ≠ 3) }))

/-- The boot ROM loads the image it finds (R482): its signature verifies, its version is no older than the fused counter, the life cycle permits it. -/
def State.imageLoads (s : State) : Bool :=
  s.firmware.verifies && decide (s.firmware.version ≥ s.rollback) && s.firmware.permits.contains s.lifeCycle.code

/-- A failing image leaves the hub in recovery: bring-up goes no further than its first step (R480, R482). -/
def State.recover (s : State) : State := { s with recovery := true, ready := false, memActive := false, wiping := false, linksDown := true }

/-- The machine through a warm reset (R478): memories keep their contents, unless a life-cycle step came before, which now takes effect (R481); a wipe
and a bring-up under way go on. The ports train once memory has been wiped (R480). -/
def State.warmReset (s : State) : State :=
  let s1 : State := { s.afterReset with tide := s.tide, untimed := s.untimed, lifeCycle := s.lifeCyclePending.getD s.lifeCycle, lifeCyclePending := none }
  if !s1.imageLoads then s1.recover
  else if s.lifeCyclePending.isSome then ({ s1 with ready := false, linksDown := true } : State).startWipe
  else if s.wiping || s.untimed then { s1 with ready := false, memActive := false, wiping := s.wiping, linksDown := s.wiping }
  else s1.resetEnded

/-- MGMT_TENANT_RESET (R478). -/
def execMgmtTenantReset (s : State) : Host.Outcome State Fault Refusal :=
  s.managed (.next ({ s.afterReset with
    tide := s.tide, peers := keptPeers s.peers, links := keptLinks s.links, untimed := s.untimed, linksDown := s.linksDown, ready := false } : State).startWipe)

/-- MGMT_WARM_RESET (R478). -/
def execMgmtWarmReset (s : State) : Host.Outcome State Fault Refusal := s.managed (.next s.warmReset)

/-- CXL_CONVENTIONAL_RESET (R478): a warm reset. -/
def execCxlConventionalReset (s : State) : Host.Outcome State Fault Refusal := .next s.warmReset

/-- Bring-up from its first step (R480, R482): an image that loads is followed by the wipe. -/
def State.bringUp (s : State) : State := if s.imageLoads then ({ s with ready := false, linksDown := true } : State).startWipe else s.recover

/-- A cold reset with the hub's own domain kept (R478, R480): the boot ROM finds the image that the flash then holds, and the Tide, from 0 again, has
still to be synchronised. -/
def State.coldReset (s : State) : State :=
  ({ s.afterReset with firmware := s.flash.headD s.firmware, flash := s.flash.tail, untimed := true } : State).bringUp

/-- COLD_RESET (R478, R480, R482): power applied; the black-box record is cleared. -/
def execColdReset (s : State) : Host.Outcome State Fault Refusal :=
  .next ({ s with blackBox := [], blackBoxWp := [], i3cAddress := 0 } : State).coldReset

/-- THERMAL_TRIP (R486): the trip's entry, then a cold reset that keeps the record. -/
def execThermalTrip (s : State) : Host.Outcome State Fault Refusal := .next ({ s.log 10 0x3FF 0 0 0 0 0 with i3cAddress := 0 } : State).coldReset

/-- POWER_REMOVED: nothing of the package is left but its fuses. -/
def execPowerRemoved (s : State) : Host.Outcome State Fault Refusal :=
  .next { s.afterReset.wiped with
    blackBox := [], blackBoxWp := [], i3cAddress := 0, ready := false, memActive := false, powered := false }

/-- The end of a wipe or a bring-up (R475, R479, R480): status bit 1, then after a reset bit 0 and the reset's entry. -/
def State.broughtUp (s : State) : State :=
  let s1 : State := { s with memActive := true }
  if s1.ready then s1.say (.msix 3) else ({ s1 with ready := true } : State).resetEnded

/-- WIPE_DONE (R475, R479, R480): the ports train; a cold bring-up goes on once the Tide is synchronised as well. -/
def execWipeDone (s : State) : Host.Outcome State Fault Refusal :=
  if !s.wiping then .next s
  else
    let s1 : State := { s with wiping := false, linksDown := false }
    .next (if s.untimed then s1.say (.msix 3) else s1.broughtUp)

/-- The next life-cycle state (R481): manufacture is left once the device identity key is fused. -/
def State.nextLife (s : State) : Option LifeCycle :=
  match s.lifeCycle with
  | .manufacture => if s.identityKey then some .provisioned else none
  | .provisioned => some .deployed
  | .deployed => some .returned
  | .returned => none

/-- MGMT_LIFE_CYCLE_STEP (R479, R481): the fuse is written, peers and keys are cleared, memory is wiped; the state changes at the next warm
reset. -/
def execMgmtLifeCycleStep (bytes : List Byte) (s : State) : Host.Outcome State Fault Refusal :=
  s.managed (match s.lifeCyclePending, s.nextLife with
    | none, some n =>
      if bytes.isEmpty then
        let s1 := (List.range 64).foldl (fun t k => t.peerDown k) s
        .next ({ s1 with lifeCyclePending := some n, peers := [] } : State).startWipe
      else .next (s.say .error)
    | _, _ => .next (s.say .error))

/-- The measurements of R483 that the machine holds: 2, of the hub firmware its version; 4, life-cycle state and anti-rollback counter; 5, the peer
table without keys. The images of 1 to 3 and the signatures are the free answer's own (log 15). -/
def State.measurements (s : State) : List (List Byte) :=
  [bytesOf 4 s.firmware.version, bytesOf 1 s.lifeCycle.code ++ bytesOf 4 s.rollback,
    s.peers.flatMap (fun e => bytesOf 1 e.1 ++ bytesOf 1 e.2.valid.toNat ++ e.2.entry)]

/-- SPDM_MESSAGE (R483): answered from the message and the measurements. -/
def execSpdmMessage (bytes : List Byte) (s : State) : Host.Outcome State Fault Refusal :=
  .next (s.say (.spdm (Config.spdmAnswer s.free bytes s.measurements))).drawn

/-- MCTP_CONTROL_MESSAGE (R476): answered; the answer's bytes are not given. -/
def execMctpControlMessage (bytes : List Byte) (s : State) : Host.Outcome State Fault Refusal :=
  s.managed (.next (s.say (.mctp (Config.answerBytes (s.free + ofBytes bytes)))).drawn)

/-- I3C_DYNAMIC_ADDRESS_ASSIGNMENT (R476). -/
def execI3cDynamicAddressAssignment (address : BitVec 7) (s : State) : Host.Outcome State Fault Refusal := .next { s with i3cAddress := address }

/-! Soft errors, limits, the Tide. -/

/-- BLOCK_LOCAL_LIMIT (R22, R485): the block lowers its own frequency; results do not change. DESIGN CHOICE (log 22): the spec numbers no blocks; the
entry carries core 0x3FF and goes to the record of die 0, for a block of a core or of another die too. -/
def execBlockLocalLimit (block : Nat) (s : State) : Host.Outcome State Fault Refusal :=
  .next (({ s with limited := insertNat block s.limited } : State).log 7 0x3FF 0 0 0 0 block)

/-- An error that has come to light (R403, R484): corrected, with an entry of kind 5; or beyond correction, with an entry of kind 6 and the poison that
`mark` leaves. -/
def State.eccFound (s : State) (beyond : Bool) (core wg addr : Nat) (mark : State → State) : State :=
  if beyond then (mark ({ s with eccPoisoned := s.eccPoisoned + 1 } : State)).log 6 core 0 0 wg addr 0
  else ({ s with eccCorrected := s.eccCorrected + 1 } : State).log 5 core 0 0 wg addr 0

/-- The bytes of a block that its home stores (R196, R197). -/
def storedBytes (code : Nat) : Nat := if code = 8 then 0 else if 1 ≤ code ∧ code < 8 then 32 * code else 256

/-- Marks of the two 4-byte words of the aligned 8 bytes that ECC guards together (R484). -/
def markPair (n : Nat) (l : List Nat) : List Nat := insertNat (n / 2 * 2) (insertNat (n / 2 * 2 + 1) l)

/-- An error in a workgroup's own state, on its core. -/
def State.wgError (s : State) (beyond : Bool) (key : Nat) (mark : Workgroup → Workgroup) : State :=
  match s.wg? key with
  | none => s
  | some w => s.eccFound beyond w.core w.wgid 0 (fun t => t.updWg key mark)

/-- One error (R93, R199, R484): in a raw block the words of the sector are poisoned, in a compressed block, or in a code, all 64 of the block; what no
sector stores affects nothing. On the chip it is the aligned 8 bytes in which it lies: of a codebook four entries, of a front bank four
counters, of a brush a word of its image. -/
def State.softError (s : State) (e : SoftError) : State :=
  let block (b : Nat) : List Nat := (List.range 64).map (fun i => b * 64 + i)
  match e.place with
  | .memory pa =>
    let code := Sparse.get 0 s.compCodes (pa / 256)
    if !servedHere pa 1 || decide (pa % 256 ≥ storedBytes code) then s
    else s.eccFound e.beyond 0x3FF 0 (pa / 4 * 4) (State.poisonWords (if code = 0 then (List.range 8).map (fun i => pa / 32 * 8 + i) else block (pa / 256)))
  | .code b => if !servedHere (256 * b) 1 then s else s.eccFound e.beyond 0x3FF 0 (256 * b) (State.poisonWords (block b))
  | .register key fibre n => s.wgError e.beyond key (fun w => w.updFibre fibre (fun x => if n < x.allot then { x with poison := markPair n x.poison } else x))
  | .scalar key n => s.wgError e.beyond key (fun w => { w with scalarPoison := markPair n w.scalarPoison })
  | .special key n => s.wgError e.beyond key (fun w => { w with srPoison := insertNat n w.srPoison })
  | .scratch k n => s.eccFound e.beyond k 0 (4 * n) (fun t => t.updCore k (fun c => { c with scratchPoison := markPair n c.scratchPoison }))
  | .tile k n => s.eccFound e.beyond k 0 (4 * n) (fun t => t.updCore k (fun c => { c with tilePoison := markPair n c.tilePoison }))
  | .acc k n => s.eccFound e.beyond k 0 (4 * n) (fun t => t.updCore k (fun c => { c with accPoison := markPair n c.accPoison }))
  | .l1 k line n =>
    if (s.l1Line? k line).isNone ∨ n ≥ 32 then s
    else s.eccFound e.beyond k 0 (128 * line + 4 * n) (fun t => t.l1Upd k line (fun l => { l with poison := markPair n l.poison }))
  | .rdc die line n =>
    if !s.rdc.any (fun r => r.die = die && r.line = line) ∨ n ≥ 32 then s
    else s.eccFound e.beyond 0x3FF 0 (128 * line + 4 * n) (fun t => { t with
      rdc := t.rdc.map (fun r => if r.die = die && r.line = line then { r with poison := markPair n r.poison } else r) })
  | .l2 pa =>
    if !s.l2.any (fun x => x.line = pa / 128) then s
    else s.eccFound e.beyond 0x3FF 0 (pa / 4 * 4) (State.poisonL2 [pa / 8 * 2, pa / 8 * 2 + 1])
  | .bank k bank n => s.eccFound e.beyond k 0 0 (fun t => t.updCore k (fun c => c.setBank bank (fun b => { b with poison := insertNat (n / 4) b.poison })))
  | .book key n => s.wgError e.beyond key (fun w => { w with
      bookPoison := (List.range 4).foldl (fun l i => insertNat (n / 4 * 4 + i) l) w.bookPoison })
  | .pattern key n => s.wgError e.beyond key (fun w => { w with patternPoison := insertNat (n / 8) w.patternPoison })
  | .brush key h n => s.wgError e.beyond key (fun w =>
      if (w.brush? h).isSome && decide (n < 160) then { w with brushPoison := insertNat (160 * h + n) w.brushPoison } else w)
  | .pkgBrush h n =>
    if (Sparse.get none s.pkgBrushes h).isNone || decide (n ≥ 160) then s
    else s.eccFound e.beyond 0x3FF 0 0 (fun t => { t with pkgBrushPoison := insertNat (160 * h + n) t.pkgBrushPoison })
  | .cove i n => match s.packets[i]? with
    | none => s
    | some p => s.eccFound e.beyond 0x3FF 0 0 (fun t => t.updPacket p.order (fun q => { q with poison := markPair n q.poison }))

/-- PATROL_SCRUB (R484): the errors that the scrub of HBM, or a read of any memory of the package, has found. -/
def execPatrolScrub (errors : List SoftError) (s : State) : Host.Outcome State Fault Refusal := .next (errors.foldl State.softError s)

/-- TIDE_SYNCHRONISATION (R18, R480): the Tide never goes back; a cold bring-up that waits for it ends. One that comes before the wipe has ended is not the
one of step 4. -/
def execTideSynchronisation (value : BitVec 64) (s : State) : Host.Outcome State Fault Refusal :=
  let t : State := { s with tide := if s.tide.toNat ≤ value.toNat then value else s.tide, untimed := s.untimed && (s.wiping || s.recovery) }
  .next (if s.untimed && !s.wiping && !s.recovery && !s.ready then t.broughtUp else t)

end Sys2Proof.Machine
end

