-- ==== Sys2Proof/Machine/Float.lean ====
section
/-! DEFINITION. The floating-point and special-function instructions and the postfix evaluator (R142 to R157). -/

namespace Sys2Proof.Machine

/-- A value with a negation modifier (R146). -/
def negIf (b : Bool) (x : XReal) : XReal := if b then x.neg else x

/-- Addition, multiplication or fused multiply-add of one element of a format, with its negations and mode (R146). -/
inductive Arith where
  | add | mul | mac
  deriving DecidableEq, Repr

def arith (k : Arith) (fmt : Fmt) (f : Fields) (a b c : Nat) : Nat × Flags :=
  let x := negIf (f.mod 2) (fmt.value a)
  let y := negIf (f.mod 3) (fmt.value b)
  match k with
  | .add => fAdd fmt f.mode x y
  | .mul => fMul fmt f.mode x y
  | .mac => fMac fmt f.mode x y (negIf (f.mod 4) (fmt.value c))

/-- FP32 operands and result. -/
def fp32 (g : Fields → Nat → Nat → Nat → Nat × Flags) (c : Ctx) (x : Fibre) : Fibre × Flags :=
  let r := g c.f (srcF32 c x c.f.srcA).toNat (srcBF32 c x).toNat (srcF32 c x c.f.srcC).toNat
  (x.set32 c.f.dst (BitVec.ofNat 32 r.1), r.2)

/-- Packed operands and result of a 16-bit format. -/
def fpPacked (fmt : Fmt) (g : Fields → Nat → Nat → Nat → Nat × Flags) (c : Ctx) (x : Fibre) : Fibre × Flags :=
  let r := onHalves (g c.f) (srcPacked fmt c x c.f.srcA) (srcBPacked fmt c x) (srcPacked fmt c x c.f.srcC)
  (x.set32 c.f.dst r.1, r.2)

/-- FP64 operands and result. -/
def fp64 (g : Fields → Nat → Nat → Nat → Nat × Flags) (c : Ctx) (x : Fibre) : Fibre × Flags :=
  let r := g c.f (srcF64 c x c.f.srcA).toNat (srcBF64 c x).toNat (srcF64 c x c.f.srcC).toNat
  (x.set64 c.f.dst (BitVec.ofNat 64 r.1), r.2)

/-- An operation on A alone, FP32 or FP64. -/
def fpUn32 (g : Fields → Word → Nat × Flags) (c : Ctx) (x : Fibre) : Fibre × Flags :=
  let r := g c.f (srcF32 c x c.f.srcA)
  (x.set32 c.f.dst (BitVec.ofNat 32 r.1), r.2)
def fpUn64 (g : Fields → DWord → Nat × Flags) (c : Ctx) (x : Fibre) : Fibre × Flags :=
  let r := g c.f (srcF64 c x c.f.srcA)
  (x.set64 c.f.dst (BitVec.ofNat 64 r.1), r.2)

/-- The choice of `FMIN` and `FMAX`: no flag (R148). -/
def chooseOf (fmt : Fmt) (isMax : Bool) (f : Fields) (a b _c : Nat) : Nat × Flags := (fMinMax fmt isMax (f.mod 0) a b, .none)

/-- One element's comparison (R149). -/
def compareFp (fmt : Fmt) (f : Fields) (a b : Nat) : Bool := fCompare fmt (f.modBits 0 3) (f.mod 5) a b

/-- The combined predicate (R149). -/
def combined (c : Ctx) (x : Fibre) (t : Bool) : Bool := combine (c.f.modBits 3 2) t (x.pred (predOf c.f.srcC))

/-- A packed comparison: element 0 to p[D], element 1 to p[D + 1] (R149). -/
def comparePacked (fmt : Fmt) (c : Ctx) (x : Fibre) : Fibre :=
  let a := (srcPacked fmt c x c.f.srcA).toNat
  let b := (srcBPacked fmt c x).toNat
  let t0 := combined c x (compareFp fmt c.f (a % 2 ^ 16) (b % 2 ^ 16))
  let t1 := combined c x (compareFp fmt c.f (a / 2 ^ 16) (b / 2 ^ 16))
  (x.setPred (predOf c.f.dst) t0).setPred (predOf c.f.dst + 1) t1

/-- A class word ANDed with the mask of the immediate (R150). -/
def classOf (fmt : Fmt) (f : Fields) (a : Nat) : Nat := fClass fmt a &&& f.immBits 0 9
def classPacked (fmt : Fmt) (c : Ctx) (x : Fibre) : Fibre :=
  let a := (srcPacked fmt c x c.f.srcA).toNat
  x.set32 c.f.dst (BitVec.ofNat 32 (classOf fmt c.f (a % 2 ^ 16) + classOf fmt c.f (a / 2 ^ 16) * 2 ^ 16))

/-- `FRND` of one element: no flag (R151). -/
def integralOf (fmt : Fmt) (f : Fields) (a _b _c : Nat) : Nat × Flags := (fRound fmt f.mode a, .none)


/-! Arithmetic. -/

/-- `FADD` (R146, R147). -/
def execFadd (f : Fields) (s : State) : Host.Outcome State Fault Refusal := runFloat 0x070 .fadd f s (fp32 (arith .add .f32))

/-- `FADD.F16X2` (R146, R147). -/
def execFaddF16x2 (f : Fields) (s : State) : Host.Outcome State Fault Refusal := runFloat 0x071 .fadd f s (fpPacked .f16 (arith .add .f16))

/-- `FADD.BF16X2` (R146, R147). -/
def execFaddBf16x2 (f : Fields) (s : State) : Host.Outcome State Fault Refusal := runFloat 0x072 .fadd f s (fpPacked .bf16 (arith .add .bf16))

/-- `FMUL` (R146, R147). -/
def execFmul (f : Fields) (s : State) : Host.Outcome State Fault Refusal := runFloat 0x073 .fadd f s (fp32 (arith .mul .f32))

/-- `FMUL.F16X2` (R146, R147). -/
def execFmulF16x2 (f : Fields) (s : State) : Host.Outcome State Fault Refusal := runFloat 0x074 .fadd f s (fpPacked .f16 (arith .mul .f16))

/-- `FMUL.BF16X2` (R146, R147). -/
def execFmulBf16x2 (f : Fields) (s : State) : Host.Outcome State Fault Refusal := runFloat 0x075 .fadd f s (fpPacked .bf16 (arith .mul .bf16))

/-- `FMAC` (R146, R147). -/
def execFmac (f : Fields) (s : State) : Host.Outcome State Fault Refusal := runFloat 0x076 .fmac f s (fp32 (arith .mac .f32))

/-- `FMAC.F16X2` (R146, R147). -/
def execFmacF16x2 (f : Fields) (s : State) : Host.Outcome State Fault Refusal := runFloat 0x077 .fmac f s (fpPacked .f16 (arith .mac .f16))

/-- `FMAC.BF16X2` (R146, R147). -/
def execFmacBf16x2 (f : Fields) (s : State) : Host.Outcome State Fault Refusal := runFloat 0x078 .fmac f s (fpPacked .bf16 (arith .mac .bf16))

/-- `FMIN` (R148). -/
def execFmin (f : Fields) (s : State) : Host.Outcome State Fault Refusal := runFloat 0x079 .fmin f s (fp32 (chooseOf .f32 false))

/-- `FMIN.F16X2` (R148). -/
def execFminF16x2 (f : Fields) (s : State) : Host.Outcome State Fault Refusal := runFloat 0x07A .fmin f s (fpPacked .f16 (chooseOf .f16 false))

/-- `FMIN.BF16X2` (R148). -/
def execFminBf16x2 (f : Fields) (s : State) : Host.Outcome State Fault Refusal := runFloat 0x07B .fmin f s (fpPacked .bf16 (chooseOf .bf16 false))

/-- `FMAX` (R148). -/
def execFmax (f : Fields) (s : State) : Host.Outcome State Fault Refusal := runFloat 0x07C .fmin f s (fp32 (chooseOf .f32 true))

/-- `FMAX.F16X2` (R148). -/
def execFmaxF16x2 (f : Fields) (s : State) : Host.Outcome State Fault Refusal := runFloat 0x07D .fmin f s (fpPacked .f16 (chooseOf .f16 true))

/-- `FMAX.BF16X2` (R148). -/
def execFmaxBf16x2 (f : Fields) (s : State) : Host.Outcome State Fault Refusal := runFloat 0x07E .fmin f s (fpPacked .bf16 (chooseOf .bf16 true))

/-! Comparison, classes, integral values. -/

/-- `FCMP` (R149). -/
def execFcmp (f : Fields) (s : State) : Host.Outcome State Fault Refusal := runLanes 0x07F (.fcmp f .v false 3) f s (fun c x => x.setPred (predOf c.f.dst) (combined c x (compareFp .f32 c.f (srcF32 c x c.f.srcA).toNat (srcBF32 c x).toNat)))

/-- `FCMP.F16X2` (R149). -/
def execFcmpF16x2 (f : Fields) (s : State) : Host.Outcome State Fault Refusal := runLanes 0x080 (.fcmp f .v true 3) f s (comparePacked .f16)

/-- `FCMP.BF16X2` (R149). -/
def execFcmpBf16x2 (f : Fields) (s : State) : Host.Outcome State Fault Refusal := runLanes 0x081 (.fcmp f .v true 3) f s (comparePacked .bf16)

/-- `FCMP.F64` (R149). -/
def execFcmpF64 (f : Fields) (s : State) : Host.Outcome State Fault Refusal := runLanes 0x082 (.fcmp f .pair false 8) f s (fun c x => x.setPred (predOf c.f.dst) (combined c x (compareFp .f64 c.f (srcF64 c x c.f.srcA).toNat (srcBF64 c x).toNat)))

/-- `FCLS` (R150). -/
def execFcls (f : Fields) (s : State) : Host.Outcome State Fault Refusal := runLanes 0x083 (.fcls f .v 4) f s (fun c x => x.set32 c.f.dst (BitVec.ofNat 32 (classOf .f32 c.f (srcF32 c x c.f.srcA).toNat)))

/-- `FCLS.F64` (R150). -/
def execFclsF64 (f : Fields) (s : State) : Host.Outcome State Fault Refusal := runLanes 0x084 (.fcls f .pair 8) f s (fun c x => x.set32 c.f.dst (BitVec.ofNat 32 (classOf .f64 c.f (srcF64 c x c.f.srcA).toNat)))

/-- `FCLS.F16X2` (R150). -/
def execFclsF16x2 (f : Fields) (s : State) : Host.Outcome State Fault Refusal := runLanes 0x085 (.fcls f .v 4) f s (classPacked .f16)

/-- `FCLS.BF16X2` (R150). -/
def execFclsBf16x2 (f : Fields) (s : State) : Host.Outcome State Fault Refusal := runLanes 0x086 (.fcls f .v 4) f s (classPacked .bf16)

/-- `FRND` (R151). -/
def execFrnd (f : Fields) (s : State) : Host.Outcome State Fault Refusal := runFloat 0x087 .frnd f s (fp32 (integralOf .f32))

/-- `FRND.F64` (R151). -/
def execFrndF64 (f : Fields) (s : State) : Host.Outcome State Fault Refusal := runFloat 0x088 .frnd64 f s (fp64 (integralOf .f64))

/-- `FRND.F16X2` (R151). -/
def execFrndF16x2 (f : Fields) (s : State) : Host.Outcome State Fault Refusal := runFloat 0x089 .frnd f s (fpPacked .f16 (integralOf .f16))

/-- `FRND.BF16X2` (R151). -/
def execFrndBf16x2 (f : Fields) (s : State) : Host.Outcome State Fault Refusal := runFloat 0x08A .frnd f s (fpPacked .bf16 (integralOf .bf16))

/-! Special functions (R152 to R154). -/

/-- `RCP` (R152 to R154). -/
def execRcp (f : Fields) (s : State) : Host.Outcome State Fault Refusal := runFloat 0x08B .special f s (fpUn32 (fun _ => rcp32))

/-- `RCP.F64` (R152 to R154). -/
def execRcpF64 (f : Fields) (s : State) : Host.Outcome State Fault Refusal := runFloat 0x08C .special64m f s (fpUn64 (fun f => rcp64 f.mode))

/-- `RSQ` (R152 to R154). -/
def execRsq (f : Fields) (s : State) : Host.Outcome State Fault Refusal := runFloat 0x08D .special f s (fpUn32 (fun _ a => rsqOf .f32 a.toNat (Config.approx32 6 a).toNat 2))

/-- `RSQ.F64` (R152 to R154). -/
def execRsqF64 (f : Fields) (s : State) : Host.Outcome State Fault Refusal := runFloat 0x08E .special64 f s (fpUn64 (fun _ a => rsqOf .f64 a.toNat (Config.approx64 a).toNat 1))

/-- `SQRT` (R152 to R154). -/
def execSqrt (f : Fields) (s : State) : Host.Outcome State Fault Refusal := runFloat 0x08F .sqrt f s (fpUn32 (fun f a => sqrtOf .f32 f.mode a.toNat))

/-- `SQRT.F64` (R152 to R154). -/
def execSqrtF64 (f : Fields) (s : State) : Host.Outcome State Fault Refusal := runFloat 0x090 .special64m f s (fpUn64 (fun f a => sqrtOf .f64 f.mode a.toNat))

/-- `EX2` (R152 to R154). -/
def execEx2 (f : Fields) (s : State) : Host.Outcome State Fault Refusal := runFloat 0x091 .special f s (fpUn32 (fun _ => ex2))

/-- `LG2` (R152 to R154). -/
def execLg2 (f : Fields) (s : State) : Host.Outcome State Fault Refusal := runFloat 0x092 .special f s (fpUn32 (fun _ => lg2))

/-- `SIN` (R152 to R154). -/
def execSin (f : Fields) (s : State) : Host.Outcome State Fault Refusal := runFloat 0x093 .special f s (fpUn32 (fun _ => sinCos false))

/-- `COS` (R152 to R154). -/
def execCos (f : Fields) (s : State) : Host.Outcome State Fault Refusal := runFloat 0x094 .special f s (fpUn32 (fun _ => sinCos true))

/-- `TANH` (R152 to R154). -/
def execTanh (f : Fields) (s : State) : Host.Outcome State Fault Refusal := runFloat 0x095 .special f s (fpUn32 (fun _ => tanh))

/-! FP64. -/

/-- `DADD` (R146, R147). -/
def execDadd (f : Fields) (s : State) : Host.Outcome State Fault Refusal := runFloat 0x096 .dadd f s (fp64 (arith .add .f64))

/-- `DMUL` (R146, R147). -/
def execDmul (f : Fields) (s : State) : Host.Outcome State Fault Refusal := runFloat 0x097 .dadd f s (fp64 (arith .mul .f64))

/-- `DMAC` (R146, R147). -/
def execDmac (f : Fields) (s : State) : Host.Outcome State Fault Refusal := runFloat 0x098 .dmac f s (fp64 (arith .mac .f64))

/-- `FMIN.F64` (R148). -/
def execFminF64 (f : Fields) (s : State) : Host.Outcome State Fault Refusal := runFloat 0x099 .dmin f s (fp64 (chooseOf .f64 false))

/-- `FMAX.F64` (R148). -/
def execFmaxF64 (f : Fields) (s : State) : Host.Outcome State Fault Refusal := runFloat 0x09A .dmin f s (fp64 (chooseOf .f64 true))

/-! The postfix evaluator (R155 to R157). -/

/-- The inputs of an `XPR`, as FP32 codes. -/
structure XprIn where
  a : Nat
  b : Nat
  c : Nat
  d : Nat
  deriving DecidableEq, Repr

/-- A stack and the flags raised so far. -/
abbrev XprStack := List Nat × Flags

/-- One token on a stack, top first (R155); a legal program never underflows (R156). -/
def xprStep (mode : Mode) (i : XprIn) (token : Nat) (st : XprStack) : XprStack :=
  let v (n : Nat) : XReal := Fmt.f32.value n
  let put (r : Nat × Flags) (rest : List Nat) : XprStack := (r.1 :: rest, st.2 ||| r.2)
  match token, st.1 with
  | 1, l => (i.a :: l, st.2)
  | 2, l => (i.b :: l, st.2)
  | 3, l => (i.c :: l, st.2)
  | 4, l => (i.d :: l, st.2)
  | 5, t :: l => (t :: t :: l, st.2)
  | 6, t :: n :: l => (n :: t :: l, st.2)
  | 7, t :: n :: l => put (fAdd .f32 mode (v n) (v t)) l
  | 8, t :: n :: l => put (fAdd .f32 mode (v n) (v t).neg) l
  | 9, t :: n :: l => put (fMul .f32 mode (v n) (v t)) l
  | 10, t :: n :: l => (fMinMax .f32 false false n t :: l, st.2)
  | 11, t :: n :: l => (fMinMax .f32 true false n t :: l, st.2)
  | 12, t :: l => ((if (v t).isNan then Fmt.f32.nanCode else t.xor (2 ^ 31)) :: l, st.2)
  | 13, t :: l => ((if (v t).isNan then Fmt.f32.nanCode else t % 2 ^ 31) :: l, st.2)
  | 14, t3 :: t2 :: t1 :: l => put (fMac .f32 mode (v t1) (v t2) (v t3)) l
  | 15, l => (0 :: l, st.2)
  | _, l => (l, st.2)

/-- A program run to its `END` or its last token. -/
def xprRun (mode : Mode) (i : XprIn) : List Nat → XprStack → XprStack
  | [], st => st
  | 0 :: _, st => st
  | t :: rest, st => xprRun mode i rest (xprStep mode i t st)

/-- The result and flags of a program (R157); a final entry that is NaN gives the canonical NaN (R143). -/
def xprValue (mode : Mode) (imm : Word) (i : XprIn) : Nat × Flags :=
  let st := xprRun mode i (Shape.xprTokens imm) ([], 0)
  let top := st.1.headD 0
  (if (Fmt.f32.value top).isNan then Fmt.f32.nanCode else top, st.2)

/-- `XPR` (R155 to R157): `d` is the old value of D, +0 for `vz`. -/
def execXpr (f : Fields) (s : State) : Host.Outcome State Fault Refusal := runFloat 0x09B (.xpr f) f s (fun c x =>
    let i : XprIn :=
      { a := (srcF32 c x c.f.srcA).toNat, b := (srcF32 c x c.f.srcB).toNat, c := (srcF32 c x c.f.srcC).toNat,
        d := if c.f.dst.toNat < 240 then (x.reg c.f.dst.toNat).toNat else 0 }
    let r := xprValue c.f.mode c.f.imm i
    (x.set32 c.f.dst (BitVec.ofNat 32 r.1), r.2))

end Sys2Proof.Machine
end

