-- ==== Sys2Proof/Machine/Integer.lean ====
section
/-! DEFINITION. The integer, address, logic, move and predicate instructions (R91 to R110). -/

namespace Sys2Proof.Machine

/-- A 32-bit result from A and B (R91). -/
def bin32 (g : Word → Word → Word) (c : Ctx) (x : Fibre) : Fibre := x.set32 c.f.dst (g (src32 c x c.f.srcA) (srcB32 c x))
/-- A 64-bit result from A and B. -/
def bin64 (g : DWord → DWord → DWord) (c : Ctx) (x : Fibre) : Fibre := x.set64 c.f.dst (g (src64 c x c.f.srcA) (srcB64 c x))
/-- A 32-bit result from A. -/
def un32 (g : Word → Word) (c : Ctx) (x : Fibre) : Fibre := x.set32 c.f.dst (g (src32 c x c.f.srcA))

/-- A shift amount: at or past the width, or taken modulo it with `.W` (R99). -/
def shiftBy (w : Nat) (c : Ctx) (x : Fibre) : Nat :=
  let n := (srcB32 c x).toNat
  if c.f.mod 0 then n % w else min n w

/-- The absolute value, with `.SAT` (R98). -/
def absOf (w : Nat) (sat : Bool) (a : BitVec w) : BitVec w :=
  if a.toInt < 0 then (if sat && decide (a.toInt = -2 ^ (w - 1)) then BitVec.ofNat w (2 ^ (w - 1) - 1) else -a) else a

/-- `TERN` (R100): bit by bit through the table. -/
def ternWord (table : Nat) (a b c : Word) : Word :=
  BitVec.ofNat 32 (((List.range 32).map (fun i =>
    if table.testBit ((a.getLsbD i).toNat + 2 * (b.getLsbD i).toNat + 4 * (c.getLsbD i).toNat) then 2 ^ i else 0)).foldl (· + ·) 0)

/-- Position and length of a bit field (R101). -/
def fieldPos (b : Word) : Nat := b.toNat % 256
def fieldLen (b : Word) : Nat := min (b.toNat / 256 % 256) 32

/-- `BFX.U` (R101). -/
def bfxU (a b : Word) : Word := BitVec.ofNat 32 (bitsOf a.toNat (fieldPos b) (fieldLen b))
/-- `BFX.S` (R101): bits of A above 31 read as A[31]. -/
def bfxS (a b : Word) : Word :=
  let len := fieldLen b
  if len = 0 then 0 else BitVec.ofInt 32 (signedOf len (((a.signExtend 320).toNat >>> fieldPos b) % 2 ^ len))
/-- `BFI` (R101). -/
def bfi (a b base : Word) : Word :=
  let mask : Nat := (2 ^ fieldLen b - 1) * 2 ^ fieldPos b
  (base &&& ~~~BitVec.ofNat 32 mask) ||| BitVec.ofNat 32 (a.toNat % 2 ^ fieldLen b * 2 ^ fieldPos b)

/-- The number of one bits (R102). -/
def popcount (a : Word) : Nat := ((List.range 32).filter (fun i => a.getLsbD i)).length
/-- A word with bit *i* moved to bit 31 − *i* (R102). -/
def bitReverse (a : Word) : Word := BitVec.ofNat 32 (((List.range 32).map (fun i => if a.getLsbD i then 2 ^ (31 - i) else 0)).foldl (· + ·) 0)

/-- The comparison of two integers (R103). -/
def compareInts (c : Ctx) (a b : Int) : Bool := condHolds (c.f.modBits 0 3) (a - b).sign

/-- A comparison written to its predicate with the combine field (R103). -/
def setCompare (c : Ctx) (x : Fibre) (t : Bool) : Fibre :=
  x.setPred (predOf c.f.dst) (combine (c.f.modBits 3 2) t (x.pred (predOf c.f.srcC)))

/-- The predicate that `SEL` selects by (R104). -/
def selects (c : Ctx) (x : Fibre) : Bool := x.pred (predOf c.f.srcC) != c.f.mod 0

/-- The 16-bit predicate word of a fibre (R108). -/
def Fibre.predWord (x : Fibre) : Nat := ((List.range 16).map (fun i => if x.pred i then 2 ^ i else 0)).foldl (· + ·) 0

/-- Predicates of a mask replaced by the bits of a word. -/
def Fibre.setPreds (x : Fibre) (mask word : Nat) : Fibre :=
  (List.range 16).foldl (fun y i => if mask.testBit i then y.setPred i (word.testBit i) else y) x

/-- A scalar written (R105). -/
def State.setScalar (s : State) (c : Ctx) (code : BitVec 9) (v : Word) : State :=
  let n := c.hwarp * 64 + (code.toNat - 0x140)
  s.updWg c.wg.key (fun w => { w with scalars := Sparse.set 0 w.scalars n v, scalarPoison := w.scalarPoison.filter (fun k => k ≠ n) })


/-! Addition and subtraction. -/

/-- `IADD` (R95). -/
def execIadd (f : Fields) (s : State) : Host.Outcome State Fault Refusal := runLanes 0x010 (.alu 4) f s (bin32 (· + ·))

/-- `IADD.64` (R95). -/
def execIadd64 (f : Fields) (s : State) : Host.Outcome State Fault Refusal := runLanes 0x011 (.alu64 4) f s (bin64 (· + ·))

/-- `IADD.SAT` (R95). -/
def execIaddSat (f : Fields) (s : State) : Host.Outcome State Fault Refusal := runLanes 0x012 .sat f s (fun c => bin32 (fun a b => if c.f.mod 0 then clampU ((a.toNat : Int) + b.toNat) else clampS (a.toInt + b.toInt)) c)

/-- `IADD.X` (R96). -/
def execIaddX (f : Fields) (s : State) : Host.Outcome State Fault Refusal := runLanes 0x013 (.carry f) f s (fun c x =>
    let r := addCarry (src32 c x c.f.srcA) (srcB32 c x) (c.f.mod 0 && x.pred (predOf c.f.srcC))
    (x.set32 c.f.dst r.1).setPred (c.f.modBits 1 4) r.2)

/-- `ISUB` (R95). -/
def execIsub (f : Fields) (s : State) : Host.Outcome State Fault Refusal := runLanes 0x014 (.alu 4) f s (bin32 (· - ·))

/-- `ISUB.64` (R95). -/
def execIsub64 (f : Fields) (s : State) : Host.Outcome State Fault Refusal := runLanes 0x015 (.alu64 4) f s (bin64 (· - ·))

/-- `ISUB.SAT` (R95). -/
def execIsubSat (f : Fields) (s : State) : Host.Outcome State Fault Refusal := runLanes 0x016 .sat f s (fun c => bin32 (fun a b => if c.f.mod 0 then clampU ((a.toNat : Int) - b.toNat) else clampS (a.toInt - b.toInt)) c)

/-- `ISUB.X` (R96). -/
def execIsubX (f : Fields) (s : State) : Host.Outcome State Fault Refusal := runLanes 0x017 (.carry f) f s (fun c x =>
    let r := subBorrow (src32 c x c.f.srcA) (srcB32 c x) (c.f.mod 0 && x.pred (predOf c.f.srcC))
    (x.set32 c.f.dst r.1).setPred (c.f.modBits 1 4) r.2)

/-! Multiplication (R97). -/

/-- `IMUL` (R97). -/
def execImul (f : Fields) (s : State) : Host.Outcome State Fault Refusal := runLanes 0x018 (.alu 6) f s (bin32 (· * ·))

/-- `IMUL.HI.S` (R97). -/
def execImulHiS (f : Fields) (s : State) : Host.Outcome State Fault Refusal := runLanes 0x019 (.alu 6) f s (bin32 (fun a b => hiWord (a.signExtend 64 * b.signExtend 64)))

/-- `IMUL.HI.U` (R97). -/
def execImulHiU (f : Fields) (s : State) : Host.Outcome State Fault Refusal := runLanes 0x01A (.alu 6) f s (bin32 (fun a b => hiWord (a.zeroExtend 64 * b.zeroExtend 64)))

/-- `IMUL.WIDE.S` (R97). -/
def execImulWideS (f : Fields) (s : State) : Host.Outcome State Fault Refusal := runLanes 0x01B .wide f s (fun c x => x.set64 c.f.dst ((src32 c x c.f.srcA).signExtend 64 * (srcB32 c x).signExtend 64))

/-- `IMUL.WIDE.U` (R97). -/
def execImulWideU (f : Fields) (s : State) : Host.Outcome State Fault Refusal := runLanes 0x01C .wide f s (fun c x => x.set64 c.f.dst ((src32 c x c.f.srcA).zeroExtend 64 * (srcB32 c x).zeroExtend 64))

/-- `IMUL.64` (R97). -/
def execImul64 (f : Fields) (s : State) : Host.Outcome State Fault Refusal := runLanes 0x01D (.alu64 8) f s (bin64 (· * ·))

/-- `IMAD` (R97). -/
def execImad (f : Fields) (s : State) : Host.Outcome State Fault Refusal := runLanes 0x01E .mad f s (fun c x => bin32 (fun a b => a * b + src32 c x c.f.srcC) c x)

/-- `IMAD.WIDE.S` (R97). -/
def execImadWideS (f : Fields) (s : State) : Host.Outcome State Fault Refusal := runLanes 0x01F .madWide f s (fun c x => x.set64 c.f.dst ((src32 c x c.f.srcA).signExtend 64 * (srcB32 c x).signExtend 64 + src64 c x c.f.srcC))

/-- `IMAD.WIDE.U` (R97). -/
def execImadWideU (f : Fields) (s : State) : Host.Outcome State Fault Refusal := runLanes 0x020 .madWide f s (fun c x => x.set64 c.f.dst ((src32 c x c.f.srcA).zeroExtend 64 * (srcB32 c x).zeroExtend 64 + src64 c x c.f.srcC))

/-- `IMAD.64` (R97). -/
def execImad64 (f : Fields) (s : State) : Host.Outcome State Fault Refusal := runLanes 0x021 .mad64 f s (fun c x => bin64 (fun a b => a * b + src64 c x c.f.srcC) c x)

/-! Absolute value, minimum and maximum (R98). -/

/-- `IABS` (R98). -/
def execIabs (f : Fields) (s : State) : Host.Outcome State Fault Refusal := runLanes 0x022 .abs32 f s (fun c => un32 (absOf 32 (c.f.mod 0)) c)

/-- `IABS.64` (R98). -/
def execIabs64 (f : Fields) (s : State) : Host.Outcome State Fault Refusal := runLanes 0x023 .abs64 f s (fun c x => x.set64 c.f.dst (absOf 64 (c.f.mod 0) (src64 c x c.f.srcA)))

/-- `IMIN.S` (R98). -/
def execIminS (f : Fields) (s : State) : Host.Outcome State Fault Refusal := runLanes 0x024 (.alu 4) f s (bin32 (fun a b => if a.toInt ≤ b.toInt then a else b))

/-- `IMIN.U` (R98). -/
def execIminU (f : Fields) (s : State) : Host.Outcome State Fault Refusal := runLanes 0x025 (.alu 4) f s (bin32 (fun a b => if a.toNat ≤ b.toNat then a else b))

/-- `IMIN.S.64` (R98). -/
def execIminS64 (f : Fields) (s : State) : Host.Outcome State Fault Refusal := runLanes 0x026 (.alu64 4) f s (bin64 (fun a b => if a.toInt ≤ b.toInt then a else b))

/-- `IMIN.U.64` (R98). -/
def execIminU64 (f : Fields) (s : State) : Host.Outcome State Fault Refusal := runLanes 0x027 (.alu64 4) f s (bin64 (fun a b => if a.toNat ≤ b.toNat then a else b))

/-- `IMAX.S` (R98). -/
def execImaxS (f : Fields) (s : State) : Host.Outcome State Fault Refusal := runLanes 0x028 (.alu 4) f s (bin32 (fun a b => if a.toInt ≤ b.toInt then b else a))

/-- `IMAX.U` (R98). -/
def execImaxU (f : Fields) (s : State) : Host.Outcome State Fault Refusal := runLanes 0x029 (.alu 4) f s (bin32 (fun a b => if a.toNat ≤ b.toNat then b else a))

/-- `IMAX.S.64` (R98). -/
def execImaxS64 (f : Fields) (s : State) : Host.Outcome State Fault Refusal := runLanes 0x02A (.alu64 4) f s (bin64 (fun a b => if a.toInt ≤ b.toInt then b else a))

/-- `IMAX.U.64` (R98). -/
def execImaxU64 (f : Fields) (s : State) : Host.Outcome State Fault Refusal := runLanes 0x02B (.alu64 4) f s (bin64 (fun a b => if a.toNat ≤ b.toNat then b else a))

/-! Shifts and rotates (R99). -/

/-- `SHL` (R99). -/
def execShl (f : Fields) (s : State) : Host.Outcome State Fault Refusal := runLanes 0x02C .shift f s (fun c x => x.set32 c.f.dst ((src32 c x c.f.srcA) <<< (shiftBy 32 c x)))

/-- `SHL.64` (R99). -/
def execShl64 (f : Fields) (s : State) : Host.Outcome State Fault Refusal := runLanes 0x02D .shift64 f s (fun c x => x.set64 c.f.dst ((src64 c x c.f.srcA) <<< (shiftBy 64 c x)))

/-- `SHR.U` (R99). -/
def execShrU (f : Fields) (s : State) : Host.Outcome State Fault Refusal := runLanes 0x02E .shift f s (fun c x => x.set32 c.f.dst ((src32 c x c.f.srcA) >>> (shiftBy 32 c x)))

/-- `SHR.S` (R99). -/
def execShrS (f : Fields) (s : State) : Host.Outcome State Fault Refusal := runLanes 0x02F .shift f s (fun c x => x.set32 c.f.dst ((src32 c x c.f.srcA).sshiftRight (shiftBy 32 c x)))

/-- `SHR.U.64` (R99). -/
def execShrU64 (f : Fields) (s : State) : Host.Outcome State Fault Refusal := runLanes 0x030 .shift64 f s (fun c x => x.set64 c.f.dst ((src64 c x c.f.srcA) >>> (shiftBy 64 c x)))

/-- `SHR.S.64` (R99). -/
def execShrS64 (f : Fields) (s : State) : Host.Outcome State Fault Refusal := runLanes 0x031 .shift64 f s (fun c x => x.set64 c.f.dst ((src64 c x c.f.srcA).sshiftRight (shiftBy 64 c x)))

/-- `ROT.L` (R99). -/
def execRotL (f : Fields) (s : State) : Host.Outcome State Fault Refusal := runLanes 0x032 (.alu 4) f s (bin32 (fun a b => a.rotateLeft (b.toNat % 32)))

/-- `ROT.R` (R99). -/
def execRotR (f : Fields) (s : State) : Host.Outcome State Fault Refusal := runLanes 0x033 (.alu 4) f s (bin32 (fun a b => a.rotateRight (b.toNat % 32)))

/-! Logic (R100). -/

/-- `AND` (R100). -/
def execAnd (f : Fields) (s : State) : Host.Outcome State Fault Refusal := runLanes 0x034 (.alu 4) f s (bin32 (· &&& ·))

/-- `OR` (R100). -/
def execOr (f : Fields) (s : State) : Host.Outcome State Fault Refusal := runLanes 0x035 (.alu 4) f s (bin32 (· ||| ·))

/-- `XOR` (R100). -/
def execXor (f : Fields) (s : State) : Host.Outcome State Fault Refusal := runLanes 0x036 (.alu 4) f s (bin32 (· ^^^ ·))

/-- `NOT` (R100). -/
def execNot (f : Fields) (s : State) : Host.Outcome State Fault Refusal := runLanes 0x037 (.unary 4) f s (un32 (fun a => ~~~a))

/-- `TERN` (R100). -/
def execTern (f : Fields) (s : State) : Host.Outcome State Fault Refusal := runLanes 0x038 (.tern f) f s (fun c x => x.set32 c.f.dst (ternWord (c.f.immBits 0 8) (src32 c x c.f.srcA) (src32 c x c.f.srcB) (src32 c x c.f.srcC)))

/-! Bit fields (R101, R102). -/

/-- `BFX.U` (R101). -/
def execBfxU (f : Fields) (s : State) : Host.Outcome State Fault Refusal := runLanes 0x039 (.alu 4) f s (bin32 bfxU)

/-- `BFX.S` (R101). -/
def execBfxS (f : Fields) (s : State) : Host.Outcome State Fault Refusal := runLanes 0x03A (.alu 4) f s (bin32 bfxS)

/-- `BFI` (R101). -/
def execBfi (f : Fields) (s : State) : Host.Outcome State Fault Refusal := runLanes 0x03B .bfi f s (fun c x => bin32 (fun a b => bfi a b (src32 c x c.f.srcC)) c x)

/-- `POPC` (R102). -/
def execPopc (f : Fields) (s : State) : Host.Outcome State Fault Refusal := runLanes 0x03C (.unary 4) f s (un32 (fun a => BitVec.ofNat 32 (popcount a)))

/-- `CLZ` (R102). -/
def execClz (f : Fields) (s : State) : Host.Outcome State Fault Refusal := runLanes 0x03D (.unary 4) f s (un32 (fun a => if a = 0 then 32 else BitVec.ofNat 32 (31 - Nat.log2 a.toNat)))

/-- `BREV` (R102). -/
def execBrev (f : Fields) (s : State) : Host.Outcome State Fault Refusal := runLanes 0x03E (.unary 4) f s (un32 bitReverse)

/-! Comparison (R103). -/

/-- `ICMP.S` (R103). -/
def execIcmpS (f : Fields) (s : State) : Host.Outcome State Fault Refusal := runLanes 0x03F (.icmp f .v) f s (fun c x => setCompare c x (compareInts c (src32 c x c.f.srcA).toInt (srcB32 c x).toInt))

/-- `ICMP.U` (R103). -/
def execIcmpU (f : Fields) (s : State) : Host.Outcome State Fault Refusal := runLanes 0x040 (.icmp f .v) f s (fun c x => setCompare c x (compareInts c (src32 c x c.f.srcA).toNat (srcB32 c x).toNat))

/-- `ICMP.S.64` (R103). -/
def execIcmpS64 (f : Fields) (s : State) : Host.Outcome State Fault Refusal := runLanes 0x041 (.icmp f .pair) f s (fun c x => setCompare c x (compareInts c (src64 c x c.f.srcA).toInt (srcB64 c x).toInt))

/-- `ICMP.U.64` (R103). -/
def execIcmpU64 (f : Fields) (s : State) : Host.Outcome State Fault Refusal := runLanes 0x042 (.icmp f .pair) f s (fun c x => setCompare c x (compareInts c (src64 c x c.f.srcA).toNat (srcB64 c x).toNat))

/-! Selection and moves (R104, R105, R110). -/

/-- `SEL` (R104). -/
def execSel (f : Fields) (s : State) : Host.Outcome State Fault Refusal := runLanes 0x043 (.sel .v) f s (fun c x => bin32 (fun a b => if selects c x then a else b) c x)

/-- `SEL.64` (R104). -/
def execSel64 (f : Fields) (s : State) : Host.Outcome State Fault Refusal := runLanes 0x044 (.sel .pair) f s (fun c x => bin64 (fun a b => if selects c x then a else b) c x)

/-- `MOV` (R104, R110): the lowest passing lane writes `sr.fflags`. -/
def execMov (f : Fields) (s : State) : Host.Outcome State Fault Refusal := runBatch 0x045 (.mov f) f s fun c t =>
    if c.f.dst.toNat ≥ 0x180 then
      match c.passing with
      | [] => .ok (t.lanewise c id)
      | x :: _ => .ok ((t.lanewise c id).updWg c.wg.key (fun w => { w with
          fflags := (srcB32 c x).extractLsb' 0 5, srPoison := w.srPoison.filter (fun n => n ≠ c.f.dst.toNat - 0x180) }))
    else .ok (t.lanewise c (fun x => x.set32 c.f.dst (srcB32 c x)))

/-- `MOV.64` (R104). -/
def execMov64 (f : Fields) (s : State) : Host.Outcome State Fault Refusal := runLanes 0x046 .mov64 f s (fun c x => x.set64 c.f.dst (srcB64 c x))

/-- `MOVS` (R105). DESIGN CHOICE (log 22): of a special register that each lane reads as its own, the lowest passing lane's value is written. -/
def execMovs (f : Fields) (s : State) : Host.Outcome State Fault Refusal := runBatch 0x047 .movs f s fun c t =>
    match c.passing with
    | [] => .ok (t.lanewise c id)
    | x :: _ => .ok ((t.lanewise c id).setScalar c c.f.dst (srcB32 c x))

/-- `MOVS.I` (R105): the lane it names is the one whose source is read (R93). -/
def execMovsI (f : Fields) (s : State) : Host.Outcome State Fault Refusal := runBatch 0x048 (.movsI f) f s fun c t =>
    match c.passing.find? (fun x => x.lane = c.f.immBits 0 5) with
    | none => .ok (t.lanewise c id)
    | some x =>
      if Role.v.poisoned c x c.f.srcB then .error (c.fault 11 x.index (2 ^ 64 - 1) c.f.srcB.toNat (laneMask [x]))
      else .ok ((t.lanewise c id).setScalar c c.f.dst (src32 c x c.f.srcB))

/-! Address formation (R107). -/

/-- `LEA` (R107). -/
def execLea (f : Fields) (s : State) : Host.Outcome State Fault Refusal := runLanes 0x049 .lea f s (fun c x => x.set64 c.f.dst (src64 c x c.f.srcA + ((src32 c x c.f.srcB).zeroExtend 64 <<< c.f.modBits 0 3) + c.f.imm.signExtend 64))

/-- `LEA.32` (R107). -/
def execLea32 (f : Fields) (s : State) : Host.Outcome State Fault Refusal := runLanes 0x04A .lea32 f s (fun c x => x.set32 c.f.dst (src32 c x c.f.srcA + (src32 c x c.f.srcB <<< c.f.modBits 0 3) + c.f.imm))

/-- `LEA.SX` (R107). -/
def execLeaSx (f : Fields) (s : State) : Host.Outcome State Fault Refusal := runLanes 0x04B .lea f s (fun c x => x.set64 c.f.dst (src64 c x c.f.srcA + ((src32 c x c.f.srcB).signExtend 64 <<< c.f.modBits 0 3) + c.f.imm.signExtend 64))

/-! Predicates (R108). -/

/-- `PLOG` (R108). -/
def execPlog (f : Fields) (s : State) : Host.Outcome State Fault Refusal := runLanes 0x04C (.plog f) f s (fun c x =>
    x.setPred (predOf c.f.dst) ((c.f.immBits 0 8).testBit
      ((x.pred (predOf c.f.srcA)).toNat * 4 + (x.pred (predOf c.f.srcB)).toNat * 2 + (x.pred (predOf c.f.srcC)).toNat)))

/-- `PLOG.W` (R108). -/
def execPlogW (f : Fields) (s : State) : Host.Outcome State Fault Refusal := runLanes 0x04D (.plogW f) f s (fun c x =>
    let a := src32 c x c.f.srcA
    let b := src32 c x c.f.srcB
    (List.range 16).foldl (fun (y : Fibre) (i : Nat) =>
      if (c.f.immBits 0 16).testBit i then
        y.setPred i ((c.f.immBits 16 8).testBit ((x.pred i).toNat * 4 + (a.getLsbD i).toNat * 2 + (b.getLsbD i).toNat))
      else y) x)

/-- `PMOV.P2V` (R108). -/
def execPmovP2v (f : Fields) (s : State) : Host.Outcome State Fault Refusal := runLanes 0x04E .pmovP2V f s (fun c x => x.set32 c.f.dst (BitVec.ofNat 32 x.predWord))

/-- `PMOV.V2P` (R108). -/
def execPmovV2p (f : Fields) (s : State) : Host.Outcome State Fault Refusal := runLanes 0x04F (.pmovV2P f) f s (fun c x => x.setPreds (c.f.immBits 0 16) (src32 c x c.f.srcA).toNat)

end Sys2Proof.Machine
end

