-- ==== Sys2Proof/Machine/Lanes.lean ====
section
/-! DEFINITION. The lane, partition and Palette instructions (R160 to R178). -/

namespace Sys2Proof.Machine

/-- `PART` (R168): illegal under compat16. -/
def execPart (f : Fields) (s : State) : Host.Outcome State Fault Refusal :=
  runWith 0x0A0 (fun c => { Shape.part f with badOpcode := c.compat16 }) f s (arriveLanes 0xA0)

/-- `XLN.IDX` (R169). -/
def execXlnIdx (f : Fields) (s : State) : Host.Outcome State Fault Refusal := runBatch 0x0A1 (.xln f) f s (arriveLanes 0xA1)

/-- `XLN.SUB` (R169). -/
def execXlnSub (f : Fields) (s : State) : Host.Outcome State Fault Refusal := runBatch 0x0A2 (.xln f) f s (arriveLanes 0xA2)

/-- `XLN.ADD` (R169). -/
def execXlnAdd (f : Fields) (s : State) : Host.Outcome State Fault Refusal := runBatch 0x0A3 (.xln f) f s (arriveLanes 0xA3)

/-- `XLN.FLIP` (R169). -/
def execXlnFlip (f : Fields) (s : State) : Host.Outcome State Fault Refusal := runBatch 0x0A4 (.xln f) f s (arriveLanes 0xA4)

/-- `VOTE` (R170). -/
def execVote (f : Fields) (s : State) : Host.Outcome State Fault Refusal := runBatch 0x0A5 (.vote f) f s (arriveLanes 0xA5)

/-- `LRED` (R171, R172). -/
def execLred (f : Fields) (s : State) : Host.Outcome State Fault Refusal := runBatch 0x0A6 .lred f s (arriveLanes 0xA6)

/-- `LRED.F` (R171, R172). -/
def execLredF (f : Fields) (s : State) : Host.Outcome State Fault Refusal := runBatch 0x0A7 (.lredF f) f s (arriveLanes 0xA7)

/-- `LSCAN` (R171, R172). -/
def execLscan (f : Fields) (s : State) : Host.Outcome State Fault Refusal := runBatch 0x0A8 .lscan f s (arriveLanes 0xA8)

/-- `LSCAN.F` (R171, R172). -/
def execLscanF (f : Fields) (s : State) : Host.Outcome State Fault Refusal := runBatch 0x0A9 (.lscanF f) f s (arriveLanes 0xA9)

/-- `PERM` (R176). -/
def execPerm (f : Fields) (s : State) : Host.Outcome State Fault Refusal := runBatch 0x0AA (.perm f) f s (arriveLanes 0xAA)

/-- `PLD` (R175): a 64-byte scratchpad read for each lane, every check first; the patterns are loading until it returns. DESIGN CHOICE (log 23): of a
lane's failures at step 7 the pattern number comes first. -/
def execPld (f : Fields) (s : State) : Host.Outcome State Fault Refusal :=
  runBatch 0x0AB .pld f s fun c t =>
    let addr (x : Fibre) : Nat := (src32 c x c.f.srcB + c.f.imm).toNat
    let number (x : Fibre) : Nat := (src32 c x c.f.srcA).toNat % 64
    let check (x : Fibre) : Option LaneFault :=
      if number x ≥ c.kernel.palette / 64 then some (c.badOperand c.f.srcA)
      else match t.place c.core c.wg c.kernel 1 c.launch.space (addr x) 64 1 with
        | .error e => some (e.lane (addr x) 64)
        | .ok _ => (t.scratchBad c.core (c.wg.scratchBase + addr x) 64).map
            (fun a => { cls := 11, v0 := a - c.wg.scratchBase, v1 := c.f.srcB.toNat })
    match c.laneFault check with
    | some e => .error e
    | none =>
      let load (x : Fibre) : Load :=
        { fibre := x.index, dst := .pattern (number x), place := .scratch c.core (c.wg.scratchBase + addr x) 1, width := 64 }
      .ok ((t.sendTables c.core c.wg.key (c.passing.map load)).lanewise c id)

end Sys2Proof.Machine
end

