-- ==== Sys2Proof/Machine/Tile.lean ====
section
/-! DEFINITION. The tile instructions (R368 to R376): installing and removing brushes, issuing tile operations and `TOUTER`. -/

namespace Sys2Proof.Machine

/-! Installing brushes (R369, R370). -/

/-- Words of a block read in order; the offset of the first poisoned word. -/
def readBlock (core : Nat) (p : Place) : List Nat → State → List Byte → Except Nat (List Byte × State)
  | [], s, acc => .ok (acc, s)
  | o :: t, s, acc =>
    let ((bytes, bad), s1) := s.readAt core 0 0 (p.plus o) 4
    if bad then .error o else readBlock core p t s1 (acc ++ bytes)

/-- The 256-byte block `i` of an image read as an `LD.G` of a lane. -/
def State.imageBlock (s : State) (c : Ctx) (x : Fibre) (a : Nat) : Except FaultInfo (List Byte × State) :=
  match s.place c.core c.wg c.kernel 0 c.launch.space a 256 1 with
  | .error e => .error (c.leadFault x e.cls a 256 e.cause)
  | .ok p => match readBlock c.core p ((List.range 64).map (fun i => 4 * i)) s [] with
    | .error o => .error (c.leadFault x 11 (a + o) c.f.srcA.toNat)
    | .ok (bytes, s1) => .ok (bytes, s1.noteTlb c.launch.space a)

/-- Blocks of an image in order. -/
def State.imageBlocks (c : Ctx) (x : Fibre) : List Nat → State → List Byte → Except FaultInfo (List Byte × State)
  | [], s, acc => .ok (acc, s)
  | a :: t, s, acc => match s.imageBlock c x a with
    | .error e => .error e
    | .ok (bytes, s1) => State.imageBlocks c x t s1 (acc ++ bytes)

/-- An image read and checked (R364, R369). -/
def State.readImage (s : State) (c : Ctx) (x : Fibre) : Except FaultInfo (Brush × State) :=
  let a := (src64 c x c.f.srcA + c.f.imm.signExtend 64).toNat
  match s.imageBlock c x a with
  | .error e => .error e
  | .ok (first, s1) =>
    let more := if bitsOf (ofBytes (first.take 64)) 9 1 = 1 then (List.range 4).map (fun i => (a + 256 * (i + 1)) % 2 ^ 64) else []
    match State.imageBlocks c x more s1 first with
    | .error e => .error e
    | .ok (bytes, s2) =>
      let b := Brush.ofBytes bytes
      if b.malformed then .error (c.leadOperand x c.f.srcA) else .ok (b, s2)

/-- `BRLD` (R369). -/
def execBrld (f : Fields) (s : State) : Host.Outcome State Fault Refusal :=
  runOnce 0x140 .brld f s fun c x t =>
    match t.readImage c x with
    | .error e => .error e
    | .ok (b, u) => match (List.range c.kernel.brushes).find? (fun h => (c.wg.brush? h).isNone) with
      | some h => .ok ((u.updWg c.wg.key (fun w => { w with brushes := Sparse.set none w.brushes h (some b), brushPoison := w.brushPoison.filter (fun n => n / 160 ≠ h) })).lanewise c
          (fun y => y.set32 c.f.dst (BitVec.ofNat 32 h)))
      | none => .ok (u.lanewise c (fun y => y.set32 c.f.dst 0xFFFFFFFF))

/-- `BRLD.PKG` (R370). -/
def execBrldPkg (f : Fields) (s : State) : Host.Outcome State Fault Refusal :=
  runOnce 0x141 .brld f s fun c x t =>
    match t.readImage c x with
    | .error e => .error e
    | .ok (b, u) => match (List.range 64).find? (fun h => (Sparse.get none u.pkgBrushes h).isNone) with
      | some h => .ok (({ u with pkgBrushes := Sparse.set none u.pkgBrushes h (some (b, c.launch.areaOwner)), pkgBrushPoison := u.pkgBrushPoison.filter (fun n => n / 160 ≠ h) } : State).lanewise c
          (fun y => y.set32 c.f.dst (BitVec.ofNat 32 h)))
      | none => .ok (u.lanewise c (fun y => y.set32 c.f.dst 0xFFFFFFFF))

/-! Removing brushes (R371). -/

/-- The brushes that a copy entry names. -/
def CopyEntry.brushes (e : CopyEntry) : List Nat :=
  match e.kind with | .brush h => [h] | .tzip | .tfold | .tscan => [bitsOf e.imm.toNat 0 6] | _ => []
def EaselEntry.brushes (e : EaselEntry) : List Nat :=
  match e.kind with | .touter => [bitsOf e.imm.toNat 0 6, bitsOf e.imm.toNat 8 6] | _ => []

/-- An incomplete operation of a workgroup names a brush. -/
def State.brushBusy (s : State) (w : Workgroup) (h : Nat) : Bool :=
  let c := s.core w.core
  c.copyQ.any (fun e => e.wg = w.key && e.brushes.contains h) || c.easelQ.any (fun e => e.wg = w.key && e.brushes.contains h)

/-- The handle of a `BRDROP`, of its lowest passing lane. -/
def Ctx.dropHandle (c : Ctx) : Option Nat := match c.passing with | x :: _ => some (srcB32 c x).toNat | [] => none

/-- `BRDROP` may issue. -/
def Ctx.brdropReady (c : Ctx) (s : State) : Bool := match c.dropHandle with | some h => !s.brushBusy c.wg h | none => true

/-- `BRDROP` (R371). -/
def execBrdrop (f : Fields) (s : State) : Host.Outcome State Fault Refusal :=
  runOnce 0x142 .brdrop f s fun c x t =>
    let h := (srcB32 c x).toNat
    if h / 64 ≠ 0 ∨ (c.wg.brush? h).isNone then .error (c.leadOperand x c.f.srcB)
    else if !c.brdropReady t then .ok t
    else .ok ((t.updWg c.wg.key (fun w => { w with brushes := Sparse.set none w.brushes h none })).lanewise c id)

/-- A packet in flight names a package brush. -/
def State.pkgBrushBusy (s : State) (h : Nat) : Bool := s.packets.any (fun p => pkNames p.header h)

/-- `BRDROP.PKG` may issue. -/
def Ctx.dropPkgReady (c : Ctx) (s : State) : Bool := match c.dropHandle with | some h => !s.pkgBrushBusy h | none => true

/-- `BRDROP.PKG` (R371). -/
def execBrdropPkg (f : Fields) (s : State) : Host.Outcome State Fault Refusal :=
  runOnce 0x143 .brdrop f s fun c x t =>
    let h := (srcB32 c x).toNat
    if h / 64 ≠ 0 ∨ (Sparse.get none t.pkgBrushes h).isNone then .error (c.leadOperand x c.f.srcB)
    else if !c.dropPkgReady t then .ok t
    else .ok (({ t with pkgBrushes := Sparse.set none t.pkgBrushes h none } : State).lanewise c id)

/-! Tile operations (R372 to R374). -/

/-- Tests of one descriptor against a format (R367, R372). -/
def runTests (c : Ctx) (code : BitVec 9) (run : List Word) (fmt : Nat) : List (Bool × LaneFault) :=
  let t := Tile.ofRun run fmt
  [(!tileWordsOk run fmt, c.badOperand code), (t.global && !canonical t.base, { cls := 10, cause := 6, v0 := t.base, v1 := t.bytes }),
    (decide (t.base % t.bytes ≠ 0), misaligned t.base t.bytes)]

/-- The brush that an instruction's immediate names. -/
def Ctx.handleBrush (c : Ctx) : Option Brush := c.wg.brush? (c.f.immBits 0 6)

/-- The tests of a tile operation in the order of R372; `more` are those of its own. -/
def tileTests (kind : CopyKind) (more : Brush → Tile → Tile → Bool) (c : Ctx) (x : Fibre) : List (Bool × LaneFault) :=
  match c.handleBrush with
  | none => [(true, c.badOperand c.f.srcB)]
  | some b =>
    let xr := srcRun x c.f.srcA 4
    let yr := srcRun x c.f.srcB 4
    let zr := srcRun x c.f.srcC 4
    let two : Bool := kind = .tzip && b.arity = 1
    let xf := if kind = .tfold then b.yFmt else b.xFmt
    let xt := Tile.ofRun xr xf
    let yt := Tile.ofRun yr b.yFmt
    let zt := Tile.ofRun zr b.zFmt
    let shape : Bool :=
      match kind with
      | .tfold => if c.f.mod 0 then decide (zt.rows ≠ 1 ∨ zt.cols ≠ xt.cols) else decide (zt.cols ≠ 1 ∨ zt.rows ≠ xt.rows)
      | _ => decide (zt.rows ≠ xt.rows ∨ zt.cols ≠ xt.cols) || (two && decide (zt.rows ≠ yt.rows ∨ zt.cols ≠ yt.cols))
    runTests c c.f.srcA xr xf ++ (if two then runTests c c.f.srcB yr b.yFmt else []) ++ runTests c c.f.srcC zr b.zFmt ++
      [(shape, c.badOperand c.f.srcC), (more b xt zt, c.badOperand c.f.srcB)]

/-- The entry of a tile operation. -/
def tileEntry (kind : CopyKind) (c : Ctx) (x : Fibre) (e : CopyEntry) : CopyEntry :=
  let yRun := if kind = .tzip && c.handleBrush.any (fun b => b.arity = 1) then srcRun x c.f.srcB 4 else []
  { e with kind := kind, b := srcRun x c.f.srcA 4, yRun := yRun, dstRun := srcRun x c.f.srcC 4, imm := c.f.imm &&& 0x3F }

/-- The body of a tile operation. -/
def tileBody (kind : CopyKind) (more : Ctx → Brush → Tile → Tile → Bool) : Ctx → State → Except FaultInfo State :=
  copyBody 3 noMore (fun c t => c.issueFault t false (tileTests kind (more c) c)) (tileEntry kind)

/-- `TZIP` (R372): source B is an operand only for a brush of two inputs (R368). -/
def execTzip (f : Fields) (s : State) : Host.Outcome State Fault Refusal :=
  runWith 0x144 (fun c => .tzip f (c.handleBrush.any (fun b => b.arity = 1))) f s (tileBody .tzip (fun _ _ _ _ => false))

/-- `TFOLD` (R373). -/
def execTfold (f : Fields) (s : State) : Host.Outcome State Fault Refusal :=
  runBatch 0x145 (.tfold f) f s (tileBody .tfold (fun c b _ _ =>
    decide (b.arity = 0) || (!c.f.mod 1 && !b.hasIdentity && !b.associative && decide (b.xFmt ≠ b.yFmt))))

/-- `TSCAN` (R374). -/
def execTscan (f : Fields) (s : State) : Host.Outcome State Fault Refusal :=
  runBatch 0x146 (.tfold f) f s (tileBody .tscan (fun c b _ _ =>
    decide (b.arity = 0) || decide (b.xFmt ≠ b.yFmt) || decide (b.yFmt ≠ b.zFmt) || (c.f.mod 1 && !b.hasIdentity)))

/-! `TOUTER` (R376). -/

/-- The checks of R376 in order. -/
def Ctx.outerFault (c : Ctx) (x : Fibre) (e : EaselEntry) : Option FaultInfo :=
  match c.wg.brush? (c.f.immBits 0 6), c.wg.brush? (c.f.immBits 8 6) with
  | some p, some m =>
    firstFault [
      (decide (p.arity = 0) || decide (m.arity = 0), c.leadOperand x c.f.srcB),
      (decide (brushBytes m.xFmt ≠ brushBytes m.yFmt), c.leadOperand x c.f.srcB),
      (decide (p.xFmt ≠ p.zFmt) || decide (p.xFmt = 1), c.leadOperand x c.f.srcB),
      (decide (p.yFmt ≠ m.zFmt), c.leadOperand x c.f.srcB),
      (decide (bitsOf e.a 10 6 ≠ 0) || decide (e.a / 2 ^ 22 ≠ 0) || decide (e.steps = 0) || decide (e.steps > 32), c.leadOperand x c.f.srcA),
      ((unclaimed c.wg e).isSome, c.slotFault x ((unclaimed c.wg e).getD 0)),
      (decide (e.b % 4096 ≠ 0), c.leadFault x 9 e.b 4096),
      (decide (e.b + 4096 > c.kernel.accBytes), c.slotFault x e.b)]
  | _, _ => some (c.leadOperand x c.f.srcB)

/-- `TOUTER` (R376): it counts in the tile counter. -/
def execTouter (f : Fields) (s : State) : Host.Outcome State Fault Refusal :=
  runOnce 0x147 (.touter f) f s fun c x t =>
    if !c.easelReady t 3 then .ok t
    else
      let g (e : EaselEntry) : EaselEntry := { e with kind := .touter, a := (src32 c x c.f.srcA).toNat, b := (src32 c x c.f.srcB).toNat }
      match c.outerFault x (g { entry := 0, id := 0, kind := .touter, wg := c.wg.key, issuer := 0, cls := 3, fibre := x.index, pc := c.pc, imm := c.f.imm }) with
      | some e => .error e
      | none => .ok (t.queueEasel c x 3 g)

end Sys2Proof.Machine
end

