-- ==== Sys2Proof/Machine/Dispatch.lean ====
section
/-! DEFINITION. One arm per constructor of Instr: its meaning, or its refusal by name. -/

namespace Sys2Proof.Machine

def exec (i : Instr) (s : State) : Host.Outcome State Fault Refusal :=
  match i with
  | .bra f => Sys2Proof.Machine.execBra f s
  | .brx f => Sys2Proof.Machine.execBrx f s
  | .brxTbl f => Sys2Proof.Machine.execBrxTbl f s
  | .call f => Sys2Proof.Machine.execCall f s
  | .callX f => Sys2Proof.Machine.execCallX f s
  | .ret f => Sys2Proof.Machine.execRet f s
  | .fspawn f => Sys2Proof.Machine.execFspawn f s
  | .fspawnN f => Sys2Proof.Machine.execFspawnN f s
  | .fend f => Sys2Proof.Machine.execFend f s
  | .yield f => Sys2Proof.Machine.execYield f s
  | .nop f => Sys2Proof.Machine.execNop f s
  | .braLoop f => Sys2Proof.Machine.execBraLoop f s
  | .iadd f => Sys2Proof.Machine.execIadd f s
  | .iadd64 f => Sys2Proof.Machine.execIadd64 f s
  | .iaddSat f => Sys2Proof.Machine.execIaddSat f s
  | .iaddX f => Sys2Proof.Machine.execIaddX f s
  | .isub f => Sys2Proof.Machine.execIsub f s
  | .isub64 f => Sys2Proof.Machine.execIsub64 f s
  | .isubSat f => Sys2Proof.Machine.execIsubSat f s
  | .isubX f => Sys2Proof.Machine.execIsubX f s
  | .imul f => Sys2Proof.Machine.execImul f s
  | .imulHiS f => Sys2Proof.Machine.execImulHiS f s
  | .imulHiU f => Sys2Proof.Machine.execImulHiU f s
  | .imulWideS f => Sys2Proof.Machine.execImulWideS f s
  | .imulWideU f => Sys2Proof.Machine.execImulWideU f s
  | .imul64 f => Sys2Proof.Machine.execImul64 f s
  | .imad f => Sys2Proof.Machine.execImad f s
  | .imadWideS f => Sys2Proof.Machine.execImadWideS f s
  | .imadWideU f => Sys2Proof.Machine.execImadWideU f s
  | .imad64 f => Sys2Proof.Machine.execImad64 f s
  | .iabs f => Sys2Proof.Machine.execIabs f s
  | .iabs64 f => Sys2Proof.Machine.execIabs64 f s
  | .iminS f => Sys2Proof.Machine.execIminS f s
  | .iminU f => Sys2Proof.Machine.execIminU f s
  | .iminS64 f => Sys2Proof.Machine.execIminS64 f s
  | .iminU64 f => Sys2Proof.Machine.execIminU64 f s
  | .imaxS f => Sys2Proof.Machine.execImaxS f s
  | .imaxU f => Sys2Proof.Machine.execImaxU f s
  | .imaxS64 f => Sys2Proof.Machine.execImaxS64 f s
  | .imaxU64 f => Sys2Proof.Machine.execImaxU64 f s
  | .shl f => Sys2Proof.Machine.execShl f s
  | .shl64 f => Sys2Proof.Machine.execShl64 f s
  | .shrU f => Sys2Proof.Machine.execShrU f s
  | .shrS f => Sys2Proof.Machine.execShrS f s
  | .shrU64 f => Sys2Proof.Machine.execShrU64 f s
  | .shrS64 f => Sys2Proof.Machine.execShrS64 f s
  | .rotL f => Sys2Proof.Machine.execRotL f s
  | .rotR f => Sys2Proof.Machine.execRotR f s
  | .and f => Sys2Proof.Machine.execAnd f s
  | .or f => Sys2Proof.Machine.execOr f s
  | .xor f => Sys2Proof.Machine.execXor f s
  | .not f => Sys2Proof.Machine.execNot f s
  | .tern f => Sys2Proof.Machine.execTern f s
  | .bfxU f => Sys2Proof.Machine.execBfxU f s
  | .bfxS f => Sys2Proof.Machine.execBfxS f s
  | .bfi f => Sys2Proof.Machine.execBfi f s
  | .popc f => Sys2Proof.Machine.execPopc f s
  | .clz f => Sys2Proof.Machine.execClz f s
  | .brev f => Sys2Proof.Machine.execBrev f s
  | .icmpS f => Sys2Proof.Machine.execIcmpS f s
  | .icmpU f => Sys2Proof.Machine.execIcmpU f s
  | .icmpS64 f => Sys2Proof.Machine.execIcmpS64 f s
  | .icmpU64 f => Sys2Proof.Machine.execIcmpU64 f s
  | .sel f => Sys2Proof.Machine.execSel f s
  | .sel64 f => Sys2Proof.Machine.execSel64 f s
  | .mov f => Sys2Proof.Machine.execMov f s
  | .mov64 f => Sys2Proof.Machine.execMov64 f s
  | .movs f => Sys2Proof.Machine.execMovs f s
  | .movsI f => Sys2Proof.Machine.execMovsI f s
  | .lea f => Sys2Proof.Machine.execLea f s
  | .lea32 f => Sys2Proof.Machine.execLea32 f s
  | .leaSx f => Sys2Proof.Machine.execLeaSx f s
  | .plog f => Sys2Proof.Machine.execPlog f s
  | .plogW f => Sys2Proof.Machine.execPlogW f s
  | .pmovP2v f => Sys2Proof.Machine.execPmovP2v f s
  | .pmovV2p f => Sys2Proof.Machine.execPmovV2p f s
  | .cvtDn f => Sys2Proof.Machine.execCvtDn f s
  | .cvtUp f => Sys2Proof.Machine.execCvtUp f s
  | .cvtD f => Sys2Proof.Machine.execCvtD f s
  | .cvtF2i f => Sys2Proof.Machine.execCvtF2i f s
  | .cvtI2f f => Sys2Proof.Machine.execCvtI2f f s
  | .cvtF2l f => Sys2Proof.Machine.execCvtF2l f s
  | .cvtL2f f => Sys2Proof.Machine.execCvtL2f f s
  | .cvtI2i f => Sys2Proof.Machine.execCvtI2i f s
  | .pack2 f => Sys2Proof.Machine.execPack2 f s
  | .pack4 f => Sys2Proof.Machine.execPack4 f s
  | .pack5 f => Sys2Proof.Machine.execPack5 f s
  | .pack8 f => Sys2Proof.Machine.execPack8 f s
  | .unpk2 f => Sys2Proof.Machine.execUnpk2 f s
  | .unpk4 f => Sys2Proof.Machine.execUnpk4 f s
  | .unpk5 f => Sys2Proof.Machine.execUnpk5 f s
  | .unpk8 f => Sys2Proof.Machine.execUnpk8 f s
  | .cbld f => Sys2Proof.Machine.execCbld f s
  | .cbldM f => Sys2Proof.Machine.execCbldM f s
  | .cbq f => Sys2Proof.Machine.execCbq f s
  | .cbqP f => Sys2Proof.Machine.execCbqP f s
  | .bsclGet f => Sys2Proof.Machine.execBsclGet f s
  | .bsclGet32 f => Sys2Proof.Machine.execBsclGet32 f s
  | .bsclApply f => Sys2Proof.Machine.execBsclApply f s
  | .bsclInv f => Sys2Proof.Machine.execBsclInv f s
  | .fadd f => Sys2Proof.Machine.execFadd f s
  | .faddF16x2 f => Sys2Proof.Machine.execFaddF16x2 f s
  | .faddBf16x2 f => Sys2Proof.Machine.execFaddBf16x2 f s
  | .fmul f => Sys2Proof.Machine.execFmul f s
  | .fmulF16x2 f => Sys2Proof.Machine.execFmulF16x2 f s
  | .fmulBf16x2 f => Sys2Proof.Machine.execFmulBf16x2 f s
  | .fmac f => Sys2Proof.Machine.execFmac f s
  | .fmacF16x2 f => Sys2Proof.Machine.execFmacF16x2 f s
  | .fmacBf16x2 f => Sys2Proof.Machine.execFmacBf16x2 f s
  | .fmin f => Sys2Proof.Machine.execFmin f s
  | .fminF16x2 f => Sys2Proof.Machine.execFminF16x2 f s
  | .fminBf16x2 f => Sys2Proof.Machine.execFminBf16x2 f s
  | .fmax f => Sys2Proof.Machine.execFmax f s
  | .fmaxF16x2 f => Sys2Proof.Machine.execFmaxF16x2 f s
  | .fmaxBf16x2 f => Sys2Proof.Machine.execFmaxBf16x2 f s
  | .fcmp f => Sys2Proof.Machine.execFcmp f s
  | .fcmpF16x2 f => Sys2Proof.Machine.execFcmpF16x2 f s
  | .fcmpBf16x2 f => Sys2Proof.Machine.execFcmpBf16x2 f s
  | .fcmpF64 f => Sys2Proof.Machine.execFcmpF64 f s
  | .fcls f => Sys2Proof.Machine.execFcls f s
  | .fclsF64 f => Sys2Proof.Machine.execFclsF64 f s
  | .fclsF16x2 f => Sys2Proof.Machine.execFclsF16x2 f s
  | .fclsBf16x2 f => Sys2Proof.Machine.execFclsBf16x2 f s
  | .frnd f => Sys2Proof.Machine.execFrnd f s
  | .frndF64 f => Sys2Proof.Machine.execFrndF64 f s
  | .frndF16x2 f => Sys2Proof.Machine.execFrndF16x2 f s
  | .frndBf16x2 f => Sys2Proof.Machine.execFrndBf16x2 f s
  | .rcp f => Sys2Proof.Machine.execRcp f s
  | .rcpF64 f => Sys2Proof.Machine.execRcpF64 f s
  | .rsq f => Sys2Proof.Machine.execRsq f s
  | .rsqF64 f => Sys2Proof.Machine.execRsqF64 f s
  | .sqrt f => Sys2Proof.Machine.execSqrt f s
  | .sqrtF64 f => Sys2Proof.Machine.execSqrtF64 f s
  | .ex2 f => Sys2Proof.Machine.execEx2 f s
  | .lg2 f => Sys2Proof.Machine.execLg2 f s
  | .sin f => Sys2Proof.Machine.execSin f s
  | .cos f => Sys2Proof.Machine.execCos f s
  | .tanh f => Sys2Proof.Machine.execTanh f s
  | .dadd f => Sys2Proof.Machine.execDadd f s
  | .dmul f => Sys2Proof.Machine.execDmul f s
  | .dmac f => Sys2Proof.Machine.execDmac f s
  | .fminF64 f => Sys2Proof.Machine.execFminF64 f s
  | .fmaxF64 f => Sys2Proof.Machine.execFmaxF64 f s
  | .xpr f => Sys2Proof.Machine.execXpr f s
  | .part f => Sys2Proof.Machine.execPart f s
  | .xlnIdx f => Sys2Proof.Machine.execXlnIdx f s
  | .xlnSub f => Sys2Proof.Machine.execXlnSub f s
  | .xlnAdd f => Sys2Proof.Machine.execXlnAdd f s
  | .xlnFlip f => Sys2Proof.Machine.execXlnFlip f s
  | .vote f => Sys2Proof.Machine.execVote f s
  | .lred f => Sys2Proof.Machine.execLred f s
  | .lredF f => Sys2Proof.Machine.execLredF f s
  | .lscan f => Sys2Proof.Machine.execLscan f s
  | .lscanF f => Sys2Proof.Machine.execLscanF f s
  | .perm f => Sys2Proof.Machine.execPerm f s
  | .pld f => Sys2Proof.Machine.execPld f s
  | .ldS f => Sys2Proof.Machine.execLdS f s
  | .ldC f => Sys2Proof.Machine.execLdC f s
  | .ldG f => Sys2Proof.Machine.execLdG f s
  | .ldSQ f => Sys2Proof.Machine.execLdSQ f s
  | .ldCQ f => Sys2Proof.Machine.execLdCQ f s
  | .ldGQ f => Sys2Proof.Machine.execLdGQ f s
  | .stS f => Sys2Proof.Machine.execStS f s
  | .stC f => Sys2Proof.Machine.execStC f s
  | .stG f => Sys2Proof.Machine.execStG f s
  | .stSQ f => Sys2Proof.Machine.execStSQ f s
  | .stCQ f => Sys2Proof.Machine.execStCQ f s
  | .stGQ f => Sys2Proof.Machine.execStGQ f s
  | .prfL1 f => Sys2Proof.Machine.execPrfL1 f s
  | .prfL2 f => Sys2Proof.Machine.execPrfL2 f s
  | .cctlInv f => Sys2Proof.Machine.execCctlInv f s
  | .cctlWb f => Sys2Proof.Machine.execCctlWb f s
  | .cctlWbinv f => Sys2Proof.Machine.execCctlWbinv f s
  | .cctlPri f => Sys2Proof.Machine.execCctlPri f s
  | .aqry f => Sys2Proof.Machine.execAqry f s
  | .aqryH f => Sys2Proof.Machine.execAqryH f s
  | .phaseRel f => Sys2Proof.Machine.execPhaseRel f s
  | .phaseAcq f => Sys2Proof.Machine.execPhaseAcq f s
  | .phaseAr f => Sys2Proof.Machine.execPhaseAr f s
  | .fence f => Sys2Proof.Machine.execFence f s
  | .fenceE f => Sys2Proof.Machine.execFenceE f s
  | .ord f => Sys2Proof.Machine.execOrd f s
  | .atomAdd f => Sys2Proof.Machine.execAtomAdd f s
  | .atomAdd64 f => Sys2Proof.Machine.execAtomAdd64 f s
  | .atomAddF32 f => Sys2Proof.Machine.execAtomAddF32 f s
  | .atomAddBf16x2 f => Sys2Proof.Machine.execAtomAddBf16x2 f s
  | .atomMinS f => Sys2Proof.Machine.execAtomMinS f s
  | .atomMinU f => Sys2Proof.Machine.execAtomMinU f s
  | .atomMaxS f => Sys2Proof.Machine.execAtomMaxS f s
  | .atomMaxU f => Sys2Proof.Machine.execAtomMaxU f s
  | .atomAnd f => Sys2Proof.Machine.execAtomAnd f s
  | .atomOr f => Sys2Proof.Machine.execAtomOr f s
  | .atomXor f => Sys2Proof.Machine.execAtomXor f s
  | .atomExch f => Sys2Proof.Machine.execAtomExch f s
  | .atomExch64 f => Sys2Proof.Machine.execAtomExch64 f s
  | .atomCas f => Sys2Proof.Machine.execAtomCas f s
  | .atomCas64 f => Sys2Proof.Machine.execAtomCas64 f s
  | .atomInc f => Sys2Proof.Machine.execAtomInc f s
  | .redAdd f => Sys2Proof.Machine.execRedAdd f s
  | .redAdd64 f => Sys2Proof.Machine.execRedAdd64 f s
  | .redAddF32 f => Sys2Proof.Machine.execRedAddF32 f s
  | .redAddBf16x2 f => Sys2Proof.Machine.execRedAddBf16x2 f s
  | .redMinS f => Sys2Proof.Machine.execRedMinS f s
  | .redMinU f => Sys2Proof.Machine.execRedMinU f s
  | .redMaxS f => Sys2Proof.Machine.execRedMaxS f s
  | .redMaxU f => Sys2Proof.Machine.execRedMaxU f s
  | .redAnd f => Sys2Proof.Machine.execRedAnd f s
  | .redOr f => Sys2Proof.Machine.execRedOr f s
  | .redXor f => Sys2Proof.Machine.execRedXor f s
  | .redInc f => Sys2Proof.Machine.execRedInc f s
  | .binit f => Sys2Proof.Machine.execBinit f s
  | .barv f => Sys2Proof.Machine.execBarv f s
  | .barvC f => Sys2Proof.Machine.execBarvC f s
  | .bwait f => Sys2Proof.Machine.execBwait f s
  | .barr f => Sys2Proof.Machine.execBarr f s
  | .binv f => Sys2Proof.Machine.execBinv f s
  | .bqry f => Sys2Proof.Machine.execBqry f s
  | .watch f => Sys2Proof.Machine.execWatch f s
  | .watchClr f => Sys2Proof.Machine.execWatchClr f s
  | .waitw f => Sys2Proof.Machine.execWaitw f s
  | .waitwT f => Sys2Proof.Machine.execWaitwT f s
  | .rgrow f => Sys2Proof.Machine.execRgrow f s
  | .rgrowTry f => Sys2Proof.Machine.execRgrowTry f s
  | .rshrink f => Sys2Proof.Machine.execRshrink f s
  | .cpy f => Sys2Proof.Machine.execCpy f s
  | .cpySlot f => Sys2Proof.Machine.execCpySlot f s
  | .cpyCl f => Sys2Proof.Machine.execCpyCl f s
  | .cpyReg f => Sys2Proof.Machine.execCpyReg f s
  | .cpyRing f => Sys2Proof.Machine.execCpyRing f s
  | .cpyAcc f => Sys2Proof.Machine.execCpyAcc f s
  | .cpyB f => Sys2Proof.Machine.execCpyB f s
  | .gth f => Sys2Proof.Machine.execGth f s
  | .gthSlot f => Sys2Proof.Machine.execGthSlot f s
  | .sct f => Sys2Proof.Machine.execSct f s
  | .sctCl f => Sys2Proof.Machine.execSctCl f s
  | .seal f => Sys2Proof.Machine.execSeal f s
  | .waitc f => Sys2Proof.Machine.execWaitc f s
  | .swinit f => Sys2Proof.Machine.execSwinit f s
  | .swexp f => Sys2Proof.Machine.execSwexp f s
  | .swwait f => Sys2Proof.Machine.execSwwait f s
  | .rwait f => Sys2Proof.Machine.execRwait f s
  | .rrel f => Sys2Proof.Machine.execRrel f s
  | .sclm f => Sys2Proof.Machine.execSclm f s
  | .sclmTry f => Sys2Proof.Machine.execSclmTry f s
  | .srel f => Sys2Proof.Machine.execSrel f s
  | .mloop f => Sys2Proof.Machine.execMloop f s
  | .mloopC f => Sys2Proof.Machine.execMloopC f s
  | .mloopG f => Sys2Proof.Machine.execMloopG f s
  | .mzero f => Sys2Proof.Machine.execMzero f s
  | .mlda f => Sys2Proof.Machine.execMlda f s
  | .msta f => Sys2Proof.Machine.execMsta f s
  | .cmrg f => Sys2Proof.Machine.execCmrg f s
  | .cdrn f => Sys2Proof.Machine.execCdrn f s
  | .cdrnI f => Sys2Proof.Machine.execCdrnI f s
  | .czero f => Sys2Proof.Machine.execCzero f s
  | .czeroD f => Sys2Proof.Machine.execCzeroD f s
  | .brld f => Sys2Proof.Machine.execBrld f s
  | .brldPkg f => Sys2Proof.Machine.execBrldPkg f s
  | .brdrop f => Sys2Proof.Machine.execBrdrop f s
  | .brdropPkg f => Sys2Proof.Machine.execBrdropPkg f s
  | .tzip f => Sys2Proof.Machine.execTzip f s
  | .tfold f => Sys2Proof.Machine.execTfold f s
  | .tscan f => Sys2Proof.Machine.execTscan f s
  | .touter f => Sys2Proof.Machine.execTouter f s
  | .trap f => Sys2Proof.Machine.execTrap f s
  | .sysc f => Sys2Proof.Machine.execSysc f s
  | .csrr f => Sys2Proof.Machine.execCsrr f s
  | .csrw f => Sys2Proof.Machine.execCsrw f s
  | .csrs f => Sys2Proof.Machine.execCsrs f s
  | .csrc f => Sys2Proof.Machine.execCsrc f s
  | .brk f => Sys2Proof.Machine.execBrk f s
  | .frd f => Sys2Proof.Machine.execFrd f s
  | .fres f => Sys2Proof.Machine.execFres f s
  | .fkill f => Sys2Proof.Machine.execFkill f s
  | .mldr f => Sys2Proof.Machine.execMldr f s
  | .mldrF32 f => Sys2Proof.Machine.execMldrF32 f s
  | .msto f => Sys2Proof.Machine.execMsto f s
  | .psend f => Sys2Proof.Machine.execPsend f s
  | .psendT f => Sys2Proof.Machine.execPsendT f s
  | .lcarm f => Sys2Proof.Machine.execLcarm f s
  | .lcarmAdd f => Sys2Proof.Machine.execLcarmAdd f s
  | .twait f => Sys2Proof.Machine.execTwait f s
  | .twaitRel f => Sys2Proof.Machine.execTwaitRel f s
  | .tread f => Sys2Proof.Machine.execTread f s
  | .task f => Sys2Proof.Machine.execTask f s
  | .taskT f => Sys2Proof.Machine.execTaskT f s
  | .hints f => Sys2Proof.Machine.execHints f s
  | .waitpred f => Sys2Proof.Machine.execWaitpred f s
  | .loadDataReturn core ix => Sys2Proof.Machine.execLoadDataReturn core ix s
  | .homeWritePerformed core ix => Sys2Proof.Machine.execHomeWritePerformed core ix s
  | .barrierUnitRequest ix => Sys2Proof.Machine.execBarrierUnitRequest ix s
  | .rotationDecision core wg => Sys2Proof.Machine.execRotationDecision core wg s
  | .rotationTransferDone core => Sys2Proof.Machine.execRotationTransferDone core s
  | .rotationQuantumExpiry core wg => Sys2Proof.Machine.execRotationQuantumExpiry core wg s
  | .spinTimeout wg fibre => Sys2Proof.Machine.execSpinTimeout wg fibre s
  | .waitwReread wg fibre => Sys2Proof.Machine.execWaitwReread wg fibre s
  | .waitwDeadline wg fibre => Sys2Proof.Machine.execWaitwDeadline wg fibre s
  | .swwaitReread wg fibre => Sys2Proof.Machine.execSwwaitReread wg fibre s
  | .copyUnitGrant core entry => Sys2Proof.Machine.execCopyUnitGrant core entry s
  | .engineOpComplete core entry => Sys2Proof.Machine.execEngineOpComplete core entry s
  | .easelUnitStart core => Sys2Proof.Machine.execEaselUnitStart core s
  | .easelUnitEnd core => Sys2Proof.Machine.execEaselUnitEnd core s
  | .faultRecordWrite => Sys2Proof.Machine.execFaultRecordWrite s
  | .faultRingRetry => Sys2Proof.Machine.execFaultRingRetry s
  | .watchdogExpiry wg => Sys2Proof.Machine.execWatchdogExpiry wg s
  | .csrWrite agent num value => Sys2Proof.Machine.execCsrWrite agent num value s
  | .fcmdResumeAtPc agent value => Sys2Proof.Machine.execFcmdResumeAtPc agent value s
  | .fcmdResumePast agent value => Sys2Proof.Machine.execFcmdResumePast agent value s
  | .fcmdKill agent => Sys2Proof.Machine.execFcmdKill agent s
  | .preemptRequest agent => Sys2Proof.Machine.execPreemptRequest agent s
  | .preemptSaveDone wg => Sys2Proof.Machine.execPreemptSaveDone wg s
  | .preemptRestore agent => Sys2Proof.Machine.execPreemptRestore agent s
  | .preemptKillSaved agent => Sys2Proof.Machine.execPreemptKillSaved agent s
  | .tlbInvalidate agent value => Sys2Proof.Machine.execTlbInvalidate agent value s
  | .launchCounterDisarm value => Sys2Proof.Machine.execLaunchCounterDisarm value s
  | .faultRingReadIndexWrite value => Sys2Proof.Machine.execFaultRingReadIndexWrite value s
  | .coveWaysWrite agent value => Sys2Proof.Machine.execCoveWaysWrite agent value s
  | .tideTargetReached wg fibre => Sys2Proof.Machine.execTideTargetReached wg fibre s
  | .multicastMemberRequest member group offset width value => Sys2Proof.Machine.execMulticastMemberRequest member group offset width value s
  | .multicastResponse op answers => Sys2Proof.Machine.execMulticastResponse op answers s
  | .multicastMemberTimeout op member => Sys2Proof.Machine.execMulticastMemberTimeout op member s
  | .packetHop ix => Sys2Proof.Machine.execPacketHop ix s
  | .colnalFlitReceive port crcGood item => Sys2Proof.Machine.execColnalFlitReceive port crcGood item s
  | .strandFrameReceive frame => Sys2Proof.Machine.execStrandFrameReceive frame s
  | .strandSackReceive head cumulative bitmap => Sys2Proof.Machine.execStrandSackReceive head cumulative bitmap s
  | .strandSackTimer peer => Sys2Proof.Machine.execStrandSackTimer peer s
  | .strandRetransmitTimeout peer seq => Sys2Proof.Machine.execStrandRetransmitTimeout peer seq s
  | .strandPeerTimeout peer => Sys2Proof.Machine.execStrandPeerTimeout peer s
  | .queueNotify queue index table => Sys2Proof.Machine.execQueueNotify queue index table s
  | .workgroupAdmission => Sys2Proof.Machine.execWorkgroupAdmission s
  | .chunkTake core slice => Sys2Proof.Machine.execChunkTake core slice s
  | .workgroupEnd wg => Sys2Proof.Machine.execWorkgroupEnd wg s
  | .jobComplete launch => Sys2Proof.Machine.execJobComplete launch s
  | .launchComplete launch => Sys2Proof.Machine.execLaunchComplete launch s
  | .cxlMemAccess pa data length => Sys2Proof.Machine.execCxlMemAccess pa data length s
  | .cxlCacheSnoop pa exclusive => Sys2Proof.Machine.execCxlCacheSnoop pa exclusive s
  | .mgmtReadBlackBox die first count => Sys2Proof.Machine.execMgmtReadBlackBox die first count s
  | .mgmtReadPower => Sys2Proof.Machine.execMgmtReadPower s
  | .mgmtReadCounters => Sys2Proof.Machine.execMgmtReadCounters s
  | .mgmtWritePeer bytes => Sys2Proof.Machine.execMgmtWritePeer bytes s
  | .mgmtInstallKey bytes => Sys2Proof.Machine.execMgmtInstallKey bytes s
  | .mgmtPeerUp peer => Sys2Proof.Machine.execMgmtPeerUp peer s
  | .mgmtPeerDown peer => Sys2Proof.Machine.execMgmtPeerDown peer s
  | .mgmtLifeCycleStep bytes => Sys2Proof.Machine.execMgmtLifeCycleStep bytes s
  | .mgmtTenantReset => Sys2Proof.Machine.execMgmtTenantReset s
  | .mgmtWarmReset => Sys2Proof.Machine.execMgmtWarmReset s
  | .spdmMessage bytes => Sys2Proof.Machine.execSpdmMessage bytes s
  | .mctpControlMessage bytes => Sys2Proof.Machine.execMctpControlMessage bytes s
  | .coldReset => Sys2Proof.Machine.execColdReset s
  | .cxlConventionalReset => Sys2Proof.Machine.execCxlConventionalReset s
  | .wipeDone => Sys2Proof.Machine.execWipeDone s
  | .thermalTrip => Sys2Proof.Machine.execThermalTrip s
  | .blockLocalLimit block => Sys2Proof.Machine.execBlockLocalLimit block s
  | .patrolScrub errors => Sys2Proof.Machine.execPatrolScrub errors s
  | .tideSynchronisation value => Sys2Proof.Machine.execTideSynchronisation value s
  | .startTimeReached value => Sys2Proof.Machine.execStartTimeReached value s
  | .powerRemoved => Sys2Proof.Machine.execPowerRemoved s
  | .pageWalkComplete space va => Sys2Proof.Machine.execPageWalkComplete space va s
  | .lineFetchReturn core slot => Sys2Proof.Machine.execLineFetchReturn core slot s
  | .i3cDynamicAddressAssignment address => Sys2Proof.Machine.execI3cDynamicAddressAssignment address s

end Sys2Proof.Machine
end

