-- ==== Sys2Proof/Machine/Settle.lean ====
section
/-! DEFINITION. What follows at once from a step: batches split, merge and take warp slots (R66 to R72), slots and gathered steps become
ready (R325, R337, R344), saved fibres have their records (R257), staged values take effect (R15, R371), and time passes (R18, R109, R453). -/

namespace Sys2Proof.Machine

/-! Warp slots. -/

/-- A batch's fibres as they stand. -/
def Workgroup.batch (w : Workgroup) (sl : Slot) : List Fibre := w.fibres.filter (fun x => x.resident && !x.leaving && sl.lanes.contains x.index)

/-- A slot left (R72). -/
def Core.leaveSlot (c : Core) (sl : Slot) : Core := { c with slots := c.slots.filter (fun z => z.id ≠ sl.id) }

/-- The lanes of a batch in parts, each in ascending order, in the order of their lowest lanes (R68). -/
def partsOf (compat : Bool) : Nat → List Fibre → List (List Fibre)
  | 0, _ => []
  | _, [] => []
  | n + 1, x :: t => (x :: t.filter (sameBatch compat x)) :: partsOf compat n (t.filter (fun y => !sameBatch compat x y))

/-- A slot brought up to date: left where its batch is gone, split where its fibres have parted. -/
def State.splitSlot (s : State) (k id : Nat) : State :=
  match (s.core k).slots.find? (fun z => z.id = id) with
  | none => s
  | some sl => match s.wg? sl.wg with
    | none => s.updCore k (fun c => c.leaveSlot sl)
    | some w =>
      let live := w.batch sl
      match partsOf (s.compat16 w) 32 live with
      | [] => s.updCore k (fun c => c.leaveSlot sl)
      | first :: rest =>
        let ids := first.map (fun x => x.index)
        let s1 := if sl.lanes = ids then s
          else s.updCore k (fun c => { c with slots := c.slots.map (fun z => if z.id = id then { z with lanes := ids } else z) })
        rest.foldl (fun t p =>
          let l := p.map (fun x => x.index)
          (t.takeSlot k w sl (first.head?.map (fun x => x.hwarp) |>.getD 0) l).getD (t.saveFibres w.key l)) s1

/-- The lowest slot of two that merge, their lanes joined, with the smaller counter and the longer stall (R69); a line that only one of
them has entered is entered again. -/
def State.mergeTwo (s : State) (k : Nat) (a b : Slot) : State :=
  let low := if a.id < b.id then a else b
  let high := if a.id < b.id then b else a
  s.updCore k (fun c =>
    let c1 := c.leaveSlot high
    { c1 with slots := c1.slots.map (fun z => if z.id = low.id then
        { z with lanes := (a.lanes ++ b.lanes).foldl (fun l i => insertNat i l) [], age := min a.age b.age, stall := max a.stall b.stall,
                 line := if a.line = b.line then z.line else none } else z) })

/-- Two slots of a core whose batches may merge. -/
def State.mergeable (s : State) (k : Nat) : Option (Slot × Slot) :=
  let slots := (s.core k).slots
  slots.findSome? (fun a => (slots.find? (fun b => decide (a.id < b.id) && decide (a.wg = b.wg) &&
    (match s.wg? a.wg with
      | none => false
      | some w => match w.head a, w.head b with
        | some x, some y => decide (x.wait = .run) && sameBatch (s.compat16 w) x y
        | _, _ => false))).map (fun b => (a, b)))

def State.mergeSlots (k : Nat) : Nat → State → State
  | 0, s => s
  | n + 1, s => match s.mergeable k with
    | none => s
    | some (a, b) => State.mergeSlots k n (s.mergeTwo k a b)

/-- The slots of a core after a step: left and split, then joined by returning fibres, then merged, their counters in order. -/
def State.settleSlots (s : State) (k : Nat) : State :=
  let s1 := ((s.core k).slots.map (fun z => z.id)).foldl (fun t id => t.splitSlot k id) s
  let s2 := (s1.unplaced k).foldl (fun t e => t.placeFibre k e.1 e.2) s1
  (State.mergeSlots k 64 s2).updCore k Core.ranked

/-! Fibres that have left residency. -/

/-- Every fixed-latency result of a saved fibre is written, and its granted registers may be named (R42, R283); a resident fibre has no
record. -/
def Fibre.landed (x : Fibre) : Fibre :=
  if x.resident then { x with stored := none } else { x with growFrom := 240, early := x.early.map (fun e => { e with seen := true }) }

/-- The state field of a record (R257). -/
def recordState : Wait → Nat
  | .run | .answer => 0
  | .barrier => 1
  | .waitw => 2
  | .lane => 3
  | .swwait => 4
  | .rwait => 5
  | .waitc => 6
  | .waitpred => 7
  | .twait => 8
  | .spinning => 9

/-- The record of a saved fibre: its header, then its window (R257). -/
def Fibre.record (x : Fibre) : List Byte :=
  bytesOf 16 (x.pc.toNat + x.preds.toNat * 2 ^ 64 + x.allot / 16 * 2 ^ 80 + recordState x.wait * 2 ^ 88 + x.index % 4096 * 2 ^ 92) ++
    (List.range x.allot).flatMap (fun r => bytesOf 4 (Sparse.get 0 x.regs r).toNat)

/-- A place for a record of `n` bytes in an area of `size`: at its start or behind another record, where it overlaps none, a free choice
among these (log 13). -/
def State.recordPlace (s : State) (w : Workgroup) (i n size : Nat) : Option Nat :=
  let others := w.fibres.filterMap (fun y => if y.index = i then none else y.stored.map (fun e => (e.1, e.1 + e.2.length)))
  let fits (o : Nat) : Bool := decide (o + n ≤ size) && others.all (fun e => decide (o + n ≤ e.1) || decide (e.2 ≤ o))
  match (0 :: others.map (fun e => e.2)).filter fits with
  | [] => none
  | [o] => some o
  | places => places[Config.recordPlace s.free % places.length]?

/-- Bytes of a record written in pieces of 16 at their homes; a piece whose page has no valid entry is not written. -/
def State.recordPieces (space : Nat) : Nat → Nat → List Byte → State → State
  | 0, _, _, s => s
  | n + 1, va, bytes, s =>
    let t := match s.translate space va with
      | .ok (pa, leaf) => s.homePut (attrOf leaf pa) pa (bytes.take 16)
      | .error _ => s
    State.recordPieces space n (va + 16) (bytes.drop 16) t

/-- The record of a saved fibre written when it is saved, and again when what it holds has changed (R257). -/
def State.storeFibre (s : State) (key i : Nat) : State :=
  match (s.wg? key).bind (fun w => (w.fibre? i).map (fun x => (w, x))) with
  | none => s
  | some (w, x) => match w.storeArea, s.launch? w.launch with
    | some k, some l =>
      let bytes := x.record
      let place := match x.stored with
        | some (o, old) => if old.length = bytes.length then some o else s.recordPlace w i bytes.length l.storeArea
        | none => s.recordPlace w i bytes.length l.storeArea
      match place with
      | none => s
      | some o =>
        (State.recordPieces l.space (bytes.length / 16) (l.storeBase + k * l.storeArea + o) bytes s).updWg key (fun w => w.updFibre i (fun y =>
          { y with stored := some (o, bytes) }))
    | _, _ => s

/-- Saved fibres whose record is not as they are. -/
def State.unstored (s : State) : List (Nat × Nat) :=
  (s.wgs.filter (fun w => w.storeArea.isSome && decide (w.preempt ≠ .saved))).flatMap (fun w =>
    (w.fibres.filter (fun x => !x.resident && decide (x.stored.map (fun e => e.2) ≠ some x.record))).map (fun x => (w.key, x.index)))

/-- Their records written. -/
def State.storeRecords (s : State) : State := s.unstored.foldl (fun t e => t.storeFibre e.1 e.2) s

/-! The rest of the package. -/

/-- A way count that waited takes effect on a die where no chunk is staged (R15). -/
def State.settleCove (s : State) (die : Nat) : State :=
  let n := Sparse.get 0 s.covePending die
  if n = 0 || s.staged die then s
  else s.setCoveWays die n

/-- Package brushes of a launch that is over end when no packet names them (R371). -/
def State.settleBrush (s : State) (h : Nat) : State :=
  match Sparse.get none s.pkgBrushes h with
  | none => s
  | some (_, l) => if (s.launch? l).all (fun m => m.done) && !s.pkgBrushBusy h then { s with pkgBrushes := Sparse.set none s.pkgBrushes h none } else s

/-- Cores that hold anything. -/
def State.busyCores (s : State) : List Nat := distinct (s.cores.map (fun e => e.1) ++ s.wgs.map (fun w => w.core))

/-- One core settled. -/
def State.settleCore (s : State) (k : Nat) : State :=
  let s1 := s.settleSlots k
  if (s1.core k).easelQ.isEmpty then s1 else s1.noteReady k

/-- Versions of code lines are dropped once no launch can fetch them (R29). -/
def State.settleLines (s : State) : State := if s.launches.any (fun l => l.code.isSome && !l.done) then s else { s with lineLog := [] }

/-- Queues whose packets' lines have come go on accepting (R449). -/
def State.settleQueues (s : State) : State :=
  let came := distinct (s.fetched.filterMap (fun e => match e.1 with | .queue q => if s.awaitsLine e.1 then none else some q | _ => none))
  came.foldl (fun t q => State.acceptPackets q (t.queueTodo q) t) s

/-- Writes to other packages that a `FENCE.E` has waited for and that are all acknowledged are named no more. -/
def State.settleFences (s : State) : State :=
  { s with wgs := s.wgs.map (fun w => if w.fenceAcks.isEmpty then w else { w with fenceAcks := w.fenceAcks.filter (fun q => q.2.2.any s.asked) }) }

/-- Fibres whose holds are over run on (R226, R227, R240): every store named has been acknowledged, and for an acquire their loads have returned. -/
def State.settleHold (s : State) (key : Nat) (h : Hold) : State :=
  match s.wg? key with
  | none => s
  | some w =>
    let mine (x : Fibre) : Bool := decide (x.wait = .answer) && decide (x.waitKey = 2 ^ 41 + h.id)
    if h.stores.any s.asked || (h.acquire.isSome && (s.core w.core).loading key (w.fibres.filter mine)) then s
    else
      let t := s.updWg key (fun w => { w with
        holds := w.holds.filter (fun q => q.id ≠ h.id), fibres := w.fibres.map (fun x => if mine x then { x with wait := .run } else x) })
      match h.acquire with
      | some sc => t.acquire w.core sc
      | none => t
def State.settleHolds (s : State) : State := (s.wgs.flatMap (fun w => w.holds.map (fun h => (w.key, h)))).foldl (fun t e => t.settleHold e.1 e.2) s

/-- What follows from a step at once. -/
def State.settle (s : State) : State :=
  let s0 := s.settleHolds.settleFences.settleMulti.settleQueues
  let s0 := s0.busyCores.foldl State.settleCore s0
  let s1 := s0.busyCores.foldl State.startSave s0
  let s2 : State := { s1 with wgs := s1.wgs.map (fun w => { w with fibres := w.fibres.map Fibre.landed }) }
  let s3 := (s2.wgs.foldl (fun t w => t.sweepSlots w) s2).storeRecords
  let s4 := (s3.covePending.map (fun e => e.1)).foldl State.settleCove s3
  ((s4.pkgBrushes.map (fun e => e.1)).foldl State.settleBrush s4).releaseMulti.settleLinks.settleLines

/-- Stalls that have elapsed (R39): once over, a stall stays over, so that a ready batch stays ready (R73). -/
def Core.stalls (draw k : Nat) (c : Core) : Core :=
  { c with slots := c.slots.map (fun z => if z.stall ≠ 0 && Config.stallOver draw k z.id then { z with stall := 0 } else z) }

/-- A core that gains room, registers or places for resident fibres, waits its 2 µs from now (R458). -/
def Core.gainsRoom (now regs fibres : Nat) (c : Core) : Core :=
  { c with usedRegs := regs, residents := fibres, idleSince := if regs < c.usedRegs ∨ fibres < c.residents then now else c.idleSince }

/-- Work stands that cores of some die could find: a card in a segment, or a workgroup to be admitted. -/
def State.workStands (s : State) : Bool :=
  s.segments.any (fun e => !e.2.isEmpty) || s.launches.any (fun m => m.nextWgid.isSome && m.kernel.isSome)

/-- Every core that finds work of its own up to now waits its 2 µs from now (R458). -/
def State.foundWork (s : State) (now : Nat) (cores : Sparse Core) : Sparse Core :=
  if !s.workStands then cores
  else (List.range Config.cores).foldl (fun m k => if s.findsWork k then Sparse.set {} m k { Sparse.get {} m k with idleSince := now } else m) cores

/-- Time passes: the Tide and the clocks of the cores by free amounts, the free sequence by one draw; stalls end; a launch
whose next workgroup could be admitted has waited for it (R453). -/
def State.elapse (s : State) : State :=
  let now := min (2 ^ 64 - 1) (s.tide.toNat + Config.tideStep s.free)
  { s with
    tide := BitVec.ofNat 64 now
    cores := s.foundWork now (s.cores.map (fun e => (e.1, (e.2.stalls s.free e.1).gainsRoom s.tide.toNat (s.usedRegs e.1) (s.residents e.1))))
    cyc := s.cyc.mapIdx (fun k c => c + BitVec.ofNat 64 (Config.cycStep s.free k))
    launches := s.launches.map (fun l => if (s.launchCandidate l).isSome then { l with waiting := l.waiting + (now - s.tide.toNat) } else l)
    free := s.free + 1
    issue := none }

end Sys2Proof.Machine
end

