-- ==== Sys2Proof/Machine/Issue.lean ====
section
/-! DEFINITION. What a batch issues at its PC: one instruction, a template pair (R45, R46), a fused group (R47, R48) or an `ORD` with the
access it prefixes (R237, R239); when it is ready (R41, R71); and what an issue leaves for later ones (R39 to R44, R72, R283). -/

noncomputable section

namespace Sys2Proof.Machine

/-! What stands at a PC. -/

/-- An instruction word with its PC. -/
structure Member where
  pc : BitVec 64
  bits : BitVec 96
  deriving DecidableEq, Repr

def Member.op (m : Member) : Nat := (m.bits.extractLsb' 87 9).toNat
def Member.f (m : Member) : Fields := fieldsOf m.bits
def Member.instr (m : Member) : Option Instr := (decodeWord m.bits).toOption
/-- The row of the word; an opcode outside the map is illegal (R60). -/
def Member.shape (m : Member) : Shape := (m.instr.bind shapeOf).getD { badOpcode := true }

/-- The word of a slot of a line. -/
def memberAt (line : BitVec 512) (pc : BitVec 64) : Member := { pc := pc, bits := slotBits line (pcSlot pc) }

/-- What issues as one. -/
inductive Plan where
  | single (m : Member)
  | pair (a b : Member)
  /-- The members in order, and the latency of the last result where the table of R47 fixes it. -/
  | fused (ms : List Member) (lat : Option Nat)
  | ordered (m : Member)
  deriving DecidableEq, Repr

/-- The members carry the same guard fields (R47). -/
def sameGuard (a b : Fields) : Bool :=
  decide (a.guardOn = b.guardOn) && decide (a.guardPred = b.guardPred) && decide (a.guardNeg = b.guardNeg)

/-- A shift count that is a constant or an immediate from 0 to 31 (R47). -/
def shortShift (f : Fields) : Bool :=
  if f.immSel then decide (f.imm.toNat < 32)
  else decide (0x100 ≤ f.srcB.toNat ∧ f.srcB.toNat < 0x140) && decide (constWord (f.srcB.toNat - 0x100) < 32)

/-- A destination that a later member can name: a vector register or `vz`. -/
def named (f : Fields) : Bool := decide (f.dst.toNat ≤ 240)

/-- Two words that fuse, with the group's latency where R47 gives a number (patterns 1 to 6). -/
def fuseTwo (a b : Member) : Option (Option Nat) :=
  let f := a.f
  let g := b.f
  let takesA := named f && decide (g.srcA = f.dst)
  let takesB := named f && !g.immSel && decide (g.srcB = f.dst)
  if a.op = 0x018 && b.op = 0x010 && sameGuard f g && (takesA || takesB) then some (some 6)
  else if a.op = 0x02C && b.op = 0x010 && sameGuard f g && shortShift f && takesA then some (some 4)
  else if (a.op = 0x049 || a.op = 0x04B) && (b.op = 0x0B2 || b.op = 0x0B5) && sameGuard f g && takesA then some none
  else if a.op = 0x04A && (b.op = 0x0B0 || b.op = 0x0B1 || b.op = 0x0B3 || b.op = 0x0B4) && sameGuard f g && takesA then some none
  else if a.op = 0x073 && b.op = 0x070 && sameGuard f g && takesA then some (some 6)
  else if decide (0x03F ≤ a.op ∧ a.op ≤ 0x042) && b.op = 0x001 && g.guardOn && decide (g.guardPred.toNat = predOf f.dst) then some none
  else if a.op = 0x034 && (b.op = 0x03F || b.op = 0x040) && sameGuard f g && takesA && !g.immSel && decide (g.srcB = 0x0F0) &&
      decide (g.modBits 0 3 < 2) then some (some 3)
  else none

/-- What issues at a PC of a line (R45, R47, R237). DESIGN CHOICE (log 22): where groups that could form overlap, the one that begins at the
issuing PC forms (of `AND`, `ICMP`, `BRA` the first two fuse). -/
def planOf (line : BitVec 512) (pc : BitVec 64) : Plan :=
  let i := pcSlot pc
  let at' (j : Nat) : Member := memberAt line (slotsAfter pc j)
  let alone (j : Nat) : Bool := decide (i + j < 5) && !pairBit line (i + j)
  let m := at' 0
  if pairBit line i then .pair m (at' 1)
  else if m.op = 0x0D5 then .ordered m
  else if alone 1 && alone 2 && m.op = 0x02C && decide ((fuseTwo m (at' 1)).isSome) && decide ((at' 2).op = 0x0B0) &&
      sameGuard (at' 1).f (at' 2).f && named (at' 1).f && decide ((at' 2).f.srcA = (at' 1).f.dst) then .fused [m, at' 1, at' 2] none
  else if alone 1 then (match fuseTwo m (at' 1) with | some lat => .fused [m, at' 1] lat | none => .single m)
  else .single m

/-! Readiness. -/

/-- The row of the word in a workgroup: `TZIP` reads source B only with a brush of two inputs (R368). -/
def Member.shapeIn (m : Member) (w : Workgroup) : Shape :=
  if m.op = 0x144 then { m.shape with b := if (w.brush? (m.f.immBits 0 6)).any (fun b => b.arity = 1) then m.shape.b else .no } else m.shape

/-- A register or predicate the instruction names is pending in a fibre (R41), those that earlier members write left aside (R48). -/
def Member.pendingIn (m : Member) (w : Workgroup) (doneV doneP : List Nat) (x : Fibre) : Bool :=
  let sh := m.shapeIn w
  (sh.readsV m.f ++ sh.writesV m.f).any (fun n => x.pendV.contains n && !doneV.contains n) ||
    (sh.readsP m.f ++ sh.writesP m.f).any (fun p => x.pendP.contains p && !doneP.contains p)

/-- Members none of whose registers is pending. -/
def noPending (w : Workgroup) (lanes : List Fibre) : List Nat → List Nat → List Member → Bool
  | _, _, [] => true
  | doneV, doneP, m :: t =>
    lanes.all (fun x => !m.pendingIn w doneV doneP x) && noPending w lanes (doneV ++ m.shape.writesV m.f) (doneP ++ m.shape.writesP m.f) t

/-- A source names `sr.mstat` (R429). -/
def readsMstat (m : Member) : Bool :=
  let one (r : Role) (code : BitVec 9) : Bool :=
    match r with | .v => decide (code = 0x19F) | .pair => decide (code = 0x19E) | _ => false
  one m.shape.a m.f.srcA || (!m.f.immSel && one m.shape.b m.f.srcB) || one m.shape.c m.f.srcC

/-- A read of `sr.mstat` waits for every `MLDR` of its issuer (R429). -/
def State.mstatBusy (s : State) (w : Workgroup) (lanes : List Fibre) : Bool :=
  s.multi.any (fun o => o.load && decide (o.wg = w.key) && lanes.any (fun x => decide (o.issuer = issuerOf (s.compat16 w) x.index)))

/-- The codebook tables that a format word names (R332). -/
def wordTables (w : Word) : List Nat :=
  (if fmtA w.toNat = 8 then [bitsOf w.toNat 16 6] else []) ++ (if fmtB w.toNat = 8 then [bitsOf w.toNat 22 6] else [])

/-- The codebook tables that an instruction names in a lane: `UNPK` from CB4, `CBLD`, `CBLD.M`, `CBQ`, `CBQ.P`, and the counting and draining
operations of the Easel (R136). DESIGN CHOICE (log 24): a table is named by the newest value of the register, also where the instruction then reads the older
one (R43). -/
def tablesNamed (op : Nat) (c : Ctx) (x : Fibre) : List Nat :=
  if decide (0x05C ≤ op ∧ op ≤ 0x05F) then (if c.f.fmtSrc = 8 then [bookNumber (src32 c x c.f.srcB)] else [])
  else if op = 0x060 ∨ op = 0x061 then [bookNumber (src32 c x c.f.srcA)]
  else if op = 0x062 ∨ op = 0x063 then [bookNumber (srcB32 c x)]
  else if op = 0x134 ∨ op = 0x135 then wordTables (src32 c x c.f.srcA)
  else if op = 0x13A then wordTables (src32 c x c.f.srcB)
  else []

/-- The patterns that a `PERM` would read as a rendezvous's first passing arrival (R176). -/
def patternsRead (c : Ctx) : List Nat :=
  (reachesOf 0xAA c).flatMap (fun m =>
    let first (p : Fibre → Bool) : List Nat :=
      ((c.passing.filter (fun x => m.getLsbD x.lane && p x)).take 1).map (fun x => (src32 c x c.f.srcB).toNat % 64)
    match c.wg.rendezvous.find? (fun r => decide (r.hwarp = c.hwarp) && decide (r.pc = c.pc) && decide (r.reach = m)) with
    | some r => if r.pattern.isSome then [] else first (fun x => r.members.getLsbD x.lane && !r.arrived.getLsbD x.lane)
    | none => first (fun _ => true))

/-- A codebook that `CBLD` or `CBLD.M` writes is still to be read by a drain issued earlier (R136). -/
def State.bookBusy (s : State) (k : Nat) (c : Ctx) (n : Nat) : Bool :=
  (s.core k).easelQ.any (fun e => decide (e.wg = c.wg.key) && decide (e.kind = .cdrn) &&
    !(s.core k).easelUnit.any (fun u => u.entry = e.entry) && (wordTables (BitVec.ofNat 32 e.b)).contains n)

/-- A table or a pattern that the instruction needs is loading, or a table that it writes is still to be read (R136, R176). -/
def State.tablesBusy (s : State) (k op : Nat) (c : Ctx) : Bool :=
  let core := s.core k
  c.passing.any (fun x => (tablesNamed op c x).any (fun n =>
    core.fills c.wg.key (.book n) || ((op = 0x060 || op = 0x061) && s.bookBusy k c n))) ||
  (op = 0x0AA && (patternsRead c).any (fun n => core.fills c.wg.key (.pattern n)))

/-- Opcodes of the instructions that `State.tablesBusy` looks at. -/
def tableOp (op : Nat) : Bool := decide (0x05C ≤ op ∧ op ≤ 0x063) || op = 0x0AA || op = 0x134 || op = 0x135 || op = 0x13A

/-- Instructions that wait until their fibres' earlier loads have returned: phases, `FENCE`, arrivals and waits whose ends are phases, `RREL`, and
an `ORD` with an acquire or release half (R226, R227, R235, R240, R272, R280, R312, R316). -/
def Member.needsLoads (m : Member) : Bool :=
  decide (0x0D0 ≤ m.op ∧ m.op ≤ 0x0D3) || decide (0x101 ≤ m.op ∧ m.op ≤ 0x104) || m.op = 0x109 || m.op = 0x10A ||
    decide (0x11F ≤ m.op ∧ m.op ≤ 0x121) || (m.op = 0x0D5 && decide (m.f.modBits 0 2 ≥ 1))

/-- Instructions after which other fibres, cores or the host may rely on what their fibres have done: spawns, rendezvous, barriers and residency,
sync words and rings, system instructions, launch counters and tasks. Their fibres' earlier loads have taken their values by then (R219). -/
def Member.afterLoads (m : Member) : Bool :=
  m.op = 0x007 || m.op = 0x008 || decide (0x0A0 ≤ m.op ∧ m.op ≤ 0x0AA) || decide (0x100 ≤ m.op ∧ m.op ≤ 0x10D) ||
    decide (0x11D ≤ m.op ∧ m.op ≤ 0x121) || decide (0x150 ≤ m.op ∧ m.op ≤ 0x159) || m.op = 0x165 || m.op = 0x166 || decide (0x170 ≤ m.op)

/-- Opcodes whose instructions may have to wait for a unit, a queue or a result at their issue: `FEND`, `RSHRINK`, and the engine, tile,
collective and task encodings. Such an instruction that cannot issue leaves its batch where it stands. -/
def unitOp (op : Nat) : Bool := decide (op = 0x009) || decide (op = 0x10D) || decide (0x110 ≤ op ∧ op ≤ 0x171)

/-- The batch stands as it stood. -/
def Workgroup.stands (w v : Workgroup) (sl : Slot) : Bool :=
  v.parked.isNone && (w.batch sl).all (fun x => v.fibres.any (fun y => decide (y.index = x.index) && decide (y.pc = x.pc) &&
    decide (y.wait = .run) && y.resident))

/-- The state in which a slot's batch issues. -/
def State.issuing (s : State) (k : Nat) (sl : Slot) : State := { s with issue := some { core := k, slot := sl.id } }

/-- The instruction of a word, for the issuing batch; a word without one raises the illegal-opcode fault (R60). -/
def Member.run (m : Member) (s : State) : Host.Outcome State Fault Refusal :=
  match m.instr with
  | some i => exec i s
  | none => runBatch m.op m.shape m.f s (fun _ t => .ok t)

/-- A unit that the instruction needs cannot take it now. -/
def Member.waits (m : Member) (s : State) (k : Nat) (w : Workgroup) (sl : Slot) : Bool :=
  unitOp m.op &&
    (match m.run (s.issuing k sl) with
      | .next t => (match t.wg? w.key with | some v => w.stands v sl | none => false)
      | _ => false)

/-- No `MLDR` that must have completed before the instruction reads `sr.mstat` is under way (R429). -/
def Member.mstatFree (m : Member) (s : State) (w : Workgroup) (sl : Slot) : Bool := !(readsMstat m && s.mstatBusy w (w.batch sl))

/-! Lines of other packages that an instruction reads at its issue (R16, R27, R203; log 18). -/

/-- The destinations whose lines a transfer or a spawn checks (R27, R75, R79, R82, R83). -/
def targetsOf (op : Nat) (c : Ctx) : List (BitVec 64) :=
  let direct := immTarget c.pc c.f.imm
  if op = 0x001 ∨ op = 0x004 ∨ op = 0x007 ∨ op = 0x008 ∨ op = 0x00C then [direct]
  else if op = 0x002 ∨ op = 0x005 ∨ op = 0x006 then c.passing.map (fun x => src64 c x c.f.srcA)
  else if op = 0x003 then c.passing.map (fun x => slotsAfter direct (src32 c x c.f.srcA).toNat)
  else []

/-- Lines of `n` bytes that a core reads as an `LD.G` of its lane and that only their home on another package can serve. -/
def State.farLines (s : State) (c : Ctx) (a n : Nat) : List Nat :=
  match s.place c.core c.wg c.kernel 0 c.launch.space a n 1 with
  | .ok (.home pa at') => ((List.range ((n + 127) / 128)).filter (fun i => s.needsFar c.core 0 (min n 128) (.home (pa + 128 * i) at'))).map (fun i => pa / 128 + i)
  | _ => []

/-- The lines of the image of a `BRLD` or `BRLD.PKG` (R369): those of its first block, and once they are there those of its table. -/
def State.imageLines (s : State) (who : Reader) (c : Ctx) (x : Fibre) : List Nat :=
  let a := (src64 c x c.f.srcA + c.f.imm.signExtend 64).toNat
  let first := s.farLines c a 256
  if !(s.lacking who first).isEmpty then first
  else match s.imageBlock c x a with
    | .error _ => first
    | .ok (bytes, _) =>
      if bitsOf (ofBytes (bytes.take 64)) 9 1 = 0 then first
      else first ++ (List.range 4).flatMap (fun i => s.farLines c ((a + 256 * (i + 1)) % 2 ^ 64) 256)

/-- What an instruction acts on as an `LD.G` of its lowest passing lane: an image, a card (R434, R460), or a fault record (R405). -/
def State.readLines (s : State) (who : Reader) (op : Nat) (c : Ctx) : List Nat :=
  match c.passing with
  | [] => []
  | x :: _ =>
    if op = 0x140 ∨ op = 0x141 then s.imageLines who c x
    else if op = 0x165 then s.farLines c (src64 c x c.f.srcC).toNat 32
    else if op = 0x170 ∨ op = 0x171 then s.farLines c (src64 c x c.f.srcA).toNat 32
    else if decide (0x157 ≤ op ∧ op ≤ 0x159) && c.launch.privileged then s.farLines c (src64 c x c.f.srcA).toNat 64
    else []

/-- Opcodes of the instructions that `Member.lacks` looks at. -/
def farOp (op : Nat) : Bool :=
  decide (0x001 ≤ op ∧ op ≤ 0x008) || op = 0x00C || op = 0x140 || op = 0x141 || decide (0x157 ≤ op ∧ op ≤ 0x159) || op = 0x165 || op = 0x170 || op = 0x171

/-- Lines of other packages that a member reads at its issue and that have not come for its batch. -/
def Member.lacks (m : Member) (s : State) (k : Nat) (sl : Slot) : List Nat :=
  if !farOp m.op then []
  else match Ctx.of? (s.issuing k sl) m.op m.f with
    | none => []
    | some c0 =>
      let c := { c0 with pc := m.pc }
      let who : Reader := .batch c.wg.key (lowestFibre c.lanes)
      s.lacking who ((targetsOf m.op c).filterMap (s.farCode c.launch) ++ s.readLines who m.op c)

/-- The instruction can issue but for pending registers. -/
def Member.free (m : Member) (s : State) (k : Nat) (w : Workgroup) (sl : Slot) : Bool :=
  m.mstatFree s w sl && (m.lacks s k sl).isEmpty && !m.waits s k w sl &&
    !(m.afterLoads && (s.core k).awaits w.key (w.batch sl)) &&
    !(m.needsLoads && (s.core k).loading w.key ((w.batch sl).filter (passes m.f))) &&
    !(tableOp m.op && (Ctx.of? (s.issuing k sl) m.op m.f).any (s.tablesBusy k m.op))

/-- The access after an `ORD`, from its line or the next (R237); none where that line's entry faults. -/
def State.prefixed? (s : State) (w : Workgroup) (lanes : List Fibre) (line : BitVec 512) (m : Member) : Except FaultInfo (BitVec 512 × Member) :=
  let pc := seqPc m.pc
  let fault (l : Except Nat (BitVec 512)) : Option FaultInfo := entryFault l pc (lowestFibre lanes) (laneMask lanes)
  if pcSlot m.pc < 4 then .ok (line, memberAt line pc)
  else
    let l := (s.launch? w.launch).getD { lseq := w.launch, kind := .packet }
    match s.fetchLine l pc with
    | .error c => .error ((fault (.error c)).getD { cls := 10, pc := pc })
    | .ok b => match fault (.ok b) with
      | some e => .error e
      | none => .ok (b, memberAt b pc)

/-- Lines of other packages that a plan's members read at their issue, or that hold the access after an `ORD`, and that have not come. -/
def State.planLacks (s : State) (k : Nat) (w : Workgroup) (sl : Slot) (p : Plan) : List Nat :=
  match p with
  | .single m => m.lacks s k sl
  | .pair a b => a.lacks s k sl ++ b.lacks s k sl
  | .fused ms _ => ms.flatMap (fun m => m.lacks s k sl)
  | .ordered m =>
    if pcSlot m.pc < 4 then []
    else s.lacking (.batch w.key (lowestFibre (w.batch sl))) ((s.launch? w.launch).bind (fun l => s.farCode l (seqPc m.pc))).toList

/-- The members of a plan. -/
def Plan.members : Plan → List Member
  | .single m | .ordered m => [m]
  | .pair a b => [a, b]
  | .fused ms _ => ms

/-- What a plan needs is there (R71). -/
def State.planReady (s : State) (k : Nat) (w : Workgroup) (sl : Slot) (line : BitVec 512) (p : Plan) : Bool :=
  let lanes := w.batch sl
  match p with
  | .single m => noPending w lanes [] [] [m] && m.free s k w sl
  | .pair a b => [a, b].all (fun m => noPending w lanes [] [] [m] && m.free s k w sl)
  | .fused ms _ => noPending w lanes [] [] ms && ms.all (fun m => m.free s k w sl)
  | .ordered m => (s.planLacks k w sl p).isEmpty && (match s.prefixed? w lanes line m with | .ok (_, n) => noPending w lanes [] [] [n] && n.free s k w sl | .error _ => true) && m.free s k w sl

/-- A workgroup's fibres may issue: not parked, not being saved (R384, R399). -/
def Workgroup.issues (w : Workgroup) : Bool := w.parked.isNone && decide (w.preempt = .running ∨ w.preempt = .draining)

/-- The line latched for a slot, where it is the one its batch stands in. -/
def Slot.current (sl : Slot) (x : Fibre) : Option (BitVec 512) :=
  match sl.line with
  | some (l, b) => if l = pcLine x.pc then some b else none
  | none => none

/-- A slot's batch may fetch the line it stands in; not while the line is on its way from another package. -/
def State.slotFetches (s : State) (sl : Slot) : Bool :=
  match s.wg? sl.wg with
  | none => false
  | some w => match w.head sl with
    | none => false
    | some x => w.issues && decide (x.wait = .run) && (sl.current x).isNone && !s.awaitsLine (.batch w.key x.index)

/-- A batch stands at a plan of its line of which something holds, with none of its fibres waiting. -/
def State.slotStands (s : State) (sl : Slot) (holds : Workgroup → BitVec 512 → Plan → Bool) : Bool :=
  match s.wg? sl.wg with
  | none => false
  | some w => match w.head sl with
    | none => false
    | some x =>
      w.issues && (w.batch sl).all (fun y => decide (y.wait = .run)) &&
        (match sl.current x with
          | none => false
          | some b => holds w b (planOf b x.pc))

/-- A batch is ready (R71): its stall has elapsed, none of its fibres waits, its line has passed, and what its plan needs is there. -/
def State.slotReady (s : State) (k : Nat) (sl : Slot) : Bool := s.slotStands sl (s.planReady k · sl) && decide (sl.stall = 0)

/-- A batch stands at a plan whose registers are there and which lacks lines of other packages that have not been asked for. -/
def State.slotAsks (s : State) (k : Nat) (sl : Slot) : Bool :=
  s.slotStands sl (fun w _ p => noPending w (w.batch sl) [] [] p.members && !(s.planLacks k w sl p).isEmpty &&
    !s.awaitsLine (.batch w.key (lowestFibre (w.batch sl))))

/-- They are asked for. -/
def State.askSlot (s : State) (k : Nat) (sl : Slot) : State :=
  match s.wg? sl.wg with
  | none => s
  | some w => match (w.head sl).bind (fun x => (sl.current x).map (fun b => planOf b x.pc)) with
    | none => s
    | some p => s.askLines (.batch w.key (lowestFibre (w.batch sl))) (s.planLacks k w sl p)

/-! Before an instruction reads (R43, R283). -/

/-- The registers and predicates an instruction reads, predicates from 256. -/
def Member.reads (m : Member) : List Nat := m.shape.readsV m.f ++ (m.shape.readsP m.f).map (fun p => 256 + p)
def Member.writes (m : Member) : List Nat := m.shape.writesV m.f ++ (m.shape.writesP m.f).map (fun p => 256 + p)

/-- Whether a reader of a result not yet due sees the value before it; once a reader has seen the newer one, never (R43). -/
def Fibre.early! (draw : Nat) (reads : List Nat) (x : Fibre) : Fibre :=
  if x.early.isEmpty then x
  else { x with early := x.early.map (fun e =>
    { e with useOld := reads.contains e.target && !e.seen && Config.readsOld draw (x.index * 512 + e.target) }) }

/-- Registers granted by an `RGROW` two cycles ago or more, or perhaps fewer, may be named (R283). -/
def Fibre.grown (draw : Nat) (x : Fibre) : Fibre :=
  if x.growFrom = 240 then x else if decide (x.growAge ≥ 2) || Config.growReady draw x.index then { x with growFrom := 240 } else x

/-- A workgroup's fibres of a batch updated. -/
def State.updBatch (s : State) (key : Nat) (lanes : List Nat) (g : Fibre → Fibre) : State :=
  s.updWg key (fun w => { w with fibres := w.fibres.map (fun x => if lanes.contains x.index then g x else x) })

/-- The registers and predicates that a word reads in a workgroup. -/
def Member.readsOf (m : Member) (w : Workgroup) : List Nat :=
  (m.shapeIn w).readsV m.f ++ ((m.shapeIn w).readsP m.f).map (fun p => 256 + p)

/-- A batch about to run a member. -/
def State.readying (s : State) (key : Nat) (lanes : List Nat) (m : Member) : State :=
  let reads := ((s.wg? key).map m.readsOf).getD []
  s.updBatch key lanes (fun x => (x.early! s.free reads).grown s.free)

/-- A fibre after an instruction has read: what it read new is seen, and results it replaces are no longer awaited. -/
def Fibre.hasRead (reads writes : List Nat) (x : Fibre) : Fibre :=
  if x.early.isEmpty then x
  else { x with early := (x.early.filter (fun e => !writes.contains e.target)).map (fun e =>
    { e with seen := e.seen || (reads.contains e.target && !e.useOld), useOld := false }) }

/-- What a member reads and writes in a fibre: behind a guard that fails, its guard alone (R31). -/
def Member.readsIn (m : Member) (w : Workgroup) (x : Fibre) : List Nat :=
  if passes m.f x then m.readsOf w else if m.f.guardOn then [256 + m.f.guardPred.toNat] else []
def Member.writesIn (m : Member) (x : Fibre) : List Nat := if passes m.f x then m.writes else []

/-- A batch after members that issued in a state have read. -/
def State.haveRead (s before : State) (key : Nat) (lanes : List Nat) (ms : List Member) : State :=
  match before.wg? key with
  | none => s
  | some w => s.updBatch key lanes (fun y =>
      let x := (w.fibre? y.index).getD y
      y.hasRead (ms.flatMap (fun m => m.readsIn w x)) (ms.flatMap (fun m => m.writesIn x)))

/-! After an issue. -/

/-- The workgroup is parked. -/
def State.parkedWg (s : State) (key : Nat) : Option FaultInfo := (s.wg? key).bind (fun w => w.parked)

/-- The results of a member not due at once: target and latency (R40). -/
def Member.results (m : Member) (lat : Option Nat) : List (Nat × Nat) :=
  match m.shape.lat with
  | .fixed n => m.writes.map (fun t => (t, lat.getD n))
  | _ => []

/-- Every member's results, the last with the group's latency (R47). -/
def groupResults (lat : Option Nat) : List Member → List (Member × (Nat × Nat))
  | [] => []
  | [m] => (m.results lat).map (fun r => (m, r))
  | m :: t => (m.results none).map (fun r => (m, r)) ++ groupResults lat t

/-- The value of a register or predicate before the issue. -/
def Fibre.valueOf (x : Fibre) (t : Nat) : Word :=
  if t < 256 then Sparse.get 0 x.regs t else if x.preds.getLsbD (t - 256) then 1 else 0

/-- The PC lies within the loop from a target to a branch (R400). -/
def inLoop (pc : BitVec 64) (loop : BitVec 64 × BitVec 64) : Bool := backward pc loop.1 && backward loop.2 pc

/-- The issue counts for the watchdog (R400). -/
def Fibre.counts (ms : List Member) (x : Fibre) : Bool :=
  match x.quiet with
  | none => true
  | some loop => ms.any (fun m => taintsOp m.op m.f || !inLoop m.pc loop)

/-- The results that members leave behind in a fibre, as it stood before them (R40): each with its latency and the value before. -/
def newResults (lat : Option Nat) (ms : List Member) (x : Fibre) : List (Nat × Nat × Word) :=
  (groupResults lat ms).foldl (fun l r =>
    if passes r.1.f x then l.filter (fun n => n.1 ≠ r.2.1) ++ [(r.2.1, r.2.2, x.valueOf r.2.1)] else l) []

/-- A core's slots after an issue: that slot at the back of the age order, which slots that the issue freed have left (R72), with its stall (R39). -/
def Core.slotIssued (c : Core) (sl : Slot) (stall : Nat) : Core :=
  match c.ranked.slots.find? (fun z => z.id = sl.id) with
  | none => c
  | some y => { c with slots := c.ranked.slots.map (fun z =>
      if z.id = sl.id then { z with age := c.occupied sl.sched - 1, stall := stall }
      else if z.sched = sl.sched && decide (z.age > y.age) then { z with age := z.age - 1 } else z) }

/-- The same in the state; what came from other packages for the batch's issue has been read. -/
def State.slotIssued (s : State) (k : Nat) (sl : Slot) (stall : Nat) : State :=
  (s.updCore k (fun c => c.slotIssued sl stall)).readOver (fun r => match r with | .batch wg x => decide (wg = sl.wg) && sl.lanes.contains x | _ => false)

/-- What an issue leaves: the sums, the end of a yield in every fibre that does not yield now (R87), the counts of R397 and R400, and the slot at
the back of the age order. A fibre that waits at its `FEND` (R85) has issued nothing yet. -/
def State.issued (before s : State) (k key : Nat) (sl : Slot) (ms : List Member) (lat : Option Nat) (stall : Nat) : State :=
  match before.wg? key with
  | none => s
  | some w =>
    let old (x : Fibre) : Fibre := (w.fibre? x.index).getD x
    let yields (x : Fibre) : Bool := ms.any (fun m => decide (m.op = 0x00A) && passes m.f x)
    let ends (x : Fibre) : Bool := ms.any (fun m => decide (m.op = 0x009) && passes m.f x)
    let one (x : Fibre) : Fibre :=
      let y := x.aged (1 + stall) (newResults lat ms (old x))
      if ends (old x) then { x with yielded := false }
      else { y with
        issued := y.issued + ms.length, growAge := if y.growFrom = 240 then 0 else y.growAge + 1 + stall
        yielded := y.yielded && yields (old x), quiet := if (old x).counts ms then none else y.quiet }
    let counted : Bool := (w.batch sl).any (fun x => x.counts ms)
    let s1 := s.updBatch key sl.lanes one
    (s1.updWg key (fun v => { v with lastActive := if counted then s.tide.toNat else v.lastActive })).slotIssued k sl stall

/-- The sums that the members of a group before the one at fault leave in a fibre: each of them counts as issued, with its own stall and latency
(R40, R48; DEDUCED, log 23). -/
def Fibre.groupDone (old : Fibre) (done : List Member) (x : Fibre) : Fibre :=
  done.foldl (fun y m => y.aged (1 + m.f.stall.toNat) (newResults none [m] old)) x

/-- What an issue that parks its workgroup leaves: the results of the members before the fault (R48), the end of a yield (R87), and with the record
the fibres and the cost of the instruction at fault, which joins their sums if it is later treated as completed (R40, R394). -/
def State.issuedParked (before s : State) (k key : Nat) (sl : Slot) (ms : List Member) (stall : Nat) : State :=
  match before.wg? key, s.parkedWg key with
  | some w, some info =>
    let done := ms.takeWhile (fun m => m.pc ≠ info.pc)
    let old (x : Fibre) : Fibre := (w.fibre? x.index).getD x
    let grouped : Bool := decide (ms.length > 1) && !info.prefixed && decide (info.span = 1)
    let (held, own) := match ms[done.length]?, grouped with
      | some m, true => (done, m.f.stall.toNat)
      | _, _ => ([], stall)
    let s1 := s.updBatch key sl.lanes (fun x =>
      let y := if held.isEmpty then x else ((old x).groupDone held x).finish
      { y with yielded := false, issued := x.issued + held.length })
    (s1.updWg key (fun v => { v with parked := some { info with cost := 1 + own, costLanes := sl.lanes } })).slotIssued k sl stall
  | _, _ => s

/-! Running a plan. -/

/-- The members of a group in order, stopping where one parks its workgroup (R48). DESIGN CHOICE (log 22): a member that reads `sr.fflags` sees
what the members before it have raised, though the group is one issue. -/
def State.runMembers (key : Nat) (lanes : List Nat) : List Member → State → Host.Outcome State Fault Refusal
  | [], s => .next s
  | m :: t, s =>
    let s1 := s.readying key lanes m
    match m.run s1 with
    | .next u => if (u.parkedWg key).isSome then .next u else State.runMembers key lanes t (u.haveRead s1 key lanes [m])
    | .fault r => .fault r
    | .refused r => .refused r

/-- Registers that a pair's member reads, vector registers and then scalars from 256 (R45). -/
def Member.readRegs (m : Member) : List Nat := distinct (m.shape.readsV m.f ++ (m.shape.readsS m.f).map (fun n => 256 + n))

/-- `sr.fflags` as a register of its own that a member writes by name, and that its sources name (R45, R110). -/
def Member.fflagsOut (m : Member) : List Nat := if m.shape.dst = .vOrSr ∧ m.f.dst = 0x19C then [400] else []
def Member.fflagsIn (m : Member) : List Nat :=
  let sh := m.shape
  if ((sh.a.specials m.f.srcA) ++ (if m.f.immSel then [] else sh.b.specials m.f.srcB) ++ sh.c.specials m.f.srcC).contains 28 then [400] else []

/-- R45. DESIGN CHOICE (log 22): flags that a member raises do not count as a register it writes, so that a `MOV` to `sr.fflags` may stand beside
it; they are joined in after that write. -/
def pairLegal (a b : Member) : Bool :=
  let banks (m : Member) : List Nat := (m.shape.writesV m.f).map (fun n => n % 4)
  let writes (m : Member) : List Nat := m.writes ++ m.fflagsOut
  let named (m : Member) : List Nat := m.reads ++ m.fflagsIn ++ writes m
  ((decide (a.shape.cls = .i) && decide (b.shape.cls = .f)) || (decide (a.shape.cls = .f) && decide (b.shape.cls = .i))) &&
    (banks a).all (fun n => !(banks b).contains n) && decide ((distinct (a.readRegs ++ b.readRegs)).length ≤ 4) &&
    (named a).all (fun n => !(writes b).contains n) && (named b).all (fun n => !(writes a).contains n)

/-- A fault of one member of a pair: reported at the first member's PC, with the slot at fault (R46). -/
def pairFault (a m : Member) (e : FaultInfo) : FaultInfo := { e with pc := a.pc, slotNo := pcSlot m.pc, span := 2 }

/-- Steps 2 to 6 of R49 over both members, each step for the first member and then the second. `PART` is an illegal opcode under compat16 (R168). -/
def pairChecks (a b : Member) (ca cb : Ctx) : Option FaultInfo :=
  let step (g : Shape → Ctx → Option FaultInfo) : Option FaultInfo :=
    (((g a.shape ca).map (pairFault a a))).orElse (fun _ => (g b.shape cb).map (pairFault a b))
  let opcode (m : Member) (c : Ctx) : Option FaultInfo :=
    if m.shape.illegalOpcode c.f || (decide (m.op = 0x0A0) && c.compat16) then
      some (c.fault 1 (lowestFibre c.lanes) c.wordHigh c.f.imm.toNat (laneMask c.lanes))
    else none
  let opcodes : Option FaultInfo := ((opcode a ca).map (pairFault a a)).orElse (fun _ => (opcode b cb).map (pairFault a b))
  let operand (sh : Shape) (c : Ctx) : Option FaultInfo :=
    (sh.illegalOperand c.f).map (fun code => c.fault 5 (lowestFibre c.lanes) c.wordHigh code.toNat (laneMask c.lanes))
  let pairing : Option FaultInfo :=
    if pairLegal a b then none
    else some { ca.fault 3 (lowestFibre ca.lanes) ca.wordHigh a.f.imm.toNat (laneMask ca.lanes) with span := 2 }
  opcodes.orElse fun _ => pairing.orElse fun _ => (step operand).orElse fun _ => (step windowFault).orElse fun _ => step stallFault

/-- A template pair (R46): both members read before either writes, which for a legal pair is member I and then member F; a fault of
either leaves both without effect. -/
def State.runPair (s : State) (key : Nat) (lanes : List Nat) (a b : Member) : Host.Outcome State Fault Refusal :=
  let at' (t : State) (pc : BitVec 64) : State := t.updBatch key lanes (fun x => x.goto pc)
  let s0 := s.updBatch key lanes (fun x => (x.early! s.free (a.reads ++ b.reads)).grown s.free)
  match Ctx.of? s0 a.op a.f, Ctx.of? (at' s0 b.pc) b.op b.f with
  | some ca, some cb =>
    match pairChecks a b ca cb with
    | some e => .next (s.parkBatch ca e)
    | none =>
      match a.run s0, b.run (at' s0 b.pc) with
      | .next ta, .next tb =>
        match ta.parkedWg key, tb.parkedWg key with
        | some e, _ => .next (s.park key (pairFault a a e))
        | none, some e => .next (s.park key (pairFault a b e))
        | none, none =>
          let (i, f) := if a.shape.cls = .i then (a, b) else (b, a)
          match i.run (at' s0 i.pc) with
          | .next t1 => (match f.run (at' t1 f.pc) with
            | .next t2 => .next ((at' t2 (slotsAfter a.pc 2)).haveRead s0 key lanes [a, b])
            | o => o)
          | o => o
      | .next _, o => o
      | o, _ => o
  | _, _ => .fault .noIssuingBatch

/-- A fault of a prefixed access (R239): the batch stands at its `ORD` again, and the record names the access and marks the prefix. -/
def State.parkPrefixed (s : State) (key : Nat) (lanes : List Nat) (pc : BitVec 64) (e : FaultInfo) : State :=
  s.park key { e with pc := pc, prefixed := true, lanes := lanes }

/-- `ORD` and the access it prefixes (R237, R239). -/
def State.runOrdered (s : State) (k key : Nat) (sl : Slot) (w : Workgroup) (line : BitVec 512) (m : Member) : Host.Outcome State Fault Refusal :=
  let lanes := sl.lanes
  match m.run (s.readying key lanes m) with
  | .next t =>
    if (t.parkedWg key).isSome then .next t
    else
      let pc := seqPc m.pc
      match s.prefixed? w (w.batch sl) line m with
      | .error e => .next (s.parkPrefixed key lanes pc e)
      | .ok (b, n) =>
        let t1 := t.readying key lanes n
        let bad : Option FaultInfo :=
          if pairBit b (pcSlot pc) && !n.shape.illegalOpcode n.f && prefixable n.op then
            (Ctx.of? t1 n.op n.f).map (fun c => c.fault 3 (lowestFibre c.lanes) c.wordHigh n.f.imm.toNat (laneMask c.lanes))
          else none
        match bad with
        | some e => .next (s.parkPrefixed key lanes pc e)
        | none =>
          match n.run t1 with
          | .next u =>
            match u.parkedWg key with
            | some e => .next (s.parkPrefixed key lanes pc e)
            | none =>
              .next ((u.haveRead t1 key lanes [n]).updCore k (fun c =>
                { c with slots := c.slots.map (fun z => if z.id = sl.id then { z with line := some (pcLine pc, b) } else z) }))
          | o => o
  | o => o

/-- A plan run for a slot's batch, from the state in which it issues. -/
def State.runPlan (s : State) (k : Nat) (sl : Slot) (w : Workgroup) (line : BitVec 512) (p : Plan) : Host.Outcome State Fault Refusal :=
  match p with
  | .single m => State.runMembers w.key sl.lanes [m] s
  | .pair a b => s.runPair w.key sl.lanes a b
  | .fused ms _ => State.runMembers w.key sl.lanes ms s
  | .ordered m => s.runOrdered k w.key sl w line m

/-- The words of a plan, the latency of its last result, and its stall (R39). -/
def State.planIssue (s : State) (w : Workgroup) (line : BitVec 512) (p : Plan) : List Member × Option Nat × Nat :=
  match p with
  | .single m => ([m], none, m.f.stall.toNat)
  | .pair a b => ([a, b], none, max a.f.stall.toNat b.f.stall.toNat)
  | .fused ms lat => (ms, lat, (ms.getLast?.map (fun m => m.f.stall.toNat)).getD 0)
  | .ordered m => match s.prefixed? w [] line m with
    | .ok (_, n) => ([m, n], none, n.f.stall.toNat)
    | .error _ => ([m], none, 0)

/-- The loads that fibres of a batch sent earlier take their values, where the plan acts on memory (`Member.afterLoads`). -/
def State.loadsTaken (s : State) (k key : Nat) (lanes : List Nat) (ms : List Member) : State :=
  if ms.any Member.afterLoads then s.takeLoads k key (fun l => lanes.contains l.fibre) else s

/-- What other packages have still to acknowledge before the access of an `ORD` is performed, after the release half of its order: with a release half every
store and atomic that is out, with an acquire half the atomics of its fibres (R218, R226, R240). Where something is, and the access would not fault, the batch
stands at its `ORD` until then; a fault leaves neither half with an effect (R239). -/
def State.ordHeld (s : State) (k : Nat) (w : Workgroup) (sl : Slot) (line : BitVec 512) (p : Plan) : Option State :=
  match p with
  | .ordered m =>
    let order := m.f.modBits 0 2
    let t := if order ≥ 2 then s.release k (m.f.modBits 2 3) else s
    let tags := if order ≥ 2 then t.openStores else if order = 1 then t.openAtomics w.key (w.batch sl) else []
    if tags.isEmpty then none
    else match s.runPlan k sl w line p with
      | .next u => if (u.parkedWg w.key).isSome then none else some (t.holdFor w.key (w.batch sl) tags none)
      | _ => none
  | _ => none

/-- One issue of a ready slot. -/
def State.issueSlot (s : State) (k : Nat) (sl : Slot) : Host.Outcome State Fault Refusal :=
  match s.wg? sl.wg with
  | none => .next s
  | some w => match w.head sl with
    | none => .next s
    | some x => match sl.current x with
      | none => .next s
      | some line =>
        let p := planOf line x.pc
        let (ms, lat, stall) := s.planIssue w line p
        let s0 := (s.issuing k sl).loadsTaken k w.key sl.lanes ms
        match s0.ordHeld k w sl line p with
        | some t => .next t
        | none =>
        match s0.runPlan k sl w line p with
        | .next t =>
          .next (if (t.parkedWg w.key).isSome then s0.issuedParked t k w.key sl ms stall else s0.issued t k w.key sl ms lat stall)
        | o => o

end Sys2Proof.Machine

end
end

