-- ==== Sys2Proof/Machine/Run.lean ====
section
/-! DEFINITION. The agents of the package and what each may do next (INVENTORY.md, Agents): issues, returns, units, timers, the launch
processor, the fabric, and the outside's events in the order in which they are given (log 2, 5). -/

noncomputable section

namespace Sys2Proof.Machine

/-- One thing that an agent does: a batch issues, or asks other packages for what its instruction reads (log 18), an event comes about, or the outside
gives the `n`-th of its inputs. -/
inductive Act where
  | issue (core : Nat) (slot : Nat)
  | ask (core : Nat) (slot : Nat)
  | event (i : Instr)
  | input (n : Nat)
  deriving DecidableEq, Repr

/-- `a` if `p`. -/
def only {α : Type} (p : Bool) (a : α) : List α := if p then [a] else []

/-! A core's agents. -/

/-- The ready batch of a scheduler with the smallest age counter (R72). -/
def State.pickOf (s : State) (k sched : Nat) : List Act :=
  let ready := (s.core k).slots.filter (fun sl => decide (sl.sched = sched) && s.slotReady k sl)
  match ready with
  | [] => []
  | sl :: t => [.issue k (t.foldl (fun b z => if z.age < b.age then z else b) sl).id]

/-- The rotation unit's decision for a workgroup (R262). -/
def State.rotationActs (s : State) (k : Nat) (w : Workgroup) : List Act :=
  if !s.mayRotate k w then []
  else if (s.rotation w false).isSome then [.event (.rotationDecision k w.key)]
  else only (s.rotation w true).isSome (.event (.rotationQuantumExpiry k w.key))

/-- The entry that the copy unit grants (R291). -/
def State.copyActs (s : State) (k : Nat) : List Act :=
  let c := s.core k
  match (roundRobin c.copyLast).find? (fun n => (c.copyQ.find? (fun e => e.entry = n)).any (s.entryProceeds k)) with
  | some n => [.event (.copyUnitGrant k n)]
  | none => []

/-- What a core's units may do: issue, fetch, take what returns, evict, rotate, copy, compute. -/
def State.coreActs (s : State) (k : Nat) : List Act :=
  let c := s.core k
  [0, 1, 2, 3].flatMap (s.pickOf k) ++
  (c.slots.filter (s.slotAsks k)).map (fun sl => .ask k sl.id) ++
  (c.slots.filter s.slotFetches).map (fun sl => .event (.lineFetchReturn k sl.id)) ++
  ((List.range c.loads.length).filter c.mayReturn).map (fun i => .event (.loadDataReturn k i)) ++
  ((List.range c.l1.length).filter (fun i => (c.l1[i]?).any (fun l => c.l1Victim l.line = some l.line))).map (fun i => .event (.homeWritePerformed k i)) ++
  only (c.transfer.any (fun t => t.save || !s.awaitsLine (.restore t.wg t.fibre))) (.event (.rotationTransferDone k)) ++
  (s.wgs.filter (fun w => w.core = k)).flatMap (s.rotationActs k) ++
  s.copyActs k ++
  (c.copyQ.filter s.copyFinished).map (fun e => .event (.engineOpComplete k e.entry)) ++
  only (c.easelUnit.isNone && (s.easelNext k).isSome) (.event (.easelUnitStart k)) ++
  only c.easelUnit.isSome (.event (.easelUnitEnd k))

/-! A workgroup's timers and ends. -/

/-- A millisecond of Tide. -/
def ms1 : Nat := 1000000

/-- A fibre's timer events (R266, R281, R312, R436). -/
def State.fibreActs (s : State) (w : Workgroup) (x : Fibre) : List Act :=
  let now := s.tide.toNat
  match x.wait with
  | .spinning => only (w.issues && decide (now ≥ x.waitSince + ms1)) (.event (.spinTimeout w.key x.index))
  | .waitw =>
    let free := w.issues && !s.polling w.key x.index
    only (free && (x.waitDue || decide (now ≥ x.waitSince + ms1))) (.event (.waitwReread w.key x.index)) ++
      only (free && decide (now ≥ x.deadline)) (.event (.waitwDeadline w.key x.index))
  | .swwait => only (w.issues && decide (now ≥ x.waitSince + ms1)) (.event (.swwaitReread w.key x.index))
  | .twait => only (now ≥ x.deadline) (.event (.tideTargetReached w.key x.index))
  | _ => []

/-- A workgroup's events (R86, R399, R400). -/
def State.wgActs (s : State) (w : Workgroup) : List Act :=
  w.fibres.flatMap (s.fibreActs w) ++ only (s.stalled w) (.event (.watchdogExpiry w.key)) ++ only (s.wgDone w) (.event (.workgroupEnd w.key)) ++
    only (decide (w.preempt = .saving) && s.saveReady w) (.event (.preemptSaveDone w.key))

/-! The package. -/

/-- A barrier request may be served: none of an earlier one's fibres stands before it (R270). -/
def requestFirst (q : List BarrierRequest) (i : Nat) : Bool :=
  match q[i]? with
  | none => false
  | some r => (q.take i).all (fun p => decide (p.wg ≠ r.wg) || !p.lanes.any (fun e => r.lanes.any (fun d => decide (d.1 = e.1))))

/-- Chunks that cores may take (R458). -/
def State.chunkActs (s : State) : List Act :=
  s.segments.flatMap (fun e => ((List.range Config.cores).filter (fun k => s.mayTake k e.1)).map (fun k => .event (.chunkTake k e.1)))

/-- The launch processor's and the hub's events (R390, R409, R452, R456, R459, R462). -/
def State.hubActs (s : State) : List Act :=
  only (s.launches.any s.promotable || s.restorable.isSome || s.chosen.isSome) (.event .workgroupAdmission) ++
  (s.launches.filter (fun l => l.timed && s.promotable l && decide (s.tide.toNat ≥ l.start))).map (fun l => .event (.startTimeReached l.start)) ++
  s.chunkActs ++
  (s.launches.filter s.jobOver).map (fun l => .event (.jobComplete l.lseq)) ++
  (s.launches.filter s.launchOver).map (fun l => .event (.launchComplete l.lseq)) ++
  only (!s.records.isEmpty && !s.frBlocked && !s.handlerComes) (.event .faultRecordWrite) ++
  only (!s.records.isEmpty && s.frBlocked && s.ringEntry.isSome && !s.handlerComes) (.event .faultRingRetry) ++
  ((List.range s.barrierQ.length).filter (fun i => requestFirst s.barrierQ i && (s.barrierQ[i]?).any s.mayServe)).map (fun i => .event (.barrierUnitRequest i)) ++
  only s.wiping (.event .wipeDone)

/-- The fabric's events (R413, R431, R441, R442). -/
def State.fabricActs (s : State) : List Act :=
  let now := s.tide.toNat
  ((List.range s.packets.length).filter (fun i => (s.packets[i]?).any s.packetGoes)).map (fun i => .event (.packetHop i)) ++
  s.multi.flatMap (fun m =>
    if !m.sent || decide (now < m.since + 2000) then []
    else ((List.range m.members.length).filter m.awaits).map (fun k => .event (.multicastMemberTimeout m.id k))) ++
  s.peers.flatMap (fun e =>
    only (decide (e.2.sinceSack > 0) && !e.2.txKeys.isEmpty && decide (now ≥ e.2.lastSack + 16000)) (.event (.strandSackTimer e.1)) ++
      only (e.2.up && !e.2.unacked.isEmpty && decide (now ≥ e.2.lastAck + 50000000)) (.event (.strandPeerTimeout e.1)))

/-! The outside (log 5). -/

/-- An agent that writes from outside. -/
def fromHost (a : Agent) : Bool := decide (a = .host)

/-- The events that the outside gives: the host, management, power, the fabric's other ends, and a walker's finds. -/
def outside : Instr → Bool
  | .csrWrite a .. | .fcmdResumeAtPc a _ | .fcmdResumePast a _ | .fcmdKill a | .preemptRequest a | .preemptRestore a | .preemptKillSaved a
  | .tlbInvalidate a _ | .coveWaysWrite a _ => fromHost a
  | .launchCounterDisarm _ | .faultRingReadIndexWrite _ | .multicastMemberRequest .. | .multicastResponse .. | .colnalFlitReceive ..
  | .strandFrameReceive _ | .strandSackReceive .. | .strandRetransmitTimeout .. | .queueNotify .. | .cxlMemAccess .. | .cxlCacheSnoop ..
  | .mgmtReadBlackBox .. | .mgmtReadPower | .mgmtReadCounters | .mgmtWritePeer _ | .mgmtInstallKey _ | .mgmtPeerUp _ | .mgmtPeerDown _
  | .mgmtLifeCycleStep _ | .mgmtTenantReset | .mgmtWarmReset | .spdmMessage _ | .mctpControlMessage _ | .coldReset | .cxlConventionalReset
  | .thermalTrip | .blockLocalLimit _ | .patrolScrub _ | .tideSynchronisation _ | .powerRemoved | .pageWalkComplete ..
  | .i3cDynamicAddressAssignment _ => true
  | _ => false

/-- A packet flit and its port. -/
def packetFlit : Instr → Option (Nat × List Byte)
  | .colnalFlitReceive port true (.packet _ bytes _) => some (port, bytes)
  | _ => none

/-- The outside's next event: the first input that is not held back. A packet flit without room in its Cove holds back the packet flits behind it at
its port, and nothing else (R414, R438). -/
def State.nextInput (s : State) : List Instr → Nat → List Nat → List Act
  | [], _, _ => []
  | i :: t, n, held =>
    match packetFlit i with
    | none => [.input n]
    | some (port, bytes) =>
      if port < 32 ∧ !s.linksDown ∧ (held.contains port ∨ !s.coveRoom bytes) then s.nextInput t (n + 1) (port :: held) else [.input n]

/-- Everything that may happen next. Without power only the outside acts, and of it only power itself. -/
def State.acts (s : State) : List Act :=
  if !s.powered then (match s.inputs with | [] => [] | _ :: _ => [.input 0])
  else s.busyCores.flatMap s.coreActs ++ s.wgs.flatMap s.wgActs ++ s.hubActs ++ s.fabricActs ++ s.nextInput s.inputs 0 []

/-- The one that happens: the only one, or a free choice among several (log 2). -/
def State.choose (s : State) : Option Act :=
  match s.acts with
  | [] => none
  | [a] => some a
  | l => l[Config.pick s.free % l.length]?

/-- An input that has an effect: an event of the outside, and without power only a cold reset. -/
def State.accepts (s : State) (i : Instr) : Bool :=
  if s.powered then outside i else match i with | .coldReset => true | _ => false

/-- An input taken. -/
def State.taken (s : State) (n : Nat) : State := { s with inputs := s.inputs.take n ++ s.inputs.drop (n + 1) }

/-- An act performed. -/
def State.perform (s : State) : Act → Host.Outcome State Fault Refusal
  | .issue k n => match (s.core k).slots.find? (fun z => z.id = n) with
    | some sl => s.issueSlot k sl
    | none => .next s
  | .ask k n => match (s.core k).slots.find? (fun z => z.id = n) with
    | some sl => .next (s.askSlot k sl)
    | none => .next s
  | .event i => exec i s
  | .input n => match s.inputs[n]? with
    | some i => if s.accepts i then exec i (s.taken n) else .next (s.taken n)
    | none => .next s

/-- What follows a step's act: the state settles, and time passes. -/
def State.after (s : State) : State := s.settle.elapse

/-! A word placed to issue next (log 5). -/

/-- A line with a word in slot 0, its target mark, and its parities (R23, R26). -/
def lineOf (w : Nat) : BitVec 512 :=
  let p := onesOf 96 (w % 2 ^ 96) % 2
  BitVec.ofNat 512 (2 ^ 27 + p * 2 ^ 18 + (p + 1) % 2 * 2 ^ 17 + w % 2 ^ 96 * 2 ^ 32)

/-- The package with one launch of one workgroup of one fibre, whose batch stands at a latched line, and no other agent that could act. -/
def State.placed (s : State) (line : BitVec 512) : State :=
  let l : Launch := { lseq := 0, kind := .packet, kernel := some {}, admitted := 1 }
  let x : Fibre := { index := 0, pc := 0, allot := 240 }
  let w : Workgroup := { key := s.nextKey, launch := 0, core := 0, wgid := 0, fibres := [x], lastActive := s.tide.toNat }
  let sl : Slot := { id := 0, wg := s.nextKey, lanes := [0], age := 0, line := some (0, line) }
  { s with
    cores := [(0, { slots := [sl] })], wgs := [w], launches := [l], nextKey := s.nextKey + 1
    segments := [], counters := [], records := [], barrierQ := [], pkgBrushes := [], pkgBrushPoison := [], packets := [], multi := [], serving := [], farWaiters := [], barrierHosts := [], fetched := [], peers := [], links := [], requests := [], inputs := []
    covePending := [], lineLog := [], wiping := false, powered := true, issue := none }

end Sys2Proof.Machine

end
end

