-- ==== Sys2Proof/Machine/Step.lean ====
section
/-! DEFINITION. One step of the package: one agent acts, what follows from it at once comes about, and time passes. -/

noncomputable section

namespace Sys2Proof.Machine

/-- One step (log 2). -/
def step (s : State) : Host.Outcome State Fault Refusal :=
  match s.choose with
  | none => .next s.elapse
  | some a =>
    match s.perform a with
    | .next t => .next t.after
    | .fault r => .fault r
    | .refused r => .refused r

/-- The state with a word of `nbits` bits, every bit above them zero, where the next step issues (log 5). -/
def State.withFetchWord (s : State) (nbits w : Nat) : State := s.placed (lineOf (w % 2 ^ nbits))

end Sys2Proof.Machine

end
end

