-- ==== Sys2Proof/Safety.lean ====
section
/-! DEFINITION. What the claims call a sound state and a safe run: the memory in its canonical form, the age counters of R72, steps
that all give a next state; and the words in which they say that an instruction issues and completes. -/

namespace Sys2Proof.Machine

/-! Sound states and runs. -/

/-- The counters of a scheduler's occupied slots are exactly 0 to *n* - 1 (R72): each value below *n* stands in one of its slots. -/
def Core.countersOk (c : Core) : Prop :=
  ∀ sched k : Nat, k < c.occupied sched → ∃ z ∈ c.slots, z.sched = sched ∧ z.age = k

/-- Every core's counters are in order. -/
def State.countersOk (s : State) : Prop := ∀ e ∈ s.cores, e.2.countersOk

/-- Memory is in its canonical form. -/
def State.memoryOk (s : State) : Prop := Memory.wf s.mem = true

/-- A step of a state gives a next state: the package goes on. -/
def State.goesOn (s : State) : Prop := ∃ t, step s = .next t

/-- A run of any number of steps goes on. -/
def State.safeRun : Nat → State → Prop
  | 0, _ => True
  | n + 1, s => ∃ t, step s = .next t ∧ State.safeRun n t

/-! An instruction that issues. -/

/-- The word of opcode `op` and fields `f` issues in `s` for the batch `c`, and passes steps 2 to 6 of R49 and the poison test of R93
under the row `sh`. -/
def IssuesAs (op : Nat) (sh : Shape) (f : Fields) (s : State) (c : Ctx) : Prop := Ctx.of? s op f = some c ∧ checkIssue op sh c = none

/-- An instruction issues in `s` for the batch `c` under its own opcode and row. Events do not issue. -/
def Issues (i : Instr) (s : State) (c : Ctx) : Prop :=
  match i.opcode, i.fields, shapeOf i with
  | some op, some f, some sh => IssuesAs op.toNat sh f s c
  | _, _, _ => False

/-- The state in which an instruction of the batch takes its effect: its opcode has tainted the batch's spin records where R265 says so. -/
def State.entered (s : State) (c : Ctx) (i : Instr) : State :=
  match i.opcode, i.fields with
  | some op, some f => s.tainted c op.toNat f
  | _, _ => s

/-- An instruction completes lane by lane: every fibre of the batch whose guard passes becomes `g` of itself, every fibre of the batch
stands at its sequential successor, and nothing else of the state changes (R25, R31). -/
def Lanes (i : Instr) (s : State) (c : Ctx) (g : Fibre → Fibre) : Prop := exec i s = .next ((s.entered c i).lanewise c g)

/-- It completes by writing a 32-bit value to D in every lane that passes the guard; `vz` discards it (R34). -/
def Lanes32 (i : Instr) (s : State) (c : Ctx) (v : Fibre → Word) : Prop := Lanes i s c (fun x => x.set32 c.f.dst (v x))

/-- It completes by writing a 64-bit value to the pair of D (R35). -/
def Lanes64 (i : Instr) (s : State) (c : Ctx) (v : Fibre → DWord) : Prop := Lanes i s c (fun x => x.set64 c.f.dst (v x))

/-- It completes by writing a predicate. -/
def LanesPred (i : Instr) (s : State) (c : Ctx) (v : Fibre → Bool) : Prop := Lanes i s c (fun x => x.setPred (predOf c.f.dst) (v x))

/-- No lane that passes the guard raises a flag that the launch traps (R121, R144). -/
def NoTrap (c : Ctx) (g : Fibre → Fibre × Flags) : Prop := ∀ x ∈ c.passing, (g x).2 &&& c.launch.traps = 0

/-- The OR of the flags that the passing lanes raise. -/
def Ctx.raised (c : Ctx) (g : Fibre → Fibre × Flags) : Flags := c.passing.foldl (fun fl x => fl ||| (g x).2) 0

/-- A floating instruction completes: its lanes are written, and the flags raised join `sr.fflags` (R144). -/
def LanesFlags (i : Instr) (s : State) (c : Ctx) (g : Fibre → Fibre × Flags) : Prop :=
  exec i s = .next (((s.entered c i).lanewise c (fun x => (g x).1)).updWg c.wg.key (fun w => { w with fflags := w.fflags ||| c.raised g }))

end Sys2Proof.Machine
end

