-- ==== Sys2Proof/Certificates/Slice0/Obligations.lean ====
section
/-! DEFINITION. The statements about this model for the provers (OBLIGATIONS.json lists them). -/

open Sys2Proof Sys2Proof.Machine

/-! Integer, address, logic and predicate instructions. -/

/-- R95 to R98: sums, differences, products, absolute values, minima and maxima complete with the values the rules give, in every lane that passes
the guard. R95, R96 and R98: saturation, with `.U` by modifier bit 0; carries and borrows, with source C's predicate read where modifier bit 0 is
set and the predicate of modifier bits [4:1] written; absolute values, where `.SAT` caps that of the most negative value. -/
def Obligations.IntegerArithmeticCompletes : Prop :=
  (∀ (f : Fields) (s : State) (c : Ctx),
    let A := fun x => src32 c x c.f.srcA
    let B := fun x => srcB32 c x
    let C := fun x => src32 c x c.f.srcC
    let A64 := fun x => src64 c x c.f.srcA
    let B64 := fun x => srcB64 c x
    let C64 := fun x => src64 c x c.f.srcC
    (Issues (.iadd f) s c → Lanes32 (.iadd f) s c (fun x => A x + B x)) ∧
    (Issues (.iadd64 f) s c → Lanes64 (.iadd64 f) s c (fun x => A64 x + B64 x)) ∧
    (Issues (.isub f) s c → Lanes32 (.isub f) s c (fun x => A x - B x)) ∧
    (Issues (.isub64 f) s c → Lanes64 (.isub64 f) s c (fun x => A64 x - B64 x)) ∧
    (Issues (.imul f) s c → Lanes32 (.imul f) s c (fun x => A x * B x)) ∧
    (Issues (.imulHiS f) s c → Lanes32 (.imulHiS f) s c (fun x => BitVec.ofInt 32 ((A x).toInt * (B x).toInt / 2 ^ 32))) ∧
    (Issues (.imulHiU f) s c → Lanes32 (.imulHiU f) s c (fun x => BitVec.ofNat 32 ((A x).toNat * (B x).toNat / 2 ^ 32))) ∧
    (Issues (.imulWideS f) s c → Lanes64 (.imulWideS f) s c (fun x => BitVec.ofInt 64 ((A x).toInt * (B x).toInt))) ∧
    (Issues (.imulWideU f) s c → Lanes64 (.imulWideU f) s c (fun x => BitVec.ofNat 64 ((A x).toNat * (B x).toNat))) ∧
    (Issues (.imul64 f) s c → Lanes64 (.imul64 f) s c (fun x => A64 x * B64 x)) ∧
    (Issues (.imad f) s c → Lanes32 (.imad f) s c (fun x => A x * B x + C x)) ∧
    (Issues (.imadWideS f) s c → Lanes64 (.imadWideS f) s c (fun x => BitVec.ofInt 64 ((A x).toInt * (B x).toInt) + C64 x)) ∧
    (Issues (.imadWideU f) s c → Lanes64 (.imadWideU f) s c (fun x => BitVec.ofNat 64 ((A x).toNat * (B x).toNat) + C64 x)) ∧
    (Issues (.imad64 f) s c → Lanes64 (.imad64 f) s c (fun x => A64 x * B64 x + C64 x)) ∧
    (Issues (.iminS f) s c → Lanes32 (.iminS f) s c (fun x => BitVec.ofInt 32 (min (A x).toInt (B x).toInt))) ∧
    (Issues (.iminU f) s c → Lanes32 (.iminU f) s c (fun x => BitVec.ofNat 32 (min (A x).toNat (B x).toNat))) ∧
    (Issues (.iminS64 f) s c → Lanes64 (.iminS64 f) s c (fun x => BitVec.ofInt 64 (min (A64 x).toInt (B64 x).toInt))) ∧
    (Issues (.iminU64 f) s c → Lanes64 (.iminU64 f) s c (fun x => BitVec.ofNat 64 (min (A64 x).toNat (B64 x).toNat))) ∧
    (Issues (.imaxS f) s c → Lanes32 (.imaxS f) s c (fun x => BitVec.ofInt 32 (max (A x).toInt (B x).toInt))) ∧
    (Issues (.imaxU f) s c → Lanes32 (.imaxU f) s c (fun x => BitVec.ofNat 32 (max (A x).toNat (B x).toNat))) ∧
    (Issues (.imaxS64 f) s c → Lanes64 (.imaxS64 f) s c (fun x => BitVec.ofInt 64 (max (A64 x).toInt (B64 x).toInt))) ∧
    (Issues (.imaxU64 f) s c → Lanes64 (.imaxU64 f) s c (fun x => BitVec.ofNat 64 (max (A64 x).toNat (B64 x).toNat)))) ∧
  (∀ (f : Fields) (s : State) (c : Ctx),
    let A := fun x => src32 c x c.f.srcA
    let B := fun x => srcB32 c x
    let A64 := fun x => src64 c x c.f.srcA
    let cin := fun (x : Fibre) => if c.f.mod 0 = true ∧ x.pred (c.f.srcC.toNat % 16) = true then 1 else 0
    let q := c.f.mods.toNat / 2 % 16
    let clamp := fun (v : Int) => BitVec.ofInt 32 (max (-2 ^ 31) (min (2 ^ 31 - 1) v))
    (Issues (.iaddSat f) s c → Lanes32 (.iaddSat f) s c (fun x =>
      if c.f.mod 0 then BitVec.ofNat 32 (min ((A x).toNat + (B x).toNat) (2 ^ 32 - 1)) else clamp ((A x).toInt + (B x).toInt))) ∧
    (Issues (.isubSat f) s c → Lanes32 (.isubSat f) s c (fun x =>
      if c.f.mod 0 then BitVec.ofNat 32 ((A x).toNat - (B x).toNat) else clamp ((A x).toInt - (B x).toInt))) ∧
    (Issues (.iaddX f) s c → Lanes (.iaddX f) s c (fun x =>
      let v := (A x).toNat + (B x).toNat + cin x
      (x.set32 c.f.dst (BitVec.ofNat 32 v)).setPred q (decide (2 ^ 32 ≤ v)))) ∧
    (Issues (.isubX f) s c → Lanes (.isubX f) s c (fun x =>
      let v : Int := (A x).toNat - (B x).toNat - cin x
      (x.set32 c.f.dst (BitVec.ofInt 32 v)).setPred q (decide (v < 0)))) ∧
    (Issues (.iabs f) s c → Lanes32 (.iabs f) s c (fun x =>
      if c.f.mod 0 = true ∧ (A x).toInt = -2 ^ 31 then 0x7FFFFFFF else BitVec.ofInt 32 |(A x).toInt|)) ∧
    (Issues (.iabs64 f) s c → Lanes64 (.iabs64 f) s c (fun x =>
      if c.f.mod 0 = true ∧ (A64 x).toInt = -2 ^ 63 then 0x7FFFFFFFFFFFFFFF else BitVec.ofInt 64 |(A64 x).toInt|)))

/-- R99: the shift amount is source B unsigned; at the width or past it a shift gives zeros or sign copies, and with `.W` (modifier bit 0) the
amount is taken modulo the width; a rotate takes it modulo 32. Bit by bit. -/
def Obligations.ShiftsCompleteBitByBit : Prop :=
  ∀ (f : Fields) (s : State) (c : Ctx),
    let A := fun x => src32 c x c.f.srcA
    let A64 := fun x => src64 c x c.f.srcA
    let n := fun (w : Nat) (x : Fibre) => if c.f.mod 0 then (srcB32 c x).toNat % w else (srcB32 c x).toNat
    let r := fun (x : Fibre) => (srcB32 c x).toNat % 32
    (Issues (.shl f) s c → ∃ v, Lanes32 (.shl f) s c v ∧ ∀ x i, i < 32 →
      (v x).getLsbD i = (decide (n 32 x ≤ i) && (A x).getLsbD (i - n 32 x))) ∧
    (Issues (.shl64 f) s c → ∃ v, Lanes64 (.shl64 f) s c v ∧ ∀ x i, i < 64 →
      (v x).getLsbD i = (decide (n 64 x ≤ i) && (A64 x).getLsbD (i - n 64 x))) ∧
    (Issues (.shrU f) s c → ∃ v, Lanes32 (.shrU f) s c v ∧ ∀ x i, i < 32 → (v x).getLsbD i = (A x).getLsbD (i + n 32 x)) ∧
    (Issues (.shrU64 f) s c → ∃ v, Lanes64 (.shrU64 f) s c v ∧ ∀ x i, i < 64 → (v x).getLsbD i = (A64 x).getLsbD (i + n 64 x)) ∧
    (Issues (.shrS f) s c → ∃ v, Lanes32 (.shrS f) s c v ∧ ∀ x i, i < 32 → (v x).getLsbD i = (A x).getLsbD (min (i + n 32 x) 31)) ∧
    (Issues (.shrS64 f) s c → ∃ v, Lanes64 (.shrS64 f) s c v ∧ ∀ x i, i < 64 → (v x).getLsbD i = (A64 x).getLsbD (min (i + n 64 x) 63)) ∧
    (Issues (.rotL f) s c → ∃ v, Lanes32 (.rotL f) s c v ∧ ∀ x i, i < 32 → (v x).getLsbD ((i + r x) % 32) = (A x).getLsbD i) ∧
    (Issues (.rotR f) s c → ∃ v, Lanes32 (.rotR f) s c v ∧ ∀ x i, i < 32 → (v x).getLsbD i = (A x).getLsbD ((i + r x) % 32))

/-- R100 to R102: logic bit by bit, `TERN` through its table, bit fields with position B[7:0] and length min(B[15:8], 32), the count of ones, the
zeros above the highest one, and the reversal. -/
def Obligations.LogicAndBitFieldsCompleteBitByBit : Prop :=
  ∀ (f : Fields) (s : State) (c : Ctx),
    let A := fun x => src32 c x c.f.srcA
    let B := fun x => srcB32 c x
    let C := fun x => src32 c x c.f.srcC
    let pos := fun x => (B x).toNat % 256
    let len := fun x => min ((B x).toNat / 256 % 256) 32
    let bit := fun (w : Word) (i : Nat) => if w.getLsbD i then 1 else 0
    (Issues (.and f) s c → ∃ v, Lanes32 (.and f) s c v ∧ ∀ x i, (v x).getLsbD i = ((A x).getLsbD i && (B x).getLsbD i)) ∧
    (Issues (.or f) s c → ∃ v, Lanes32 (.or f) s c v ∧ ∀ x i, (v x).getLsbD i = ((A x).getLsbD i || (B x).getLsbD i)) ∧
    (Issues (.xor f) s c → ∃ v, Lanes32 (.xor f) s c v ∧ ∀ x i, (v x).getLsbD i = ((A x).getLsbD i ^^ (B x).getLsbD i)) ∧
    (Issues (.not f) s c → ∃ v, Lanes32 (.not f) s c v ∧ ∀ x i, i < 32 → (v x).getLsbD i = !(A x).getLsbD i) ∧
    (Issues (.tern f) s c → ∃ v, Lanes32 (.tern f) s c v ∧ ∀ x i, i < 32 →
      (v x).getLsbD i = c.f.imm.getLsbD (bit (A x) i + 2 * bit (src32 c x c.f.srcB) i + 4 * bit (C x) i)) ∧
    (Issues (.bfxU f) s c → ∃ v, Lanes32 (.bfxU f) s c v ∧ ∀ x i, i < 32 →
      (v x).getLsbD i = (decide (i < len x) && (A x).getLsbD (pos x + i))) ∧
    (Issues (.bfxS f) s c → ∃ v, Lanes32 (.bfxS f) s c v ∧ ∀ x i, i < 32 →
      (v x).getLsbD i = (decide (len x ≠ 0) && (A x).getLsbD (min (pos x + min i (len x - 1)) 31))) ∧
    (Issues (.bfi f) s c → ∃ v, Lanes32 (.bfi f) s c v ∧ ∀ x i, i < 32 →
      (v x).getLsbD i = if pos x ≤ i ∧ i < pos x + len x then (A x).getLsbD (i - pos x) else (C x).getLsbD i) ∧
    (Issues (.popc f) s c → ∃ v, Lanes32 (.popc f) s c v ∧ ∀ x, (v x).toNat = ((List.range 32).filter (fun i => (A x).getLsbD i)).length) ∧
    (Issues (.clz f) s c → ∃ v, Lanes32 (.clz f) s c v ∧ ∀ x, (v x).toNat ≤ 32 ∧ (∀ i, 32 - (v x).toNat ≤ i → (A x).getLsbD i = false) ∧
      ((v x).toNat < 32 → (A x).getLsbD (31 - (v x).toNat) = true)) ∧
    (Issues (.brev f) s c → ∃ v, Lanes32 (.brev f) s c v ∧ ∀ x i, i < 32 → (v x).getLsbD i = (A x).getLsbD (31 - i))

/-- R103, R104, R107 and R108: comparisons with their combine field, selections, moves, addresses, predicate logic and transfers. R105 and R110:
`MOVS` writes the scalar of its home warp from the lowest lane that passes the guard, `MOVS.I` from the lane that the immediate names if it
passes, a `MOV` to `sr.fflags` the flag word from bits [4:0] of the lowest passing lane; with no such lane nothing is written and the batch moves
on. That `MOVS` takes a per-lane special register's value from the lowest passing lane is the model's choice (log 22). -/
def Obligations.ComparesAndMovesComplete : Prop :=
  (∀ (f : Fields) (s : State) (c : Ctx),
    let A := fun x => src32 c x c.f.srcA
    let B := fun x => srcB32 c x
    let Bv := fun x => src32 c x c.f.srcB
    let A64 := fun x => src64 c x c.f.srcA
    let pc := fun (x : Fibre) => x.pred (c.f.srcC.toNat % 16)
    let test := fun (a b : Int) => match c.f.mods.toNat % 8 with
      | 0 => decide (a = b) | 1 => decide (a ≠ b) | 2 => decide (a < b) | 3 => decide (a ≤ b) | 4 => decide (a > b) | _ => decide (a ≥ b)
    let put := fun (x : Fibre) (t : Bool) => match c.f.mods.toNat / 8 % 4 with | 1 => t && pc x | 2 => t || pc x | _ => t
    let choose := fun (x : Fibre) => pc x != c.f.mod 0
    let k := c.f.mods.toNat % 8
    let M := c.f.imm.toNat % 2 ^ 16
    let bit := fun (b : Bool) => if b then 1 else 0
    (Issues (.icmpS f) s c → LanesPred (.icmpS f) s c (fun x => put x (test (A x).toInt (B x).toInt))) ∧
    (Issues (.icmpU f) s c → LanesPred (.icmpU f) s c (fun x => put x (test (A x).toNat (B x).toNat))) ∧
    (Issues (.icmpS64 f) s c → LanesPred (.icmpS64 f) s c (fun x => put x (test (A64 x).toInt (srcB64 c x).toInt))) ∧
    (Issues (.icmpU64 f) s c → LanesPred (.icmpU64 f) s c (fun x => put x (test (A64 x).toNat (srcB64 c x).toNat))) ∧
    (Issues (.sel f) s c → Lanes32 (.sel f) s c (fun x => if choose x then A x else B x)) ∧
    (Issues (.sel64 f) s c → Lanes64 (.sel64 f) s c (fun x => if choose x then A64 x else srcB64 c x)) ∧
    (Issues (.mov f) s c → c.f.dst.toNat < 0x180 → Lanes32 (.mov f) s c B) ∧
    (Issues (.mov64 f) s c → Lanes64 (.mov64 f) s c (fun x => srcB64 c x)) ∧
    (Issues (.lea f) s c → Lanes64 (.lea f) s c (fun x => A64 x + BitVec.ofNat 64 ((Bv x).toNat * 2 ^ k) + BitVec.ofInt 64 c.f.imm.toInt)) ∧
    (Issues (.leaSx f) s c → Lanes64 (.leaSx f) s c (fun x => A64 x + BitVec.ofInt 64 ((Bv x).toInt * 2 ^ k) + BitVec.ofInt 64 c.f.imm.toInt)) ∧
    (Issues (.lea32 f) s c → Lanes32 (.lea32 f) s c (fun x => A x + BitVec.ofNat 32 ((Bv x).toNat * 2 ^ k) + c.f.imm)) ∧
    (Issues (.plog f) s c → LanesPred (.plog f) s c (fun x => c.f.imm.getLsbD
      (bit (x.pred (c.f.srcA.toNat % 16)) * 4 + bit (x.pred (c.f.srcB.toNat % 16)) * 2 + bit (pc x)))) ∧
    (Issues (.plogW f) s c → ∃ g, Lanes (.plogW f) s c g ∧ ∀ x, g x = { x with preds := (g x).preds } ∧ ∀ i, i < 16 →
      (g x).preds.getLsbD i = if M.testBit i then
        c.f.imm.getLsbD (16 + bit (x.pred i) * 4 + bit ((A x).getLsbD i) * 2 + bit ((Bv x).getLsbD i)) else x.preds.getLsbD i) ∧
    (Issues (.pmovP2v f) s c → ∃ v, Lanes32 (.pmovP2v f) s c v ∧ ∀ x i, (v x).getLsbD i = (decide (i < 16) && x.pred i)) ∧
    (Issues (.pmovV2p f) s c → ∃ g, Lanes (.pmovV2p f) s c g ∧ ∀ x, g x = { x with preds := (g x).preds } ∧ ∀ i, i < 16 →
      (g x).preds.getLsbD i = if M.testBit i then (A x).getLsbD i else x.preds.getLsbD i)) ∧
  (∀ (f : Fields) (s : State) (c : Ctx),
    let scalar := c.hwarp * 64 + (c.f.dst.toNat - 0x140)
    let written := fun (v : Word) (w : Workgroup) => { w with
      scalars := Sparse.set 0 w.scalars scalar v, scalarPoison := w.scalarPoison.filter (fun n => n ≠ scalar) }
    (∀ x l, Issues (.movs f) s c → c.passing = x :: l →
      exec (.movs f) s = .next ((((s.entered c (.movs f)).lanewise c id)).updWg c.wg.key (written (srcB32 c x)))) ∧
    (Issues (.movs f) s c → c.passing = [] → Lanes (.movs f) s c id) ∧
    (∀ x, Issues (.movsI f) s c → c.passing.find? (fun y => y.lane = c.f.imm.toNat % 32) = some x →
      exec (.movsI f) s = .next ((((s.entered c (.movsI f)).lanewise c id)).updWg c.wg.key (written (src32 c x c.f.srcB)))) ∧
    (Issues (.movsI f) s c → c.passing.find? (fun y => y.lane = c.f.imm.toNat % 32) = none → Lanes (.movsI f) s c id) ∧
    (∀ x l, Issues (.mov f) s c → 0x180 ≤ c.f.dst.toNat → c.passing = x :: l →
      exec (.mov f) s = .next ((((s.entered c (.mov f)).lanewise c id)).updWg c.wg.key (fun w => { w with
        fflags := BitVec.ofNat 5 ((srcB32 c x).toNat % 32), srPoison := w.srPoison.filter (fun n => n ≠ c.f.dst.toNat - 0x180) }))) ∧
    (Issues (.mov f) s c → 0x180 ≤ c.f.dst.toNat → c.passing = [] → Lanes (.mov f) s c id))

/-! Conversions and codebooks. -/

/-- R126 to R131, R138 and R139: conversions, packing, unpacking and block scales complete with the rounded, clamped or scaled values, the flags
joining `sr.fflags`, where no flag raised is trapped. The formats are those of the immediate's codes (R125). R133 to R137: the codebook
instructions complete where every passing lane names a table of the workgroup: `CBLD` writes the entry of its lane, the higher lane standing;
`CBLD.M` sends for the 32 scratchpad bytes of each lane's table, which is loading until they return (`ScratchLoadReadsItsWords`); `CBQ` and `CBQ.P` quantise to table B. -/
def Obligations.ConversionsAndCodebooksComplete : Prop :=
  (∀ (f : Fields) (s : State) (c : Ctx),
    let src := c.f.imm.toNat % 16
    let dst := c.f.imm.toNat / 16 % 16
    let mode := Mode.ofBits c.f.mods.toNat
    let sat := c.f.imm.getLsbD 8
    let fmt := fun (k : Nat) => (Fmt.ofCode k).getD .f32
    let V := fun (x : Fibre) => (fmt src).value (srcFmt (fmt src) c x c.f.srcA)
    let N := fun (x : Fibre) => intValue src (if 8 ≤ src then (src64 c x c.f.srcA).toNat else (src32 c x c.f.srcA).toNat)
    let put := fun (x : Fibre) (r : Nat × Flags) => (x.setFmt (fmt dst) c.f.dst r.1, r.2)
    let put32 := fun (x : Fibre) (r : Nat × Flags) => (x.set32 c.f.dst (BitVec.ofNat 32 r.1), r.2)
    let put64 := fun (x : Fibre) (r : Nat × Flags) => (x.set64 c.f.dst (BitVec.ofNat 64 r.1), r.2)
    let real := fun (n : Int) => XReal.fin (decide (n < 0)) n.natAbs 0
    let A := fun (x : Fibre) => Fmt.f32.value (src32 c x c.f.srcA).toNat
    let E := fun (x : Fibre) => (srcB32 c x).toNat % 256
    let shifted := fun (x : Fibre) (k : Int) => put32 x (if E x = 255 then (Fmt.f32.nanCode, 0) else roundTo .f32 mode false ((A x).scaled k))
    let done := fun (i : Instr) (g : Fibre → Fibre × Flags) => Issues i s c → NoTrap c g → LanesFlags i s c g
    done (.cvtDn f) (fun x => put x (roundTo (fmt dst) mode sat (V x))) ∧
    (Issues (.cvtUp f) s c → Lanes32 (.cvtUp f) s c (fun x => BitVec.ofNat 32 (roundTo .f32 .rn false (V x)).1)) ∧
    done (.cvtD f) (fun x => put x (roundTo (fmt dst) mode sat (V x))) ∧
    done (.cvtF2i f) (fun x => put32 x (floatToInt dst mode (V x))) ∧
    done (.cvtI2f f) (fun x => put x (roundTo (fmt dst) mode sat (real (N x)))) ∧
    done (.cvtF2l f) (fun x => put64 x (floatToInt dst mode (V x))) ∧
    done (.cvtL2f f) (fun x => put x (roundTo (fmt dst) mode sat (real (N x)))) ∧
    (Issues (.cvtI2i f) s c → Lanes32 (.cvtI2i f) s c (fun x =>
      BitVec.ofNat 32 (intEncode dst (max (intType dst).lo (min (intType dst).hi (N x)))))) ∧
    done (.pack2 f) (pack 2 c) ∧ done (.pack4 f) (pack 4 c) ∧ done (.pack5 f) (pack 5 c) ∧ done (.pack8 f) (pack 8 c) ∧
    (Issues (.unpk2 f) s c → src ≠ 8 → Lanes (.unpk2 f) s c (unpack 2 c)) ∧
    (Issues (.unpk4 f) s c → src ≠ 8 → Lanes (.unpk4 f) s c (unpack 4 c)) ∧
    (Issues (.unpk5 f) s c → src ≠ 8 → Lanes (.unpk5 f) s c (unpack 5 c)) ∧
    (Issues (.unpk8 f) s c → (src = 8 → ∀ x ∈ c.passing, (src32 c x c.f.srcB).toNat % 64 < c.kernel.books) → Lanes (.unpk8 f) s c (unpack 8 c)) ∧
    (Issues (.bsclGet f) s c → Lanes32 (.bsclGet f) s c (fun x => BitVec.ofNat 32 (scaleCode ((emax src).getD 0) (A x).abs))) ∧
    (Issues (.bsclGet32 f) s c → Lanes32 (.bsclGet32 f) s c (fun x =>
      BitVec.ofNat 32 (roundTo .f32 .rn false (e8m0X (scaleCode ((emax src).getD 0) (A x).abs))).1)) ∧
    done (.bsclApply f) (fun x => shifted x (E x - 127)) ∧
    done (.bsclInv f) (fun x => shifted x (127 - E x))) ∧
  (∀ (f : Fields) (s : State) (c : Ctx),
    let tableA := fun x => (src32 c x c.f.srcA).toNat % 64
    let tableB := fun x => (srcB32 c x).toNat % 64
    let addr := fun x => (src32 c x c.f.srcB + c.f.imm).toNat
    let table := fun (x : Fibre) => ({ fibre := x.index, dst := .book (tableA x), place := .scratch c.core (c.wg.scratchBase + addr x) 1, width := 32 } : Load)
    let entry := fun (t i : Nat) (v : Nat) (w : Workgroup) => { w with
      books := Sparse.set 0 w.books (t * 16 + i) (BitVec.ofNat 16 v), bookPoison := w.bookPoison.filter (fun n => n ≠ t * 16 + i) }
    (Issues (.cbld f) s c → (∀ x ∈ c.passing, tableA x < c.kernel.books) →
      exec (.cbld f) s = .next (((s.entered c (.cbld f)).updWg c.wg.key (fun w =>
        c.passing.foldl (fun w x => entry (tableA x) (x.lane % 16) ((srcB32 c x).toNat % 2 ^ 16) w) w)).lanewise c id)) ∧
    (Issues (.cbldM f) s c → (∀ x ∈ c.passing, tableA x < c.kernel.books) →
      (∀ x ∈ c.passing, addr x % 32 = 0 ∧ addr x < c.kernel.scratchBytes ∧
        ∀ i, i < 32 → (c.wg.scratchBase + addr x + i) / 4 ∉ (s.core c.core).scratchPoison) →
      exec (.cbldM f) s = .next (((s.entered c (.cbldM f)).sendTables c.core c.wg.key (c.passing.map table)).lanewise c id)) ∧
    (Issues (.cbq f) s c → (∀ x ∈ c.passing, tableB x < c.kernel.books) → NoTrap c (fun x => quantise c x [src32 c x c.f.srcA]) →
      LanesFlags (.cbq f) s c (fun x => quantise c x [src32 c x c.f.srcA])) ∧
    (Issues (.cbqP f) s c → (∀ x ∈ c.passing, tableB x < c.kernel.books) → NoTrap c (fun x => quantise c x (srcRun x c.f.srcA 8)) →
      LanesFlags (.cbqP f) s c (fun x => quantise c x (srcRun x c.f.srcA 8))))

/-- R130 and R131: element *i* of a packed register stands at its width times *i*: `UNPK.k` writes the value of field *i* to register D + *i*, and
`PACK.k` puts the code of register A + *i* into field *i*. -/
def Obligations.PackedFieldsAreInOrder : Prop :=
  ∀ (c : Ctx) (x : Fibre) (k i : Nat), (k = 2 ∨ k = 4 ∨ k = 5 ∨ k = 8) → i < k →
    let w := if k = 2 then 16 else if k = 4 then 8 else if k = 5 then 6 else 4
    (c.f.imm.toNat % 16 ≤ 7 → c.f.dst.toNat + k ≤ 240 →
      Sparse.get 0 (unpack k c x).regs (c.f.dst.toNat + i) =
        BitVec.ofNat 32 (roundTo .f32 .rn false (((Fmt.ofCode (c.f.imm.toNat % 16)).getD .f32).value ((src32 c x c.f.srcA).toNat / 2 ^ (w * i) % 2 ^ w))).1) ∧
    (c.f.dst.toNat < 240 →
      (Sparse.get 0 (pack k c x).1.regs c.f.dst.toNat).toNat / 2 ^ (w * i) % 2 ^ w =
        (packElement c.f (x.reg (c.f.srcA.toNat + i))).1 % 2 ^ w)

/-! Floating point. -/

/-- R146 to R148, R151 to R157: the floating instructions complete, where no flag raised is trapped: each element's operands with their negations
(modifier bits 2 to 4), the operation, one rounding in the mode of modifier bits [1:0], and the OR of the flags; a packed form acts on each half.
R149, R150, R152 and R155 to R157: comparisons and classes, and, where no flag raised is trapped, the special functions and the postfix evaluator,
whose `d` is the old value of D. -/
def Obligations.FloatInstructionsComplete : Prop :=
  (∀ (f : Fields) (s : State) (c : Ctx),
    let mode := Mode.ofBits c.f.mods.toNat
    let neg := fun (i : Nat) (v : XReal) => if c.f.mods.getLsbD i then v.neg else v
    let num := c.f.mods.getLsbD 0
    let add := fun (t : Fmt) (a b _ : Nat) => fAdd t mode (neg 2 (t.value a)) (neg 3 (t.value b))
    let mul := fun (t : Fmt) (a b _ : Nat) => fMul t mode (neg 2 (t.value a)) (neg 3 (t.value b))
    let mac := fun (t : Fmt) (a b d : Nat) => fMac t mode (neg 2 (t.value a)) (neg 3 (t.value b)) (neg 4 (t.value d))
    let least := fun (t : Fmt) (a b _ : Nat) => (fMinMax t false num a b, (0 : Flags))
    let greatest := fun (t : Fmt) (a b _ : Nat) => (fMinMax t true num a b, (0 : Flags))
    let whole := fun (t : Fmt) (a _ _ : Nat) => (fRound t mode a, (0 : Flags))
    let one := fun (g : Nat → Nat → Nat → Nat × Flags) (x : Fibre) =>
      let r := g (srcF32 c x c.f.srcA).toNat (srcBF32 c x).toNat (srcF32 c x c.f.srcC).toNat
      (x.set32 c.f.dst (BitVec.ofNat 32 r.1), r.2)
    let wide := fun (g : Nat → Nat → Nat → Nat × Flags) (x : Fibre) =>
      let r := g (srcF64 c x c.f.srcA).toNat (srcBF64 c x).toNat (srcF64 c x c.f.srcC).toNat
      (x.set64 c.f.dst (BitVec.ofNat 64 r.1), r.2)
    let halves := fun (t : Fmt) (g : Nat → Nat → Nat → Nat × Flags) (x : Fibre) =>
      let a := (srcPacked t c x c.f.srcA).toNat
      let b := (srcBPacked t c x).toNat
      let d := (srcPacked t c x c.f.srcC).toNat
      let lo := g (a % 2 ^ 16) (b % 2 ^ 16) (d % 2 ^ 16)
      let hi := g (a / 2 ^ 16) (b / 2 ^ 16) (d / 2 ^ 16)
      (x.set32 c.f.dst (BitVec.ofNat 32 (lo.1 + hi.1 * 2 ^ 16)), lo.2 ||| hi.2)
    let done := fun (i : Instr) (g : Fibre → Fibre × Flags) => Issues i s c → NoTrap c g → LanesFlags i s c g
    done (.fadd f) (one (add .f32)) ∧ done (.faddF16x2 f) (halves .f16 (add .f16)) ∧ done (.faddBf16x2 f) (halves .bf16 (add .bf16)) ∧
    done (.dadd f) (wide (add .f64)) ∧
    done (.fmul f) (one (mul .f32)) ∧ done (.fmulF16x2 f) (halves .f16 (mul .f16)) ∧ done (.fmulBf16x2 f) (halves .bf16 (mul .bf16)) ∧
    done (.dmul f) (wide (mul .f64)) ∧
    done (.fmac f) (one (mac .f32)) ∧ done (.fmacF16x2 f) (halves .f16 (mac .f16)) ∧ done (.fmacBf16x2 f) (halves .bf16 (mac .bf16)) ∧
    done (.dmac f) (wide (mac .f64)) ∧
    done (.fmin f) (one (least .f32)) ∧ done (.fminF16x2 f) (halves .f16 (least .f16)) ∧ done (.fminBf16x2 f) (halves .bf16 (least .bf16)) ∧
    done (.fminF64 f) (wide (least .f64)) ∧
    done (.fmax f) (one (greatest .f32)) ∧ done (.fmaxF16x2 f) (halves .f16 (greatest .f16)) ∧ done (.fmaxBf16x2 f) (halves .bf16 (greatest .bf16)) ∧
    done (.fmaxF64 f) (wide (greatest .f64)) ∧
    done (.frnd f) (one (whole .f32)) ∧ done (.frndF16x2 f) (halves .f16 (whole .f16)) ∧ done (.frndBf16x2 f) (halves .bf16 (whole .bf16)) ∧
    done (.frndF64 f) (wide (whole .f64))) ∧
  (∀ (f : Fields) (s : State) (c : Ctx),
    let A := fun (x : Fibre) => srcF32 c x c.f.srcA
    let D := fun (x : Fibre) => srcF64 c x c.f.srcA
    let mode := Mode.ofBits c.f.mods.toNat
    let cond := c.f.mods.toNat % 8
    let unordered := c.f.mods.getLsbD 5
    let old := fun (x : Fibre) => x.pred (c.f.srcC.toNat % 16)
    let put := fun (x : Fibre) (t : Bool) => match c.f.mods.toNat / 8 % 4 with | 1 => t && old x | 2 => t || old x | _ => t
    let p := c.f.dst.toNat % 16
    let mask := c.f.imm.toNat % 512
    let one := fun (g : Word → Nat × Flags) (x : Fibre) => let r := g (A x); (x.set32 c.f.dst (BitVec.ofNat 32 r.1), r.2)
    let wide := fun (g : DWord → Nat × Flags) (x : Fibre) => let r := g (D x); (x.set64 c.f.dst (BitVec.ofNat 64 r.1), r.2)
    let pairs := fun (t : Fmt) (x : Fibre) =>
      let a := (srcPacked t c x c.f.srcA).toNat
      let b := (srcBPacked t c x).toNat
      (x.setPred p (put x (fCompare t cond unordered (a % 2 ^ 16) (b % 2 ^ 16)))).setPred (p + 1)
        (put x (fCompare t cond unordered (a / 2 ^ 16) (b / 2 ^ 16)))
    let classes := fun (t : Fmt) (x : Fibre) =>
      let a := (srcPacked t c x c.f.srcA).toNat
      BitVec.ofNat 32 ((fClass t (a % 2 ^ 16) &&& mask) + (fClass t (a / 2 ^ 16) &&& mask) * 2 ^ 16)
    let done := fun (i : Instr) (g : Fibre → Fibre × Flags) => Issues i s c → NoTrap c g → LanesFlags i s c g
    (Issues (.fcmp f) s c → LanesPred (.fcmp f) s c (fun x => put x (fCompare .f32 cond unordered (A x).toNat (srcBF32 c x).toNat))) ∧
    (Issues (.fcmpF64 f) s c → LanesPred (.fcmpF64 f) s c (fun x => put x (fCompare .f64 cond unordered (D x).toNat (srcBF64 c x).toNat))) ∧
    (Issues (.fcmpF16x2 f) s c → Lanes (.fcmpF16x2 f) s c (pairs .f16)) ∧
    (Issues (.fcmpBf16x2 f) s c → Lanes (.fcmpBf16x2 f) s c (pairs .bf16)) ∧
    (Issues (.fcls f) s c → Lanes32 (.fcls f) s c (fun x => BitVec.ofNat 32 (fClass .f32 (A x).toNat &&& mask))) ∧
    (Issues (.fclsF64 f) s c → Lanes32 (.fclsF64 f) s c (fun x => BitVec.ofNat 32 (fClass .f64 (D x).toNat &&& mask))) ∧
    (Issues (.fclsF16x2 f) s c → Lanes32 (.fclsF16x2 f) s c (classes .f16)) ∧
    (Issues (.fclsBf16x2 f) s c → Lanes32 (.fclsBf16x2 f) s c (classes .bf16)) ∧
    done (.rcp f) (one rcp32) ∧ done (.rcpF64 f) (wide (rcp64 mode)) ∧
    done (.rsq f) (one (fun a => rsqOf .f32 a.toNat (Config.approx32 6 a).toNat 2)) ∧
    done (.rsqF64 f) (wide (fun a => rsqOf .f64 a.toNat (Config.approx64 a).toNat 1)) ∧
    done (.sqrt f) (one (fun a => sqrtOf .f32 mode a.toNat)) ∧ done (.sqrtF64 f) (wide (fun a => sqrtOf .f64 mode a.toNat)) ∧
    done (.ex2 f) (one ex2) ∧ done (.lg2 f) (one lg2) ∧ done (.sin f) (one (sinCos false)) ∧ done (.cos f) (one (sinCos true)) ∧
    done (.tanh f) (one tanh) ∧
    done (.xpr f) (fun x =>
      let r := xprValue mode c.f.imm { a := (A x).toNat, b := (srcF32 c x c.f.srcB).toNat, c := (srcF32 c x c.f.srcC).toNat, d :=
        if c.f.dst.toNat < 240 then (x.reg c.f.dst.toNat).toNat else 0 }
      (x.set32 c.f.dst (BitVec.ofNat 32 r.1), r.2)))

/-- R144: if a lane that passes the guard raises a trapped flag, no lane is written and `sr.fflags` is unchanged: the workgroup parks with a fault
of class 12 that names the lowest such lane and its flags. Said of `FADD`, `FMUL`, `FMAC`, `DADD`, `DMUL`, `DMAC` and their packed forms. -/
def Obligations.TrappedFlagWritesNoLane : Prop :=
  ∀ (f : Fields) (s : State) (c : Ctx) (i : Instr) (g : Fibre → Fibre × Flags),
    (i, g) ∈ [(.fadd f, fp32 (arith .add .f32) c), (.fmul f, fp32 (arith .mul .f32) c), (.fmac f, fp32 (arith .mac .f32) c),
      (.faddF16x2 f, fpPacked .f16 (arith .add .f16) c), (.fmulF16x2 f, fpPacked .f16 (arith .mul .f16) c),
      (.fmacF16x2 f, fpPacked .f16 (arith .mac .f16) c), (.faddBf16x2 f, fpPacked .bf16 (arith .add .bf16) c),
      (.fmulBf16x2 f, fpPacked .bf16 (arith .mul .bf16) c), (.fmacBf16x2 f, fpPacked .bf16 (arith .mac .bf16) c),
      (.dadd f, fp64 (arith .add .f64) c), (.dmul f, fp64 (arith .mul .f64) c), (.dmac f, fp64 (arith .mac .f64) c)] →
    Issues i s c → ¬ NoTrap c g →
    ∃ x ∈ c.passing, ∃ e : FaultInfo, (g x).2 &&& c.launch.traps ≠ 0 ∧ (∀ y ∈ c.passing.takeWhile (fun y => y ≠ x), (g y).2 &&& c.launch.traps = 0) ∧
      e.cls = 12 ∧ e.fibre = x.index ∧ e.flags = (g x).2 ∧ e.pc = c.pc ∧ exec i s = .next (s.parkBatch c e)

/-- R117: one rounding is exact where it raises no flag, and otherwise goes to the side its mode names: toward zero, down or up, or to a code as
near as any. Said of every finite nonzero operand that does not overflow. -/
def Obligations.RoundingFollowsItsMode : Prop :=
  ∀ (t : Fmt) (mode : Mode) (n : Bool) (m : Nat) (e : Int) (code : Nat) (fl : Flags), m ≠ 0 → roundTo t mode false (.fin n m e) = (code, fl) →
    fl &&& Flags.overflow = 0 →
    let val := fun (n : Bool) (m : Nat) (e : Int) => (if n then -1 else 1 : ℚ) * m * 2 ^ e
    let x := val n m e
    ∃ n' m' e', t.value code = .fin n' m' e' ∧
      (fl = 0 ↔ val n' m' e' = x) ∧
      (mode = .rz → |val n' m' e'| ≤ |x|) ∧ (mode = .rm → val n' m' e' ≤ x) ∧ (mode = .rp → x ≤ val n' m' e') ∧
      (mode = .rn → ∀ k n2 m2 e2, t.value k = .fin n2 m2 e2 → |val n' m' e' - x| ≤ |val n2 m2 e2 - x|)

/-- R148: minima and maxima of two codes: of two numbers the smaller or larger, -0 below +0; with one NaN the canonical NaN, or with `.NUM` the
other operand unchanged; with two the canonical NaN. -/
def Obligations.MinMaxTreatNanAndZero : Prop :=
  ∀ (t : Fmt) (isMax num : Bool) (a b : Nat),
    let x := t.value a
    let y := t.value b
    let r := fMinMax t isMax num a b
    (x.isNan ∧ y.isNan → r = t.nanCode) ∧
    (x.isNan ∧ ¬ y.isNan → r = if num then b else t.nanCode) ∧
    (¬ x.isNan ∧ y.isNan → r = if num then a else t.nanCode) ∧
    (¬ x.isNan ∧ ¬ y.isNan → (r = a ∨ r = b) ∧
      (if isMax then 0 ≤ XReal.cmp (t.value r) x ∧ 0 ≤ XReal.cmp (t.value r) y else XReal.cmp (t.value r) x ≤ 0 ∧ XReal.cmp (t.value r) y ≤ 0) ∧
      (x.isZero ∧ y.isZero ∧ x.isNeg ≠ y.isNeg → (t.value r).isNeg = !isMax))

/-! Lane and Palette instructions. -/

/-- R163: a lane instruction arrives: each reach of the batch, in ascending order, takes the arrivals of its lanes and performs its operation when
its last live member has arrived, and then a deadlock is looked for in the reaches of the lanes that have arrived (R166). `PART` does so outside compat16 (R168). R175: `PLD` sends for the 64
scratchpad bytes at each passing lane's address, for the pattern it names, where every number is below the workgroup's, every address aligned and
inside, and no word poisoned; the pattern is loading until they return (`ScratchLoadReadsItsWords`). -/
def Obligations.LaneAndPaletteInstructionsComplete : Prop :=
  (∀ (f : Fields) (s : State) (c : Ctx),
    let arrives := fun (i : Instr) (op : Nat) => exec i s =
      .next (((reachesOf op c).foldl (State.arriveReach op c) (s.entered c i)).deadlocks c.wg.key c.hwarp (laneMask c.lanes))
    (Issues (.part f) s c → c.compat16 = false → arrives (.part f) 0xA0) ∧
    (Issues (.xlnIdx f) s c → arrives (.xlnIdx f) 0xA1) ∧ (Issues (.xlnSub f) s c → arrives (.xlnSub f) 0xA2) ∧
    (Issues (.xlnAdd f) s c → arrives (.xlnAdd f) 0xA3) ∧ (Issues (.xlnFlip f) s c → arrives (.xlnFlip f) 0xA4) ∧
    (Issues (.vote f) s c → arrives (.vote f) 0xA5) ∧ (Issues (.lred f) s c → arrives (.lred f) 0xA6) ∧
    (Issues (.lredF f) s c → arrives (.lredF f) 0xA7) ∧ (Issues (.lscan f) s c → arrives (.lscan f) 0xA8) ∧
    (Issues (.lscanF f) s c → arrives (.lscanF f) 0xA9) ∧ (Issues (.perm f) s c → arrives (.perm f) 0xAA)) ∧
  (∀ (f : Fields) (s : State) (c : Ctx),
    let number := fun (x : Fibre) => (src32 c x c.f.srcA).toNat % 64
    let addr := fun (x : Fibre) => (src32 c x c.f.srcB + c.f.imm).toNat
    let pattern := fun (x : Fibre) => ({ fibre := x.index, dst := .pattern (number x), place := .scratch c.core (c.wg.scratchBase + addr x) 1, width := 64 } : Load)
    Issues (.pld f) s c →
    (∀ x ∈ c.passing, number x < c.kernel.palette / 64 ∧ addr x % 64 = 0 ∧ addr x < c.kernel.scratchBytes ∧
      ∀ i, i < 64 → (c.wg.scratchBase + addr x + i) / 4 ∉ (s.core c.core).scratchPoison) →
    exec (.pld f) s = .next (((s.entered c (.pld f)).sendTables c.core c.wg.key (c.passing.map pattern)).lanewise c id))

/-- R168 to R172, R176: what a completed rendezvous writes, over its participants in ascending lane order in a tile that starts at lane `base` and
holds `width` lanes; a scalar or special register has the word that its lane's issue saw (R106, R109). `PART` sets the width that all participants
name, one of 2, 4, 8, 16 and 32. An exchange takes source A of the participant in the named lane, and without one its own value, or 0 by modifier
bit 5, and modifier bit 0 asks for the predicate of modifier bits [4:1]; a vote combines the predicates, or gives each participant's in its tile bit;
a reduction gives every lane the combination in lane order, and a scan the one up to its own lane, or, excluding, the one before it, the float ones
from a first operand whose NaN is the canonical one, with the flags of the steps so far. `PERM` builds four bytes from the captured pattern's entry of
its lane; that an entry of a poisoned word marks the result is the model's reading (log 23). -/
def Obligations.LaneOperationValues : Prop :=
  ∀ (c : Ctx) (parts : List Fibre) (base width : Nat) (words : List (Nat × Word × Word)) (pattern : Option (List Byte)) (captor : Nat) (bad : List Nat)
    (r : LaneResult),
    let done := fun (op : Nat) => laneOperation op c parts base width words pattern captor bad = .ok r
    let seen := fun (x : Fibre) => ((words.find? (fun e => e.1 = x.lane)).map (fun e => e.2)).getD (0, 0)
    let A := fun (x : Fibre) => if 0x140 ≤ c.f.srcA.toNat then (seen x).1 else src32 c x c.f.srcA
    let b := fun (x : Fibre) => (if 0x140 ≤ c.f.srcB.toNat then (seen x).2 else src32 c x c.f.srcB).toNat
    let at' := fun (lane : Nat) => parts.find? (fun y => y.lane = lane)
    let exchange := fun (x : Fibre) (from' : Option Fibre) =>
      let y := x.set32 c.f.dst (match from' with | some z => A z | none => if c.f.mods.getLsbD 5 then 0 else A x)
      if c.f.mods.getLsbD 0 then y.setPred (c.f.mods.toNat / 2 % 16) from'.isSome else y
    let bit := fun (x : Fibre) => x.pred (c.f.srcA.toNat % 16) != c.f.mods.getLsbD 2
    let k := c.f.mods.toNat % 8
    let total := fun (l : List Fibre) => match l.map A with | [] => laneIdInt k | v :: t => t.foldl (laneOpInt k) v
    let mode := Mode.ofBits c.f.mods.toNat
    let kf := c.f.mods.toNat / 4 % 4
    let stepF := fun (acc : Word × Flags) (v : Word) =>
      if kf = 0 then
        let q := fAdd .f32 mode (Fmt.f32.value acc.1.toNat) (Fmt.f32.value v.toNat)
        (BitVec.ofNat 32 q.1, q.2 ||| acc.2)
      else (BitVec.ofNat 32 (fMinMax .f32 (decide (kf = 2)) false acc.1.toNat v.toNat), acc.2)
    let totalF := fun (l : List Fibre) => match l.map A with
      | [] => (if kf = 1 then 0x7F800000 else if kf = 2 then 0xFF800000 else 0, 0)
      | v :: t => t.foldl stepF (if (Fmt.f32.value v.toNat).isNan then BitVec.ofNat 32 Fmt.f32.nanCode else v, 0)
    (done 0xA0 → r.fibres = parts.map (fun x => (x, 0)) ∧ (parts ≠ [] → ∃ v ∈ [2, 4, 8, 16, 32], r.part = some v ∧ ∀ x ∈ parts, (A x).toNat = v)) ∧
    (done 0xA1 → r.fibres = parts.map (fun x => (exchange x (at' (base + b x % width)), 0))) ∧
    (done 0xA2 → r.fibres = parts.map (fun x => (exchange x (if b x < width ∧ base + b x ≤ x.lane then at' (x.lane - b x) else none), 0))) ∧
    (done 0xA3 → r.fibres = parts.map (fun x => (exchange x (if b x < width ∧ x.lane + b x < base + width then at' (x.lane + b x) else none), 0))) ∧
    (done 0xA4 → r.fibres = parts.map (fun x => (exchange x (at' (x.lane ^^^ (b x % width))), 0))) ∧
    (done 0xA5 → c.f.mods.toNat % 4 < 3 → r.fibres = parts.map (fun x => (x.setPred (c.f.dst.toNat % 16)
      (match c.f.mods.toNat % 4 with
        | 0 => decide (∀ y ∈ parts, bit y = true)
        | 1 => decide (∃ y ∈ parts, bit y = true)
        | _ => decide ((∀ y ∈ parts, bit y = true) ∨ (∀ y ∈ parts, bit y = false))), 0))) ∧
    (done 0xA5 → c.f.mods.toNat % 4 = 3 → (∀ y ∈ parts, base ≤ y.lane) → ∃ v : Word, r.fibres = parts.map (fun x => (x.set32 c.f.dst v, 0)) ∧
      ∀ i, i < 32 → v.getLsbD i = decide (∃ y ∈ parts, y.lane = base + i ∧ bit y = true)) ∧
    (done 0xA6 → r.fibres = parts.map (fun x => (x.set32 c.f.dst (total parts), 0))) ∧
    (done 0xA7 → r.fibres = parts.map (fun x => (x.set32 c.f.dst (totalF parts).1, (totalF parts).2))) ∧
    (done 0xA8 → r.fibres = parts.zipIdx.map (fun e =>
      (e.1.set32 c.f.dst (total (parts.take (if c.f.mods.getLsbD 3 then e.2 else e.2 + 1))), 0))) ∧
    (done 0xA9 → r.fibres = parts.zipIdx.map (fun e =>
      let q := totalF (parts.take (if c.f.mods.getLsbD 4 then e.2 else e.2 + 1))
      (e.1.set32 c.f.dst q.1, q.2))) ∧
    (∀ p, done 0xAA → pattern = some p → p ≠ [] → ∃ v : Fibre → Word,
      r.fibres = parts.map (fun x => ((x.set32 c.f.dst (v x)).tainted c.f.dst 0 (bad.contains (x.lane / 4)), 0)) ∧
      ∀ x ∈ parts, ∀ j, j < 4 →
        let e := (p.getD (2 * x.lane) 0).toNat + (p.getD (2 * x.lane + 1) 0).toNat * 256
        let source := if c.compat16 then x.lane / 16 * 16 + e % 16 else e % 32
        let run := c.f.mods.toNat % 4 + 1
        (v x).toNat / 256 ^ j % 256 = if e / 128 % 2 = 1 then 0 else match at' source with
          | none => 0
          | some y => (y.reg (c.f.srcA.toNat + e / 32 % 4 % run)).toNat / 256 ^ (e / 2 ^ (8 + 2 * j) % 4) % 256)

/-! Control. -/

/-- R78 to R82: a control transfer whose destinations pass R24 and check 6 of R28 puts every lane that passes the guard at its destination and the
others at their sequential successor; a `BRX` or `BRX.TBL` to that successor is no transfer. `CALL` and `CALL.X` write the return PC to D, `BRA.LOOP` the count; a backward taken branch notes its spin
record (R266). R83, R85, R87 and R88: `FSPAWN` and `FSPAWN.N` create their fibres lane by lane where the target passes its checks; `FEND` ends the
passing fibres of which none awaits a result; `YIELD` makes them candidates; `NOP` only moves on. -/
def Obligations.ControlInstructionsComplete : Prop :=
  (∀ (f : Fields) (s : State) (c : Ctx),
    let target := immTarget c.pc c.f.imm
    let A64 := fun (x : Fibre) => src64 c x c.f.srcA
    let good := fun (pc : BitVec 64) => s.badTarget c.launch pc = false
    let goes := fun (i : Instr) (g : Fibre → Fibre) => exec i s = .next ((s.entered c i).updLanes c (fun x => if passes c.f x then g x else x.next))
    let branch := fun (x : Fibre) (pc : BitVec 64) => { (if backward c.pc pc then x.spinBranch c.pc s.tide.toNat else x) with pc := pc }
    let n := fun (x : Fibre) => (src32 c x c.f.srcA).toNat
    let slot := fun (x : Fibre) => if pcSlot target > 4 then target else slotsAfter target (n x)
    let inTable := fun (x : Fibre) => n x < (src32 c x c.f.srcB).toNat
    let count := fun (x : Fibre) => src32 c x c.f.srcA - 1
    (Issues (.bra f) s c → good target → goes (.bra f) (fun x => branch x target)) ∧
    (Issues (.brx f) s c → (∀ x ∈ c.passing, A64 x ≠ seqPc c.pc → good (A64 x)) →
      goes (.brx f) (fun x => if A64 x = seqPc c.pc then x.next else branch x (A64 x))) ∧
    (Issues (.brxTbl f) s c → (∀ x ∈ c.passing, inTable x → slot x ≠ seqPc c.pc → good (slot x)) →
      goes (.brxTbl f) (fun x => if inTable x ∧ slot x ≠ seqPc c.pc then branch x (slot x) else x.next)) ∧
    (Issues (.call f) s c → good target → goes (.call f) (fun x => { x.set64 c.f.dst (seqPc c.pc) with pc := target })) ∧
    (Issues (.callX f) s c → (∀ x ∈ c.passing, good (A64 x)) → goes (.callX f) (fun x => { x.set64 c.f.dst (seqPc c.pc) with pc := A64 x })) ∧
    (Issues (.ret f) s c → (∀ x ∈ c.passing, good (A64 x)) → goes (.ret f) (fun x => { x with pc := A64 x })) ∧
    (Issues (.braLoop f) s c → good target →
      goes (.braLoop f) (fun x => if count x ≠ 0 then { x.set32 c.f.dst (count x) with pc := target } else (x.set32 c.f.dst (count x)).next))) ∧
  (∀ (f : Fields) (s : State) (c : Ctx),
    let target := immTarget c.pc c.f.imm
    let spawns := fun (i : Instr) (count : Fibre → Nat) => exec i s = .next ((State.spawnLanes c target count c.passing (s.entered c i)).updLanes c Fibre.next)
    let ended := c.passing.filter (fun x => x.pendV.isEmpty && x.pendP.isEmpty)
    let moved := (s.entered c (.fend f)).updLanes c (fun x => if passes c.f x then x else x.next)
    let left := moved.updWg c.wg.key (fun w => { w with fibres := w.fibres.filter (fun x => !ended.any (fun y => y.index = x.index)) })
    let noted := fun (k : Core) => k.noteEnded c.wg.launch ended.length (ended.foldl (fun m x => m + x.issued + 1) 0)
    (Issues (.fspawn f) s c → (∀ x l, c.passing = x :: l → (s.entered c (.fspawn f)).spawnFault c x target = none) →
      spawns (.fspawn f) (fun _ => 1)) ∧
    (Issues (.fspawnN f) s c → (∀ x l, c.passing = x :: l → (s.entered c (.fspawnN f)).spawnFault c x target = none) →
      spawns (.fspawnN f) (fun x => (src32 c x c.f.srcB).toNat)) ∧
    (Issues (.fend f) s c → ended ≠ [] → exec (.fend f) s = .next (((left.updCore c.core noted).endedRendezvous c.wg.key c.hwarp).liveRecheck c.wg.key)) ∧
    (Issues (.fend f) s c → ended = [] → exec (.fend f) s = .next moved) ∧
    (Issues (.yield f) s c → Lanes (.yield f) s c (fun x => { x with yielded := true, candidateSince := s.tide.toNat })) ∧
    (Issues (.nop f) s c → Lanes (.nop f) s c id))

/-- R24, R27, R75: a destination that breaks the PC's form, or whose line passes its checks but marks no target there, is a branch-target fault of
class 4 that names the lowest failing lane and its destination; no lane moves. A lane that `BRX`, `BRX.TBL` or `BRA.LOOP` does not transfer has no
destination (R79, R80). -/
def Obligations.BadTargetParks : Prop :=
  ∀ (f : Fields) (s : State) (c : Ctx),
    let target := immTarget c.pc c.f.imm
    let A := fun (x : Fibre) => src32 c x c.f.srcA
    let A64 := fun (x : Fibre) => src64 c x c.f.srcA
    let slot := fun (x : Fibre) => if pcSlot target > 4 then target else slotsAfter target (A x).toNat
    let other := fun (pc : BitVec 64) => if pc = seqPc c.pc then none else some pc
    let bad := fun (o : Option (BitVec 64)) => ∃ pc, o = some pc ∧ s.badTarget c.launch pc = true
    let parks := fun (i : Instr) (tgt : Fibre → Option (BitVec 64)) => ∀ x ∈ c.passing, bad (tgt x) →
      ∃ y ∈ c.passing, ∃ e : FaultInfo, bad (tgt y) ∧ (∀ z ∈ c.passing.takeWhile (fun z => z ≠ y), ¬ bad (tgt z)) ∧
        e.cls = 4 ∧ e.fibre = y.index ∧ e.pc = c.pc ∧ e.body % 2 ^ 64 = ((tgt y).getD 0).toNat ∧ exec i s = .next (s.parkBatch c e)
    (Issues (.bra f) s c → parks (.bra f) (fun _ => some target)) ∧
    (Issues (.call f) s c → parks (.call f) (fun _ => some target)) ∧
    (Issues (.brx f) s c → parks (.brx f) (fun x => other (A64 x))) ∧
    (Issues (.brxTbl f) s c → parks (.brxTbl f) (fun x => if (A x).toNat < (src32 c x c.f.srcB).toNat then other (slot x) else none)) ∧
    (Issues (.callX f) s c → parks (.callX f) (fun x => some (A64 x))) ∧
    (Issues (.ret f) s c → parks (.ret f) (fun x => some (A64 x))) ∧
    (Issues (.braLoop f) s c → parks (.braLoop f) (fun x => if A x - 1 ≠ 0 then some target else none))

/-- R83: one created fibre takes the lowest index that no live fibre has, stands at the target, holds the argument in v0 and nothing elsewhere,
has its creator's allotment, and its index is what the creating lane reads in D. -/
def Obligations.SpawnedFibreStartsAtTarget : Prop :=
  ∀ (c : Ctx) (s : State) (x : Fibre) (w : Workgroup) (target : BitVec 64), s.wg? c.wg.key = some w → w.fibre? x.index = some x →
    w.fibres.length < 4096 → (∀ y ∈ w.fibres, y.index < 4096) → s.spawnRoom w 1 x.allot target = true → c.f.dst.toNat < 240 →
    ∃ v y k, (State.spawnLanes c target (fun _ => 1) [x] s).wg? c.wg.key = some v ∧ v.fibre? k = some y ∧
      (∀ z ∈ w.fibres, z.index ≠ k) ∧ (∀ j, j < k → ∃ z ∈ w.fibres, z.index = j) ∧
      y.pc = target ∧ y.allot = x.allot ∧ Sparse.get 0 y.regs 0 = src32 c x c.f.srcA ∧ (∀ n, n ≠ 0 → Sparse.get 0 y.regs n = 0) ∧
      (v.fibre? x.index).map (fun z => Sparse.get 0 z.regs c.f.dst.toNat) = some (BitVec.ofNat 32 k)

/-! Memory: loads, stores, cache control, order, atomics. -/

/-- R203 and R204: a load whose order R238 allows and whose lanes pass the checks of R203 puts each lane's load on its way, or performs it at once
where it acquires or writes `vz`, performs the acquire that `ORD` asks for, and moves on. R203 and R205: a store whose order R238 allows, whose lanes pass the checks of R203
and whose data is not poisoned performs the release that `ORD` asks for, writes lane by lane, and moves on. A store outside the own scratchpad
commits its workgroup (R398). -/
def Obligations.LoadsAndStoresComplete : Prop :=
  (∀ (f : Fields) (s : State) (c : Ctx),
    let loads := fun (i : Instr) (space width : Nat) =>
      Issues i s c → (∀ o sc, c.ord = some (o, sc) → o < 2) → (∀ x ∈ c.passing, c.accessFault s space width 1 x = none) →
      exec i s = .next (((s.loadLanes space width c).ordAfter c).updLanes c Fibre.next)
    let plain := 2 ^ (c.f.mods.toNat % 4)
    let quad := 16 * 2 ^ (c.f.mods.toNat % 4)
    loads (.ldS f) 1 plain ∧ loads (.ldC f) 2 plain ∧ loads (.ldG f) 0 plain ∧
    loads (.ldSQ f) 1 quad ∧ loads (.ldCQ f) 2 quad ∧ loads (.ldGQ f) 0 quad) ∧
  (∀ (f : Fields) (s : State) (c : Ctx),
    let stores := fun (i : Instr) (space width : Nat) =>
      Issues i s c → (∀ o sc, c.ord = some (o, sc) → o % 2 = 0) → (∀ x ∈ c.passing, c.accessFault (s.entered c i) space width 2 x = none) →
      (∀ sh, shapeOf i = some sh → ∀ x ∈ c.passing, sh.b.poisoned c x c.f.srcB = false) →
      exec i s = .next ((((s.entered c i).storeLanes space width c c.passing ((s.entered c i).ordBefore c)).commits c
        (decide (space ≠ 1) && !c.passing.isEmpty)).updLanes c Fibre.next)
    let plain := 2 ^ (c.f.mods.toNat % 4)
    let quad := 16 * 2 ^ (c.f.mods.toNat % 4)
    stores (.stS f) 1 plain ∧ stores (.stC f) 2 plain ∧ stores (.stG f) 0 plain ∧
    stores (.stSQ f) 1 quad ∧ stores (.stCQ f) 2 quad ∧ stores (.stGQ f) 0 quad)

/-- R203, R204: a scratchpad load puts on its way, for every lane that passes the guard, the load of its address into its run of registers, and
changes no byte of memory or scratchpad; a load with an acquire half is performed at once instead. R41, R135, R175, R204: the return of a load of
words from a scratchpad, where no load of its fibre is before it, writes each word, little-endian, into its register, which is no longer pending and
is poisoned if the word is; a codebook table or a pattern takes the bytes; it leaves what is on its way, and changes no byte of memory or
scratchpad. -/
def Obligations.ScratchLoadReadsItsWords : Prop :=
  (∀ (f : Fields) (s : State) (c : Ctx),
    let off := fun (x : Fibre) => (src32 c x c.f.srcA + c.f.imm).toNat
    let sends := fun (i : Instr) (width : Nat) =>
      Issues i s c → (∀ o sc, c.ord = some (o, sc) → o = 0) → c.f.dst.toNat < 240 →
      (∀ x ∈ c.passing, off x % width = 0 ∧ off x < c.kernel.scratchBytes) →
      ∃ t, exec i s = .next t ∧ t.mem = s.mem ∧ (∀ k, (t.core k).scratch = (s.core k).scratch) ∧
        (t.core c.core).loads = (s.core c.core).loads ++ c.passing.map (fun x => { wg := c.wg.key, loads := [{
          fibre := x.index, dst := .regs c.f.dst.toNat, place := .scratch c.core (c.wg.scratchBase + off x) 1, width := width,
          signed := c.f.mods.getLsbD 2, hint := c.f.mods.toNat / 8 % 4, scope := (c.ord.map (fun e => e.2)).getD 0 }] })
    sends (.ldS f) (2 ^ (c.f.mods.toNat % 4)) ∧ sends (.ldSQ f) (16 * 2 ^ (c.f.mods.toNat % 4))) ∧
  (∀ (s : State) (k i j off space key : Nat) (l : Load) (w : Workgroup) (x : Fibre),
    (s.core k).loads[i]? = some { wg := key, loads := [l] } → l.place = .scratch j off space → l.value = none → l.request = none → l.width % 4 = 0 → 0 < l.width →
    (∀ q ∈ (s.core k).loads.take i, q.wg = key → ∀ m ∈ q.loads, m.fibre ≠ l.fibre) →
    s.wg? key = some w → w.fibre? l.fibre = some x →
    let word := fun (n : Nat) => (s.core j).scratch.word (off + 4 * n)
    ∃ t v y, exec (.loadDataReturn k i) s = .next t ∧ t.wg? key = some v ∧ v.fibre? l.fibre = some y ∧
      (t.core k).loads = (s.core k).loads.take i ++ (s.core k).loads.drop (i + 1) ∧
      t.mem = s.mem ∧ (∀ m, (t.core m).scratch = (s.core m).scratch) ∧
      (∀ r, l.dst = .regs r → r + l.width / 4 ≤ 240 → ∀ n, n < l.width / 4 →
        Sparse.get 0 y.regs (r + n) = word n ∧ r + n ∉ y.pendV ∧ (r + n ∈ y.poison ↔ ∃ b, b < 4 ∧ (off + 4 * n + b) / 4 ∈ (s.core j).scratchPoison)) ∧
      (∀ b, l.dst = .book b → l.width = 32 → ∀ n, n < 16 →
        Sparse.get 0 v.books (16 * b + n) = BitVec.ofNat 16 ((s.core j).scratch.readN (off + 2 * n) 2)) ∧
      (∀ p, l.dst = .pattern p → Bytes.read v.patterns (64 * p) l.width = Bytes.read (s.core j).scratch off l.width))

/-- R203, R205: a scratchpad store, of any width, to the own scratchpad or through `.C` to one of the cluster, leaves every lane's bytes at the place
that R181 to R183 give its address, the highest lane's where lanes meet; every other byte of every scratchpad and every register stays as it was,
and every byte of memory where no `ORD` has it release. -/
def Obligations.ScratchStoreWritesItsBytes : Prop :=
  ∀ (f : Fields) (s t : State) (c : Ctx),
    let plain := 2 ^ (c.f.mods.toNat % 4)
    let stores := fun (i : Instr) (space width : Nat) =>
      let here := fun (x : Fibre) (k a : Nat) => ∃ o sp, c.laneAt s space width 2 x = .ok (.scratch k o sp) ∧ o ≤ a ∧ a < o + width
      let data := fun (x : Fibre) (j : Nat) =>
        if width ≤ 4 then (src32 c x c.f.srcB).toNat / 2 ^ (8 * j) % 256
        else if width = 8 then (src64 c x c.f.srcB).toNat / 2 ^ (8 * j) % 256
        else ((srcRun x c.f.srcB (width / 4)).getD (j / 4) 0).toNat / 2 ^ (8 * (j % 4)) % 256
      Issues i s c → exec i s = .next t → (∀ w, t.wg? c.wg.key = some w → w.parked = none) →
      (∀ k a x o sp, x ∈ c.passing → c.laneAt s space width 2 x = .ok (.scratch k o sp) → o ≤ a → a < o + width →
        (∀ y ∈ (c.passing.reverse.takeWhile (fun z => z ≠ x)), ¬ here y k a) →
        (Sparse.get 0 (t.core k).scratch a).toNat = data x (a - o)) ∧
      (∀ k a, (∀ x ∈ c.passing, ¬ here x k a) → Sparse.get 0 (t.core k).scratch a = Sparse.get 0 (s.core k).scratch a) ∧
      (c.ord = none → t.mem = s.mem) ∧
      (∀ w v x y, s.wg? c.wg.key = some w → t.wg? c.wg.key = some v → w.fibre? x = some y → ∃ z, v.fibre? x = some z ∧ z.regs = y.regs ∧ z.preds = y.preds)
    stores (.stS f) 1 plain ∧ stores (.stC f) 2 plain ∧ stores (.stSQ f) 1 (16 * plain) ∧ stores (.stCQ f) 2 (16 * plain)

/-- R208 to R213: prefetches and cache control act lane by lane on what their ranges name and never fault; the address queries write what R212 and
R213 say of each lane's address. R226, R227, R229, R235 to R237: a boundary performs its release and its acquire at its scope, and where other
packages have still to acknowledge stores or atomics, its batch holds for them, a release for all that are then out and an acquire for the atomics of its
fibres, and its acquire follows then, unless a deferred
barrier or `RED` fault is held for its home warp (R246, R501), which it delivers instead; `FENCE.E` marks the issuer's engine stream, whose later
operations wait for what is then out; `ORD` gives
its order and scope to the instruction after it. That a release, a `FENCE` and a `FENCE.E` wait for every store of the package that is then out,
whichever core sent it, is the model's choice (log 18). -/
def Obligations.CacheControlAndBoundariesComplete : Prop :=
  (∀ (f : Fields) (s : State) (c : Ctx),
    let each := fun (i : Instr) (g : State → Fibre → State) => Issues i s c → exec i s = .next ((c.passing.foldl g (s.entered c i)).updLanes c Fibre.next)
    let lines := fun (u : State) (x : Fibre) => (u.core c.core).l1.filter (fun l => inRange (c.rangeLines u x) l.line)
    let scratch := fun (x : Fibre) => (src32 c x c.f.srcA + c.f.imm).toNat
    let global := fun (x : Fibre) => (src64 c x c.f.srcA + c.f.imm.signExtend 64).toNat
    let noted := fun (u : State) => c.passing.foldl (fun u x => u.noteTlb c.launch.space (global x)) u
    each (.prfL1 f) (State.prefetchL1 c) ∧ each (.prfL2 f) (State.prefetchL2 c) ∧
    each (.cctlInv f) (State.invalidateRange c) ∧ each (.cctlPri f) (State.prioritise c) ∧
    each (.cctlWb f) (fun u x => (lines u x).foldl (fun v l => v.flushLine c.core l.line (BitVec.allOnes 128) false) u) ∧
    each (.cctlWbinv f) (fun u x =>
      let v := (lines u x).foldl (fun v l => v.l1Evict c.core l.line) u
      if c.f.mod 0 then v.rdcDrop (dieOf c.core) (c.rangeLines u x) else v) ∧
    (Issues (.aqry f) s c → c.f.mod 0 = true → Lanes32 (.aqry f) s c (fun x =>
      if scratch x < c.kernel.scratchBytes then BitVec.ofNat 32 (c.core % 48 * 2 ^ 18 + c.wg.scratchBase + scratch x) else 0xFFFFFFFF)) ∧
    (Issues (.aqry f) s c → c.f.mod 0 = false → exec (.aqry f) s =
      .next ((noted (s.entered c (.aqry f))).lanewise c (fun x => x.set32 c.f.dst (aqryWord s c.launch.space (global x))))) ∧
    (Issues (.aqryH f) s c → exec (.aqryH f) s = .next ((noted (s.entered c (.aqryH f))).lanewise c (fun x => x.set64 c.f.dst
      (match s.translate c.launch.space (global x) with
        | .ok (pa, leaf) => if leaf.getLsbD 2 then BitVec.ofNat 64 pa else BitVec.allOnes 64
        | .error _ => BitVec.allOnes 64))))) ∧
  (∀ (f : Fields) (s : State) (c : Ctx),
    let scope := c.f.mods.toNat % 8
    let issuer := issuerOf c.compat16 (lowestFibre c.lanes)
    let holds := fun (u : State) (acq : Option Nat) => u.holdFor c.wg.key c.lanes u.openStores acq
    let released := fun (u : State) (acq : Bool) =>
      let r := u.release c.core scope
      if r.openStores ≠ [] then holds r (if acq then some scope else none) else if acq then r.acquire c.core scope else r
    let acquired := fun (u : State) =>
      let open' := u.openAtomics c.wg.key c.lanes
      if open' = [] then u.acquire c.core scope else u.holdFor c.wg.key c.lanes open' (some scope)
    let bounds := fun (i : Instr) (g : State → State) =>
      (Issues i s c → c.heldFault = none → exec i s = .next ((g (s.entered c i)).updLanes c Fibre.next)) ∧
      (∀ d, Issues i s c → c.heldFault = some d → exec i s = .next ((s.entered c i).deliver c.wg.key d))
    bounds (.phaseRel f) (fun u => released u false) ∧ bounds (.phaseAcq f) acquired ∧
    bounds (.phaseAr f) (fun u => released u true) ∧
    bounds (.fence f) (fun u => if u.openStores = [] then u else holds u none) ∧
    (Issues (.fenceE f) s c →
      let r := (s.entered c (.fenceE f)).release c.core scope
      exec (.fenceE f) s = .next ((r.updWg c.wg.key (fun w =>
        let n := Sparse.get 0 w.fenceEpoch issuer + 1
        { w with
          fenceEpoch := Sparse.set 0 w.fenceEpoch issuer n
          fenceAcks := if r.openStores = [] then w.fenceAcks else w.fenceAcks ++ [(issuer, n, r.openStores)] })).updLanes c Fibre.next)) ∧
    (∀ i, s.issue = some i → Issues (.ord f) s c → exec (.ord f) s = .next (State.updLanes { s with
      issue := some { core := i.core, slot := i.slot, ord := some (c.f.mods.toNat % 4, c.f.mods.toNat / 4 % 8) } } c Fibre.next)))

/-- R241 to R246: an atomic whose lanes pass the checks of R203, its data operands among them, performs its requests address by address, puts the old values on their way,
or with an acquire half writes them at once, commits its workgroup outside the own scratchpad, and moves on; a reduction returns nothing. -/
def Obligations.AtomicsComplete : Prop :=
  ∀ (f : Fields) (s : State) (c : Ctx),
    let space := c.f.mods.toNat % 4
    let addrs := (c.passing.map (addrOf space c)).eraseDups
    let n := c.f.dst.toNat
    let writes := fun (o : AtomOp) (olds : List (Fibre × Nat × Bool)) => if n ≥ 240 then [] else olds.flatMap (fun e =>
      (List.range (o.width / 4)).map (fun k => (e.1.index, n + k, BitVec.ofNat 32 (e.2.1 / 2 ^ (32 * k) % 2 ^ 32), e.2.2)))
    let fine := fun (i : Instr) (o : AtomOp) => Issues i s c ∧ (∀ x ∈ c.passing, c.accessFault (s.entered c i) space o.width 3 x = none) ∧
      ∀ sh, shapeOf i = some sh → ∀ x ∈ c.passing, sh.b.poisoned c x c.f.srcB = false ∧ sh.c.poisoned c x c.f.srcC = false
    let given := fun (u : State) (ws : List (Nat × Nat × Word × Bool)) =>
      if c.acquires then u.updWg c.wg.key (fun w => { w with fibres := w.fibres.map ({ wg := c.wg.key, writes := ws } : Pending).into }) else u.sendResults c ws
    let done := fun (u : State) => ((u.ordAfter c).commits c (decide (space ≠ 1) && !c.passing.isEmpty)).updLanes c Fibre.next
    let atoms := fun (i : Instr) (o : AtomOp) => fine i o →
      ∃ u olds, (s.entered c i).atomGroups o space true c addrs ((s.entered c i).ordBefore c) [] = (u, olds) ∧ exec i s = .next (done (given u (writes o olds)))
    let reds := fun (i : Instr) (o : AtomOp) => fine i o → (∀ q sc, c.ord = some (q, sc) → q % 2 = 0) →
      exec i s = .next (done ((s.entered c i).atomGroups o space false c addrs ((s.entered c i).ordBefore c) []).1)
    atoms (.atomAdd f) AtomOp.add32 ∧ atoms (.atomAdd64 f) AtomOp.add64 ∧ atoms (.atomAddF32 f) AtomOp.addF32 ∧
    atoms (.atomAddBf16x2 f) AtomOp.addBf16x2 ∧ atoms (.atomMinS f) AtomOp.minS ∧ atoms (.atomMinU f) AtomOp.minU ∧
    atoms (.atomMaxS f) AtomOp.maxS ∧ atoms (.atomMaxU f) AtomOp.maxU ∧ atoms (.atomAnd f) AtomOp.and ∧
    atoms (.atomOr f) AtomOp.or ∧ atoms (.atomXor f) AtomOp.xor ∧ atoms (.atomExch f) (AtomOp.exch 4) ∧
    atoms (.atomExch64 f) (AtomOp.exch 8) ∧ atoms (.atomCas f) (AtomOp.cas 4) ∧ atoms (.atomCas64 f) (AtomOp.cas 8) ∧
    atoms (.atomInc f) AtomOp.inc ∧ reds (.redAdd f) AtomOp.add32 ∧ reds (.redAdd64 f) AtomOp.add64 ∧
    reds (.redAddF32 f) AtomOp.addF32 ∧ reds (.redAddBf16x2 f) AtomOp.addBf16x2 ∧ reds (.redMinS f) AtomOp.minS ∧
    reds (.redMinU f) AtomOp.minU ∧ reds (.redMaxS f) AtomOp.maxS ∧ reds (.redMaxU f) AtomOp.maxU ∧
    reds (.redAnd f) AtomOp.and ∧ reds (.redOr f) AtomOp.or ∧ reds (.redXor f) AtomOp.xor ∧
    reds (.redInc f) AtomOp.inc

/-- R241, R243, R244: what the requests of one address write and answer. For the integer operations the word after them is the old word with every
lane's operand applied, and each lane's answer the word with the operands of the lanes before it applied, in ascending lane order; an exchange, a
comparison and an increment are performed lane by lane. For the float sums the lanes' operands are first summed in lane order, in FP32, and the word
after is the old one with that sum added; a lane's answer is the old word with the sum of the lanes before it added, the first lane's the old word;
`ADD.BF16X2` does so in each half, the sum rounded to BF16 once. -/
def Obligations.AtomicsActLaneByLane : Prop :=
  ∀ (m : Nat) (lanes : List (Nat × Nat)),
    let serial := fun (o : AtomOp) (step : Nat → Nat × Nat → Nat) =>
      (o.group m lanes).2 = lanes.foldl step m ∧
      ∀ k, k < lanes.length → ((o.group m lanes).1[k]?) = some ((lanes.take k).foldl step m)
    let summed := fun (o : AtomOp) (after : List (Nat × Nat) → Nat) => lanes ≠ [] →
      (o.group m lanes).2 = after lanes ∧ ∀ k, k < lanes.length → ((o.group m lanes).1[k]?) = some (if k = 0 then m else after (lanes.take k))
    let s32 := fun (x : Nat) => (BitVec.ofNat 32 x).toInt
    let plus := fun (a b : Nat) => (fAdd .f32 .rn (Fmt.f32.value a) (Fmt.f32.value b)).1
    let sum := fun (l : List Nat) => match l with | [] => 0 | a :: t => t.foldl plus a
    let half := fun (x i : Nat) => x / 2 ^ (16 * i) % 2 ^ 16
    let wide := fun (x : Nat) => (roundTo .f32 .rn false (Fmt.bf16.value x)).1
    let halfAfter := fun (l : List (Nat × Nat)) (i : Nat) =>
      (roundTo .bf16 .rn false (addX .rn (Fmt.bf16.value (half m i)) (Fmt.f32.value (sum (l.map (fun e => wide (half e.1 i)))))).1).1
    (m < 2 ^ 32 → (∀ l ∈ lanes, l.1 < 2 ^ 32 ∧ l.2 < 2 ^ 32) →
      serial .add32 (fun a l => (a + l.1) % 2 ^ 32) ∧
      serial .minS (fun a l => if s32 l.1 < s32 a then l.1 else a) ∧ serial .minU (fun a l => min a l.1) ∧
      serial .maxS (fun a l => if s32 a < s32 l.1 then l.1 else a) ∧ serial .maxU (fun a l => max a l.1) ∧
      serial .and (fun a l => a &&& l.1) ∧ serial .or (fun a l => a ||| l.1) ∧ serial .xor (fun a l => a ^^^ l.1) ∧
      serial (.exch 4) (fun _ l => l.1) ∧ serial (.cas 4) (fun a l => if a = l.1 then l.2 else a) ∧
      serial .inc (fun a l => if a ≥ l.1 then 0 else a + 1) ∧
      summed .addF32 (fun l => plus m (sum (l.map (fun e => e.1)))) ∧
      summed .addBf16x2 (fun l => halfAfter l 0 + halfAfter l 1 * 2 ^ 16)) ∧
    (m < 2 ^ 64 → (∀ l ∈ lanes, l.1 < 2 ^ 64 ∧ l.2 < 2 ^ 64) →
      serial .add64 (fun a l => (a + l.1) % 2 ^ 64) ∧ serial (.exch 8) (fun _ l => l.1) ∧ serial (.cas 8) (fun a l => if a = l.1 then l.2 else a))

/-! Barriers, watched words, register windows, copies, sync words, rings, matrix and tile operations. -/

/-- R275 to R279, R501, R502: an instruction of the residency chapter with no deferred barrier fault held completes: arrivals, waits and queries
send one request for each handle and hold their batch, an arrival after the `PHASE.AR` at the widest scope that the port holds for its handles, or, where it holds none for one of them, after the unit has
been asked; `BINIT` and `BINV` send
theirs past the checks made in the core and move on. Where other packages have still to acknowledge stores of the arrival's release, its requests carry them
and its acquire follows, for every store of the package that is then out: the model's choice (log 18). -/
def Obligations.BarrierInstructionsComplete : Prop :=
  ∀ (f : Fields) (s : State) (c : Ctx),
    let fine := fun (i : Instr) => Issues i s c ∧ c.heldBarrier = none
    let u := fun (i : Instr) => s.entered c i
    let handle := fun (x : Fibre) => (srcB32 c x).toNat
    let count := fun (x : Fibre) => (src32 c x c.f.srcA).toNat
    let sends := fun (i : Instr) (op : BarrierOp) (kind : Wait) (n : Fibre → Nat) => fine i → c.passing ≠ [] →
      exec i s = .next ((u i).request c op kind (byHandle c handle n) 0)
    let arrives := fun (i : Instr) (op : BarrierOp) (kind : Wait) (n : Fibre → Nat) => fine i → c.passing ≠ [] →
      let g := byHandle c handle n
      let port := (u i).portScope c.core c.launch.areaOwner
      let sc := (u i).widest c.core c.launch.areaOwner (g.map (fun e => e.1))
      ((∃ e ∈ g, port e.1 = 0) → exec i s = .next ((u i).request c op kind g 0 (fun h => decide (port h ≠ 0)))) ∧
      let v := (u i).release c.core (sc - 1)
      ((∀ e ∈ g, port e.1 ≠ 0) → v.openStores = [] → exec i s = .next ((v.acquire c.core (sc - 1)).request c op kind g sc)) ∧
      ((∀ e ∈ g, port e.1 ≠ 0) → v.openStores ≠ [] → exec i s = .next (v.request c op kind g sc (fun _ => true) v.openStores))
    let idle := fun (i : Instr) => fine i → c.passing = [] → exec i s = .next ((u i).updLanes c Fibre.next)
    let inTable := fun (n : Nat) (x : Fibre) => handle x < 2 ^ 20 ∧ handle x + n ≤ c.launch.barrierEntries
    let scope := c.f.mods.toNat % 8
    let wg := decide (scope = 0)
    let lanes := c.passing.map (fun x => (x.index, handle x, count x))
    arrives (.barv f) .arrive .answer (fun _ => 1) ∧ arrives (.barvC f) .arriveCount .answer count ∧ arrives (.barr f) .arriveWait .barrier (fun _ => 1) ∧
    sends (.bwait f) .await .barrier count ∧ sends (.bqry f) .query .answer (fun _ => 0) ∧
    idle (.barv f) ∧ idle (.barvC f) ∧ idle (.barr f) ∧ idle (.bwait f) ∧ idle (.bqry f) ∧
    (fine (.binit f) → (∀ x ∈ c.passing, inTable (if wg then 9 else 1) x ∧ (c.f.mod 3 = true ∨ (count x ≠ 0 ∧ (wg = true → count x ≤ 4096)))) →
      exec (.binit f) s = .next ((lanes.foldl (fun v e => v.notePort c.core c.launch.areaOwner e.2.1 scope) (u (.binit f))).requestOn c .init lanes)) ∧
    (fine (.binv f) → (∀ x ∈ c.passing, inTable 1 x) →
      exec (.binv f) s = .next ((u (.binv f)).requestOn c .invalidate (c.passing.map (fun x => (x.index, handle x, 0)))))

/-- R280, R281, R283 and R284: with no deferred barrier fault held, `WATCH` adds a line that is not yet watched, `WATCH.CLR` ends all watches,
`WAITW` takes its first turn lane by lane, and `RGROW`, `RGROW.TRY` and `RSHRINK` give each lane the allotment it asks for: a growth where the
core has room for it, the whole batch's lane by lane where an earlier lane's changes it. That the extra registers of a lane fit where *n* - *a* registers
of its workgroup do is the model's reading of R283 (log 16). -/
def Obligations.WatchAndWindowsComplete : Prop :=
  ∀ (f : Fields) (s : State) (c : Ctx),
    let fine := fun (i : Instr) => Issues i s c ∧ c.heldBarrier = none
    let u := fun (i : Instr) => s.entered c i
    let space := c.f.mods.toNat % 4
    let lineOf := fun (x : Fibre) => (c.placeOf (u (.watch f)) space 4 1 x).watchLine
    let seen := fun (x : Fibre) => x.watch.any (fun e => decide (e.1 = lineOf x))
    let size := fun (x : Fibre) => (srcB32 c x).toNat
    let legal := fun (n : Nat) => n % 16 = 0 ∧ 16 ≤ n ∧ n ≤ 240
    let waits := fun (i : Instr) (timed : Bool) => fine i → (∀ x ∈ c.passing, c.accessFault (u i) space 4 1 x = none) →
      exec i s = .next (((u i).waitwLanes c timed (c.f.mods.toNat / 4 % 8) c.passing (u i)).updLanes c (fun x => if passes c.f x then x else x.next))
    (fine (.watch f) → (∀ x ∈ c.passing, c.accessFault (u (.watch f)) space 4 1 x = none ∧ (seen x = true ∨ x.watch.length < 4)) →
      Lanes (.watch f) s c (fun x => if seen x then x else { x with watch := x.watch ++ [(lineOf x, false)] })) ∧
    (fine (.watchClr f) → Lanes (.watchClr f) s c (fun x => { x with watch := [] })) ∧
    waits (.waitw f) false ∧ waits (.waitwT f) true ∧
    (fine (.rgrow f) → ∀ v, State.growLanes false c c.passing (u (.rgrow f)) = .ok v → exec (.rgrow f) s = .next (v.updLanes c Fibre.next)) ∧
    (fine (.rgrowTry f) → ∀ v, State.growLanes true c c.passing (u (.rgrowTry f)) = .ok v → exec (.rgrowTry f) s = .next (v.updLanes c Fibre.next)) ∧
    (∀ x w, fine (.rgrow f) → c.passing = [x] → legal (size x) → x.allot < size x → (u (.rgrow f)).wg? c.wg.key = some w →
      (u (.rgrow f)).fits w 0 (size x - x.allot) = true → exec (.rgrow f) s = .next (((u (.rgrow f)).updWg c.wg.key (fun w =>
        w.updFibre x.index (fun y => { y with allot := size x, growFrom := min y.growFrom x.allot, growAge := 0 }))).updLanes c Fibre.next)) ∧
    (fine (.rshrink f) → (∀ x ∈ c.passing, legal (size x) ∧ size x ≤ x.allot ∧ ∀ r ∈ x.pendV, r < size x) →
      Lanes (.rshrink f) s c (fun x =>
        { x with allot := size x, regs := x.regs.filter (fun e => e.1 < size x), poison := x.poison.filter (fun r => r < size x) }))

/-- R301 to R305, R315, R372 to R374: a copy, gather, scatter or tile operation whose batch has entries free queues one operation for each lane
that passes the guard, with the operands of R292, counts it in its class, and moves on, where no lane fails the tests made at issue; `CPY.REG` takes
the live fibres of the tile that its C names for its targets, in which its registers are pending (R304). -/
def Obligations.CopiesAreQueued : Prop :=
  ∀ (f : Fields) (s : State) (c : Ctx),
    let queuesIf := fun (issues : Prop) (i : Instr) (cls : Nat) (push : Bool) (tests : Fibre → List (Bool × LaneFault)) (mk : Fibre → CopyEntry → CopyEntry) =>
      issues → c.copyReady (s.entered c i) cls = true → (∀ x ∈ c.passing, c.issueFault (s.entered c i) push tests x = none) →
      exec i s = .next ((c.passing.foldl (fun u x => u.queueCopy c cls (mk x) x) (s.entered c i)).updLanes c Fibre.next)
    let queues := fun (i : Instr) => queuesIf (Issues i s c) i
    let A := fun (x : Fibre) => (src32 c x c.f.srcA).toNat
    let B := fun (x : Fibre) => (src32 c x c.f.srcB).toNat
    let C := fun (x : Fibre) => (src32 c x c.f.srcC).toNat
    let box := fun (kind : CopyKind) (x : Fibre) (e : CopyEntry) =>
      { e with kind := kind, a := (src64 c x c.f.srcA).toNat, b := srcRun x c.f.srcB 4, c := C x }
    let gather := fun (kind : CopyKind) (x : Fibre) (e : CopyEntry) =>
      { e with kind := kind, a := (src64 c x c.f.srcA).toNat, b := srcRun x c.f.srcB 2, c := C x }
    let tlr := tlrTests c
    let regs := 2 ^ (c.f.mods.toNat % 4)
    let tile := fun (x : Fibre) => partWidth c.compat16 c.wg (C x % 128)
    let members := fun (x : Fibre) => (c.wg.fibres.filter (fun y => decide (y.hwarp = C x % 128) && decide (C x / 256 % 16 * tile x ≤ y.lane) &&
      decide (y.lane < C x / 256 % 16 * tile x + tile x))).map (fun y => y.index)
    let toRegs := fun (x : Fibre) (e : CopyEntry) =>
      { box (.reg regs) x e with targets := members x, targetBase := c.f.dst.toNat, width := tile x }
    queues (.cpy f) 0 false (fun x => tlr x ++ alignTests 16 c x) (box (if c.f.mod 0 then .st else .ld)) ∧
    queues (.cpySlot f) 0 false (fun x => tlr x ++ slotTests c x) (box .slot) ∧
    queues (.cpyCl f) 0 (!c.f.mod 0) (fun x => [(decide (A x % 16 ≠ 0), misaligned (A x) 16), (decide (C x % 16 ≠ 0), misaligned (C x) 16),
        (decide (B x % 16 ≠ 0 ∨ B x < 16 ∨ B x > 65536), c.badOperand c.f.srcB)])
      (fun x e => { e with kind := if c.f.mod 0 then .pull else .push, a := A x, b := [src32 c x c.f.srcB], c := C x }) ∧
    queues (.cpyRing f) 0 false (fun x => tlr x ++ alignTests 32 c x ++
      [(decide (C x + 32 > c.kernel.scratchBytes), { cls := 10, cause := 8, v0 := C x, v1 := 32 })]) (box .ring) ∧
    queues (.cpyAcc f) 0 false (fun x => tlr x ++ alignTests 16 c x ++ [(decide (C x ≥ c.kernel.accBytes), c.slotLane (C x))])
      (box (if c.f.mod 0 then .accSt else .accLd)) ∧
    queues (.cpyB f) 0 false (fun x => tlr x ++ alignTests 16 c x ++ [((c.wg.brush? (c.f.mods.toNat % 64)).isNone, c.badOperand c.f.srcB)])
      (box (.brush (c.f.mods.toNat % 64))) ∧
    queues (.gth f) 1 false (fun x => tlr x ++ indexTests c x) (gather .gth) ∧
    queues (.gthSlot f) 1 false (fun x => tlr x ++ slotTests c x ++ indexTests c x) (gather .gthSlot) ∧
    queues (.sct f) 1 false (fun x => tlr x ++ indexTests c x) (gather .sct) ∧
    queues (.sctCl f) 1 false (fun x => tlr x ++ indexTests c x) (gather .sctCl) ∧
    (Issues (.cpyReg f) s c → c.copyReady (s.entered c (.cpyReg f)) 0 = true → regReady c (s.entered c (.cpyReg f)) = true →
      (∀ x ∈ c.passing, c.issueFault (s.entered c (.cpyReg f)) false (fun x => tlr x ++ targetTests c x) x = none) → exec (.cpyReg f) s = .next (
        ((c.passing.foldl (fun u x => u.queueCopy c 0 (toRegs x) x) (s.entered c (.cpyReg f))).updLanes c Fibre.next).updWg c.wg.key (fun w => { w with
          fibres := w.fibres.map (fun y => if c.passing.any (fun x => decide (y.index ∈ members x)) then
            { y with pendV := (List.range regs).foldl (fun l i => insertNat (c.f.dst.toNat + i) l) y.pendV } else y) }))) ∧
    queuesIf (IssuesAs 0x144 (.tzip f (c.handleBrush.any (fun b => b.arity = 1))) f s c) (.tzip f) 3 false (tileTests .tzip (fun _ _ _ => false) c) (tileEntry .tzip c) ∧
    queues (.tfold f) 3 false (tileTests .tfold (fun b _ _ =>
      decide (b.arity = 0) || (!c.f.mod 1 && !b.hasIdentity && !b.associative && decide (b.xFmt ≠ b.yFmt))) c) (tileEntry .tfold c) ∧
    queues (.tscan f) 3 false (tileTests .tscan (fun b _ _ =>
      decide (b.arity = 0) || decide (b.xFmt ≠ b.yFmt) || decide (b.yFmt ≠ b.zFmt) || (c.f.mod 1 && !b.hasIdentity)) c) (tileEntry .tscan c)

/-- R292, R306: what one queued operation is: it keeps its lane, its PC, its immediate and modifiers, and counts in the issuer's stream: a copy in the
open batch, an operation of another class at the end of its pending ones. That it takes the lowest entry number that no operation holds is the
model's choice (log 23), and that it takes the next name is too (log 6). -/
def Obligations.QueuedOperationIsCounted : Prop :=
  ∀ (s : State) (c : Ctx) (x : Fibre) (cls : Nat) (g : CopyEntry → CopyEntry) (w : Workgroup), s.wg? c.wg.key = some w → c.f.imm.toNat / 2 ^ 30 = 0 →
    (∀ e, (g e).kind = .ld ∧ (g e).imm = e.imm ∧ (g e).id = e.id ∧ (g e).entry = e.entry ∧ (g e).wg = e.wg ∧ (g e).pc = e.pc ∧ (g e).fibre = e.fibre) →
    ∃ e v, ((s.queueCopy c cls g x).core c.core).copyQ = (s.core c.core).copyQ ++ [e] ∧ e.id = s.nextKey ∧ (s.queueCopy c cls g x).nextKey = s.nextKey + 1 ∧
      e.wg = c.wg.key ∧ e.pc = c.pc ∧ e.fibre = x.index ∧ e.imm = c.f.imm ∧
      (e.entry < 16 → (∀ y ∈ (s.core c.core).copyQ, y.entry ≠ e.entry) ∧ ∀ n, n < e.entry → ∃ y ∈ (s.core c.core).copyQ, y.entry = n) ∧
      (s.queueCopy c cls g x).wg? c.wg.key = some v ∧
      (let issuer := issuerOf c.compat16 x.index
       if cls = 0 then (v.stream issuer 0).unsealed = (w.stream issuer 0).unsealed ++ [s.nextKey] ∧ (v.stream issuer 0).unsealedAny = true
       else (v.stream issuer cls).count = (w.stream issuer cls).count + 1)

/-- R307, R308, R311, R312 and R316: `SEAL`, `WAITC`, and the sync-word and ring instructions complete: `SEAL` where the copy counter has room,
`WAITC` where no deferred fault of its class and no barrier or `RED` fault of its home warp is held, the others lane by lane in ascending order, where every
passing lane's address passes and its word, as the lanes before it have left it. -/
def Obligations.SyncInstructionsComplete : Prop :=
  ∀ (f : Fields) (s : State) (c : Ctx),
    let u := fun (i : Instr) => s.entered c i
    let issuer := issuerOf c.compat16 (lowestFibre c.lanes)
    let q := c.wg.stream issuer 0
    let space := if c.f.mod 0 then 2 else 1
    let bank := fun (i : Instr) (sp width : Nat) (x : Fibre) => c.bankOf (u i) sp width x
    let checked := fun (i : Instr) (sp width : Nat) => Issues i s c ∧ ∀ x ∈ c.passing, c.accessFault (u i) sp width 2 x = none
    let one := fun (i : Instr) (g : State → State) => exec i s = .next (((g (u i)).commits c (decide (space = 2) && !c.passing.isEmpty)).updLanes c Fibre.next)
    (Issues (.seal f) s c → q.unsealedAny = false →
      exec (.seal f) s = .next (((u (.seal f)).lanewise c (fun x => x.set32 c.f.dst (BitVec.ofNat 32 (q.sealedCount + (2 ^ 32 - 1))))).checkWaitc c.wg.key)) ∧
    (Issues (.seal f) s c → q.unsealedAny = true → q.pending.length < 65535 →
      exec (.seal f) s = .next ((((u (.seal f)).updWg c.wg.key (fun w => w.updStream issuer 0 (fun p => { p with
        pending := retire (p.pending ++ [(p.sealedCount, p.unsealed)]), unsealed := [], unsealedAny := false, sealedCount := p.sealedCount + 1 }))).lanewise c
          (fun x => x.set32 c.f.dst (BitVec.ofNat 32 q.sealedCount))).checkWaitc c.wg.key)) ∧
    (∀ x l, Issues (.waitc f) s c → c.lanes = x :: l → (∀ d ∈ c.wg.deferred, (d.issuer = issuer → d.cls ≠ c.f.mods.toNat % 8) ∧ (d.info.fibre / 32 = c.hwarp → d.cls < 11)) →
      exec (.waitc f) s = .next (((u (.waitc f)).updLanes c (fun y =>
        y.sleep .waitc (c.f.mods.toNat % 8) (srcB32 c x).toNat 0 0 s.tide.toNat)).checkWaitc c.wg.key)) ∧
    (checked (.swinit f) space 16 →
      (let idle := fun (t : State) (x : Fibre) => (let b := c.bankOf t space 16 x; (t.syncRead b.1 b.2).waiters = 0 ∧ (t.syncRead b.1 b.2).refs = 0)
       let init := fun (t : State) (x : Fibre) => (let b := c.bankOf t space 16 x
         t.syncWrite b.1 b.2 { count := (src32 c x c.f.srcB).toInt, completions := 0, valid := true, waiters := 0, refs := 0 })
       (∀ a x d, c.passing = a ++ x :: d → idle (a.foldl init (u (.swinit f))) x) → one (.swinit f) (fun t => c.passing.foldl init t))) ∧
    (checked (.swexp f) space 16 →
      (let add := fun (t : Option State) (x : Fibre) => t.bind (fun t =>
         let b := c.bankOf t space 16 x
         if (t.syncRead b.1 b.2).valid = true then t.syncAdd b.1 b.2 (src32 c x c.f.srcB).toInt else none)
       ∀ v, c.passing.foldl add (some (u (.swexp f))) = some v → one (.swexp f) (fun _ => v))) ∧
    (checked (.swwait f) space 16 → exec (.swwait f) s = .next ((c.passing.foldl (fun t x =>
      t.syncWait c x (bank (.swwait f) space 16 x).1 (bank (.swwait f) space 16 x).2) (u (.swwait f))).updLanes c (fun x => if passes c.f x then x else x.next))) ∧
    (Issues (.rwait f) s c → (∀ x ∈ c.passing, ringFault c (u (.rwait f)) x = none) → exec (.rwait f) s = .next ((c.passing.foldl (fun t x =>
      t.ringWait c x (bank (.rwait f) 1 32 x).1 (bank (.rwait f) 1 32 x).2) (u (.rwait f))).updLanes c (fun x => if passes c.f x then x else x.next))) ∧
    (Issues (.rrel f) s c → ((u (.rrel f)).core c.core).loading c.wg.key c.lanes = false → (∀ x ∈ c.passing, ringFault c (u (.rrel f)) x = none) →
      (let release := fun (t : Option State) (x : Fibre) => t.bind (fun t =>
         let n := (src32 c x c.f.srcB).toNat
         let b := c.bankOf t 1 32 x
         let r := t.ringRead b.1 b.2
         if n ≠ 0 ∧ r.free + n ≤ r.slots then some (t.ringWrite b.1 b.2 { r with free := r.free + n }) else none)
       ∀ v, c.passing.foldl release (some (u (.rrel f))) = some v → exec (.rrel f) s = .next (v.updLanes c Fibre.next)))

/-- R337, R369 to R371: `SCLM`, `SCLM.TRY` and `SREL` claim and release the slots of the lowest passing lane's mask; `BRLD` and `BRLD.PKG` install at
the lowest free handle, or return 0xFFFFFFFF where none is free; `BRDROP` and `BRDROP.PKG` remove; an instruction of these with no passing lane only moves
on. That a package brush of a job lasts as long as the packet launch at the root of its owners is the model's reading (log 16), and so is the unit of poison
in a brush's image (log 23). -/
def Obligations.SlotsAndBrushesComplete : Prop :=
  ∀ (f : Fields) (s : State) (c : Ctx) (x : Fibre) (l : List Fibre),
    let acts := fun (i : Instr) (cond : State → Prop) (g : State → State) (d : Fibre → Fibre) =>
      (Issues i s c → c.passing = x :: l → cond (s.entered c i) → exec i s = .next ((g (s.entered c i)).lanewise c d)) ∧
      (Issues i s c → c.passing = [] → exec i s = .next ((s.entered c i).lanewise c id))
    let slots := (List.range 32).filter (fun i => (srcB32 c x).getLsbD i)
    let inside := ∀ n ∈ slots, n < c.wg.slotFlags.length
    let h := (srcB32 c x).toNat
    let free := slots.all c.wg.slotFree
    let written := fun (n : Nat) (y : Fibre) => y.set32 c.f.dst (BitVec.ofNat 32 n)
    acts (.sclm f) (fun _ => inside ∧ free = true) (fun t => t.updWg c.wg.key (fun w => w.claim slots)) id ∧
    acts (.sclmTry f) (fun _ => inside) (fun t => if free then t.updWg c.wg.key (fun w => w.claim slots) else t) (fun y => y.setPred (predOf c.f.dst) free) ∧
    acts (.srel f) (fun _ => ∀ n ∈ slots, c.wg.slotClaimed n = true) (fun t => ({ t with nextKey := t.nextKey + 1 } : State).updWg c.wg.key (fun w =>
      { w with slotFlags := w.slotFlags.mapIdx (fun i fl => if slots.contains i then { fl with releasing := true, releasedAt := t.nextKey } else fl) })) id ∧
    (∀ b u n, Issues (.brld f) s c → c.passing = x :: l → (s.entered c (.brld f)).readImage c x = .ok (b, u) →
      n < c.kernel.brushes → c.wg.brush? n = none → (∀ k, k < n → c.wg.brush? k ≠ none) →
      exec (.brld f) s = .next ((u.updWg c.wg.key (fun w => { w with
        brushes := Sparse.set none w.brushes n (some b), brushPoison := w.brushPoison.filter (fun p => p / 160 ≠ n) })).lanewise c (written n))) ∧
    (∀ b u, Issues (.brld f) s c → c.passing = x :: l → (s.entered c (.brld f)).readImage c x = .ok (b, u) →
      (∀ k, k < c.kernel.brushes → c.wg.brush? k ≠ none) → exec (.brld f) s = .next (u.lanewise c (written 0xFFFFFFFF))) ∧
    (∀ b u n, Issues (.brldPkg f) s c → c.passing = x :: l → (s.entered c (.brldPkg f)).readImage c x = .ok (b, u) →
      n < 64 → Sparse.get none u.pkgBrushes n = none → (∀ k, k < n → Sparse.get none u.pkgBrushes k ≠ none) →
      exec (.brldPkg f) s = .next (({ u with
        pkgBrushes := Sparse.set none u.pkgBrushes n (some (b, c.launch.areaOwner))
        pkgBrushPoison := u.pkgBrushPoison.filter (fun p => p / 160 ≠ n) } : State).lanewise c (written n))) ∧
    (∀ b u, Issues (.brldPkg f) s c → c.passing = x :: l → (s.entered c (.brldPkg f)).readImage c x = .ok (b, u) →
      (∀ k, k < 64 → Sparse.get none u.pkgBrushes k ≠ none) → exec (.brldPkg f) s = .next (u.lanewise c (written 0xFFFFFFFF))) ∧
    (∀ i ∈ [Instr.brld f, .brldPkg f], Issues i s c → c.passing = [] → exec i s = .next ((s.entered c i).lanewise c id)) ∧
    acts (.brdrop f) (fun t => h < 64 ∧ c.wg.brush? h ≠ none ∧ t.brushBusy c.wg h = false)
      (fun t => t.updWg c.wg.key (fun w => { w with brushes := Sparse.set none w.brushes h none })) id ∧
    acts (.brdropPkg f) (fun t => h < 64 ∧ Sparse.get none t.pkgBrushes h ≠ none ∧ t.pkgBrushBusy h = false)
      (fun t => { t with pkgBrushes := Sparse.set none t.pkgBrushes h none }) id

/-- R335, R336, R339, R350 to R354, R376: an Easel instruction whose issuer has room in the queue and in its counter, and whose operands pass the
checks made at issue, queues one operation with its operands and moves on; the depths and the ownership that it changes, change at issue. -/
def Obligations.EaselInstructionsComplete : Prop :=
  ∀ (f : Fields) (s : State) (c : Ctx) (x : Fibre) (l : List Fibre),
    let u := fun (i : Instr) => s.entered c i
    let fine := fun (i : Instr) (cls : Nat) => Issues i s c ∧ c.passing = x :: l ∧ c.easelReady (u i) cls = true
    let A := (src32 c x c.f.srcA).toNat
    let B := (src32 c x c.f.srcB).toNat
    let C := (src32 c x c.f.srcC).toNat
    let base : EaselEntry := { entry := 0, id := 0, kind := .mloop, wg := c.wg.key, issuer := 0, cls := 2, fibre := x.index, pc := c.pc, imm := c.f.imm, mods := c.f.mods }
    let outer : EaselEntry := { base with kind := .touter, cls := 3, a := A, b := B, mods := 0 }
    let mloop := fun (count : Bool) (e : EaselEntry) => { e with kind := if count then .count else .mloop, a := A, b := B, c := C }
    let same := fun (code : BitVec 9) => ∀ y ∈ c.passing, src32 c y code = src32 c x code
    let loops := fun (i : Instr) (count : Bool) => fine i 2 → same c.f.srcA → c.mloopFault x (u i) count (mloop count base) = none →
      exec i s = .next (if count then ((u i).queueEasel c x 2 (mloop true)).updCore c.core (fun k =>
        k.setBank C (fun b => { b with depth := b.depth + 256 * (mloop true base).steps })) else (u i).queueEasel c x 2 (mloop false))
    let core := fun (i : Instr) => (u i).core c.core
    let deepOk := fun (o : Nat) => (o = 0 ∨ o = 262144) ∧ o + 262144 ≤ c.kernel.accBytes
    let tiles := c.f.imm.toNat % 256
    let words := 2 ^ (c.f.mods.toNat % 4)
    let acc := fun (y : Fibre) => (src32 c y c.f.srcA + c.f.imm).toNat
    let accOk := ∀ y ∈ c.passing, acc y % (4 * words) = 0 ∧ acc y + 4 * words ≤ c.kernel.accBytes
    let size := if fmtOut B = 1 then 512 else 1024
    loops (.mloop f) false ∧ loops (.mloopC f) true ∧ loops (.mloopG f) (c.f.mod 0) ∧
    (fine (.mzero f) 2 → A % 4096 = 0 → A + tiles * 4096 ≤ c.kernel.accBytes →
      exec (.mzero f) s = .next ((u (.mzero f)).queueEasel c x 2 (fun e => { e with kind := .mzero, a := A }))) ∧
    (fine (.mlda f) 2 → accOk → exec (.mlda f) s = .next (((u (.mlda f)).queueEasel c x 2 (fun e =>
      { e with kind := .mlda, lanes := c.passing.map (fun y => (y.index, acc y)), dst := c.f.dst.toNat })).updLanes c (fun y =>
        if passes c.f y then { y with pendV := (List.range words).foldl (fun l i => insertNat (c.f.dst.toNat + i) l) y.pendV } else y))) ∧
    (fine (.msta f) 2 → accOk → exec (.msta f) s = .next ((u (.msta f)).queueEasel c x 2 (fun e =>
      { e with kind := .msta, lanes := c.passing.map (fun y => (y.index, acc y)), data := c.passing.map (fun y => srcRun y c.f.srcB words) }))) ∧
    (fine (.czero f) 2 → A < 2 → (∀ k, ((core (.czero f)).bank A).owner = some k → k = c.wg.key) →
      exec (.czero f) s = .next (((u (.czero f)).queueEasel c x 2 (fun e => { e with kind := .czero, a := A })).updCore c.core
        (fun k => k.setBank A (fun q => { q with owner := some c.wg.key, depth := 0 })))) ∧
    (fine (.czeroD f) 2 → deepOk A → exec (.czeroD f) s = .next (((u (.czeroD f)).queueEasel c x 2 (fun e => { e with kind := .czeroD, a := A })).updCore
      c.core (fun k => k.setDeep (c.wg.accBase + A) 0))) ∧
    (fine (.cmrg f) 2 → A < 2 → ((core (.cmrg f)).bank A).owner = some c.wg.key → deepOk B →
      (core (.cmrg f)).deep (c.wg.accBase + B) + ((core (.cmrg f)).bank A).depth < 2 ^ 32 →
      exec (.cmrg f) s = .next (((u (.cmrg f)).queueEasel c x 2 (fun e => { e with kind := .cmrg, a := A, b := B })).updCore c.core (fun k =>
        (k.setDeep (c.wg.accBase + B) ((core (.cmrg f)).deep (c.wg.accBase + B) + ((core (.cmrg f)).bank A).depth)).setBank A (fun q =>
          { q with depth := 0, owner := if c.f.mod 0 then none else q.owner })))) ∧
    (fine (.cdrn f) 2 → same c.f.srcB → wordLegal drainWord B = true → booksOk c.kernel B = true → deepOk A → C % size = 0 → C + size ≤ c.kernel.accBytes →
      (c.f.imm.getLsbD 5 = true → c.wg.slotClaimed (c.f.imm.toNat % 32) = true) →
      exec (.cdrn f) s = .next ((u (.cdrn f)).queueEasel c x 2 (fun e => { e with kind := .cdrn, a := A, b := B, c := C }))) ∧
    (fine (.cdrnI f) 2 → same c.f.srcB → wordLegal drainIntWord B = true → deepOk A → C % 1024 = 0 → C + 1024 ≤ c.kernel.accBytes →
      exec (.cdrnI f) s = .next ((u (.cdrnI f)).queueEasel c x 2 (fun e => { e with kind := .cdrnI, a := A, b := B, c := C }))) ∧
    (fine (.touter f) 3 → c.outerFault x outer = none →
      exec (.touter f) s = .next ((u (.touter f)).queueEasel c x 3 (fun e => { e with kind := .touter, a := A, b := B })))

/-! System, collective and launch instructions. -/

/-- R404, R405, R75: `TRAP`, `BRK` with `csr.dbg` bit 0 set, and `SYSC` park their workgroup with a record of class 18, 19 or 20 that names the
lowest passing fibre, the batch's PC, the code of immediate bits [15:0] and the mask of the passing lanes, `SYSC` its two arguments too, and
commits its workgroup; `BRK` with the bit clear only moves on. -/
def Obligations.TrapsParkTheirWorkgroup : Prop :=
  ∀ (f : Fields) (s : State) (c : Ctx) (x : Fibre) (l : List Fibre),
    let parks := fun (i : Instr) (cls : Nat) (args : Nat) (t : State) => Issues i s c → c.passing = x :: l → ∃ e : FaultInfo,
      exec i s = .next (t.parkBatch c e) ∧ e.cls = cls ∧ e.pc = c.pc ∧ e.fibre = x.index ∧ e.deferred = false ∧
        e.parts = c.passing.map (fun y => y.index) ∧ e.dst = c.f.dst.toNat ∧
        e.body = args % 2 ^ 64 + c.f.imm.toNat % 2 ^ 16 * 2 ^ 64 + (laneMask c.passing).toNat * 2 ^ 96
    let idle := fun (i : Instr) => Issues i s c → c.passing = [] → Lanes i s c id
    parks (.trap f) 18 0 s ∧ (s.dbg.getLsbD 0 = true → parks (.brk f) 19 0 s) ∧
    parks (.sysc f) 20 ((src32 c x c.f.srcA).toNat + (src32 c x c.f.srcB).toNat * 2 ^ 32) ((s.entered c (.sysc f)).commits c true) ∧
    (s.dbg.getLsbD 0 = false → Issues (.brk f) s c → Lanes (.brk f) s c id) ∧ idle (.trap f) ∧ idle (.brk f) ∧ idle (.sysc f)

/-- R401, R402, R405, R406, R393: a CSR instruction on a CSR that the launch may use so reads it for every passing lane, or writes it from the
lowest passing lane's source B, sets bits or clears them, and commits its workgroup; `FRD`, `FRES` and `FKILL` act on the workgroup parked with
the record that their address names, after its read. That `FRES` releases and resumes at once, without waiting for other packages to acknowledge its
stores, is the model's choice (log 18), and that `FRES` and `FKILL` find their own workgroup past the instruction is too (log 20). -/
def Obligations.SystemInstructionsComplete : Prop :=
  ∀ (f : Fields) (s : State) (c : Ctx) (x : Fibre) (l : List Fibre),
    let n := c.f.imm.toNat % 2 ^ 12
    let B := src32 c x c.f.srcB
    let me := Agent.workgroup c.wg.key
    let listed := csrListed n = true
    let writable := listed ∧ c.launch.privileged = true ∧ csrReadOnly n = false
    let writes := fun (i : Instr) (g : Word → Word) => Issues i s c → c.passing = x :: l → writable →
      exec i s = .next ((((s.entered c i).lanewise c id).commits c true).csrWrite me n (g ((s.entered c i).csrRead me n)))
    let v := fun (u : State) (found : Bool) => u.lanewise c (fun y => y.setPred (predOf c.f.dst) found)
    let sel := (src32 c x c.f.srcB).toNat
    (Issues (.csrr f) s c → c.passing = x :: l → listed → (c.launch.privileged = true ∨ n = 0x013) →
      Lanes32 (.csrr f) s c (fun _ => (s.entered c (.csrr f)).csrRead me n)) ∧
    writes (.csrw f) (fun _ => B) ∧ writes (.csrs f) (fun o => o ||| B) ∧ writes (.csrc f) (fun o => o &&& ~~~B) ∧
    (∀ found u, Issues (.frd f) s c → c.passing = x :: l → (s.entered c (.frd f)).recordOf c x = .ok (found, u) →
      sel % 8 < 6 → sel / 8 % 32 = 0 → sel / 2 ^ 28 = 0 → ∃ r : Word × Bool, r = (found.map (fun (w : Workgroup) => w.peek sel)).getD (0xFFFFFFFF, false) ∧
        exec (.frd f) s = .next (u.lanewise c (fun y => if c.f.dst.toNat < 240 then y.setRegP c.f.dst.toNat r.1 r.2 else y))) ∧
    (∀ found u, Issues (.fres f) s c → c.passing = x :: l → (s.entered c (.fres f)).recordOf c x = .ok (found, u) → exec (.fres f) s = .next (match found with
      | some w => ((v u true).release c.core 6).resume w.key (c.f.mod 0) (if c.f.mod 1 then some B else none)
      | none => v u false)) ∧
    (∀ found u, Issues (.fkill f) s c → c.passing = x :: l → (s.entered c (.fkill f)).recordOf c x = .ok (found, u) → exec (.fkill f) s = .next (match found with
      | some w => (v u true).kill w.key
      | none => v u false)) ∧
    (c.passing = [] → ∀ i, i ∈ [Instr.csrr f, .csrw f, .csrs f, .csrc f, .frd f, .fres f, .fkill f] → Issues i s c → Lanes i s c id)

/-- R428 to R437: the collective instructions complete: a multicast operation whose group is valid and whose lanes are aligned and inside its
window is sent; `PSEND` with a free entry and good addresses is queued; a launch counter is armed or raised after a `PHASE.REL.PKG`, where it is
in range, and where other packages have still to acknowledge stores, the batch and the job that the counter dispatches wait for them; `TWAIT` waits for
its targets; `TREAD` reads the Tide. That `LCARM` arms for the packet launch at the root of a nested job's owners is the model's reading (log 16); that the
batch and the job wait for every store of the package that is then out is its choice (log 18), and so is arming without judging the card (log 20). -/
def Obligations.CollectiveInstructionsComplete : Prop :=
  ∀ (f : Fields) (s : State) (c : Ctx) (x : Fibre) (l : List Fibre),
    let u := fun (i : Instr) => s.entered c i
    let g := s.group (c.f.imm.toNat % 256)
    let off := fun (y : Fibre) => (src32 c y c.f.srcA).toNat
    let inside := fun (w : Nat) => g.ctl.getLsbD 0 = true ∧ ∀ y ∈ c.passing, off y % w = 0 ∧ off y + w ≤ g.len.toNat * 2 ^ 21
    let loads := fun (i : Instr) (w : Nat) => Issues i s c → c.passing = x :: l → inside w →
      exec i s = .next ((u i).sendMulti c true w (if c.f.mod 0 then some (c.f.mods.toNat / 2 % 16) else none))
    let issuer := issuerOf c.compat16 (lowestFibre c.lanes)
    let width := if c.f.mod 0 then 4 else 2
    let a := src64 c x c.f.srcA
    let b := src64 c x c.f.srcB
    let entry := fun (start : Nat) (e : CopyEntry) =>
      { e with kind := .psend, a := a.toNat, b := [loWord b, hiWord b], c := start % 2 ^ 32, start := start }
    let sends := fun (i : Instr) (start : Nat) => Issues i s c → c.passing = x :: l → canonical a.toNat = true → a.toNat % 64 = 0 → canonical b.toNat = true →
      b.toNat % 16 = 0 → c.reserved ≠ 0 → ((u i).core c.core).copyUsed c.wg.key < c.reserved → c.collReady (u i) = true →
      exec i s = .next ((((u i).queueCopy c 4 (entry start) x).commits c true).lanewise c id)
    let n := off x
    let q := fun (i : Instr) => ((u i).release c.core 4).counter n
    let moved := fun (i : Instr) => (q i).value + (src32 c x c.f.srcB).toInt
    let inRange := fun (i : Instr) => -2 ^ 31 ≤ moved i ∧ moved i ≤ 2 ^ 31 - 1
    let acks := fun (i : Instr) => (q i).acks ++ ((u i).release c.core 4).openStores
    let waits := fun (i : Instr) (target : Fibre → Nat) => Issues i s c → exec i s = .next (((u i).updLanes c (fun y =>
      if passes c.f y then y.sleep .twait 0 0 0 (target y) s.tide.toNat else y.next)).wakeWg c.wg.key
        (fun y => decide (y.wait = .twait) && c.active y && decide (y.deadline ≤ s.tide.toNat)) Fibre.next)
    loads (.mldr f) 2 ∧ loads (.mldrF32 f) 4 ∧
    (Issues (.msto f) s c → c.passing = x :: l → inside width → c.collReady (u (.msto f)) = true → exec (.msto f) s =
      .next ((((u (.msto f)).sendMulti c false width (if c.f.mod 1 then some (c.f.mods.toNat / 4 % 16) else none)).updWg c.wg.key
        (fun v => v.countIssue issuer 4 s.nextKey)).commits c true)) ∧
    sends (.psend f) 0 ∧ sends (.psendT f) (src64 c x c.f.srcC).toNat ∧
    (∀ card v, Issues (.lcarm f) s c → c.passing = x :: l → n < 4096 → (q (.lcarm f)).armed = false →
      ((u (.lcarm f)).release c.core 4).readCard c x (src64 c x c.f.srcC).toNat c.f.srcC = .ok (card, v) → inRange (.lcarm f) →
      let armed : LaunchCounter :=
        { value := moved (.lcarm f), armed := true, card := bytesOf 32 card, launch := c.launch.areaOwner, acks := acks (.lcarm f) }
      exec (.lcarm f) s = .next ((((v.counterSet n armed).commits c true).lanewise c id).holdStores c)) ∧
    (Issues (.lcarmAdd f) s c → c.passing = x :: l → n < 4096 → inRange (.lcarmAdd f) →
      let raised : LaunchCounter := { q (.lcarmAdd f) with value := moved (.lcarmAdd f), acks := acks (.lcarmAdd f) }
      exec (.lcarmAdd f) s = .next ((((((u (.lcarmAdd f)).release c.core 4).counterSet n raised).commits c true).lanewise c id).holdStores c)) ∧
    waits (.twait f) (fun y => (src64 c y c.f.srcA).toNat) ∧ waits (.twaitRel f) (fun y => s.tide.toNat + (srcB32 c y).toNat) ∧
    (Issues (.tread f) s c → Lanes64 (.tread f) s c (fun _ => s.tide)) ∧
    (c.passing = [] → ∀ i, i ∈ [Instr.mldr f, .mldrF32 f, .msto f, .psend f, .psendT f, .lcarm f, .lcarmAdd f] → Issues i s c → Lanes i s c id)

/-- R460, R461: `TASK` and `TASK.T` place their card where their segment has room and the card is well formed; `HINTS` counts its workgroup once;
`WAITPRED` waits, and goes on at once where its predecessor is over. Where other packages have still to acknowledge stores of a `TASK`'s release, its
batch and the job wait for them. That a job of a nested job belongs to the packet launch at the root of its owners is the model's reading (log 16); that the
batch and the job wait for every store of the package that is then out is its choice (log 18). -/
def Obligations.LaunchInstructionsComplete : Prop :=
  ∀ (f : Fields) (s : State) (c : Ctx) (x : Fibre) (l : List Fibre),
    let u := fun (i : Instr) => s.entered c i
    let tasks := fun (i : Instr) (start : Nat) => ∀ b v, Issues i s c → c.passing = x :: l → c.taskCard x (u i) = .ok (b, v) → (u i).segmentRoom (cardKey b) = true →
      exec i s = .next ((((v.enqueueCard b c.launch.areaOwner start false v.openStores).commits c true).lanewise c id).holdStores c)
    let asleep := (u (.waitpred f)).updLanes c (fun y => if passes c.f y then y.sleep .waitpred c.launch.lseq 0 0 0 s.tide.toNat else y.next)
    let awake := asleep.wakeWg c.wg.key (fun y => decide (y.wait = .waitpred) && c.active y) Fibre.next
    tasks (.task f) 0 ∧ tasks (.taskT f) (src64 c x c.f.srcC).toNat ∧
    (Issues (.hints f) s c → c.passing = x :: l → c.wg.hinted = true → Lanes (.hints f) s c id) ∧
    (Issues (.hints f) s c → c.passing = x :: l → c.wg.hinted = false → exec (.hints f) s = .next ((((u (.hints f)).updWg c.wg.key (fun w =>
      { w with hinted := true })).updLaunch c.launch.lseq (fun m => { m with hinted := m.hinted + 1 })).lanewise c id)) ∧
    (Issues (.waitpred f) s c → c.passing = x :: l → s.predIs c.launch (fun p => p.done) = false → exec (.waitpred f) s = .next asleep) ∧
    (Issues (.waitpred f) s c → c.passing = x :: l → s.predIs c.launch (fun p => p.done) = true →
      exec (.waitpred f) s = .next (if c.launch.predScope = 7 then awake else awake.acquire c.core c.launch.predScope)) ∧
    (c.passing = [] → ∀ i, i ∈ [Instr.task f, .taskT f, .hints f, .waitpred f] → Issues i s c → Lanes i s c id)

/-! Events. -/

/-- R204, R185, R186, R226, R193, R28: what comes back to a core. An atomic's or a multicast load's values are written and their pending bits ended, and so are those
of a load, from the bytes that it took; the L1 line that its full set would lose goes home and leaves the L1, and no other (which line the set loses, and when, is the
model's choice, log 10); a walk's translation is held, where its page is installed; a line that another package has to send is asked for first; one that passes its entry checks is latched for its slot, and one that fails them parks the
workgroup with the fault of R28. -/
def Obligations.CoreReturnsComplete : Prop :=
  ∀ (s : State) (k i : Nat),
    (∀ p l v n, (s.core k).loads[0]? = some p → p.request = none → p.loads = [l] → p.writes = [] → p.preds = [] → l.value = some v → l.dst = .regs n → n < 240 →
      exec (.loadDataReturn k 0) s = .next ((s.updWg p.wg (fun w => w.updFibre l.fibre (fun y => y.land n (l.words v)))).updCore k (fun c =>
        { c with loads := listDrop c.loads 0 }))) ∧
    (∀ p, (s.core k).loads[i]? = some p → p.request = none → p.loads = [] → p.preds = [] → exec (.loadDataReturn k i) s = .next ((s.updCore k (fun c =>
      { c with loads := c.loads.take i ++ c.loads.drop (i + 1) })).updWg p.wg (fun w => { w with fibres := w.fibres.map (fun x =>
        (p.writes.filter (fun e => decide (e.1 = x.index) && decide (e.2.1 < 240))).foldl
          (fun y e => { y.setRegP e.2.1 e.2.2.1 e.2.2.2 with pendV := y.pendV.filter (fun r => r ≠ e.2.1) }) x) }))) ∧
    (∀ l, (s.core k).l1[i]? = some l → (s.core k).l1Victim l.line = some l.line →
      ∃ t, exec (.homeWritePerformed k i) s = .next t ∧ t = s.l1Evict k l.line ∧ t.l1Line? k l.line = none) ∧
    (∀ l, (s.core k).l1[i]? = some l → (s.core k).l1Victim l.line ≠ some l.line → exec (.homeWritePerformed k i) s = .next s) ∧
    (∀ space va, exec (.pageWalkComplete space va) s = .next (s.noteTlb space va) ∧
      (∀ leaf, s.walk space va = .ok leaf → paInstalled (leafPa leaf va) = true → ∃ e ∈ (s.noteTlb space va).tlb, e.1 = space ∧ e.2.2 = leaf) ∧
      (∀ leaf, s.walk space va = .ok leaf → paInstalled (leafPa leaf va) = false → s.noteTlb space va = s) ∧
      (∀ cause, s.walk space va = .error cause → s.noteTlb space va = s)) ∧
    (∀ sl w x b, (s.core k).slots.find? (fun z => z.id = i) = some sl → s.wg? sl.wg = some w → w.head sl = some x →
      let l := (s.launch? w.launch).getD { lseq := w.launch, kind := .packet }
      let who := Reader.batch w.key x.index
      let far := s.lacking who (s.farCode l x.pc).toList
      (far ≠ [] → exec (.lineFetchReturn k i) s = .next (s.askLines who far)) ∧
      (far = [] → s.fetchLine l x.pc = .ok b → lineEntryFault w sl x (.ok b) = none → ∃ t, exec (.lineFetchReturn k i) s = .next t ∧
        (t.core k).slots.find? (fun z => z.id = i) = some { sl with line := some (pcLine x.pc, b) }) ∧
      (∀ e, far = [] → lineEntryFault w sl x (s.fetchLine l x.pc) = some e → exec (.lineFetchReturn k i) s = .next (s.park w.key { e with lanes := sl.lanes })))

/-- R260, R262, R266, R288: where a core's rotation unit is free and a workgroup's queue has a head, the unit starts its restore where its context
fits, else the save of the fibre that has waited longest in a waiting state, else of the YIELD candidate longest so, and at the quantum's end of the
running fibre longest resident, of equals the first; a fibre to be saved leaves its batch. A save that is done leaves the fibre as it was but not resident,
queued where it is runnable and its workgroup not held; a restore makes it resident and takes it from the queue, as its record has it, once other packages
have sent the lines of the record that they are home to; of a fibre without a record that its registers stay is the model's choice (log 13). A spinning fibre whose time is over runs
on. R281: a `WAITW` that reads the word of its issue's address again, which one homed on another package first asks for (log 18: the model's choice), returns 1 where the word has changed, else 0 at a fired watch or the deadline, else waits on. R312: `SWWAIT`
returns 1 at a count of 0, else waits on. R436: `TWAIT` goes on at its target. R270, R501: the unit takes a request from its queue and serves it, or,
with a held fault of its home warp, delivers that. -/
def Obligations.RotationAndWaitEventsComplete : Prop :=
  (∀ (s : State) (w : Workgroup) (h : Nat) (rest : List Nat) (x y : Fibre),
    let idle := s.wg? w.key = some w ∧ w.parked = none ∧ (w.preempt = .running ∨ w.preempt = .draining) ∧ (s.core w.core).transfer = none ∧
      w.queue = h :: rest ∧ w.fibre? h = some x
    let here := fun (z : Fibre) => z.resident = true ∧ z.leaving = false ∧ z.pendV = [] ∧ z.pendP = []
    let waiting := fun (z : Fibre) => here z ∧ z.wait ≠ .run ∧ z.wait ≠ .answer
    let yielding := fun (z : Fibre) => here z ∧ z.wait = .run ∧ z.yielded = true
    let running := fun (z : Fibre) => here z ∧ z.wait = .run ∧ z.yielded = false
    let first := fun (p : Fibre → Prop) (since : Fibre → Nat) => ∃ a b, w.fibres = a ++ y :: b ∧ p y ∧ (∀ z ∈ a, p z → since y < since z) ∧
      ∀ z ∈ b, p z → since y ≤ since z
    let starts := fun (i : Nat) (save : Bool) => s.updCore w.core (fun c => { c with transfer := some { wg := w.key, fibre := i, save := save } })
    let saves := .next ((starts y.index true).updWg w.key (fun w => w.updFibre y.index (Fibre.saving s.free)))
    let none' := fun (p : Fibre → Prop) => ∀ z ∈ w.fibres, ¬ p z
    let q := max 16 (min 1024 (s.core w.core).quantum.toNat) * 1000
    idle →
    (s.freeContext w x = true → exec (.rotationDecision w.core w.key) s = .next (starts h false)) ∧
    (s.freeContext w x = false → (first waiting Fibre.candidateSince ∨ (none' waiting ∧ first yielding Fibre.candidateSince)) →
      exec (.rotationDecision w.core w.key) s = saves) ∧
    (s.freeContext w x = false → none' waiting → none' yielding → first running Fibre.residentSince → s.tide.toNat ≥ x.queuedSince + q →
      s.tide.toNat ≥ y.residentSince + q → exec (.rotationQuantumExpiry w.core w.key) s = saves)) ∧
  (∀ (s : State) (k : Nat) (tr : Transfer) (w : Workgroup) (x : Fibre),
    (s.core k).transfer = some tr → s.wg? tr.wg = some w → w.fibre? tr.fibre = some x →
    (tr.save = false → s.recordLacks tr ≠ [] → exec (.rotationTransferDone k) s = .next (s.askLines (.restore tr.wg tr.fibre) (s.recordLacks tr))) ∧
    ((tr.save = true ∨ s.recordLacks tr = []) → ∃ t v y,
      exec (.rotationTransferDone k) s = .next t ∧ (t.core k).transfer = none ∧ t.wg? tr.wg = some v ∧ v.fibre? tr.fibre = some y ∧ y.resident = !tr.save ∧
        y.wait = x.wait ∧ y.allot = (if tr.save = true ∧ x.toAllot ≠ 0 then x.toAllot else x.allot) ∧ ((tr.save = true ∨ x.stored = none) → y.regs = x.regs ∧ y.preds = x.preds ∧ y.pc = x.pc) ∧
        v.queue = if tr.save then (if x.wait = .run ∧ w.queues = true then w.queue ++ [tr.fibre] else w.queue) else w.queue.filter (fun j => j ≠ tr.fibre))) ∧
  (∀ (s : State) (key i : Nat) (w : Workgroup) (x : Fibre), s.wg? key = some w → w.fibre? i = some x →
    let again := fun (op : Instr) => exec op s = .next (s.waitwAgain key i)
    (x.wait = .spinning → ∃ t v y, exec (.spinTimeout key i) s = .next t ∧ t.wg? key = some v ∧ v.fibre? i = some y ∧ y.wait = .run ∧ y.pc = x.pc ∧
      v.lastActive = w.lastActive) ∧
    again (.waitwReread key i) ∧ (x.wait = .waitw → s.tide.toNat ≥ x.deadline → again (.waitwDeadline key i)) ∧
    (∀ f, x.wait = .waitw → x.waitFields = some f →
      let c := Ctx.waiting s w x (if x.deadline = 2 ^ 64 then 0x109 else 0x10A) f
      ∀ p, s.place w.core w c.kernel (f.mods.toNat % 4) c.launch.space x.waitKey 4 1 = .ok p →
      let scope := f.mods.toNat / 4 % 8
      let far := s.needsFar w.core scope 4 p = true ∧ x.polled = false
      let read := s.readAt w.core 0 scope p 4
      let back := fun (status : Bool) => (read.2.wakeWg key (fun y => y.index = i) (fun y => y.waitwReturn x.waitDst status)).acquire w.core scope
      let same := ofBytes read.1.1 = x.waitValue
      let due := x.watch.any (fun e => e.2) = true ∨ s.tide.toNat ≥ x.deadline
      (∀ pa at', p = .home pa at' → far → s.waitwAgain key i = s.poll key i pa) ∧
      (¬ far → ¬ same → s.waitwAgain key i = back true) ∧ (¬ far → same → due → s.waitwAgain key i = back false) ∧
      (¬ far → same → ¬ due → s.waitwAgain key i = read.2.updWg key (fun w => w.updFibre i (fun y =>
        { y with waitSince := s.tide.toNat, waitDue := false, polled := false })))) ∧
    (x.wait = .swwait →
      let b := x.waitKey / 2 ^ 18
      let o := x.waitKey % 2 ^ 18
      let y := s.syncRead b o
      (y.count = 0 → exec (.swwaitReread key i) s = .next (((s.syncWrite b o { y with waiters := y.waiters - 1 }).wakeWg key (fun z => z.index = i)
        (fun z => (z.setPred x.waitDst true).next)).acquire w.core 2)) ∧
      (y.count ≠ 0 → exec (.swwaitReread key i) s = .next (s.updWg key (fun w => w.updFibre i (fun z => { z with waitSince := s.tide.toNat }))))) ∧
    (x.wait = .twait → x.deadline ≤ s.tide.toNat → ∃ t v y, exec (.tideTargetReached key i) s = .next t ∧ t.wg? key = some v ∧
      v.fibre? i = some y ∧ y.wait = .run ∧ y.pc = seqPc x.pc)) ∧
  (∀ (s : State) (i : Nat) (r : BarrierRequest) (w : Workgroup) (l : Launch),
    s.barrierQ[i]? = some r → s.wg? r.wg = some w → s.launch? w.launch = some l →
    (w.refused? r = none → exec (.barrierUnitRequest i) s =
      .next ((State.arAcquired { s with barrierQ := listDrop s.barrierQ i } r w).serveBarrier { r with acquires := false } w l)) ∧
    (∀ d, w.refused? r = some d → w.parked = none → exec (.barrierUnitRequest i) s = .next (s.deliver w.key d)))

/-- R291, R302, R340, R344: a grant moves the entry that can proceed one part on and notes it as the last served; a finished operation completes;
the Easel unit starts the ready step that R346 chooses and empties the slots that it gathers; at its end the unit's words, bank and registers are
written, and the last step completes its operation. -/
def Obligations.EngineEventsComplete : Prop :=
  ∀ (s : State) (k n : Nat),
    (∀ e w l, (s.core k).copyQ.find? (fun e => e.entry = n) = some e → s.wg? e.wg = some w → s.launch? w.launch = some l → s.entryProceeds k e = true →
      let u := s.updCore k (fun c => { c with copyLast := n })
      exec (.copyUnitGrant k n) s = .next (match e.kind with
        | .psend => u.grantPsend e w l
        | .tzip | .tfold | .tscan => u.grantTile e w l
        | _ => u.grantCopy e w l)) ∧
    (∀ e w l, (s.core k).copyQ.find? (fun e => decide (e.entry = n) && s.copyFinished e) = some e → s.wg? e.wg = some w → s.launch? w.launch = some l →
      exec (.engineOpComplete k n) s = .next (s.completeCopy e w l)) ∧
    (∀ e w l step, (s.core k).easelUnit = none → s.easelNext k = some e → s.wg? e.wg = some w → s.launch? w.launch = some l → e.nextStep w = some step →
      ∃ t, exec (.easelUnitStart k) s = .next t ∧ (t.core k).easelUnit = some (s.unitOf e w l step) ∧ (t.core k).easelLast = e.entry ∧
        (∀ v j fl, t.wg? e.wg = some v → v.slotFlags[j]? = some fl → (e.gathered step).contains j = true → fl.filled = false)) ∧
    (∀ u e, (s.core k).easelUnit = some u → (s.core k).easelQ.find? (fun e => e.entry = u.entry) = some e → u.fault = none →
      let s1 := (s.updCore k (fun c => { c with easelUnit := none })).unitWrites k e u
      exec (.easelUnitEnd k) s = .next (if u.last then (s1.updCore k (fun c => { c with easelQ := c.easelQ.filter (fun x => x.id ≠ e.id) })).complete
          e.wg e.issuer e.cls e.id
        else s1.updCore k (fun c => { c with easelQ := c.easelQ.map (fun x => if x.id = e.id then { x with doneSteps := x.doneSteps ++ [u.step] } else x) })))

/-- R390, R393 to R395, R400, R401, R409: where the fault ring has room, the oldest waiting record is written to its entry and the write index moves
on, by the hub's first try or a later one, once other packages have sent the lines of its handler's descriptor that they are home to; the watchdog parks a stalled workgroup with class 16; the host's commands of `csr.fcmd` resume at or past,
or kill, the workgroup parked with the record at `csr.fres`, and leave bit 31 set; where there is none, any agent's leave it clear; a CSR takes a value
of its range. R193, R395, R397 to R399, R15, R401: a pre-emption request of a running target makes it drain, save, or end flushed, by its method, and
answers 6 for another state and 5 for no target; a save that is done leaves the workgroup saved and off its core's slots; a restore places a saved
workgroup where it fits, else leaves it to be restored; a kill ends a parked or saved one with answer 7; an invalidation drops the translations it
names; a launch counter is disarmed; a Cove way count takes effect at once where nothing is staged, and else waits. -/
def Obligations.FaultAndPreemptionServiceCompletes : Prop :=
  (∀ (s : State),
    (∀ info launch wgid core key rest va pa a, s.records = (info, launch, wgid, core, key) :: rest → s.ringEntry = some (va, pa, a) →
      let host := ∃ l, s.launch? launch = some l ∧ l.kind = .handler
      let vectored := (Sparse.get 0 s.fvec info.cls).getLsbD 0 = true ∧ ¬ host
      let lacks := s.handlerLacks key info.cls
      (vectored → lacks ≠ [] → exec .faultRecordWrite s = .next (s.askLines (.handler key) lacks) ∧
        exec .faultRingRetry s = .next (s.askLines (.handler key) lacks)) ∧
      ((¬ vectored ∨ lacks = []) → ∃ t, exec .faultRecordWrite s = .next t ∧ exec .faultRingRetry s = .next t ∧
        t.records = rest ∧ t.frwp = s.frwp + 1 ∧ t.frBlocked = false ∧
        ∀ j, j < 64 → (Sparse.get 0 t.mem (pa + j)).toNat = recordWord info launch wgid core / 2 ^ (8 * j) % 256)) ∧
    (∀ value, exec (.faultRingReadIndexWrite value) s = .next { s with frrp := value }) ∧
    (∀ key w, s.wg? key = some w → s.stalled w = true → ∃ t v e, exec (.watchdogExpiry key) s = .next t ∧ t.wg? key = some v ∧ v.parked = some e ∧ e.cls = 16) ∧
    (∀ a value, s.parkedVa (s.agent a).fres.toNat = none →
      let none' := s.updAgent a (fun c => { c with fcmd := 0 })
      exec (.fcmdResumeAtPc a value) s = .next none' ∧ exec (.fcmdResumePast a value) s = .next none' ∧ exec (.fcmdKill a) s = .next none') ∧
    (∀ value w, s.parkedVa (s.agent .host).fres.toNat = some w →
      let done := fun (t : State) => ({ t with hostCsr := { t.hostCsr with fcmd := 0x80000000 } } : State)
      exec (.fcmdResumeAtPc .host value) s = .next (done (s.resume w.key false value)) ∧
      exec (.fcmdResumePast .host value) s = .next (done (s.resume w.key true value)) ∧ exec (.fcmdKill .host) s = .next (done (s.kill w.key))) ∧
    (∀ a num value, csrReadOnly num.toNat = false → csrInRange num.toNat value = true →
      exec (.csrWrite a num value) s = .next (s.csrStore a num.toNat value))) ∧
  (∀ (s : State) (a : Agent),
    let answer := fun (t : State) (v : Nat) => t.updAgent a (fun c => { c with pstat := BitVec.ofNat 32 v })
    (s.preemptTarget a = none → exec (.preemptRequest a) s = .next (answer s 5) ∧ exec (.preemptRestore a) s = .next (answer s 5) ∧
      exec (.preemptKillSaved a) s = .next (answer s 5)) ∧
    (∀ w, s.preemptTarget a = some w → exec (.preemptRequest a) s = .next (s.preempt a) ∧ exec (.preemptRestore a) s = .next (s.restore a) ∧
      (w.preempt ≠ .running → s.preempt a = answer s 6) ∧ (w.preempt ≠ .saved → s.restore a = answer s 6) ∧
      (w.preempt = .running →
        let m := (chooseMethod (s.methods w) (s.agent a).pbound.toNat).1.1
        (m = 0 → ((s.preempt a).wg? w.key).map (fun v => v.preempt) = some .draining) ∧
        (m = 1 → ((s.preempt a).wg? w.key).map (fun v => v.preempt) = some .saving) ∧ (1 < m → (s.preempt a).wg? w.key = none)) ∧
      (w.preempt = .saved → s.restore a = answer ((s.tryRestore w).getD (s.updWg w.key (fun w => { w with restoring := true }))) 0) ∧
      exec (.preemptKillSaved a) s = .next (if w.preempt = .saved ∨ w.parked.isSome = true then answer (s.kill w.key) 7 else answer s 6)) ∧
    (∀ key w, s.wg? key = some w → w.preempt = .saving → s.saveReady w = true → ∃ t v, exec (.preemptSaveDone key) s = .next t ∧ t.wg? key = some v ∧
      v.preempt = .saved ∧ v.saved.isSome = true ∧ ∀ sl ∈ (t.core w.core).slots, sl.wg ≠ key) ∧
    (∀ v, ∃ t, exec (.tlbInvalidate a v) s = .next t ∧ ∀ e, e ∈ t.tlb ↔ e ∈ s.tlb ∧
      ¬ ((v.getLsbD 8 = true ∨ e.1 = v.toNat % 256) ∧
        (v.getLsbD 9 = false ∨ e.2.1 / pageBytes (pte e.2.2 5 2) = (s.agent a).tlbva.toNat / pageBytes (pte e.2.2 5 2)))) ∧
    (∀ v, ∃ t, exec (.launchCounterDisarm v) s = .next t ∧ t.counter (v.toNat % 4096) = {} ∧ ∀ n, n ≠ v.toNat % 4096 → t.counter n = s.counter n) ∧
    (∀ v, v ≠ 0 → v.toNat ≤ 8 → ∃ t, exec (.coveWaysWrite a v) s = .next t ∧
      let die := (s.agent a).csel.toNat / 192
      if s.staged die = true then Sparse.get 0 t.covePending die = v.toNat ∧ t.coveWays = s.coveWays else Sparse.get 1 t.coveWays die = v.toNat))

/-- R419, R428 to R431, R236: this package answers the switch for a group's window, for an operation of its own once for all, or keeps the request until
other packages have sent the window's lines, or acknowledged its store; an operation's answers,
or a member that is silent for 2 µs, are noted, and what can complete completes. R413, R418: a packet that may go applies its next entry. R16, R438: a
flit with a bad check at one of the 32 ports is asked for again, with an entry of kind 4; a good one is taken: a whole packet where its Cove has room,
and a load, a store or an atomic of this package's memory is performed at its home and answered, a barrier request by this package's unit (R19); an answer or a notice of another home is taken; an
acceptance ends its packet. R440 to R442: an acknowledgement
in a good frame leaves unacknowledged only segments that it does not name; its timer sends one; a silent segment is sent again, a silent peer is marked
down. A good frame of a valid peer that its Coves can hold brings its segment once: its packet number is noted, and a segment at the first number
expected moves that on, one below it changes nothing. The channels and their grants, acceptance by a packet's order number, the answer for this package
as its own member, the number taken nearest to the one expected and what a retransmission sends are the model's choices (log 18). -/
def Obligations.FabricEventsComplete : Prop :=
  (∀ (s : State),
    let noted := fun (u : State) (may : MultiOp → Bool) (g : MultiOp → MultiOp) (op : Nat) =>
      (let v : State := { u with multi := u.multi.map (fun m => if m.id = op ∧ may m = true then g m else m) }
       State.finishMultis v.multi.length v)
    (s.linksDown = false → ∀ member group offset width,
      let id := s.nextKey
      let ask := fun (v : MemberAsk) => exec (.multicastMemberRequest member group offset width v) s
      let t : State := { s with nextKey := id + 1 }
      let said := fun (u : State) (a : MemberAnswer) => ({ u with serving := u.serving.filter (fun q => q.id ≠ id) } : State).say (.multicast member a)
      let r : MemberServe := { id := id, member := member, off := offset, width := width }
      let kept := fun (u : State) (r : MemberServe) => ({ u with serving := u.serving ++ [r] } : State)
      let far := t.windowLacks (.member id) (s.group group) offset width 1
      (far = [] → ask .load = .next (said (t.readOver (fun r => decide (r = .member id)))
        (match s.windowRead (s.group group) offset width 1 with | some bytes => .data (ofBytes bytes) | none => .absent))) ∧
      (far ≠ [] → (∀ q ∈ s.serving, q.id ≠ id) → ask .load = .next (kept (t.askLines (.member id) far) { r with group := s.group group })) ∧
      (∀ v,
        let w : State × MemberAnswer :=
          match t.windowWrite (s.group group) offset width (bytesOf width v) [] with | some u => (u, .data 0) | none => (t, .absent)
        let acks := w.1.openStores.filter (fun n => decide (id < n))
        (acks = [] → ask (.store v) = .next (said w.1 w.2)) ∧
        (acks ≠ [] → (∀ q ∈ w.1.serving, q.id ≠ id) → ask (.store v) = .next (kept w.1 { r with answer := some w.2, acks := acks }))) ∧
      (∀ op m, s.multi.find? (fun m => m.id = op) = some m →
        let u := t.serveMember op
        ∀ n, u.multi.find? (fun n => n.id = op) = some n → n.own ≠ [] → (∀ k ∈ n.acks, u.asked k = false) →
          ask (.own op) = .next (said u (((n.own.find? (fun e => e.1 = offset)).map (fun e => e.2)).getD .absent)))) ∧
    (∀ op answers, exec (.multicastResponse op answers) s =
      .next (noted (s.serveMember op) (fun m => m.sent && m.answers.isNone) (fun m => { m with answers := some answers }) op)) ∧
    (∀ op member, (∀ m ∈ s.multi, m.id = op → s.tide.toNat ≥ m.since + 2000) →
      exec (.multicastMemberTimeout op member) s = .next (noted s (fun m => m.sent && m.awaits member) (fun m => { m with missing := insertNat member m.missing }) op)) ∧
    (∀ i p, s.packets[i]? = some p → s.packetGoes p = true → exec (.packetHop i) s = .next (s.hop p)) ∧
    (∀ port item, port < 32 → s.linksDown = false →
      let flit := fun (good : Bool) (i : ColnalItem) => exec (.colnalFlitReceive port good i) s
      flit false item = .next ((({ s with colnalRetries := s.colnalRetries + 1 } : State).log 4 0x3FF 0 0 0 port 0).say (.retry port)) ∧
      (∀ tag bytes poison, s.coveRoom bytes = true → flit true (.packet tag bytes poison) =
        .next (((s.arrivePacket bytes poison).queueFlit port 2 (.accepted tag)).say (.grant port 3))) ∧
      (∀ tag pa n, servedHere pa n = true → flit true (.load tag pa n) =
        .next ((s.queueFlit port 2 (.answer tag (s.mem.read pa n) (s.poisonFrom pa n))).say (.grant port 0))) ∧
      (∀ tag pa comp bytes bad, servedHere pa bytes.length = true → flit true (.store tag pa comp bytes bad) =
        .next (((s.homeWrite .other comp (cellsOf pa bytes) bad).queueFlit port 2 (.answer tag [] [])).say (.grant port 1))) ∧
      (∀ tag pa comp op lanes o, atomicOps[op]? = some o → servedHere pa o.width = true →
        let old := ofBytes (s.mem.read pa o.width)
        (∀ i, i < o.width / 4 → (s.homeRead (pa + 4 * i) 4).2 = false) → flit true (.atomic tag pa comp op lanes) =
          .next (((s.homeWrite .other comp (cellsOf pa (bytesOf o.width (o.group old lanes).2))).queueFlit port 2
            (.answer tag (bytesOf o.width old) [])).say (.grant port 0))) ∧
      (∀ tag bytes poison, flit true (.answer tag bytes poison) = .next ((s.answerRequest tag bytes poison).say (.grant port 2))) ∧
      (∀ pa n, flit true (.written pa n) = .next ((s.writtenFar pa n).say (.grant port 2))) ∧
      (∀ tag (a : BarrierAsk), a.package ≠ Config.package → (∀ x ∈ a.lanes, ∀ p, headerOf x.entries = some p → servedHere p.pa 64 = true) →
        flit true (.barrier tag a) = .next (((s.unit a).2.queueFlit port 2 (.barrierAnswer tag (s.unit a).1)).say (.grant port 0))) ∧
      (∀ tag b, flit true (.barrierAnswer tag b) = .next ((s.unitAnswered tag b).say (.grant port 2))) ∧
      (∀ order, flit true (.accepted order) = .next (s.dropPackets (fun p => p.awaitAck && p.peer.isNone && decide (p.order = order))))) ∧
    (∀ head cumulative bitmap, s.frameGood head = true → ∃ t, exec (.strandSackReceive head cumulative bitmap) s = .next t ∧
      let base := seqNear (s.peer head.peer).nextSeq cumulative
      ∀ e ∈ (t.peer head.peer).unacked, base ≤ e.seq ∧ (e.seq < base + 64 → bitmap.getLsbD (e.seq - base) = false)) ∧
    (∀ peer, (s.peer peer).sinceSack > 0 → s.tide.toNat ≥ (s.peer peer).lastSack + 16000 → exec (.strandSackTimer peer) s = .next (s.sendSack peer)) ∧
    (∀ peer seq, exec (.strandRetransmitTimeout peer seq) s = .next (s.resend peer (fun n => n % 2 ^ 32 = seq % 2 ^ 32))) ∧
    (∀ peer, (s.peer peer).up = true → (s.peer peer).unacked ≠ [] → s.tide.toNat ≥ (s.peer peer).lastAck + 50000000 →
      exec (.strandPeerTimeout peer) s = .next (s.peerDown peer))) ∧
  (∀ (s : State) (frame : StrandFrame) (key : List Byte) (last : Nat),
    let h := frame.head
    let q := s.peer h.peer
    let n := seqNear q.expected frame.seq
    q.valid = true → s.linksDown = false → h.port = entryPort q.entry → h.mac = entryMac q.entry → h.etherType = 0x88B5 → h.checkPasses = true → q.rxKeys[h.association]? = some (key, last) →
    last < h.packetNumber → s.frameFits frame = true →
    ∃ t, exec (.strandFrameReceive frame) s = .next t ∧ (t.peer h.peer).rxKeys[h.association]? = some (key, h.packetNumber) ∧
      (t.peer h.peer).expected ≥ q.expected ∧
      (n = q.expected → (∀ e ∈ q.received, e.seq ≠ n) → (t.peer h.peer).expected > q.expected) ∧
      (n < q.expected → (t.peer h.peer).expected = contiguous q.received (q.received.length + 1) q.expected))

/-- R449, R464, R452, R453, R456, R458, R459, R462, R463, R86: the launch processor's events: a notified queue of a ready, deployed device with room
accepts its packets, each a launch under the next sequence number, and stops on an error otherwise; what became ready is made active, and one restore,
or the admission of the chosen workgroup to its core, follows; a core takes the chunk that it may take; at its start time what waits is looked at; a
workgroup that is done ends and is counted, or delivers its deferred fault; a job and a launch end once what they wait for is over. That a ring-size code of 13 to 15 stops its queue is the model's choice (log 20). -/
def Obligations.LaunchEventsComplete : Prop :=
  ∀ (s : State),
    (∀ queue index table, let u : State := match table with | some (b, n) => { s with queueBase := b, queueCount := n } | none => s
      u.ready = true → u.lifeCycle = .deployed → queue < u.queueCount.toNat →
        let v := u.queueSet queue 20 (bytesOf 4 index.toNat)
        let bits := u.queueField queue 8 1
        let todo := (index.toNat + 2 ^ 32 - u.queueField queue 16 4) % 2 ^ 32
        (u.queueField queue 24 1 % 2 = 0 → bits % 16 < 13 → bits / 64 % 2 = 1 → todo ≤ 2 ^ (bits % 16 + 4) →
          exec (.queueNotify queue index table) s = .next (State.acceptPackets queue todo v)) ∧
        (u.queueField queue 24 1 % 2 = 0 → (bits % 16 ≥ 13 ∨ bits / 64 % 2 = 0 ∨ todo > 2 ^ (bits % 16 + 4)) →
          exec (.queueNotify queue index table) s = .next (v.queueError queue))) ∧
    (exec .workgroupAdmission s = .next (match s.promote.restorable with
      | some t => t
      | none => match s.promote.chosen with | some c => s.promote.admitCandidate c | none => s.promote)) ∧
    (∀ q bytes, (s.acceptPacket q bytes).lseqCounter = s.lseqCounter + 1 ∧ ∃ l, (s.acceptPacket q bytes).launches = s.launches ++ [l] ∧
      l.lseq = s.lseqCounter ∧ l.kind = .packet ∧ l.queue = some q) ∧
    (∀ c, ∃ w ∈ (s.admitCandidate c).wgs, w.launch = c.launch.lseq ∧ w.wgid = c.wgid ∧ w.core = c.core) ∧
    (∀ k slice, s.mayTake k slice = true → exec (.chunkTake k slice) s = .next (s.takeChunk k slice)) ∧
    (∀ value, s.tide.toNat ≥ value → exec (.startTimeReached value) s = .next s.promote) ∧
    (∀ key w, s.wg? key = some w → s.wgDone w = true → w.deferred = [] → ∃ t, exec (.workgroupEnd key) s = .next t ∧ t.wg? key = none ∧
      ∀ l, s.launch? w.launch = some l → ∃ m, t.launch? w.launch = some m ∧ m.ended = l.ended + 1) ∧
    (∀ key w d ds, s.wg? key = some w → s.wgDone w = true → w.deferred = d :: ds → exec (.workgroupEnd key) s = .next (s.deliver w.key d)) ∧
    (∀ n l, s.launch? n = some l → s.jobOver l = true → exec (.jobComplete n) s = .next (s.finishJob l l.failed)) ∧
    (∀ n l, s.launch? n = some l → s.launchOver l = true → exec (.launchComplete n) s =
      .next (((s.signalLaunch l (if l.failed then 2 else 1)).updLaunch n (fun m => { m with done := true, active := false })).predDone n))

/-- R473, R474, R476, R403, R439, R440, R442, R482, R483, R485: the host's accesses and snoops and the management's commands are answered or take
effect: a read gives the bytes at the home with their poison, a write within reach is performed there, an access beyond it is an error; a snooped
line is left clean, and with an exclusive snoop the L2 holds it no more; the host's own store to host memory finds no copy. In recovery the hub answers SPDM and 0x01 and no other command. The layouts of management arguments and answers are the
model's choice (log 15), and so are the error that answers an access beyond installed memory (log 3), and the compressibility class 0 of a host write and the
reads of inactive memory (log 19). -/
def Obligations.HostAndManagementComplete : Prop :=
  ∀ (s : State),
    let reach := fun (pa n : Nat) => hostReaches pa n = true
    let live := fun (pa : Nat) => s.memActive = true ∨ paTier pa = 2
    (∀ pa n, reach pa n → live pa → exec (.cxlMemAccess pa none n) s = .next (s.say (.memRead pa (s.mem.read pa n) (s.homeRead pa n).2))) ∧
    (∀ pa n, reach pa n → ¬ live pa → exec (.cxlMemAccess pa none n) s = .next (s.say (.memRead pa (List.replicate n 0) true))) ∧
    (∀ pa n, ¬ reach pa n → exec (.cxlMemAccess pa none n) s = .next (s.say .error)) ∧
    (∀ pa bytes n, reach pa bytes.length → live pa →
      let t := s.homeWrite .other 0 (cellsOf pa bytes)
      exec (.cxlMemAccess pa (some bytes) n) s = .next (if paTier pa = 2 then
        (distinct ((cellsOf pa bytes).map (fun e => e.1 / 128))).foldl (fun u line => u.cleanHost line true) t else t)) ∧
    (∀ pa bytes n, reach pa bytes.length → ¬ live pa → exec (.cxlMemAccess pa (some bytes) n) s = .next s) ∧
    (∀ pa bytes n, ¬ reach pa bytes.length → exec (.cxlMemAccess pa (some bytes) n) s = .next (s.say .error)) ∧
    (∀ pa exclusive, ∃ t, exec (.cxlCacheSnoop pa exclusive) s = .next t ∧ (∀ e ∈ t.hostDirty, e.1 ≠ pa / 128) ∧ t.mem = s.mem ∧
      (exclusive = true → ∀ e ∈ t.l2, e.line ≠ pa / 128) ∧
      t.outputs = s.outputs ++ [.snoop (pa / 128 * 128) (s.mem.read (pa / 128 * 128) 128) (s.hostDirty.any (fun e => decide (e.1 = pa / 128)))]) ∧
    (∀ die first n, die < Config.dies → exec (.mgmtReadBlackBox die first n) s =
      .next (s.say (.management ((List.range n).flatMap (fun i => bytesOf 32 (s.boxEntry die ((first + i) % 4096))))))) ∧
    (s.recovery = false → ∃ figures : List Nat, figures.length = Config.dies + 2 ∧
      exec .mgmtReadPower s = .next ((s.say (.management (figures.flatMap (bytesOf 4)))).drawn)) ∧
    (s.recovery = false → exec .mgmtReadCounters s =
      .next (s.say (.management ([s.drops, s.colnalRetries, s.strandRetries, s.eccCorrected, s.eccPoisoned].flatMap (bytesOf 8))))) ∧
    (∀ k e, s.recovery = false → k.toNat < 64 → e.length ≥ 8 → entryPort e ≤ 7 → exec (.mgmtWritePeer (k :: e)) s =
      .next (s.updPeer k.toNat (fun p => { p with entry := e, up := p.up || !p.valid, valid := true }))) ∧
    (∀ k d key, s.recovery = false → k.toNat < 64 → d.toNat < 2 → key.length = 32 → exec (.mgmtInstallKey (k :: d :: key)) s = .next (s.updPeer k.toNat (fun p =>
      if d = 0 then { p with txKeys := (key, 1) :: p.txKeys.take 1 } else { p with rxKeys := (key, 0) :: p.rxKeys.take 1 }))) ∧
    (∀ k, s.recovery = false → k < 64 → exec (.mgmtPeerUp k) s = .next (s.updPeer k (fun p => { p with up := true })) ∧
      exec (.mgmtPeerDown k) s = .next (s.peerDown k)) ∧
    (∀ bytes, exec (.spdmMessage bytes) s = .next ((s.say (.spdm (Config.spdmAnswer s.free bytes s.measurements))).drawn)) ∧
    (∀ bytes, s.recovery = false → ∃ b, exec (.mctpControlMessage bytes) s = .next ((s.say (.mctp b)).drawn)) ∧
    (∀ address, exec (.i3cDynamicAddressAssignment address) s = .next { s with i3cAddress := address }) ∧
    (∀ bytes k, s.recovery = true → ∀ i ∈ [Instr.mgmtReadPower, .mgmtReadCounters, .mgmtWritePeer bytes, .mgmtInstallKey bytes, .mgmtPeerUp k, .mgmtPeerDown k,
      .mgmtLifeCycleStep bytes, .mgmtTenantReset, .mgmtWarmReset, .mctpControlMessage bytes], exec i s = .next s)

/-- R478 to R482, R484 to R486, R18, R22: resets, the wipe and its end, life-cycle steps, limits, the scrub and the Tide's synchronisation. Where
the image loads, a cold reset and a tenant reset wipe the package's own memory and no other, and host bytes that only an L2 held are lost; a warm reset
without a life-cycle step keeps it, and one amid a wipe or a bring-up lets it go on; a cold bring-up ends once the wipe is done and the Tide is
synchronised after that, and the ports train when the wipe ends; a warm reset without a wipe, a wipe that ends one, and a thermal trip leave an entry of kind 10 in the black box. An
image that fails to verify, is older than the fused counter, or that the life cycle does not permit leaves the hub in recovery, not ready. The Tide
survives a warm and a tenant reset, and never goes back. That the entries go to die 0's record is the model's choice (log 4), as are the flash images (log 15) and, of log 19, that a warm reset amid a
wipe lets it go on, that a failing image leaves memory unwiped, that a tenant reset checks no image, and that only a cold reset waits for the Tide. Host poison that only an
L2 held is lost with its bytes. -/
def Obligations.ResetsAndUpkeepComplete : Prop :=
  ∀ (s : State),
    let zero := fun (m : Bytes) (t : State) => (∀ a, Sparse.get 0 t.mem a = if ownByte a then 0 else Sparse.get 0 m a) ∧
      (∀ w, ownByte (4 * w) = true → w ∉ t.memPoison) ∧ (∀ b, ownByte (256 * b) = true → Sparse.get 0 t.compCodes b = 0)
    let wiped := fun (t : State) => zero s.hostMemory t ∧ t.memActive = false ∧ t.ready = false ∧ t.wiping = true
    let fresh := fun (t : State) => t.wgs = [] ∧ t.launches = [] ∧ t.cores = [] ∧ t.tlb = [] ∧ t.rdc = [] ∧ t.counters = [] ∧ t.packets = [] ∧ t.links.all (fun e =>
      e.2.queue.all (fun q => q.1 ≠ 3)) = true
    let loads := fun (f : Firmware) (c : LifeCycle) => f.verifies = true ∧ f.version ≥ s.rollback ∧ f.permits.contains c.code = true
    let after := s.lifeCyclePending.getD s.lifeCycle
    let image := s.flash.headD s.firmware
    let logged := fun (now : BitVec 64) (t : State) => (Sparse.get [] t.blackBox 0).head? = some (blackBoxEntry now.toNat 10 0x3FF 0 0 0 0 0)
    let fails := fun (t : State) => t.recovery = true ∧ t.ready = false ∧ t.memActive = false
    let warm := fun (i : Instr) => (i = .mgmtWarmReset → s.recovery = false) → ∃ t, exec i s = .next t ∧ fresh t ∧ t.tide = s.tide ∧ t.peers = [] ∧ t.lifeCycle = after ∧
      t.lifeCyclePending = none ∧
      (loads s.firmware after →
        (s.lifeCyclePending.isSome = true → wiped t) ∧
        (s.lifeCyclePending = none → t.mem = s.hostMemory ∧ t.memPoison = s.keptPoison ∧ t.wiping = s.wiping ∧ t.untimed = s.untimed) ∧
        (s.lifeCyclePending = none → s.wiping = false → s.untimed = false → t.ready = true ∧ t.memActive = true ∧ logged s.tide t) ∧
        (s.lifeCyclePending = none → (s.wiping = true ∨ s.untimed = true) → t.memActive = false ∧ t.ready = false)) ∧
      (¬ loads s.firmware after → fails t ∧ t.mem = s.hostMemory)
    (∃ t, exec .coldReset s = .next t ∧ fresh t ∧ t.blackBox = [] ∧ t.peers = [] ∧ t.firmware = image ∧ t.untimed = true ∧
      t.lifeCycle = s.lifeCycle ∧ t.lifeCyclePending = s.lifeCyclePending ∧
      (loads image s.lifeCycle → wiped t ∧ t.recovery = false) ∧ (¬ loads image s.lifeCycle → fails t)) ∧
    (s.recovery = false → ∃ t, exec .mgmtTenantReset s = .next t ∧ fresh t ∧ wiped t ∧ t.tide = s.tide ∧ t.lifeCycle = s.lifeCycle ∧ t.blackBox = s.blackBox ∧
      ∀ k, (t.peer k).entry = (s.peer k).entry ∧ (t.peer k).txKeys = (s.peer k).txKeys ∧ (t.peer k).rxKeys = (s.peer k).rxKeys) ∧
    warm .mgmtWarmReset ∧ warm .cxlConventionalReset ∧
    (∃ t, exec .thermalTrip s = .next t ∧ fresh t ∧ logged s.tide t ∧ t.firmware = image ∧ t.untimed = true ∧ t.i3cAddress = 0 ∧
      (loads image s.lifeCycle → wiped t) ∧ (¬ loads image s.lifeCycle → fails t)) ∧
    (∃ t, exec .powerRemoved s = .next t ∧ fresh t ∧ zero s.hostMemory t ∧ t.powered = false ∧ t.ready = false ∧ t.lifeCycle = s.lifeCycle) ∧
    (s.wiping = true → ∃ t, exec .wipeDone s = .next t ∧ t.wiping = false ∧ t.linksDown = false ∧ t.mem = s.mem ∧ Output.msix 3 ∈ t.outputs ∧
      (s.untimed = false → t.memActive = true ∧ t.ready = true ∧ (s.ready = false → logged s.tide t)) ∧
      (s.untimed = true → t.memActive = s.memActive ∧ t.ready = s.ready)) ∧
    (∀ n, s.recovery = false → s.lifeCyclePending = none → s.nextLife = some n → ∃ t, exec (.mgmtLifeCycleStep []) s = .next t ∧
      t.lifeCyclePending = some n ∧ t.lifeCycle = s.lifeCycle ∧ t.peers = [] ∧ zero s.mem t ∧ t.memActive = false) ∧
    (s.lifeCycle = .manufacture → s.identityKey = false → s.nextLife = none) ∧
    (∀ block, ∃ t, exec (.blockLocalLimit block) s = .next t ∧ block ∈ t.limited ∧ t.mem = s.mem ∧ t.wgs = s.wgs ∧ t.cores = s.cores) ∧
    (∀ errors, exec (.patrolScrub errors) s = .next (errors.foldl State.softError s)) ∧
    (∀ pa, servedHere pa 1 = true → Sparse.get 0 s.compCodes (pa / 256) = 0 → ∀ w, w / 8 = pa / 32 →
      ∃ t, exec (.patrolScrub [{ place := .memory pa, beyond := true }]) s = .next t ∧ w ∈ t.memPoison ∧ t.mem = s.mem ∧ t.eccPoisoned = s.eccPoisoned + 1) ∧
    (∀ value, ∃ t, exec (.tideSynchronisation value) s = .next t ∧
      let now := if s.tide.toNat ≤ value.toNat then value else s.tide
      t.tide = now ∧ t.untimed = (s.untimed && (s.wiping || s.recovery)) ∧ t.mem = s.mem ∧
      ((s.untimed = false ∨ s.wiping = true ∨ s.recovery = true) → t = { s with tide := now }) ∧
      (s.untimed = true → s.wiping = false → s.recovery = false → s.ready = false → t.ready = true ∧ t.memActive = true ∧ logged now t))

/-- R260, R262, R266, R281, R312, R390, R393, R399, R400, R449, R462, R478: every event of a unit, a timer, the launch processor, the fabric, the host and
management takes effect in the states in which it may come about: a next state, and what the event is for. The layouts of the management arguments and the flash
images are log 15's and the grant on a port's channel is log 18's: model's choices. -/
def Obligations.EventsTakeEffect : Prop :=
  ∀ (s : State),
    let leads := fun (i : Instr) (p : State → Prop) => ∃ t, exec i s = .next t ∧ p t
    let fibre := fun (t : State) (key i : Nat) => (t.wg? key).bind (fun w => w.fibre? i)
    let runs := fun (key i : Nat) (t : State) => (fibre t key i).map (fun y => y.wait) = some .run
    let transfers := fun (k : Nat) (o : Option Transfer) (t : State) => (t.core k).transfer = o
    let said := fun (o : Output) (t : State) => o ∈ t.outputs
    let pstat := fun (a : Agent) (v : Nat) (t : State) => (t.agent a).pstat = BitVec.ofNat 32 v
    (∀ w h rest x, s.wg? w.key = some w → w.parked = none → w.preempt = .running → (s.core w.core).transfer = none → w.queue = h :: rest →
      w.fibre? h = some x → s.freeContext w x = true →
      leads (.rotationDecision w.core w.key) (transfers w.core (some { wg := w.key, fibre := h, save := false }))) ∧
    (∀ w tr, s.wg? w.key = some w → w.parked = none → w.preempt = .running → (s.core w.core).transfer = none → s.rotation w true = some tr →
      leads (.rotationQuantumExpiry w.core w.key) (transfers w.core (some tr))) ∧
    (∀ k tr, (s.core k).transfer = some tr → (tr.save = true ∨ s.recordLacks tr = []) → leads (.rotationTransferDone k) (transfers k none)) ∧
    (∀ i r w l, s.barrierQ[i]? = some r → s.wg? r.wg = some w → s.launch? w.launch = some l → w.refused? r = none →
      leads (.barrierUnitRequest i) (fun t =>
        t = (State.arAcquired { s with barrierQ := listDrop s.barrierQ i } r w).serveBarrier { r with acquires := false } w l)) ∧
    (∀ key i x, fibre s key i = some x →
      (x.wait = .spinning → leads (.spinTimeout key i) (runs key i)) ∧
      (x.wait = .twait → x.deadline ≤ s.tide.toNat → leads (.tideTargetReached key i) (runs key i)) ∧
      (x.wait = .waitw → leads (.waitwReread key i) (fun t => t = s.waitwAgain key i)) ∧
      (x.wait = .waitw → s.tide.toNat ≥ x.deadline → leads (.waitwDeadline key i) (fun t => t = s.waitwAgain key i)) ∧
      (x.wait = .swwait → (s.syncRead (x.waitKey / 2 ^ 18) (x.waitKey % 2 ^ 18)).count ≠ 0 →
        leads (.swwaitReread key i) (fun t => (fibre t key i).map (fun y => (y.wait, y.waitSince)) = some (.swwait, s.tide.toNat)))) ∧
    (∀ k n e w l, (s.core k).copyQ.find? (fun e => e.entry = n) = some e → s.wg? e.wg = some w → s.launch? w.launch = some l →
      (s.entryProceeds k e = true → e.kind = .psend → leads (.copyUnitGrant k n) (fun t => t = (s.updCore k (fun c => { c with copyLast := n })).grantPsend e w l)) ∧
      (s.copyFinished e = true → leads (.engineOpComplete k n) (fun t => t = s.completeCopy e w l))) ∧
    (∀ k e w l step, (s.core k).easelUnit = none → s.easelNext k = some e → s.wg? e.wg = some w → s.launch? w.launch = some l → e.nextStep w = some step →
      leads (.easelUnitStart k) (fun t => (t.core k).easelUnit = some (s.unitOf e w l step))) ∧
    (∀ k u e, (s.core k).easelUnit = some u → (s.core k).easelQ.find? (fun e => e.entry = u.entry) = some e →
      leads (.easelUnitEnd k) (fun t => (t.core k).easelUnit = none)) ∧
    (∀ r rest at', s.records = r :: rest → s.ringEntry = some at' → s.handlerLacks r.2.2.2.2 r.1.cls = [] → leads .faultRecordWrite (fun t => t.records = rest ∧ t.frwp = s.frwp + 1) ∧
      leads .faultRingRetry (fun t => t.records = rest ∧ t.frwp = s.frwp + 1)) ∧
    (∀ v, leads (.faultRingReadIndexWrite v) (fun t => t.frrp = v)) ∧
    (∀ key w, s.wg? key = some w → s.stalled w = true → leads (.watchdogExpiry key) (fun t => (t.parkedWg key).map (fun e => e.cls) = some 16)) ∧
    (∀ v w, s.parkedVa (s.agent .host).fres.toNat = some w →
      leads (.fcmdResumeAtPc .host v) (fun t => t.hostCsr.fcmd = 0x80000000) ∧ leads (.fcmdResumePast .host v) (fun t => t.hostCsr.fcmd = 0x80000000) ∧
      leads (.fcmdKill .host) (fun t => t.hostCsr.fcmd = 0x80000000 ∧ t.wg? w.key = none)) ∧
    (∀ w, s.preemptTarget .host = some w →
      (w.preempt = .running → leads (.preemptRequest .host) (fun t => (t.wg? w.key).map (fun v => v.preempt) ≠ some .running)) ∧
      (w.preempt = .saved → leads (.preemptRestore .host) (pstat .host 0)) ∧ (w.preempt = .saved → leads (.preemptKillSaved .host) (pstat .host 7))) ∧
    (∀ w, s.wg? w.key = some w → w.preempt = .saving → s.saveReady w = true → leads (.preemptSaveDone w.key) (fun t =>
      (t.wg? w.key).map (fun v => v.preempt) = some .saved)) ∧
    (∀ v, leads (.csrWrite .host 0x021 (v.zeroExtend 32)) (fun t => t.wdog = (v : BitVec 16).zeroExtend 32)) ∧
    (∀ a v, v.getLsbD 8 = true → v.getLsbD 9 = false → leads (.tlbInvalidate a v) (fun t => t.tlb = [])) ∧
    (∀ v, leads (.launchCounterDisarm v) (fun t => t.counter (v.toNat % 4096) = {})) ∧
    (∀ a v, v ≠ 0 → v.toNat ≤ 8 → s.staged ((s.agent a).csel.toNat / 192) = false →
      leads (.coveWaysWrite a v) (fun t => Sparse.get 1 t.coveWays ((s.agent a).csel.toNat / 192) = v.toNat)) ∧
    (∀ member group off width bytes, s.linksDown = false → s.windowLacks (.member s.nextKey) (s.group group) off width 1 = [] →
      s.windowRead (s.group group) off width 1 = some bytes →
      leads (.multicastMemberRequest member group off width .load) (said (.multicast member (.data (ofBytes bytes))))) ∧
    (∀ i p, s.packets[i]? = some p → s.packetGoes p = true → leads (.packetHop i) (fun t => t = s.hop p)) ∧
    (∀ port tag pa n, port < 32 → s.linksDown = false → servedHere pa n = true → leads (.colnalFlitReceive port true (.load tag pa n)) (said (.grant port 0))) ∧
    (∀ q, (s.peer q).sinceSack > 0 → s.tide.toNat ≥ (s.peer q).lastSack + 16000 → (s.peer q).txKeys ≠ [] → leads (.strandSackTimer q) (fun t => (t.peer q).sinceSack = 0)) ∧
    (∀ q, (s.peer q).up = true → (s.peer q).unacked ≠ [] → s.tide.toNat ≥ (s.peer q).lastAck + 50000000 →
      leads (.strandPeerTimeout q) (fun t => (t.peer q).up = false ∧ (t.peer q).unacked = [])) ∧
    (∀ q seq, leads (.strandRetransmitTimeout q seq) (fun t => t = s.resend q (fun n => n % 2 ^ 32 = seq % 2 ^ 32))) ∧
    (∀ f, s.frameGood f.head = true → s.frameFits f = true → leads (.strandFrameReceive f) (fun t => (t.peer f.head.peer).expected ≥ (s.peer f.head.peer).expected)) ∧
    (∀ h n, s.frameGood h = true → leads (.strandSackReceive h n (BitVec.allOnes 64)) (fun t =>
      ∀ e ∈ (t.peer h.peer).unacked, e.seq ≥ seqNear (s.peer h.peer).nextSeq n + 64)) ∧
    (∀ m, s.multi = [m] → m.load = true → m.sent = true → m.answers = none → m.lanes ≠ [] → s.requests = [] → s.ownLacks m = [] → (∀ answers, leads (.multicastResponse m.id answers) (fun t => t.multi = [])) ∧
      (s.tide.toNat ≥ m.since + 2000 → m.members.length = 1 → leads (.multicastMemberTimeout m.id 0) (fun t => t.multi = []))) ∧
    (∀ q v, s.ready = true → s.lifeCycle = .deployed → q < s.queueCount.toNat → s.queueField q 24 1 % 2 = 0 → s.queueField q 8 1 % 16 < 13 →
      s.queueField q 8 1 / 64 % 2 = 1 →
      let todo := (v.toNat + 2 ^ 32 - s.queueField q 16 4) % 2 ^ 32
      todo ≤ 2 ^ (s.queueField q 8 1 % 16 + 4) →
      leads (.queueNotify q v none) (fun t => t = State.acceptPackets q todo (s.queueSet q 20 (bytesOf 4 v.toNat)))) ∧
    (s.promote.restorable = none → ∀ c, s.promote.chosen = some c → leads .workgroupAdmission (fun t => t = s.promote.admitCandidate c)) ∧
    (∀ k slice, s.mayTake k slice = true → leads (.chunkTake k slice) (fun t => t = s.takeChunk k slice)) ∧
    (∀ v, s.tide.toNat ≥ v → leads (.startTimeReached v) (fun t => t = s.promote)) ∧
    (∀ key w, s.wg? key = some w → s.wgDone w = true → w.deferred = [] → leads (.workgroupEnd key) (fun t => t.wg? key = none)) ∧
    (∀ n l, s.launch? n = some l →
      (s.jobOver l = true → leads (.jobComplete n) (fun t => (t.launch? n).map (fun m => m.done) = some true)) ∧
      (s.launchOver l = true → leads (.launchComplete n) (fun t => (t.launch? n).map (fun m => m.done) = some true))) ∧
    (∀ pa n, hostReaches pa n = true → s.memActive = true → leads (.cxlMemAccess pa none n) (said (.memRead pa (s.mem.read pa n) (s.homeRead pa n).2))) ∧
    (∀ pa b, leads (.cxlCacheSnoop pa b) (fun t => ∀ e ∈ t.hostDirty, e.1 ≠ pa / 128)) ∧
    (∀ n, leads (.mgmtReadBlackBox 0 n 1) (said (.management (bytesOf 32 (s.boxEntry 0 (n % 4096)))))) ∧
    (s.recovery = false →
      leads .mgmtReadPower (fun t => t.outputs ≠ s.outputs) ∧ leads .mgmtReadCounters (fun t => t.outputs ≠ s.outputs) ∧
      leads (.mgmtWritePeer (0 :: List.replicate 8 0)) (fun t => (t.peer 0).valid = true) ∧
      leads (.mgmtInstallKey (0 :: 0 :: List.replicate 32 0)) (fun t => (t.peer 0).txKeys.head? = some (List.replicate 32 0, 1)) ∧
      leads (.mgmtPeerUp 0) (fun t => (t.peer 0).up = true) ∧ leads (.mgmtPeerDown 0) (fun t => (t.peer 0).up = false) ∧
      (∀ b, leads (.mctpControlMessage b) (fun t => t.outputs ≠ s.outputs)) ∧
      leads .mgmtTenantReset (fun t => t.wgs = [] ∧ t.wiping = true) ∧ leads .mgmtWarmReset (fun t => t.wgs = [] ∧ t.tide = s.tide) ∧
      (s.lifeCyclePending = none → s.lifeCycle = .deployed → leads (.mgmtLifeCycleStep []) (fun t => t.lifeCyclePending = some .returned))) ∧
    (∀ b, leads (.spdmMessage b) (fun t => t.outputs ≠ s.outputs)) ∧
    (∀ v, leads (.i3cDynamicAddressAssignment v) (fun t => t.i3cAddress = v)) ∧
    leads .coldReset (fun t => t.wgs = [] ∧ t.firmware = s.flash.headD s.firmware) ∧ leads .cxlConventionalReset (fun t => t.wgs = [] ∧ t.tide = s.tide) ∧
    leads .thermalTrip (fun t => t.wgs = []) ∧ leads .powerRemoved (fun t => t.powered = false) ∧
    (s.wiping = true → s.untimed = false → leads .wipeDone (fun t => t.wiping = false ∧ t.memActive = true ∧ t.ready = true)) ∧
    (∀ b, leads (.blockLocalLimit b) (fun t => b ∈ t.limited)) ∧ (∀ e, leads (.patrolScrub [e]) (fun t => t = s.softError e)) ∧
    (∀ v, s.tide.toNat ≤ v.toNat → leads (.tideSynchronisation v) (fun t => t.tide = v))

/-! The machine. -/

/-- R3: bits [7:0] of a word of memory are the byte at its address and bits [31:24] the byte at its address + 3; the low half of a 64-bit value is
the word at the lower address; of a register pair the even register holds the low half, read and written. -/
def Obligations.LittleEndian : Prop :=
  (∀ (m : Bytes) (a j : Nat), j < 4 → ((m.word a).toNat / 2 ^ (8 * j) % 256 = (Sparse.get 0 m (a + j)).toNat)) ∧
  (∀ (m : Bytes) (a : Nat), (m.dword a).toNat = (m.word a).toNat + (m.word (a + 4)).toNat * 2 ^ 32) ∧
  (∀ (c : Ctx) (x : Fibre) (code : BitVec 9), code.toNat % 2 = 0 → code.toNat < 0x0F0 →
    src64 c x code = src32 c x (code + 1) ++ src32 c x code) ∧
  (∀ (c : Ctx) (x : Fibre) (code : BitVec 9) (v : DWord), code.toNat % 2 = 0 → code.toNat < 0x0F0 → x.early = [] →
    src32 c (x.set64 code v) code = v.extractLsb' 0 32 ∧ src32 c (x.set64 code v) (code + 1) = v.extractLsb' 32 32)

/-- R25: sequential flow goes from a slot to the next of its line, from slot 4 to slot 0 of the line 64 bytes on, and a batch that enters a line
so needs no target bit of it. -/
def Obligations.SequentialFlow : Prop :=
  (∀ pc : BitVec 64, pcLegal pc = true → pcSlot pc < 4 → pcLine (seqPc pc) = pcLine pc ∧ pcSlot (seqPc pc) = pcSlot pc + 1 ∧ pcLegal (seqPc pc) = true) ∧
  (∀ pc : BitVec 64, pcLegal pc = true → pcSlot pc = 4 →
    pcLine (seqPc pc) = (pcLine pc + 64) % 2 ^ 57 ∧ pcSlot (seqPc pc) = 0 ∧ pcLegal (seqPc pc) = true) ∧
  (∀ (w : Workgroup) (sl : Slot) (x : Fibre) (b : BitVec 512), lineFault b = none → (∀ y ∈ w.fibres, y.index ∈ sl.lanes → y.fresh = false) →
    lineEntryFault w sl x (.ok b) = none)

/-- R184: an address is canonical when bits [63:57] all equal bit 56; one that is not is a translation fault of cause 6, whatever the tables, the
TLBs and the memory hold. -/
def Obligations.NonCanonicalAddressFaults : Prop :=
  ∀ (s : State) (space va : Nat), va < 2 ^ 64 →
    (canonical va = true ↔ ∀ i, 57 ≤ i → i < 64 → va.testBit i = va.testBit 56) ∧
    (canonical va = false → s.translate space va = .error 6 ∧
      ∀ core w kernel width perms, s.place core w kernel 0 space va width perms = .error ⟨10, 6⟩)

/-- R229: `PHASE.AR` at a scope performs `PHASE.REL` and then `PHASE.ACQ` at that scope, as one instruction: what it leaves is what the two leave,
one after the other, but for the one PC that it moves on; where other packages have still to acknowledge stores of its release, its batch holds for
them with the acquire to follow (log 18). -/
def Obligations.PhaseArIsReleaseThenAcquire : Prop :=
  ∀ (f : Fields) (s : State) (c : Ctx), Issues (.phaseAr f) s c → c.heldFault = none →
    let scope := c.f.mods.toNat % 8
    let r := s.release c.core scope
    (r.openStores = [] → exec (.phaseAr f) s = .next ((r.acquire c.core scope).updLanes c Fibre.next) ∧
      (∀ d, Issues (.phaseRel f) s d → exec (.phaseRel f) s = .next (r.updLanes c Fibre.next)) ∧
      (∀ d, Issues (.phaseAcq f) s d → s.openAtomics c.wg.key c.lanes = [] →
        exec (.phaseAcq f) s = .next ((s.acquire c.core scope).updLanes c Fibre.next))) ∧
    (r.openStores ≠ [] →
      exec (.phaseAr f) s = .next ((r.holdFor c.wg.key c.lanes r.openStores (some scope)).updLanes c Fibre.next) ∧
      (∀ d, Issues (.phaseRel f) s d → exec (.phaseRel f) s = .next ((r.holdFor c.wg.key c.lanes r.openStores none).updLanes c Fibre.next)))

/-- R109: the special registers of the batch, the fibre and the launch, as a 32-bit source reads them. R34 to R37: what the operand codes name:
`vz` reads as zero and discards what is written to it, alone and as a pair; the constants c0 to c39 are the integers -8 to 31, sign-extended to 64
bits; a scalar register is its home warp's. -/
def Obligations.OperandsRead : Prop :=
  (∀ (c : Ctx) (x : Fibre),
    let sr := fun (n : Nat) => src32 c x (BitVec.ofNat 9 (0x180 + n))
    let nat := fun (v : Nat) => BitVec.ofNat 32 v
    sr 0 = nat (x.index % 32) ∧ sr 1 = nat x.index ∧ sr 2 = nat (x.index / 32) ∧ sr 13 = nat c.wg.wgid ∧ sr 14 = nat c.core ∧ sr 15 = nat (c.core / 192) ∧
    sr 19 = nat x.allot ∧ sr 22 = nat c.launch.lseq ∧ sr 26 = laneMask c.lanes ∧ (sr 28).toNat = c.wg.fflags.toNat ∧ (sr 29).toNat = c.launch.traps.toNat ∧
    sr 30 = nat c.kernel.cap ∧ src64 c x 0x194 = nat (c.wg.args / 2 ^ 32) ++ nat c.wg.args ∧ src64 c x 0x198 = c.cyc) ∧
  (∀ (c : Ctx) (x : Fibre) (n : Nat),
    (src32 c x 0x0F0 = 0 ∧ src64 c x 0x0F0 = 0) ∧
    (∀ (code : BitVec 9) v w, 0x0F0 ≤ code.toNat → x.set32 code v = x ∧ x.set64 code w = x) ∧
    (n < 40 → (src32 c x (BitVec.ofNat 9 (0x100 + n))).toInt = (n : Int) - 8 ∧ (src64 c x (BitVec.ofNat 9 (0x100 + n))).toInt = (n : Int) - 8) ∧
    (40 ≤ n → n < 56 → src32 c x (BitVec.ofNat 9 (0x100 + n)) = BitVec.ofNat 32 ((n + 79) * 2 ^ 23)) ∧
    (n < 64 → src32 c x (BitVec.ofNat 9 (0x140 + n)) = Sparse.get 0 c.wg.scalars (c.hwarp * 64 + n)) ∧
    (∀ v, n < 240 → x.early = [] → src32 c (x.set32 (BitVec.ofNat 9 n) v) (BitVec.ofNat 9 n) = v ∧
      ∀ m, m < 240 → m ≠ n → src32 c (x.set32 (BitVec.ofNat 9 n) v) (BitVec.ofNat 9 m) = src32 c x (BitVec.ofNat 9 m)))

/-- R30, R61: decoding the word of an instruction gives it back, whatever its fields. -/
def Obligations.DecodeOfEncode : Prop :=
  ∀ (i : Instr) (word : BitVec 96), encode i = some word → decodeWord word = .ok i

/-- R30, R60: a word that decodes is the word of its instruction, so no bit of it is dropped; one of the opcodes that R60 does not assign is
refused by name; 288 values of the 512 decode. -/
def Obligations.EncodeOfDecode : Prop :=
  (∀ (word : BitVec 96) (i : Instr), decodeWord word = .ok i → encode i = some word) ∧
  (∀ (word : BitVec 96) (e : DecodeError), decodeWord word = .error e → e = .illegalOpcode (word.toNat / 2 ^ 87)) ∧
  ((List.range 512).filter (fun op => (ofOpcode op (fieldsOf 0)).isSome)).length = 288

/-- R30, R61: words written out from the encoding tables decode to the instructions they stand for. -/
def Obligations.WordsDecode : Prop :=
  let reads := fun (word : BitVec 96) (ctor : Fields → Instr) => decodeWord word = .ok (ctor (fieldsOf word))
  reads 0x080000402612000000000000 .iadd ∧ reads 0x3B1000682A600E0000000000 .fmac ∧ reads 0x058000000000000000000000 .nop ∧
  reads 0x0082400000000000FFFFFFE8 .bra ∧ reads 0x51800010061200000000FFFF .xlnAdd ∧ reads 0x590000502000000200000000 .ldG ∧
  reads 0x6A8000000000000E00000000 .ord ∧ reads 0x6B000020080C000000000008 .atomAdd ∧ reads 0x8802000008080A00400003F0 .cpy ∧
  (fieldsOf 0x080000402612000000000000).dst = 8 ∧ (fieldsOf 0x080000402612000000000000).srcA = 9 ∧ (fieldsOf 0x080000402612000000000000).srcB = 0x109

/-- R60, R32, R49: an instruction that fails steps 2 to 6 of R49 parks its workgroup with the first failure and has no other effect: an illegal
opcode with class 1 before an illegal operand with class 5 before all others; after `ORD` an instruction that is not a load, store or atomic is
illegal too. The cases of a lane partition under compat16 and of `TZIP`, whose rows depend on the batch, are those rows with their conditions. -/
def Obligations.IllegalFormsPark : Prop :=
  (∀ (i : Instr) (op : BitVec 9) (f : Fields) (sh : Shape) (s : State) (c : Ctx), i.opcode = some op → i.fields = some f → shapeOf i = some sh →
    (∀ g, i ≠ .part g) → (∀ g, i ≠ .tzip g) → Ctx.of? s op.toNat f = some c →
    (∀ e, c.ord = none → checkIssue op.toNat sh c = some e → exec i s = .next (s.parkBatch c e) ∧
      (sh.illegalOpcode f = true → e.cls = 1) ∧ (∀ code, sh.illegalOpcode f = false → sh.illegalOperand f = some code → e.cls = 5)) ∧
    (c.ord.isSome = true → prefixable op.toNat = false → ∃ e, e.cls = 1 ∧ e.pc = c.pc ∧ exec i s = .next (s.parkBatch c e))) ∧
  (∀ (f : Fields) (s : State) (c : Ctx) (e : FaultInfo), Ctx.of? s 0x0A0 f = some c → c.ord = none →
    checkIssue 0x0A0 { Shape.part f with badOpcode := c.compat16 } c = some e → exec (.part f) s = .next (s.parkBatch c e)) ∧
  (∀ (f : Fields) (s : State) (c : Ctx) (e : FaultInfo), Ctx.of? s 0x144 f = some c → c.ord = none →
    checkIssue 0x144 (.tzip f (c.handleBrush.any (fun b => b.arity = 1))) c = some e → exec (.tzip f) s = .next (s.parkBatch c e))

/-- R384, R385: a fault raised for a workgroup parks it: it holds the fault, none of its fibres issues, the record joins the queue of the fault
ring, every register, predicate and PC, every byte of memory and everything on the cores stays, and other workgroups stay; a workgroup already
parked keeps its record. -/
def Obligations.FaultParksItsWorkgroup : Prop :=
  ∀ (s : State) (key : Nat) (info : FaultInfo) (w : Workgroup), s.wg? key = some w →
    (w.parked.isSome = true → s.park key info = s) ∧
    (w.parked = none → ∃ v, (s.park key info).wg? key = some v ∧ v.parked = some info ∧
      (s.park key info).records = s.records ++ [(info, w.launch, w.wgid, w.core, key)] ∧
      v.fibres.map (fun x => (x.index, x.pc, x.regs, x.preds, x.allot, x.wait)) = w.fibres.map (fun x => (x.index, x.pc, x.regs, x.preds, x.allot, x.wait)) ∧
      v.queue = w.queue ∧ v.rendezvous = w.rendezvous ∧ v.streams = w.streams ∧ v.deferred = w.deferred ∧
      (s.park key info).mem = s.mem ∧ (s.park key info).cores = s.cores ∧ (∀ k, k ≠ key → (s.park key info).wg? k = s.wg? k) ∧
      ∀ k sl, sl.wg = key → (s.park key info).slotReady k sl = false)

/-- R386, R387: the fields of a record's common header, and its bytes 24 to 63. -/
def Obligations.RecordFields : Prop :=
  ∀ (e : FaultInfo) (launch wgid core : Nat),
    let r := recordWord e launch wgid core
    let field := fun (lo n : Nat) => r / 2 ^ lo % 2 ^ n
    r < 2 ^ 512 ∧ field 0 64 = e.pc.toNat ∧ field 64 32 = launch % 2 ^ 32 ∧ field 96 32 = wgid % 2 ^ 32 ∧ field 128 12 = e.fibre % 2 ^ 12 ∧
    field 140 6 = e.cls % 2 ^ 6 ∧ field 146 8 = e.cause % 2 ^ 8 ∧ field 154 5 = e.flags.toNat ∧ field 159 3 = e.slotNo % 8 ∧
    field 162 1 = e.prefixed.toNat ∧ field 163 1 = e.deferred.toNat ∧ field 164 10 = core % 2 ^ 10 ∧ field 174 6 = e.brush % 64 ∧
    field 180 1 = e.whichBrush % 2 ∧ field 181 5 = e.opIndex % 32 ∧ field 186 2 = e.subCause % 4 ∧ field 188 4 = e.layout % 16 ∧
    field 192 320 = e.body % 2 ^ 320

/-- R394: the resumption of a workgroup parked with a synchronous fault of a single instruction that is no deadlock and no watchdog fault: at its
PC every fibre stands where it stood; past it the fibres of the batch stand at the sequential successor; a `SYSC` with write-value gives its
participants the value. -/
def Obligations.ResumptionGoesOn : Prop :=
  ∀ (s : State) (key : Nat) (w : Workgroup) (e : FaultInfo) (past : Bool) (value : Option Word) (x : Fibre),
    s.wg? key = some w → w.parked = some e → w.fibre? x.index = some x → e.deferred = false → e.site = none → e.span = 1 → e.retry = none →
    e.cls ≠ 16 → e.reach = none → w.deferred = [] → (∀ y ∈ w.fibres, y.wait ≠ .waitc) → x.pc = e.pc →
    ∃ v y, (s.resume key past value).wg? key = some v ∧ v.parked = none ∧ v.fibre? x.index = some y ∧
      y.pc = (if past = true ∧ x.index ∈ e.lanes then slotsAfter x.pc 1 else x.pc) ∧ y.preds = x.preds ∧
      (∀ n, Sparse.get 0 y.regs n = match value with
        | some b => if e.cls = 20 ∧ x.index ∈ e.parts ∧ e.dst < 240 ∧ n = e.dst then b else Sparse.get 0 x.regs n
        | none => Sparse.get 0 x.regs n)

/-- R395: `FKILL` ends its workgroup: nothing of it is left among the workgroups, the slots, the queues and the loads of its core or the requests
that wait for the barrier unit, its engines' among them; its launch is marked failed and counts one more ended workgroup. That a record of it that still waits
for the fault ring is removed from `records` is the model's choice (log 24). -/
def Obligations.KillEndsTheWorkgroup : Prop :=
  ∀ (s : State) (key : Nat) (w : Workgroup), s.wg? key = some w →
    let t := s.kill key
    t.wg? key = none ∧ (∀ sl ∈ (t.core w.core).slots, sl.wg ≠ key) ∧ (∀ e ∈ (t.core w.core).copyQ, e.wg ≠ key) ∧
    (∀ e ∈ (t.core w.core).easelQ, e.wg ≠ key) ∧ (∀ p ∈ (t.core w.core).loads, p.wg ≠ key) ∧ (∀ r ∈ t.barrierQ, r.wg ≠ key) ∧
    (∀ r ∈ t.records, r.2.2.2.2 ≠ key) ∧
    ∀ l, s.launch? w.launch = some l → ∃ m, t.launch? w.launch = some m ∧ m.failed = true ∧ m.ended = l.ended + 1

/-- R25, R31, R34, R144: what a register instruction leaves as it was, when its workgroup is not parked by it: every register outside its
destination and every predicate outside its destination predicates in the lanes that pass the guard, all of them in the others and in the fibres
outside the batch; the scalars but the one that `MOVS` names, the partition and the counters of its workgroup; every other workgroup; every byte of
memory; everything on the cores. Of the floating-point flags an integer, move, comparison or unpacking instruction changes none but a `MOV` to
`sr.fflags`, and a floating-point or conversion instruction clears none. -/
def Obligations.RegisterInstructionsKeepTheRest : Prop :=
  ∀ (f : Fields) (s t : State) (c : Ctx),
    let words : List Instr := [.iadd f, .isub f, .iaddSat f, .isubSat f, .imul f, .imulHiS f, .imulHiU f, .imad f, .iabs f, .iminS f, .iminU f, .imaxS f,
      .imaxU f, .shl f, .shrU f, .shrS f, .rotL f, .rotR f, .and f, .or f, .xor f, .not f, .tern f, .bfxU f, .bfxS f, .bfi f, .popc f, .clz f, .brev f,
      .sel f, .lea32 f, .pmovP2v f, .cvtUp f, .cvtI2i f, .bsclGet f, .bsclGet32 f, .fcls f, .fclsF64 f, .fclsF16x2 f, .fclsBf16x2 f]
    let pairs : List Instr := [.iadd64 f, .isub64 f, .imulWideS f, .imulWideU f, .imul64 f, .imadWideS f, .imadWideU f, .imad64 f, .iabs64 f, .iminS64 f,
      .iminU64 f, .imaxS64 f, .imaxU64 f, .shl64 f, .shrU64 f, .shrS64 f, .sel64 f, .mov64 f, .lea f, .leaSx f, .tread f]
    let tests : List Instr := [.icmpS f, .icmpU f, .icmpS64 f, .icmpU64 f, .plog f, .fcmp f, .fcmpF64 f]
    let floats : List Instr := [.fadd f, .faddF16x2 f, .faddBf16x2 f, .fmul f, .fmulF16x2 f, .fmulBf16x2 f, .fmac f, .fmacF16x2 f, .fmacBf16x2 f, .fmin f,
      .fminF16x2 f, .fminBf16x2 f, .fmax f, .fmaxF16x2 f, .fmaxBf16x2 f, .frnd f, .frndF16x2 f, .frndBf16x2 f, .rcp f, .rsq f, .sqrt f, .ex2 f, .lg2 f,
      .sin f, .cos f, .tanh f, .xpr f, .cvtF2i f, .pack2 f, .pack4 f, .pack5 f, .pack8 f, .cbq f, .cbqP f, .bsclApply f, .bsclInv f]
    let doubles : List Instr := [.dadd f, .dmul f, .dmac f, .fminF64 f, .fmaxF64 f, .frndF64 f, .rcpF64 f, .rsqF64 f, .sqrtF64 f, .cvtF2l f]
    let rounded : List Instr := [.cvtDn f, .cvtD f, .cvtI2f f, .cvtL2f f]
    let d := c.f.dst.toNat
    let word := if d < 240 then [d] else []
    let pair := if d < 240 then [d, d + 1] else []
    let run := fun (k : Nat) => (List.range k).map (fun i => d + i)
    let masked := (List.range 16).filter (fun p => c.f.imm.getLsbD p)
    let unparked := ∀ w, t.wg? c.wg.key = some w → w.parked = none
    let same := fun (v : Workgroup) => v.fflags = c.wg.fflags
    let grown := fun (v : Workgroup) => c.wg.fflags &&& v.fflags = c.wg.fflags
    let keeps := fun (flags : Workgroup → Prop) (dst ps scalars : List Nat) =>
      t.mem = s.mem ∧ t.memPoison = s.memPoison ∧ t.compCodes = s.compCodes ∧ t.cores = s.cores ∧ t.launches = s.launches ∧ t.records = s.records ∧
      (∀ k, k ≠ c.wg.key → t.wg? k = s.wg? k) ∧
      ∃ v, t.wg? c.wg.key = some v ∧ (scalars = [] → v.scalars = c.wg.scalars) ∧ (∀ n, n ∉ scalars → Sparse.get 0 v.scalars n = Sparse.get 0 c.wg.scalars n) ∧
        v.part = c.wg.part ∧ flags v ∧ v.streams = c.wg.streams ∧ v.mstat = c.wg.mstat ∧ v.books = c.wg.books ∧ v.patterns = c.wg.patterns ∧
        ∀ x, c.wg.fibre? x.index = some x → ∃ y, v.fibre? x.index = some y ∧ y.allot = x.allot ∧ y.wait = x.wait ∧
          (∀ n, ¬ (passes c.f x = true ∧ x ∈ c.lanes ∧ n ∈ dst) → Sparse.get 0 y.regs n = Sparse.get 0 x.regs n) ∧
          (∀ p, p < 16 → ¬ (passes c.f x = true ∧ x ∈ c.lanes ∧ p ∈ ps) → y.pred p = x.pred p) ∧ (x ∉ c.lanes → y = x)
    ∀ i, Issues i s c → exec i s = .next t →
      (i ∈ words → keeps same word [] []) ∧ (i ∈ pairs → keeps same pair [] []) ∧ (i ∈ tests → keeps same [] [d % 16] []) ∧
      (i ∈ [Instr.iaddX f, .isubX f] → keeps same word [c.f.mods.toNat / 2 % 16] []) ∧
      (i ∈ [Instr.fcmpF16x2 f, .fcmpBf16x2 f] → keeps same [] [d % 16, d % 16 + 1] []) ∧
      (i ∈ [Instr.plogW f, .pmovV2p f] → keeps same [] masked []) ∧
      (i = .mov f → keeps (fun v => d < 384 → same v) (if d < 384 then word else []) [] []) ∧
      (i ∈ [Instr.movs f, .movsI f] → keeps same [] [] [c.hwarp * 64 + (d - 320)]) ∧
      (unparked → (i ∈ floats → keeps grown word [] []) ∧ (i ∈ doubles → keeps grown pair [] []) ∧
        (i ∈ rounded → keeps grown (if c.f.imm.toNat / 16 % 16 = 11 then pair else word) [] []) ∧
        (i = .unpk2 f → keeps same (run 2) [] []) ∧ (i = .unpk4 f → keeps same (run 4) [] []) ∧ (i = .unpk5 f → keeps same (run 5) [] []) ∧
        (i = .unpk8 f → keeps same (run 8) [] []))

/-- R203 to R205, R185, R226, R241, R242: what a `.G` load, a `.G` store and an atomic leave of memory: every byte at its home outside the bytes that
the passing lanes store or update, as the meaning places them, and that no line of the core's L1 holds dirty, reads as before; so does every byte of
every scratchpad outside those that the lanes of an atomic on a scratchpad update, and an atomic there without an `ORD` leaves all of memory. -/
def Obligations.GlobalAccessesKeepOtherBytes : Prop :=
  ∀ (f : Fields) (s t : State) (c : Ctx),
    let clean := fun (a : Nat) => ∀ l ∈ (s.core c.core).l1, l.line = a / 128 → l.dirty.getLsbD (a % 128) = false
    let width := 2 ^ (c.f.mods.toNat % 4)
    let at' := fun (perms w a : Nat) => ∃ x ∈ c.passing, ∃ pa at', c.laneAt s 0 w perms x = .ok (.home pa at') ∧ pa ≤ a ∧ a < pa + w
    let words : List Instr := [.atomAdd f, .atomAddF32 f, .atomAddBf16x2 f, .atomMinS f, .atomMinU f, .atomMaxS f, .atomMaxU f, .atomAnd f, .atomOr f,
      .atomXor f, .atomExch f, .atomCas f, .atomInc f, .redAdd f, .redAddF32 f, .redAddBf16x2 f, .redMinS f, .redMinU f, .redMaxS f, .redMaxU f, .redAnd f,
      .redOr f, .redXor f, .redInc f]
    let doubles : List Instr := [.atomAdd64 f, .atomExch64 f, .atomCas64 f, .redAdd64 f]
    let space := c.f.mods.toNat % 4
    let updates := fun (w k a : Nat) => ∃ x ∈ c.passing, ∃ o sp, c.laneAt s space w 3 x = .ok (.scratch k o sp) ∧ o ≤ a ∧ a < o + w
    let kept := fun (i : Instr) (w : Nat) => Issues i s c → exec i s = .next t →
      (∀ a, space = 0 → clean a → ¬ at' 3 w a → Sparse.get 0 t.mem a = Sparse.get 0 s.mem a) ∧
      (space ≠ 0 → c.ord = none → t.mem = s.mem) ∧
      ∀ k a, ¬ updates w k a → Sparse.get 0 (t.core k).scratch a = Sparse.get 0 (s.core k).scratch a
    (∀ i ∈ words, kept i 4) ∧ (∀ i ∈ doubles, kept i 8) ∧
    ∀ a, clean a →
      (Issues (.ldG f) s c → exec (.ldG f) s = .next t → Sparse.get 0 t.mem a = Sparse.get 0 s.mem a) ∧
      (Issues (.ldGQ f) s c → exec (.ldGQ f) s = .next t → Sparse.get 0 t.mem a = Sparse.get 0 s.mem a) ∧
      (Issues (.stG f) s c → exec (.stG f) s = .next t → ¬ at' 2 width a → Sparse.get 0 t.mem a = Sparse.get 0 s.mem a) ∧
      (Issues (.stGQ f) s c → exec (.stGQ f) s = .next t → ¬ at' 2 (16 * width) a → Sparse.get 0 t.mem a = Sparse.get 0 s.mem a)

/-- R478 to R480, R403, R424, R464: after a cold bring-up the device is ready and its memory active and zero, with no poison, no launch, no
workgroup and nothing in flight; the sequence counter is 1; the black-box record holds one entry, of kind 10; CSRs hold their reset values. That
unwritten host memory reads 0 and that the entry is die 0's are the model's choices (log 3, log 4). -/
def Obligations.ResetState : Prop :=
  let s := State.reset
  s.ready = true ∧ s.memActive = true ∧ s.wiping = false ∧ (∀ a, Sparse.get 0 s.mem a = 0 ∧ s.poisonedAt a = false) ∧ s.launches = [] ∧ s.wgs = [] ∧
  s.packets = [] ∧ s.records = [] ∧ s.tlb = [] ∧ s.rdc = [] ∧ s.l2 = [] ∧ s.multi = [] ∧ s.links = [] ∧ s.requests = [] ∧
  s.recovery = false ∧ s.untimed = false ∧ s.linksDown = false ∧ s.l2Poison = [] ∧ s.lseqCounter = 1 ∧ (∀ n, s.counter n = { value := 0, armed := false, card := [], launch := 0, acks := [] }) ∧
  s.blackBox = [(0, [blackBoxEntry 0 10 0x3FF 0 0 0 0 0])] ∧ (∀ k, (s.core k).quantum = 64) ∧ s.wdog = 1000 ∧ s.frsize = 16 ∧ s.frwp = 0 ∧ s.frrp = 0 ∧
  (∀ n, Sparse.get 0 s.ptroot n = 0 ∧ Sparse.get 0 s.fvec n = 0 ∧ Sparse.get 1 s.coveWays n = 1) ∧ s.memoryOk ∧ s.countersOk

/-- R72: whatever a step does, the counters of every scheduler's occupied slots are 0 to *n* - 1 again after it, where they were before. -/
def Obligations.StepKeepsTheCounters : Prop := ∀ s t : State, s.countersOk → step s = .next t → t.countersOk

/-- Every state has a next state: the package never stops (R384 parks a workgroup; nothing halts the machine). Which agent acts is the model's
free choice (log 2). -/
def Obligations.StepGoesOn : Prop := ∀ s : State, s.goesOn

/-- R66, R71: a step in which a batch issues a single instruction runs what its word decodes to, for the batch: `exec` of it in the state in which
the batch is about to read, then, unless the workgroup has parked, the sums and counts of the issue, then what follows from a step and the passing
of time. -/
def Obligations.StepRunsTheDecodedInstruction : Prop :=
  ∀ (s t : State) (k n : Nat) (sl : Slot) (w : Workgroup) (x : Fibre) (line : BitVec 512) (m : Member) (i : Instr),
    s.choose = some (.issue k n) → (s.core k).slots.find? (fun z => z.id = n) = some sl → s.wg? sl.wg = some w → w.head sl = some x →
    sl.current x = some line → planOf line x.pc = .single m → decodeWord m.bits = .ok i →
    let s0 := (s.issuing k sl).loadsTaken k w.key sl.lanes [m]
    exec i (s0.readying w.key sl.lanes m) = .next t →
    m = memberAt line (slotsAfter x.pc 0) ∧
    ((t.parkedWg w.key).isSome = true → step s = .next (s0.issuedParked t k w.key sl [m] m.f.stall.toNat).after) ∧
    ((t.parkedWg w.key).isSome = false → step s = .next ((s0.issued (t.haveRead (s0.readying w.key sl.lanes m) w.key sl.lanes [m]) k w.key sl [m] none
      m.f.stall.toNat).after))
end

