-- ==== Sys2Proof/Laws/Ops.lean ====
section
/-! SUPPORT. What the shared operations of the instructions can do: the batch of an issue (R66), and the outcomes of `runWith`,
`runBatch`, `runLanes`, `runFloat` and `runOnce`. -/

namespace Sys2Proof.Machine

/-- The context of an issue carries the fields it was made with. -/
theorem Ctx.of?_fields {s : State} {op : Nat} {f : Fields} {c : Ctx} (h : Ctx.of? s op f = some c) : c.f = f := by
  simp only [Ctx.of?, Option.bind_eq_some_iff] at h
  obtain ⟨i, -, sl, -, w, -, h⟩ := h
  split at h
  · simp at h
  · simp only [Option.some.injEq] at h; rw [← h]

/-- The context of an issue holds at least one fibre. -/
theorem Ctx.of?_lanes {s : State} {op : Nat} {f : Fields} {c : Ctx} (h : Ctx.of? s op f = some c) : c.lanes ≠ [] := by
  simp only [Ctx.of?, Option.bind_eq_some_iff] at h
  obtain ⟨i, -, sl, -, w, -, h⟩ := h
  split at h
  · simp at h
  · simp only [Option.some.injEq] at h; rw [← h]; simp

/-- The workgroup of the context of an issue is the state's. -/
theorem Ctx.of?_wg {s : State} {op : Nat} {f : Fields} {c : Ctx} (h : Ctx.of? s op f = some c) : s.wg? c.wg.key = some c.wg := by
  simp only [Ctx.of?, Option.bind_eq_some_iff] at h
  obtain ⟨i, -, sl, -, w, hw, h⟩ := h
  split at h
  · simp at h
  · simp only [Option.some.injEq] at h
    rw [← h]
    have := List.find?_some hw
    simp only [decide_eq_true_eq] at this
    simp only [State.wg?] at hw ⊢
    rw [this]; exact hw

/-- Everything `runWith` can answer. -/
theorem runWith_spec (op : Nat) (shape : Ctx → Shape) (f : Fields) (s : State) (body : Ctx → State → Except FaultInfo State) :
    (Ctx.of? s op f = none ∧ runWith op shape f s body = .fault .noIssuingBatch) ∨
    (∃ c e, Ctx.of? s op f = some c ∧ checkIssue op (shape c) c = some e ∧ runWith op shape f s body = .next (s.parkBatch c e)) ∨
    (∃ c e, Ctx.of? s op f = some c ∧ checkIssue op (shape c) c = none ∧ body c (s.tainted c op f) = .error e ∧
      runWith op shape f s body = .next (s.parkBatch c e)) ∨
    (∃ c t, Ctx.of? s op f = some c ∧ checkIssue op (shape c) c = none ∧ body c (s.tainted c op f) = .ok t ∧ runWith op shape f s body = .next t) := by
  unfold runWith
  cases hc : Ctx.of? s op f with
  | none => simp
  | some c =>
    cases hk : checkIssue op (shape c) c with
    | some e => right; left; exact ⟨c, e, rfl, hk, by simp [hk]⟩
    | none =>
      cases hb : body c (s.tainted c op f) with
      | error e => right; right; left; exact ⟨c, e, rfl, hk, hb, by simp [hk, hb]⟩
      | ok t => right; right; right; exact ⟨c, t, rfl, hk, hb, by simp [hk, hb]⟩

/-- An instruction that fails steps 2 to 6 parks its workgroup. -/
theorem runWith_park {op : Nat} {shape : Ctx → Shape} {f : Fields} {s : State} {body : Ctx → State → Except FaultInfo State} {c : Ctx} {e : FaultInfo}
    (hc : Ctx.of? s op f = some c) (hk : checkIssue op (shape c) c = some e) : runWith op shape f s body = .next (s.parkBatch c e) := by
  simp [runWith, hc, hk]

/-- One that passes them takes its own effect. -/
theorem runWith_ok {op : Nat} {shape : Ctx → Shape} {f : Fields} {s t : State} {body : Ctx → State → Except FaultInfo State} {c : Ctx}
    (hc : Ctx.of? s op f = some c) (hk : checkIssue op (shape c) c = none) (hb : body c (s.tainted c op f) = .ok t) :
    runWith op shape f s body = .next t := by
  simp [runWith, hc, hk, hb]

/-- One whose own checks fail parks its workgroup. -/
theorem runWith_error {op : Nat} {shape : Ctx → Shape} {f : Fields} {s : State} {body : Ctx → State → Except FaultInfo State} {c : Ctx} {e : FaultInfo}
    (hc : Ctx.of? s op f = some c) (hk : checkIssue op (shape c) c = none) (hb : body c (s.tainted c op f) = .error e) :
    runWith op shape f s body = .next (s.parkBatch c e) := by
  simp [runWith, hc, hk, hb]

theorem runLanes_ok {op : Nat} {sh : Shape} {f : Fields} {s : State} {g : Ctx → Fibre → Fibre} {c : Ctx}
    (hc : Ctx.of? s op f = some c) (hk : checkIssue op sh c = none) : runLanes op sh f s g = .next ((s.tainted c op f).lanewise c (g c)) := by
  simp [runLanes, runBatch, runWith, hc, hk]

/-- Lanes that raise no trapped flag. -/
theorem State.lanewiseF_ok {s : State} {c : Ctx} {g : Fibre → Fibre × Flags} (h : ∀ x ∈ c.passing, (g x).2 &&& c.launch.traps = 0) :
    s.lanewiseF c g = .ok ((s.lanewise c (fun x => (g x).1)).updWg c.wg.key (fun w => { w with
      fflags := w.fflags ||| c.passing.foldl (fun fl x => fl ||| (g x).2) 0 })) := by
  have : c.passing.filter (fun x => (g x).2 &&& c.launch.traps ≠ 0) = [] := by
    rw [List.filter_eq_nil_iff]; intro x hx; simp [h x hx]
  simp only [State.lanewiseF, this]

theorem runFloat_ok {op : Nat} {sh : Shape} {f : Fields} {s : State} {g : Ctx → Fibre → Fibre × Flags} {c : Ctx}
    (hc : Ctx.of? s op f = some c) (hk : checkIssue op sh c = none) (h : ∀ x ∈ c.passing, (g c x).2 &&& c.launch.traps = 0) :
    runFloat op sh f s g = .next (((s.tainted c op f).lanewise c (fun x => (g c x).1)).updWg c.wg.key (fun w => { w with
      fflags := w.fflags ||| c.passing.foldl (fun fl x => fl ||| (g c x).2) 0 })) := by
  simp only [runFloat, runBatch, runWith, hc, hk, State.lanewiseF_ok h]

theorem runOnce_ok {op : Nat} {sh : Shape} {f : Fields} {s t : State} {g : Ctx → Fibre → State → Except FaultInfo State} {c : Ctx} {x : Fibre}
    {l : List Fibre} (hc : Ctx.of? s op f = some c) (hk : checkIssue op sh c = none) (hp : c.passing = x :: l)
    (hb : g c x (s.tainted c op f) = .ok t) : runOnce op sh f s g = .next t := by
  simp only [runOnce, runBatch, runWith, hc, hk, hp, hb]

theorem runOnce_none {op : Nat} {sh : Shape} {f : Fields} {s : State} {g : Ctx → Fibre → State → Except FaultInfo State} {c : Ctx}
    (hc : Ctx.of? s op f = some c) (hk : checkIssue op sh c = none) (hp : c.passing = []) :
    runOnce op sh f s g = .next ((s.tainted c op f).lanewise c id) := by
  simp only [runOnce, runBatch, runWith, hc, hk, hp]

end Sys2Proof.Machine
end

