-- ==== Sys2Proof/Laws/Store.lean ====
section
/-! SUPPORT. Laws of sparse stores: reading after a write, in every store; the operations that keep the canonical form; runs of bytes. -/

namespace Sys2Proof.Machine

variable {β : Type}

@[simp] theorem Sparse.get_nil (d : β) (a : Nat) : Sparse.get d [] a = d := rfl

theorem Sparse.get_cons (d : β) (k a : Nat) (v : β) (t : Sparse β) : Sparse.get d ((k, v) :: t) a = if k = a then v else Sparse.get d t a := rfl

@[simp] theorem Sparse.get_erase_same (d : β) (m : Sparse β) (a : Nat) : Sparse.get d (Sparse.erase a m) a = d := by
  induction m with
  | nil => rfl
  | cons e t ih =>
    obtain ⟨k, v⟩ := e
    by_cases h : k = a <;> simp [Sparse.erase, Sparse.get, h, ih]

theorem Sparse.get_erase_ne (d : β) (m : Sparse β) {a b : Nat} (h : b ≠ a) : Sparse.get d (Sparse.erase a m) b = Sparse.get d m b := by
  induction m with
  | nil => rfl
  | cons e t ih =>
    obtain ⟨k, v⟩ := e
    by_cases hk : k = a
    · have hb : ¬a = b := fun q => h q.symm
      simp [Sparse.erase, Sparse.get, hk, ih, hb]
    · simp [Sparse.erase, Sparse.get, hk, ih]

theorem Sparse.get_put_ne (d : β) (m : Sparse β) (v : β) {a b : Nat} (h : b ≠ a) : Sparse.get d (Sparse.put a v m) b = Sparse.get d m b := by
  have hb : ¬a = b := fun q => h q.symm
  induction m with
  | nil => simp [Sparse.put, Sparse.get, hb]
  | cons e t ih =>
    obtain ⟨k, w⟩ := e
    by_cases hk : a < k <;> simp [Sparse.put, Sparse.get, hk, ih, hb]

theorem Sparse.get_put_erase (d : β) (m : Sparse β) (v : β) (a : Nat) : Sparse.get d (Sparse.put a v (Sparse.erase a m)) a = v := by
  induction m with
  | nil => simp [Sparse.erase, Sparse.put, Sparse.get]
  | cons e t ih =>
    obtain ⟨k, w⟩ := e
    by_cases hk : k = a
    · simpa [Sparse.erase, hk] using ih
    · by_cases hl : a < k <;> simp [Sparse.erase, Sparse.put, Sparse.get, hk, hl, ih]

/-- Reading a store after a write (the first law of every memory, register and table of the model). -/
theorem Sparse.get_set [DecidableEq β] (d : β) (m : Sparse β) (a b : Nat) (v : β) :
    Sparse.get d (Sparse.set d m a v) b = if b = a then v else Sparse.get d m b := by
  by_cases hb : b = a
  · subst hb
    by_cases hv : v = d
    · simp [Sparse.set, hv]
    · simp [Sparse.set, hv, Sparse.get_put_erase]
  · by_cases hv : v = d
    · simp [Sparse.set, hv, hb, Sparse.get_erase_ne d m hb]
    · simp [Sparse.set, hv, hb, Sparse.get_put_ne d _ v hb, Sparse.get_erase_ne d m hb]

@[simp] theorem Sparse.get_set_same [DecidableEq β] (d : β) (m : Sparse β) (a : Nat) (v : β) : Sparse.get d (Sparse.set d m a v) a = v := by
  simp [Sparse.get_set]

theorem Sparse.get_set_ne [DecidableEq β] (d : β) (m : Sparse β) {a b : Nat} (v : β) (h : b ≠ a) :
    Sparse.get d (Sparse.set d m a v) b = Sparse.get d m b := by
  simp [Sparse.get_set, h]

/-! The canonical form. -/

theorem Sparse.wfFrom_mono [DecidableEq β] (d : β) : ∀ (m : Sparse β) (b c : Nat), b ≤ c → Sparse.wfFrom d c m = true → Sparse.wfFrom d b m = true
  | [], _, _, _, _ => rfl
  | (k, v) :: t, b, c, hbc, h => by
    simp only [Sparse.wfFrom, Bool.and_eq_true, decide_eq_true_eq] at h ⊢
    exact ⟨⟨Nat.le_trans hbc h.1.1, h.1.2⟩, h.2⟩

theorem Sparse.wfFrom_erase [DecidableEq β] (d : β) (a : Nat) :
    ∀ (m : Sparse β) (b : Nat), Sparse.wfFrom d b m = true → Sparse.wfFrom d b (Sparse.erase a m) = true
  | [], _, _ => rfl
  | (k, v) :: t, b, h => by
    simp only [Sparse.wfFrom, Bool.and_eq_true, decide_eq_true_eq] at h
    by_cases hk : k = a
    · simp only [Sparse.erase, hk, if_true]
      exact Sparse.wfFrom_mono d _ b (k + 1) (by omega) (Sparse.wfFrom_erase d a t (k + 1) h.2)
    · simp only [Sparse.erase, hk, if_false, Sparse.wfFrom, Bool.and_eq_true, decide_eq_true_eq]
      exact ⟨h.1, Sparse.wfFrom_erase d a t (k + 1) h.2⟩

theorem Sparse.wfFrom_put [DecidableEq β] (d : β) (a : Nat) (v : β) (hv : v ≠ d) :
    ∀ (m : Sparse β) (b : Nat), b ≤ a → Sparse.wfFrom d b m = true → (∀ e ∈ m, e.1 ≠ a) → Sparse.wfFrom d b (Sparse.put a v m) = true
  | [], b, hb, _, _ => by simp [Sparse.put, Sparse.wfFrom, hb, hv]
  | (k, w) :: t, b, hb, h, hm => by
    simp only [Sparse.wfFrom, Bool.and_eq_true, decide_eq_true_eq] at h
    have hka : k ≠ a := hm (k, w) (by simp)
    by_cases hl : a < k
    · simp only [Sparse.put, hl, if_true, Sparse.wfFrom, Bool.and_eq_true, decide_eq_true_eq]
      exact ⟨⟨hb, hv⟩, ⟨by omega, h.1.2⟩, h.2⟩
    · simp only [Sparse.put, hl, if_false, Sparse.wfFrom, Bool.and_eq_true, decide_eq_true_eq]
      exact ⟨h.1, Sparse.wfFrom_put d a v hv t (k + 1) (by omega) h.2 (fun e he => hm e (by simp [he]))⟩

theorem Sparse.not_mem_erase (a : Nat) : ∀ (m : Sparse β), ∀ e ∈ Sparse.erase a m, e.1 ≠ a
  | [], e, he => by simp [Sparse.erase] at he
  | (k, v) :: t, e, he => by
    by_cases hk : k = a
    · rw [Sparse.erase, if_pos hk] at he
      exact Sparse.not_mem_erase a t e he
    · rw [Sparse.erase, if_neg hk] at he
      rcases List.mem_cons.mp he with rfl | h
      · exact hk
      · exact Sparse.not_mem_erase a t e h

/-- A write keeps the canonical form. -/
theorem Sparse.wf_set [DecidableEq β] (d : β) (m : Sparse β) (a : Nat) (v : β) (h : Sparse.wf d m = true) : Sparse.wf d (Sparse.set d m a v) = true := by
  by_cases hv : v = d
  · simpa [Sparse.set, hv, Sparse.wf] using Sparse.wfFrom_erase d a m 0 h
  · simpa [Sparse.set, hv, Sparse.wf] using
      Sparse.wfFrom_put d a v hv _ 0 (Nat.zero_le a) (Sparse.wfFrom_erase d a m 0 h) (Sparse.not_mem_erase a m)

theorem Sparse.wfFrom_keep [DecidableEq β] (d : β) (p : Nat → Bool) :
    ∀ (m : Sparse β) (b : Nat), Sparse.wfFrom d b m = true → Sparse.wfFrom d b (Sparse.keep p m) = true
  | [], _, _ => rfl
  | (k, v) :: t, b, h => by
    simp only [Sparse.wfFrom, Bool.and_eq_true, decide_eq_true_eq] at h
    by_cases hk : p k
    · simp only [Sparse.keep, List.filter_cons, hk, if_true, Sparse.wfFrom, Bool.and_eq_true, decide_eq_true_eq]
      exact ⟨h.1, Sparse.wfFrom_keep d p t (k + 1) h.2⟩
    · simp only [Sparse.keep, List.filter_cons, hk]
      exact Sparse.wfFrom_mono d _ b (k + 1) (by omega) (Sparse.wfFrom_keep d p t (k + 1) h.2)

/-- Keeping part of a store keeps the canonical form. -/
theorem Sparse.wf_keep [DecidableEq β] (d : β) (p : Nat → Bool) (m : Sparse β) (h : Sparse.wf d m = true) : Sparse.wf d (Sparse.keep p m) = true :=
  Sparse.wfFrom_keep d p m 0 h

/-! Memory operations keep the canonical form of memory. -/

theorem Memory.wf_write (m : Bytes) (a : Nat) (l : List Byte) (h : Memory.wf m = true) : Memory.wf (Bytes.write m a l) = true := by
  induction l generalizing m a with
  | nil => exact h
  | cons b t ih => exact ih _ _ (Sparse.wf_set 0 m a b h)

theorem Memory.wf_zero (m : Bytes) (a n : Nat) (h : Memory.wf m = true) : Memory.wf (Bytes.zero m a n) = true := Sparse.wf_keep 0 _ m h

/-- A byte read after bytes were written from `a`. -/
theorem Bytes.get_write (m : Bytes) (a b : Nat) (l : List Byte) :
    Sparse.get 0 (Bytes.write m a l) b = if a ≤ b ∧ b < a + l.length then l.getD (b - a) 0 else Sparse.get 0 m b := by
  induction l generalizing m a with
  | nil => simp only [Bytes.write, List.length_nil, Nat.add_zero]; rw [if_neg (by omega)]
  | cons x t ih =>
    simp only [Bytes.write, ih, List.length_cons]
    by_cases hb : b = a
    · subst hb
      rw [if_neg (by omega), if_pos (by omega), Sparse.get_set_same, Nat.sub_self, List.getD_cons_zero]
    · rw [Sparse.get_set_ne 0 m x hb]
      by_cases h1 : a + 1 ≤ b ∧ b < a + 1 + t.length
      · rw [if_pos h1, if_pos (by omega), show b - a = (b - (a + 1)) + 1 by omega, List.getD_cons_succ]
      · rw [if_neg h1, if_neg (by omega)]

/-- Bytes outside a run are as before the run was written. -/
theorem Bytes.get_write_ne (m : Bytes) (a b : Nat) (l : List Byte) (h : b < a ∨ a + l.length ≤ b) :
    Sparse.get 0 (Bytes.write m a l) b = Sparse.get 0 m b := by
  rw [Bytes.get_write, if_neg (by omega)]

@[simp] theorem Bytes.length_read (m : Bytes) (a n : Nat) : (Bytes.read m a n).length = n := by
  induction n generalizing a with
  | zero => rfl
  | succ n ih => simp [Bytes.read, ih]

@[simp] theorem bytesOf_length (n x : Nat) : (bytesOf n x).length = n := by
  induction n generalizing x with
  | zero => rfl
  | succ n ih => simp [bytesOf, ih]

/-- The bytes of a number give it back. -/
theorem ofBytes_bytesOf (n x : Nat) : ofBytes (bytesOf n x) = x % 256 ^ n := by
  induction n generalizing x with
  | zero => simp [bytesOf, ofBytes, Nat.mod_one]
  | succ n ih =>
    have h : (BitVec.ofNat 8 x).toNat = x % 256 := BitVec.toNat_ofNat ..
    rw [bytesOf, ofBytes, ih, h, Nat.pow_succ', Nat.mod_mul]

end Sys2Proof.Machine
end

