-- ==== Sys2Proof/Laws/State.lean ====
section
/-! SUPPORT. What each update of the state and of a fibre leaves as it was, a lemma per field (by rfl, for simp), and what the lookups
of a core, a workgroup, a launch and a fibre find after an update. -/

namespace Sys2Proof.Machine

variable (s : State) (c : Ctx) (x : Fibre)

/-! `drawn`. -/

@[simp] theorem State.drawn_tide : (s.drawn).tide = s.tide := rfl
@[simp] theorem State.drawn_cyc : (s.drawn).cyc = s.cyc := rfl
@[simp] theorem State.drawn_mem : (s.drawn).mem = s.mem := rfl
@[simp] theorem State.drawn_memPoison : (s.drawn).memPoison = s.memPoison := rfl
@[simp] theorem State.drawn_compCodes : (s.drawn).compCodes = s.compCodes := rfl
@[simp] theorem State.drawn_ready : (s.drawn).ready = s.ready := rfl
@[simp] theorem State.drawn_memActive : (s.drawn).memActive = s.memActive := rfl
@[simp] theorem State.drawn_wiping : (s.drawn).wiping = s.wiping := rfl
@[simp] theorem State.drawn_powered : (s.drawn).powered = s.powered := rfl
@[simp] theorem State.drawn_lifeCycle : (s.drawn).lifeCycle = s.lifeCycle := rfl
@[simp] theorem State.drawn_lifeCyclePending : (s.drawn).lifeCyclePending = s.lifeCyclePending := rfl
@[simp] theorem State.drawn_identityKey : (s.drawn).identityKey = s.identityKey := rfl
@[simp] theorem State.drawn_firmware : (s.drawn).firmware = s.firmware := rfl
@[simp] theorem State.drawn_flash : (s.drawn).flash = s.flash := rfl
@[simp] theorem State.drawn_rollback : (s.drawn).rollback = s.rollback := rfl
@[simp] theorem State.drawn_recovery : (s.drawn).recovery = s.recovery := rfl
@[simp] theorem State.drawn_linksDown : (s.drawn).linksDown = s.linksDown := rfl
@[simp] theorem State.drawn_untimed : (s.drawn).untimed = s.untimed := rfl
@[simp] theorem State.drawn_queueBase : (s.drawn).queueBase = s.queueBase := rfl
@[simp] theorem State.drawn_queueCount : (s.drawn).queueCount = s.queueCount := rfl
@[simp] theorem State.drawn_queuePred : (s.drawn).queuePred = s.queuePred := rfl
@[simp] theorem State.drawn_lastQueue : (s.drawn).lastQueue = s.lastQueue := rfl
@[simp] theorem State.drawn_lseqCounter : (s.drawn).lseqCounter = s.lseqCounter := rfl
@[simp] theorem State.drawn_admitPointer : (s.drawn).admitPointer = s.admitPointer := rfl
@[simp] theorem State.drawn_launches : (s.drawn).launches = s.launches := rfl
@[simp] theorem State.drawn_segments : (s.drawn).segments = s.segments := rfl
@[simp] theorem State.drawn_counters : (s.drawn).counters = s.counters := rfl
@[simp] theorem State.drawn_dbg : (s.drawn).dbg = s.dbg := rfl
@[simp] theorem State.drawn_frbase : (s.drawn).frbase = s.frbase := rfl
@[simp] theorem State.drawn_frsize : (s.drawn).frsize = s.frsize := rfl
@[simp] theorem State.drawn_frwp : (s.drawn).frwp = s.frwp := rfl
@[simp] theorem State.drawn_frrp : (s.drawn).frrp = s.frrp := rfl
@[simp] theorem State.drawn_frBlocked : (s.drawn).frBlocked = s.frBlocked := rfl
@[simp] theorem State.drawn_wdog : (s.drawn).wdog = s.wdog := rfl
@[simp] theorem State.drawn_coveWays : (s.drawn).coveWays = s.coveWays := rfl
@[simp] theorem State.drawn_covePending : (s.drawn).covePending = s.covePending := rfl
@[simp] theorem State.drawn_ptroot : (s.drawn).ptroot = s.ptroot := rfl
@[simp] theorem State.drawn_fvec : (s.drawn).fvec = s.fvec := rfl
@[simp] theorem State.drawn_groups : (s.drawn).groups = s.groups := rfl
@[simp] theorem State.drawn_hostCsr : (s.drawn).hostCsr = s.hostCsr := rfl
@[simp] theorem State.drawn_records : (s.drawn).records = s.records := rfl
@[simp] theorem State.drawn_blackBox : (s.drawn).blackBox = s.blackBox := rfl
@[simp] theorem State.drawn_blackBoxWp : (s.drawn).blackBoxWp = s.blackBoxWp := rfl
@[simp] theorem State.drawn_tlb : (s.drawn).tlb = s.tlb := rfl
@[simp] theorem State.drawn_rdc : (s.drawn).rdc = s.rdc := rfl
@[simp] theorem State.drawn_l2 : (s.drawn).l2 = s.l2 := rfl
@[simp] theorem State.drawn_lineLog : (s.drawn).lineLog = s.lineLog := rfl
@[simp] theorem State.drawn_owners : (s.drawn).owners = s.owners := rfl
@[simp] theorem State.drawn_barrierQ : (s.drawn).barrierQ = s.barrierQ := rfl
@[simp] theorem State.drawn_farWaiters : (s.drawn).farWaiters = s.farWaiters := rfl
@[simp] theorem State.drawn_barrierHosts : (s.drawn).barrierHosts = s.barrierHosts := rfl
@[simp] theorem State.drawn_pkgBrushes : (s.drawn).pkgBrushes = s.pkgBrushes := rfl
@[simp] theorem State.drawn_pkgBrushPoison : (s.drawn).pkgBrushPoison = s.pkgBrushPoison := rfl
@[simp] theorem State.drawn_packets : (s.drawn).packets = s.packets := rfl
@[simp] theorem State.drawn_multi : (s.drawn).multi = s.multi := rfl
@[simp] theorem State.drawn_serving : (s.drawn).serving = s.serving := rfl
@[simp] theorem State.drawn_peers : (s.drawn).peers = s.peers := rfl
@[simp] theorem State.drawn_links : (s.drawn).links = s.links := rfl
@[simp] theorem State.drawn_requests : (s.drawn).requests = s.requests := rfl
@[simp] theorem State.drawn_fetched : (s.drawn).fetched = s.fetched := rfl
@[simp] theorem State.drawn_drops : (s.drawn).drops = s.drops := rfl
@[simp] theorem State.drawn_colnalRetries : (s.drawn).colnalRetries = s.colnalRetries := rfl
@[simp] theorem State.drawn_strandRetries : (s.drawn).strandRetries = s.strandRetries := rfl
@[simp] theorem State.drawn_eccCorrected : (s.drawn).eccCorrected = s.eccCorrected := rfl
@[simp] theorem State.drawn_eccPoisoned : (s.drawn).eccPoisoned = s.eccPoisoned := rfl
@[simp] theorem State.drawn_hostDirty : (s.drawn).hostDirty = s.hostDirty := rfl
@[simp] theorem State.drawn_l2Poison : (s.drawn).l2Poison = s.l2Poison := rfl
@[simp] theorem State.drawn_i3cAddress : (s.drawn).i3cAddress = s.i3cAddress := rfl
@[simp] theorem State.drawn_limited : (s.drawn).limited = s.limited := rfl
@[simp] theorem State.drawn_cores : (s.drawn).cores = s.cores := rfl
@[simp] theorem State.drawn_wgs : (s.drawn).wgs = s.wgs := rfl
@[simp] theorem State.drawn_inputs : (s.drawn).inputs = s.inputs := rfl
@[simp] theorem State.drawn_outputs : (s.drawn).outputs = s.outputs := rfl
@[simp] theorem State.drawn_issue : (s.drawn).issue = s.issue := rfl
@[simp] theorem State.drawn_nextKey : (s.drawn).nextKey = s.nextKey := rfl

/-! `say`. -/

@[simp] theorem State.say_tide (v : Output) : (s.say v).tide = s.tide := rfl
@[simp] theorem State.say_cyc (v : Output) : (s.say v).cyc = s.cyc := rfl
@[simp] theorem State.say_mem (v : Output) : (s.say v).mem = s.mem := rfl
@[simp] theorem State.say_memPoison (v : Output) : (s.say v).memPoison = s.memPoison := rfl
@[simp] theorem State.say_compCodes (v : Output) : (s.say v).compCodes = s.compCodes := rfl
@[simp] theorem State.say_ready (v : Output) : (s.say v).ready = s.ready := rfl
@[simp] theorem State.say_memActive (v : Output) : (s.say v).memActive = s.memActive := rfl
@[simp] theorem State.say_wiping (v : Output) : (s.say v).wiping = s.wiping := rfl
@[simp] theorem State.say_powered (v : Output) : (s.say v).powered = s.powered := rfl
@[simp] theorem State.say_lifeCycle (v : Output) : (s.say v).lifeCycle = s.lifeCycle := rfl
@[simp] theorem State.say_lifeCyclePending (v : Output) : (s.say v).lifeCyclePending = s.lifeCyclePending := rfl
@[simp] theorem State.say_identityKey (v : Output) : (s.say v).identityKey = s.identityKey := rfl
@[simp] theorem State.say_firmware (v : Output) : (s.say v).firmware = s.firmware := rfl
@[simp] theorem State.say_flash (v : Output) : (s.say v).flash = s.flash := rfl
@[simp] theorem State.say_rollback (v : Output) : (s.say v).rollback = s.rollback := rfl
@[simp] theorem State.say_recovery (v : Output) : (s.say v).recovery = s.recovery := rfl
@[simp] theorem State.say_linksDown (v : Output) : (s.say v).linksDown = s.linksDown := rfl
@[simp] theorem State.say_untimed (v : Output) : (s.say v).untimed = s.untimed := rfl
@[simp] theorem State.say_queueBase (v : Output) : (s.say v).queueBase = s.queueBase := rfl
@[simp] theorem State.say_queueCount (v : Output) : (s.say v).queueCount = s.queueCount := rfl
@[simp] theorem State.say_queuePred (v : Output) : (s.say v).queuePred = s.queuePred := rfl
@[simp] theorem State.say_lastQueue (v : Output) : (s.say v).lastQueue = s.lastQueue := rfl
@[simp] theorem State.say_lseqCounter (v : Output) : (s.say v).lseqCounter = s.lseqCounter := rfl
@[simp] theorem State.say_admitPointer (v : Output) : (s.say v).admitPointer = s.admitPointer := rfl
@[simp] theorem State.say_launches (v : Output) : (s.say v).launches = s.launches := rfl
@[simp] theorem State.say_segments (v : Output) : (s.say v).segments = s.segments := rfl
@[simp] theorem State.say_counters (v : Output) : (s.say v).counters = s.counters := rfl
@[simp] theorem State.say_dbg (v : Output) : (s.say v).dbg = s.dbg := rfl
@[simp] theorem State.say_frbase (v : Output) : (s.say v).frbase = s.frbase := rfl
@[simp] theorem State.say_frsize (v : Output) : (s.say v).frsize = s.frsize := rfl
@[simp] theorem State.say_frwp (v : Output) : (s.say v).frwp = s.frwp := rfl
@[simp] theorem State.say_frrp (v : Output) : (s.say v).frrp = s.frrp := rfl
@[simp] theorem State.say_frBlocked (v : Output) : (s.say v).frBlocked = s.frBlocked := rfl
@[simp] theorem State.say_wdog (v : Output) : (s.say v).wdog = s.wdog := rfl
@[simp] theorem State.say_coveWays (v : Output) : (s.say v).coveWays = s.coveWays := rfl
@[simp] theorem State.say_covePending (v : Output) : (s.say v).covePending = s.covePending := rfl
@[simp] theorem State.say_ptroot (v : Output) : (s.say v).ptroot = s.ptroot := rfl
@[simp] theorem State.say_fvec (v : Output) : (s.say v).fvec = s.fvec := rfl
@[simp] theorem State.say_groups (v : Output) : (s.say v).groups = s.groups := rfl
@[simp] theorem State.say_hostCsr (v : Output) : (s.say v).hostCsr = s.hostCsr := rfl
@[simp] theorem State.say_records (v : Output) : (s.say v).records = s.records := rfl
@[simp] theorem State.say_blackBox (v : Output) : (s.say v).blackBox = s.blackBox := rfl
@[simp] theorem State.say_blackBoxWp (v : Output) : (s.say v).blackBoxWp = s.blackBoxWp := rfl
@[simp] theorem State.say_tlb (v : Output) : (s.say v).tlb = s.tlb := rfl
@[simp] theorem State.say_rdc (v : Output) : (s.say v).rdc = s.rdc := rfl
@[simp] theorem State.say_l2 (v : Output) : (s.say v).l2 = s.l2 := rfl
@[simp] theorem State.say_lineLog (v : Output) : (s.say v).lineLog = s.lineLog := rfl
@[simp] theorem State.say_owners (v : Output) : (s.say v).owners = s.owners := rfl
@[simp] theorem State.say_barrierQ (v : Output) : (s.say v).barrierQ = s.barrierQ := rfl
@[simp] theorem State.say_farWaiters (v : Output) : (s.say v).farWaiters = s.farWaiters := rfl
@[simp] theorem State.say_barrierHosts (v : Output) : (s.say v).barrierHosts = s.barrierHosts := rfl
@[simp] theorem State.say_pkgBrushes (v : Output) : (s.say v).pkgBrushes = s.pkgBrushes := rfl
@[simp] theorem State.say_pkgBrushPoison (v : Output) : (s.say v).pkgBrushPoison = s.pkgBrushPoison := rfl
@[simp] theorem State.say_packets (v : Output) : (s.say v).packets = s.packets := rfl
@[simp] theorem State.say_multi (v : Output) : (s.say v).multi = s.multi := rfl
@[simp] theorem State.say_serving (v : Output) : (s.say v).serving = s.serving := rfl
@[simp] theorem State.say_peers (v : Output) : (s.say v).peers = s.peers := rfl
@[simp] theorem State.say_links (v : Output) : (s.say v).links = s.links := rfl
@[simp] theorem State.say_requests (v : Output) : (s.say v).requests = s.requests := rfl
@[simp] theorem State.say_fetched (v : Output) : (s.say v).fetched = s.fetched := rfl
@[simp] theorem State.say_drops (v : Output) : (s.say v).drops = s.drops := rfl
@[simp] theorem State.say_colnalRetries (v : Output) : (s.say v).colnalRetries = s.colnalRetries := rfl
@[simp] theorem State.say_strandRetries (v : Output) : (s.say v).strandRetries = s.strandRetries := rfl
@[simp] theorem State.say_eccCorrected (v : Output) : (s.say v).eccCorrected = s.eccCorrected := rfl
@[simp] theorem State.say_eccPoisoned (v : Output) : (s.say v).eccPoisoned = s.eccPoisoned := rfl
@[simp] theorem State.say_hostDirty (v : Output) : (s.say v).hostDirty = s.hostDirty := rfl
@[simp] theorem State.say_l2Poison (v : Output) : (s.say v).l2Poison = s.l2Poison := rfl
@[simp] theorem State.say_i3cAddress (v : Output) : (s.say v).i3cAddress = s.i3cAddress := rfl
@[simp] theorem State.say_limited (v : Output) : (s.say v).limited = s.limited := rfl
@[simp] theorem State.say_cores (v : Output) : (s.say v).cores = s.cores := rfl
@[simp] theorem State.say_wgs (v : Output) : (s.say v).wgs = s.wgs := rfl
@[simp] theorem State.say_free (v : Output) : (s.say v).free = s.free := rfl
@[simp] theorem State.say_inputs (v : Output) : (s.say v).inputs = s.inputs := rfl
@[simp] theorem State.say_issue (v : Output) : (s.say v).issue = s.issue := rfl
@[simp] theorem State.say_nextKey (v : Output) : (s.say v).nextKey = s.nextKey := rfl

/-! `updCore`. -/

@[simp] theorem State.updCore_tide (k : Nat) (g : Core → Core) : (s.updCore k g).tide = s.tide := rfl
@[simp] theorem State.updCore_cyc (k : Nat) (g : Core → Core) : (s.updCore k g).cyc = s.cyc := rfl
@[simp] theorem State.updCore_mem (k : Nat) (g : Core → Core) : (s.updCore k g).mem = s.mem := rfl
@[simp] theorem State.updCore_memPoison (k : Nat) (g : Core → Core) : (s.updCore k g).memPoison = s.memPoison := rfl
@[simp] theorem State.updCore_compCodes (k : Nat) (g : Core → Core) : (s.updCore k g).compCodes = s.compCodes := rfl
@[simp] theorem State.updCore_ready (k : Nat) (g : Core → Core) : (s.updCore k g).ready = s.ready := rfl
@[simp] theorem State.updCore_memActive (k : Nat) (g : Core → Core) : (s.updCore k g).memActive = s.memActive := rfl
@[simp] theorem State.updCore_wiping (k : Nat) (g : Core → Core) : (s.updCore k g).wiping = s.wiping := rfl
@[simp] theorem State.updCore_powered (k : Nat) (g : Core → Core) : (s.updCore k g).powered = s.powered := rfl
@[simp] theorem State.updCore_lifeCycle (k : Nat) (g : Core → Core) : (s.updCore k g).lifeCycle = s.lifeCycle := rfl
@[simp] theorem State.updCore_lifeCyclePending (k : Nat) (g : Core → Core) : (s.updCore k g).lifeCyclePending = s.lifeCyclePending := rfl
@[simp] theorem State.updCore_identityKey (k : Nat) (g : Core → Core) : (s.updCore k g).identityKey = s.identityKey := rfl
@[simp] theorem State.updCore_firmware (k : Nat) (g : Core → Core) : (s.updCore k g).firmware = s.firmware := rfl
@[simp] theorem State.updCore_flash (k : Nat) (g : Core → Core) : (s.updCore k g).flash = s.flash := rfl
@[simp] theorem State.updCore_rollback (k : Nat) (g : Core → Core) : (s.updCore k g).rollback = s.rollback := rfl
@[simp] theorem State.updCore_recovery (k : Nat) (g : Core → Core) : (s.updCore k g).recovery = s.recovery := rfl
@[simp] theorem State.updCore_linksDown (k : Nat) (g : Core → Core) : (s.updCore k g).linksDown = s.linksDown := rfl
@[simp] theorem State.updCore_untimed (k : Nat) (g : Core → Core) : (s.updCore k g).untimed = s.untimed := rfl
@[simp] theorem State.updCore_queueBase (k : Nat) (g : Core → Core) : (s.updCore k g).queueBase = s.queueBase := rfl
@[simp] theorem State.updCore_queueCount (k : Nat) (g : Core → Core) : (s.updCore k g).queueCount = s.queueCount := rfl
@[simp] theorem State.updCore_queuePred (k : Nat) (g : Core → Core) : (s.updCore k g).queuePred = s.queuePred := rfl
@[simp] theorem State.updCore_lastQueue (k : Nat) (g : Core → Core) : (s.updCore k g).lastQueue = s.lastQueue := rfl
@[simp] theorem State.updCore_lseqCounter (k : Nat) (g : Core → Core) : (s.updCore k g).lseqCounter = s.lseqCounter := rfl
@[simp] theorem State.updCore_admitPointer (k : Nat) (g : Core → Core) : (s.updCore k g).admitPointer = s.admitPointer := rfl
@[simp] theorem State.updCore_launches (k : Nat) (g : Core → Core) : (s.updCore k g).launches = s.launches := rfl
@[simp] theorem State.updCore_segments (k : Nat) (g : Core → Core) : (s.updCore k g).segments = s.segments := rfl
@[simp] theorem State.updCore_counters (k : Nat) (g : Core → Core) : (s.updCore k g).counters = s.counters := rfl
@[simp] theorem State.updCore_dbg (k : Nat) (g : Core → Core) : (s.updCore k g).dbg = s.dbg := rfl
@[simp] theorem State.updCore_frbase (k : Nat) (g : Core → Core) : (s.updCore k g).frbase = s.frbase := rfl
@[simp] theorem State.updCore_frsize (k : Nat) (g : Core → Core) : (s.updCore k g).frsize = s.frsize := rfl
@[simp] theorem State.updCore_frwp (k : Nat) (g : Core → Core) : (s.updCore k g).frwp = s.frwp := rfl
@[simp] theorem State.updCore_frrp (k : Nat) (g : Core → Core) : (s.updCore k g).frrp = s.frrp := rfl
@[simp] theorem State.updCore_frBlocked (k : Nat) (g : Core → Core) : (s.updCore k g).frBlocked = s.frBlocked := rfl
@[simp] theorem State.updCore_wdog (k : Nat) (g : Core → Core) : (s.updCore k g).wdog = s.wdog := rfl
@[simp] theorem State.updCore_coveWays (k : Nat) (g : Core → Core) : (s.updCore k g).coveWays = s.coveWays := rfl
@[simp] theorem State.updCore_covePending (k : Nat) (g : Core → Core) : (s.updCore k g).covePending = s.covePending := rfl
@[simp] theorem State.updCore_ptroot (k : Nat) (g : Core → Core) : (s.updCore k g).ptroot = s.ptroot := rfl
@[simp] theorem State.updCore_fvec (k : Nat) (g : Core → Core) : (s.updCore k g).fvec = s.fvec := rfl
@[simp] theorem State.updCore_groups (k : Nat) (g : Core → Core) : (s.updCore k g).groups = s.groups := rfl
@[simp] theorem State.updCore_hostCsr (k : Nat) (g : Core → Core) : (s.updCore k g).hostCsr = s.hostCsr := rfl
@[simp] theorem State.updCore_records (k : Nat) (g : Core → Core) : (s.updCore k g).records = s.records := rfl
@[simp] theorem State.updCore_blackBox (k : Nat) (g : Core → Core) : (s.updCore k g).blackBox = s.blackBox := rfl
@[simp] theorem State.updCore_blackBoxWp (k : Nat) (g : Core → Core) : (s.updCore k g).blackBoxWp = s.blackBoxWp := rfl
@[simp] theorem State.updCore_tlb (k : Nat) (g : Core → Core) : (s.updCore k g).tlb = s.tlb := rfl
@[simp] theorem State.updCore_rdc (k : Nat) (g : Core → Core) : (s.updCore k g).rdc = s.rdc := rfl
@[simp] theorem State.updCore_l2 (k : Nat) (g : Core → Core) : (s.updCore k g).l2 = s.l2 := rfl
@[simp] theorem State.updCore_lineLog (k : Nat) (g : Core → Core) : (s.updCore k g).lineLog = s.lineLog := rfl
@[simp] theorem State.updCore_owners (k : Nat) (g : Core → Core) : (s.updCore k g).owners = s.owners := rfl
@[simp] theorem State.updCore_barrierQ (k : Nat) (g : Core → Core) : (s.updCore k g).barrierQ = s.barrierQ := rfl
@[simp] theorem State.updCore_farWaiters (k : Nat) (g : Core → Core) : (s.updCore k g).farWaiters = s.farWaiters := rfl
@[simp] theorem State.updCore_barrierHosts (k : Nat) (g : Core → Core) : (s.updCore k g).barrierHosts = s.barrierHosts := rfl
@[simp] theorem State.updCore_pkgBrushes (k : Nat) (g : Core → Core) : (s.updCore k g).pkgBrushes = s.pkgBrushes := rfl
@[simp] theorem State.updCore_pkgBrushPoison (k : Nat) (g : Core → Core) : (s.updCore k g).pkgBrushPoison = s.pkgBrushPoison := rfl
@[simp] theorem State.updCore_packets (k : Nat) (g : Core → Core) : (s.updCore k g).packets = s.packets := rfl
@[simp] theorem State.updCore_multi (k : Nat) (g : Core → Core) : (s.updCore k g).multi = s.multi := rfl
@[simp] theorem State.updCore_serving (k : Nat) (g : Core → Core) : (s.updCore k g).serving = s.serving := rfl
@[simp] theorem State.updCore_peers (k : Nat) (g : Core → Core) : (s.updCore k g).peers = s.peers := rfl
@[simp] theorem State.updCore_links (k : Nat) (g : Core → Core) : (s.updCore k g).links = s.links := rfl
@[simp] theorem State.updCore_requests (k : Nat) (g : Core → Core) : (s.updCore k g).requests = s.requests := rfl
@[simp] theorem State.updCore_fetched (k : Nat) (g : Core → Core) : (s.updCore k g).fetched = s.fetched := rfl
@[simp] theorem State.updCore_drops (k : Nat) (g : Core → Core) : (s.updCore k g).drops = s.drops := rfl
@[simp] theorem State.updCore_colnalRetries (k : Nat) (g : Core → Core) : (s.updCore k g).colnalRetries = s.colnalRetries := rfl
@[simp] theorem State.updCore_strandRetries (k : Nat) (g : Core → Core) : (s.updCore k g).strandRetries = s.strandRetries := rfl
@[simp] theorem State.updCore_eccCorrected (k : Nat) (g : Core → Core) : (s.updCore k g).eccCorrected = s.eccCorrected := rfl
@[simp] theorem State.updCore_eccPoisoned (k : Nat) (g : Core → Core) : (s.updCore k g).eccPoisoned = s.eccPoisoned := rfl
@[simp] theorem State.updCore_hostDirty (k : Nat) (g : Core → Core) : (s.updCore k g).hostDirty = s.hostDirty := rfl
@[simp] theorem State.updCore_l2Poison (k : Nat) (g : Core → Core) : (s.updCore k g).l2Poison = s.l2Poison := rfl
@[simp] theorem State.updCore_i3cAddress (k : Nat) (g : Core → Core) : (s.updCore k g).i3cAddress = s.i3cAddress := rfl
@[simp] theorem State.updCore_limited (k : Nat) (g : Core → Core) : (s.updCore k g).limited = s.limited := rfl
@[simp] theorem State.updCore_wgs (k : Nat) (g : Core → Core) : (s.updCore k g).wgs = s.wgs := rfl
@[simp] theorem State.updCore_free (k : Nat) (g : Core → Core) : (s.updCore k g).free = s.free := rfl
@[simp] theorem State.updCore_inputs (k : Nat) (g : Core → Core) : (s.updCore k g).inputs = s.inputs := rfl
@[simp] theorem State.updCore_outputs (k : Nat) (g : Core → Core) : (s.updCore k g).outputs = s.outputs := rfl
@[simp] theorem State.updCore_issue (k : Nat) (g : Core → Core) : (s.updCore k g).issue = s.issue := rfl
@[simp] theorem State.updCore_nextKey (k : Nat) (g : Core → Core) : (s.updCore k g).nextKey = s.nextKey := rfl

/-! `updWg`. -/

@[simp] theorem State.updWg_tide (k : Nat) (g : Workgroup → Workgroup) : (s.updWg k g).tide = s.tide := rfl
@[simp] theorem State.updWg_cyc (k : Nat) (g : Workgroup → Workgroup) : (s.updWg k g).cyc = s.cyc := rfl
@[simp] theorem State.updWg_mem (k : Nat) (g : Workgroup → Workgroup) : (s.updWg k g).mem = s.mem := rfl
@[simp] theorem State.updWg_memPoison (k : Nat) (g : Workgroup → Workgroup) : (s.updWg k g).memPoison = s.memPoison := rfl
@[simp] theorem State.updWg_compCodes (k : Nat) (g : Workgroup → Workgroup) : (s.updWg k g).compCodes = s.compCodes := rfl
@[simp] theorem State.updWg_ready (k : Nat) (g : Workgroup → Workgroup) : (s.updWg k g).ready = s.ready := rfl
@[simp] theorem State.updWg_memActive (k : Nat) (g : Workgroup → Workgroup) : (s.updWg k g).memActive = s.memActive := rfl
@[simp] theorem State.updWg_wiping (k : Nat) (g : Workgroup → Workgroup) : (s.updWg k g).wiping = s.wiping := rfl
@[simp] theorem State.updWg_powered (k : Nat) (g : Workgroup → Workgroup) : (s.updWg k g).powered = s.powered := rfl
@[simp] theorem State.updWg_lifeCycle (k : Nat) (g : Workgroup → Workgroup) : (s.updWg k g).lifeCycle = s.lifeCycle := rfl
@[simp] theorem State.updWg_lifeCyclePending (k : Nat) (g : Workgroup → Workgroup) : (s.updWg k g).lifeCyclePending = s.lifeCyclePending := rfl
@[simp] theorem State.updWg_identityKey (k : Nat) (g : Workgroup → Workgroup) : (s.updWg k g).identityKey = s.identityKey := rfl
@[simp] theorem State.updWg_firmware (k : Nat) (g : Workgroup → Workgroup) : (s.updWg k g).firmware = s.firmware := rfl
@[simp] theorem State.updWg_flash (k : Nat) (g : Workgroup → Workgroup) : (s.updWg k g).flash = s.flash := rfl
@[simp] theorem State.updWg_rollback (k : Nat) (g : Workgroup → Workgroup) : (s.updWg k g).rollback = s.rollback := rfl
@[simp] theorem State.updWg_recovery (k : Nat) (g : Workgroup → Workgroup) : (s.updWg k g).recovery = s.recovery := rfl
@[simp] theorem State.updWg_linksDown (k : Nat) (g : Workgroup → Workgroup) : (s.updWg k g).linksDown = s.linksDown := rfl
@[simp] theorem State.updWg_untimed (k : Nat) (g : Workgroup → Workgroup) : (s.updWg k g).untimed = s.untimed := rfl
@[simp] theorem State.updWg_queueBase (k : Nat) (g : Workgroup → Workgroup) : (s.updWg k g).queueBase = s.queueBase := rfl
@[simp] theorem State.updWg_queueCount (k : Nat) (g : Workgroup → Workgroup) : (s.updWg k g).queueCount = s.queueCount := rfl
@[simp] theorem State.updWg_queuePred (k : Nat) (g : Workgroup → Workgroup) : (s.updWg k g).queuePred = s.queuePred := rfl
@[simp] theorem State.updWg_lastQueue (k : Nat) (g : Workgroup → Workgroup) : (s.updWg k g).lastQueue = s.lastQueue := rfl
@[simp] theorem State.updWg_lseqCounter (k : Nat) (g : Workgroup → Workgroup) : (s.updWg k g).lseqCounter = s.lseqCounter := rfl
@[simp] theorem State.updWg_admitPointer (k : Nat) (g : Workgroup → Workgroup) : (s.updWg k g).admitPointer = s.admitPointer := rfl
@[simp] theorem State.updWg_launches (k : Nat) (g : Workgroup → Workgroup) : (s.updWg k g).launches = s.launches := rfl
@[simp] theorem State.updWg_segments (k : Nat) (g : Workgroup → Workgroup) : (s.updWg k g).segments = s.segments := rfl
@[simp] theorem State.updWg_counters (k : Nat) (g : Workgroup → Workgroup) : (s.updWg k g).counters = s.counters := rfl
@[simp] theorem State.updWg_dbg (k : Nat) (g : Workgroup → Workgroup) : (s.updWg k g).dbg = s.dbg := rfl
@[simp] theorem State.updWg_frbase (k : Nat) (g : Workgroup → Workgroup) : (s.updWg k g).frbase = s.frbase := rfl
@[simp] theorem State.updWg_frsize (k : Nat) (g : Workgroup → Workgroup) : (s.updWg k g).frsize = s.frsize := rfl
@[simp] theorem State.updWg_frwp (k : Nat) (g : Workgroup → Workgroup) : (s.updWg k g).frwp = s.frwp := rfl
@[simp] theorem State.updWg_frrp (k : Nat) (g : Workgroup → Workgroup) : (s.updWg k g).frrp = s.frrp := rfl
@[simp] theorem State.updWg_frBlocked (k : Nat) (g : Workgroup → Workgroup) : (s.updWg k g).frBlocked = s.frBlocked := rfl
@[simp] theorem State.updWg_wdog (k : Nat) (g : Workgroup → Workgroup) : (s.updWg k g).wdog = s.wdog := rfl
@[simp] theorem State.updWg_coveWays (k : Nat) (g : Workgroup → Workgroup) : (s.updWg k g).coveWays = s.coveWays := rfl
@[simp] theorem State.updWg_covePending (k : Nat) (g : Workgroup → Workgroup) : (s.updWg k g).covePending = s.covePending := rfl
@[simp] theorem State.updWg_ptroot (k : Nat) (g : Workgroup → Workgroup) : (s.updWg k g).ptroot = s.ptroot := rfl
@[simp] theorem State.updWg_fvec (k : Nat) (g : Workgroup → Workgroup) : (s.updWg k g).fvec = s.fvec := rfl
@[simp] theorem State.updWg_groups (k : Nat) (g : Workgroup → Workgroup) : (s.updWg k g).groups = s.groups := rfl
@[simp] theorem State.updWg_hostCsr (k : Nat) (g : Workgroup → Workgroup) : (s.updWg k g).hostCsr = s.hostCsr := rfl
@[simp] theorem State.updWg_records (k : Nat) (g : Workgroup → Workgroup) : (s.updWg k g).records = s.records := rfl
@[simp] theorem State.updWg_blackBox (k : Nat) (g : Workgroup → Workgroup) : (s.updWg k g).blackBox = s.blackBox := rfl
@[simp] theorem State.updWg_blackBoxWp (k : Nat) (g : Workgroup → Workgroup) : (s.updWg k g).blackBoxWp = s.blackBoxWp := rfl
@[simp] theorem State.updWg_tlb (k : Nat) (g : Workgroup → Workgroup) : (s.updWg k g).tlb = s.tlb := rfl
@[simp] theorem State.updWg_rdc (k : Nat) (g : Workgroup → Workgroup) : (s.updWg k g).rdc = s.rdc := rfl
@[simp] theorem State.updWg_l2 (k : Nat) (g : Workgroup → Workgroup) : (s.updWg k g).l2 = s.l2 := rfl
@[simp] theorem State.updWg_lineLog (k : Nat) (g : Workgroup → Workgroup) : (s.updWg k g).lineLog = s.lineLog := rfl
@[simp] theorem State.updWg_owners (k : Nat) (g : Workgroup → Workgroup) : (s.updWg k g).owners = s.owners := rfl
@[simp] theorem State.updWg_barrierQ (k : Nat) (g : Workgroup → Workgroup) : (s.updWg k g).barrierQ = s.barrierQ := rfl
@[simp] theorem State.updWg_farWaiters (k : Nat) (g : Workgroup → Workgroup) : (s.updWg k g).farWaiters = s.farWaiters := rfl
@[simp] theorem State.updWg_barrierHosts (k : Nat) (g : Workgroup → Workgroup) : (s.updWg k g).barrierHosts = s.barrierHosts := rfl
@[simp] theorem State.updWg_pkgBrushes (k : Nat) (g : Workgroup → Workgroup) : (s.updWg k g).pkgBrushes = s.pkgBrushes := rfl
@[simp] theorem State.updWg_pkgBrushPoison (k : Nat) (g : Workgroup → Workgroup) : (s.updWg k g).pkgBrushPoison = s.pkgBrushPoison := rfl
@[simp] theorem State.updWg_packets (k : Nat) (g : Workgroup → Workgroup) : (s.updWg k g).packets = s.packets := rfl
@[simp] theorem State.updWg_multi (k : Nat) (g : Workgroup → Workgroup) : (s.updWg k g).multi = s.multi := rfl
@[simp] theorem State.updWg_serving (k : Nat) (g : Workgroup → Workgroup) : (s.updWg k g).serving = s.serving := rfl
@[simp] theorem State.updWg_peers (k : Nat) (g : Workgroup → Workgroup) : (s.updWg k g).peers = s.peers := rfl
@[simp] theorem State.updWg_links (k : Nat) (g : Workgroup → Workgroup) : (s.updWg k g).links = s.links := rfl
@[simp] theorem State.updWg_requests (k : Nat) (g : Workgroup → Workgroup) : (s.updWg k g).requests = s.requests := rfl
@[simp] theorem State.updWg_fetched (k : Nat) (g : Workgroup → Workgroup) : (s.updWg k g).fetched = s.fetched := rfl
@[simp] theorem State.updWg_drops (k : Nat) (g : Workgroup → Workgroup) : (s.updWg k g).drops = s.drops := rfl
@[simp] theorem State.updWg_colnalRetries (k : Nat) (g : Workgroup → Workgroup) : (s.updWg k g).colnalRetries = s.colnalRetries := rfl
@[simp] theorem State.updWg_strandRetries (k : Nat) (g : Workgroup → Workgroup) : (s.updWg k g).strandRetries = s.strandRetries := rfl
@[simp] theorem State.updWg_eccCorrected (k : Nat) (g : Workgroup → Workgroup) : (s.updWg k g).eccCorrected = s.eccCorrected := rfl
@[simp] theorem State.updWg_eccPoisoned (k : Nat) (g : Workgroup → Workgroup) : (s.updWg k g).eccPoisoned = s.eccPoisoned := rfl
@[simp] theorem State.updWg_hostDirty (k : Nat) (g : Workgroup → Workgroup) : (s.updWg k g).hostDirty = s.hostDirty := rfl
@[simp] theorem State.updWg_l2Poison (k : Nat) (g : Workgroup → Workgroup) : (s.updWg k g).l2Poison = s.l2Poison := rfl
@[simp] theorem State.updWg_i3cAddress (k : Nat) (g : Workgroup → Workgroup) : (s.updWg k g).i3cAddress = s.i3cAddress := rfl
@[simp] theorem State.updWg_limited (k : Nat) (g : Workgroup → Workgroup) : (s.updWg k g).limited = s.limited := rfl
@[simp] theorem State.updWg_cores (k : Nat) (g : Workgroup → Workgroup) : (s.updWg k g).cores = s.cores := rfl
@[simp] theorem State.updWg_free (k : Nat) (g : Workgroup → Workgroup) : (s.updWg k g).free = s.free := rfl
@[simp] theorem State.updWg_inputs (k : Nat) (g : Workgroup → Workgroup) : (s.updWg k g).inputs = s.inputs := rfl
@[simp] theorem State.updWg_outputs (k : Nat) (g : Workgroup → Workgroup) : (s.updWg k g).outputs = s.outputs := rfl
@[simp] theorem State.updWg_issue (k : Nat) (g : Workgroup → Workgroup) : (s.updWg k g).issue = s.issue := rfl
@[simp] theorem State.updWg_nextKey (k : Nat) (g : Workgroup → Workgroup) : (s.updWg k g).nextKey = s.nextKey := rfl

/-! `updLaunch`. -/

@[simp] theorem State.updLaunch_tide (k : Nat) (g : Launch → Launch) : (s.updLaunch k g).tide = s.tide := rfl
@[simp] theorem State.updLaunch_cyc (k : Nat) (g : Launch → Launch) : (s.updLaunch k g).cyc = s.cyc := rfl
@[simp] theorem State.updLaunch_mem (k : Nat) (g : Launch → Launch) : (s.updLaunch k g).mem = s.mem := rfl
@[simp] theorem State.updLaunch_memPoison (k : Nat) (g : Launch → Launch) : (s.updLaunch k g).memPoison = s.memPoison := rfl
@[simp] theorem State.updLaunch_compCodes (k : Nat) (g : Launch → Launch) : (s.updLaunch k g).compCodes = s.compCodes := rfl
@[simp] theorem State.updLaunch_ready (k : Nat) (g : Launch → Launch) : (s.updLaunch k g).ready = s.ready := rfl
@[simp] theorem State.updLaunch_memActive (k : Nat) (g : Launch → Launch) : (s.updLaunch k g).memActive = s.memActive := rfl
@[simp] theorem State.updLaunch_wiping (k : Nat) (g : Launch → Launch) : (s.updLaunch k g).wiping = s.wiping := rfl
@[simp] theorem State.updLaunch_powered (k : Nat) (g : Launch → Launch) : (s.updLaunch k g).powered = s.powered := rfl
@[simp] theorem State.updLaunch_lifeCycle (k : Nat) (g : Launch → Launch) : (s.updLaunch k g).lifeCycle = s.lifeCycle := rfl
@[simp] theorem State.updLaunch_lifeCyclePending (k : Nat) (g : Launch → Launch) : (s.updLaunch k g).lifeCyclePending = s.lifeCyclePending := rfl
@[simp] theorem State.updLaunch_identityKey (k : Nat) (g : Launch → Launch) : (s.updLaunch k g).identityKey = s.identityKey := rfl
@[simp] theorem State.updLaunch_firmware (k : Nat) (g : Launch → Launch) : (s.updLaunch k g).firmware = s.firmware := rfl
@[simp] theorem State.updLaunch_flash (k : Nat) (g : Launch → Launch) : (s.updLaunch k g).flash = s.flash := rfl
@[simp] theorem State.updLaunch_rollback (k : Nat) (g : Launch → Launch) : (s.updLaunch k g).rollback = s.rollback := rfl
@[simp] theorem State.updLaunch_recovery (k : Nat) (g : Launch → Launch) : (s.updLaunch k g).recovery = s.recovery := rfl
@[simp] theorem State.updLaunch_linksDown (k : Nat) (g : Launch → Launch) : (s.updLaunch k g).linksDown = s.linksDown := rfl
@[simp] theorem State.updLaunch_untimed (k : Nat) (g : Launch → Launch) : (s.updLaunch k g).untimed = s.untimed := rfl
@[simp] theorem State.updLaunch_queueBase (k : Nat) (g : Launch → Launch) : (s.updLaunch k g).queueBase = s.queueBase := rfl
@[simp] theorem State.updLaunch_queueCount (k : Nat) (g : Launch → Launch) : (s.updLaunch k g).queueCount = s.queueCount := rfl
@[simp] theorem State.updLaunch_queuePred (k : Nat) (g : Launch → Launch) : (s.updLaunch k g).queuePred = s.queuePred := rfl
@[simp] theorem State.updLaunch_lastQueue (k : Nat) (g : Launch → Launch) : (s.updLaunch k g).lastQueue = s.lastQueue := rfl
@[simp] theorem State.updLaunch_lseqCounter (k : Nat) (g : Launch → Launch) : (s.updLaunch k g).lseqCounter = s.lseqCounter := rfl
@[simp] theorem State.updLaunch_admitPointer (k : Nat) (g : Launch → Launch) : (s.updLaunch k g).admitPointer = s.admitPointer := rfl
@[simp] theorem State.updLaunch_segments (k : Nat) (g : Launch → Launch) : (s.updLaunch k g).segments = s.segments := rfl
@[simp] theorem State.updLaunch_counters (k : Nat) (g : Launch → Launch) : (s.updLaunch k g).counters = s.counters := rfl
@[simp] theorem State.updLaunch_dbg (k : Nat) (g : Launch → Launch) : (s.updLaunch k g).dbg = s.dbg := rfl
@[simp] theorem State.updLaunch_frbase (k : Nat) (g : Launch → Launch) : (s.updLaunch k g).frbase = s.frbase := rfl
@[simp] theorem State.updLaunch_frsize (k : Nat) (g : Launch → Launch) : (s.updLaunch k g).frsize = s.frsize := rfl
@[simp] theorem State.updLaunch_frwp (k : Nat) (g : Launch → Launch) : (s.updLaunch k g).frwp = s.frwp := rfl
@[simp] theorem State.updLaunch_frrp (k : Nat) (g : Launch → Launch) : (s.updLaunch k g).frrp = s.frrp := rfl
@[simp] theorem State.updLaunch_frBlocked (k : Nat) (g : Launch → Launch) : (s.updLaunch k g).frBlocked = s.frBlocked := rfl
@[simp] theorem State.updLaunch_wdog (k : Nat) (g : Launch → Launch) : (s.updLaunch k g).wdog = s.wdog := rfl
@[simp] theorem State.updLaunch_coveWays (k : Nat) (g : Launch → Launch) : (s.updLaunch k g).coveWays = s.coveWays := rfl
@[simp] theorem State.updLaunch_covePending (k : Nat) (g : Launch → Launch) : (s.updLaunch k g).covePending = s.covePending := rfl
@[simp] theorem State.updLaunch_ptroot (k : Nat) (g : Launch → Launch) : (s.updLaunch k g).ptroot = s.ptroot := rfl
@[simp] theorem State.updLaunch_fvec (k : Nat) (g : Launch → Launch) : (s.updLaunch k g).fvec = s.fvec := rfl
@[simp] theorem State.updLaunch_groups (k : Nat) (g : Launch → Launch) : (s.updLaunch k g).groups = s.groups := rfl
@[simp] theorem State.updLaunch_hostCsr (k : Nat) (g : Launch → Launch) : (s.updLaunch k g).hostCsr = s.hostCsr := rfl
@[simp] theorem State.updLaunch_records (k : Nat) (g : Launch → Launch) : (s.updLaunch k g).records = s.records := rfl
@[simp] theorem State.updLaunch_blackBox (k : Nat) (g : Launch → Launch) : (s.updLaunch k g).blackBox = s.blackBox := rfl
@[simp] theorem State.updLaunch_blackBoxWp (k : Nat) (g : Launch → Launch) : (s.updLaunch k g).blackBoxWp = s.blackBoxWp := rfl
@[simp] theorem State.updLaunch_tlb (k : Nat) (g : Launch → Launch) : (s.updLaunch k g).tlb = s.tlb := rfl
@[simp] theorem State.updLaunch_rdc (k : Nat) (g : Launch → Launch) : (s.updLaunch k g).rdc = s.rdc := rfl
@[simp] theorem State.updLaunch_l2 (k : Nat) (g : Launch → Launch) : (s.updLaunch k g).l2 = s.l2 := rfl
@[simp] theorem State.updLaunch_lineLog (k : Nat) (g : Launch → Launch) : (s.updLaunch k g).lineLog = s.lineLog := rfl
@[simp] theorem State.updLaunch_owners (k : Nat) (g : Launch → Launch) : (s.updLaunch k g).owners = s.owners := rfl
@[simp] theorem State.updLaunch_barrierQ (k : Nat) (g : Launch → Launch) : (s.updLaunch k g).barrierQ = s.barrierQ := rfl
@[simp] theorem State.updLaunch_farWaiters (k : Nat) (g : Launch → Launch) : (s.updLaunch k g).farWaiters = s.farWaiters := rfl
@[simp] theorem State.updLaunch_barrierHosts (k : Nat) (g : Launch → Launch) : (s.updLaunch k g).barrierHosts = s.barrierHosts := rfl
@[simp] theorem State.updLaunch_pkgBrushes (k : Nat) (g : Launch → Launch) : (s.updLaunch k g).pkgBrushes = s.pkgBrushes := rfl
@[simp] theorem State.updLaunch_pkgBrushPoison (k : Nat) (g : Launch → Launch) : (s.updLaunch k g).pkgBrushPoison = s.pkgBrushPoison := rfl
@[simp] theorem State.updLaunch_packets (k : Nat) (g : Launch → Launch) : (s.updLaunch k g).packets = s.packets := rfl
@[simp] theorem State.updLaunch_multi (k : Nat) (g : Launch → Launch) : (s.updLaunch k g).multi = s.multi := rfl
@[simp] theorem State.updLaunch_serving (k : Nat) (g : Launch → Launch) : (s.updLaunch k g).serving = s.serving := rfl
@[simp] theorem State.updLaunch_peers (k : Nat) (g : Launch → Launch) : (s.updLaunch k g).peers = s.peers := rfl
@[simp] theorem State.updLaunch_links (k : Nat) (g : Launch → Launch) : (s.updLaunch k g).links = s.links := rfl
@[simp] theorem State.updLaunch_requests (k : Nat) (g : Launch → Launch) : (s.updLaunch k g).requests = s.requests := rfl
@[simp] theorem State.updLaunch_fetched (k : Nat) (g : Launch → Launch) : (s.updLaunch k g).fetched = s.fetched := rfl
@[simp] theorem State.updLaunch_drops (k : Nat) (g : Launch → Launch) : (s.updLaunch k g).drops = s.drops := rfl
@[simp] theorem State.updLaunch_colnalRetries (k : Nat) (g : Launch → Launch) : (s.updLaunch k g).colnalRetries = s.colnalRetries := rfl
@[simp] theorem State.updLaunch_strandRetries (k : Nat) (g : Launch → Launch) : (s.updLaunch k g).strandRetries = s.strandRetries := rfl
@[simp] theorem State.updLaunch_eccCorrected (k : Nat) (g : Launch → Launch) : (s.updLaunch k g).eccCorrected = s.eccCorrected := rfl
@[simp] theorem State.updLaunch_eccPoisoned (k : Nat) (g : Launch → Launch) : (s.updLaunch k g).eccPoisoned = s.eccPoisoned := rfl
@[simp] theorem State.updLaunch_hostDirty (k : Nat) (g : Launch → Launch) : (s.updLaunch k g).hostDirty = s.hostDirty := rfl
@[simp] theorem State.updLaunch_l2Poison (k : Nat) (g : Launch → Launch) : (s.updLaunch k g).l2Poison = s.l2Poison := rfl
@[simp] theorem State.updLaunch_i3cAddress (k : Nat) (g : Launch → Launch) : (s.updLaunch k g).i3cAddress = s.i3cAddress := rfl
@[simp] theorem State.updLaunch_limited (k : Nat) (g : Launch → Launch) : (s.updLaunch k g).limited = s.limited := rfl
@[simp] theorem State.updLaunch_cores (k : Nat) (g : Launch → Launch) : (s.updLaunch k g).cores = s.cores := rfl
@[simp] theorem State.updLaunch_wgs (k : Nat) (g : Launch → Launch) : (s.updLaunch k g).wgs = s.wgs := rfl
@[simp] theorem State.updLaunch_free (k : Nat) (g : Launch → Launch) : (s.updLaunch k g).free = s.free := rfl
@[simp] theorem State.updLaunch_inputs (k : Nat) (g : Launch → Launch) : (s.updLaunch k g).inputs = s.inputs := rfl
@[simp] theorem State.updLaunch_outputs (k : Nat) (g : Launch → Launch) : (s.updLaunch k g).outputs = s.outputs := rfl
@[simp] theorem State.updLaunch_issue (k : Nat) (g : Launch → Launch) : (s.updLaunch k g).issue = s.issue := rfl
@[simp] theorem State.updLaunch_nextKey (k : Nat) (g : Launch → Launch) : (s.updLaunch k g).nextKey = s.nextKey := rfl

/-! `updLanes`. -/

@[simp] theorem State.updLanes_tide (g : Fibre → Fibre) : (s.updLanes c g).tide = s.tide := rfl
@[simp] theorem State.updLanes_cyc (g : Fibre → Fibre) : (s.updLanes c g).cyc = s.cyc := rfl
@[simp] theorem State.updLanes_mem (g : Fibre → Fibre) : (s.updLanes c g).mem = s.mem := rfl
@[simp] theorem State.updLanes_memPoison (g : Fibre → Fibre) : (s.updLanes c g).memPoison = s.memPoison := rfl
@[simp] theorem State.updLanes_compCodes (g : Fibre → Fibre) : (s.updLanes c g).compCodes = s.compCodes := rfl
@[simp] theorem State.updLanes_ready (g : Fibre → Fibre) : (s.updLanes c g).ready = s.ready := rfl
@[simp] theorem State.updLanes_memActive (g : Fibre → Fibre) : (s.updLanes c g).memActive = s.memActive := rfl
@[simp] theorem State.updLanes_wiping (g : Fibre → Fibre) : (s.updLanes c g).wiping = s.wiping := rfl
@[simp] theorem State.updLanes_powered (g : Fibre → Fibre) : (s.updLanes c g).powered = s.powered := rfl
@[simp] theorem State.updLanes_lifeCycle (g : Fibre → Fibre) : (s.updLanes c g).lifeCycle = s.lifeCycle := rfl
@[simp] theorem State.updLanes_lifeCyclePending (g : Fibre → Fibre) : (s.updLanes c g).lifeCyclePending = s.lifeCyclePending := rfl
@[simp] theorem State.updLanes_identityKey (g : Fibre → Fibre) : (s.updLanes c g).identityKey = s.identityKey := rfl
@[simp] theorem State.updLanes_firmware (g : Fibre → Fibre) : (s.updLanes c g).firmware = s.firmware := rfl
@[simp] theorem State.updLanes_flash (g : Fibre → Fibre) : (s.updLanes c g).flash = s.flash := rfl
@[simp] theorem State.updLanes_rollback (g : Fibre → Fibre) : (s.updLanes c g).rollback = s.rollback := rfl
@[simp] theorem State.updLanes_recovery (g : Fibre → Fibre) : (s.updLanes c g).recovery = s.recovery := rfl
@[simp] theorem State.updLanes_linksDown (g : Fibre → Fibre) : (s.updLanes c g).linksDown = s.linksDown := rfl
@[simp] theorem State.updLanes_untimed (g : Fibre → Fibre) : (s.updLanes c g).untimed = s.untimed := rfl
@[simp] theorem State.updLanes_queueBase (g : Fibre → Fibre) : (s.updLanes c g).queueBase = s.queueBase := rfl
@[simp] theorem State.updLanes_queueCount (g : Fibre → Fibre) : (s.updLanes c g).queueCount = s.queueCount := rfl
@[simp] theorem State.updLanes_queuePred (g : Fibre → Fibre) : (s.updLanes c g).queuePred = s.queuePred := rfl
@[simp] theorem State.updLanes_lastQueue (g : Fibre → Fibre) : (s.updLanes c g).lastQueue = s.lastQueue := rfl
@[simp] theorem State.updLanes_lseqCounter (g : Fibre → Fibre) : (s.updLanes c g).lseqCounter = s.lseqCounter := rfl
@[simp] theorem State.updLanes_admitPointer (g : Fibre → Fibre) : (s.updLanes c g).admitPointer = s.admitPointer := rfl
@[simp] theorem State.updLanes_launches (g : Fibre → Fibre) : (s.updLanes c g).launches = s.launches := rfl
@[simp] theorem State.updLanes_segments (g : Fibre → Fibre) : (s.updLanes c g).segments = s.segments := rfl
@[simp] theorem State.updLanes_counters (g : Fibre → Fibre) : (s.updLanes c g).counters = s.counters := rfl
@[simp] theorem State.updLanes_dbg (g : Fibre → Fibre) : (s.updLanes c g).dbg = s.dbg := rfl
@[simp] theorem State.updLanes_frbase (g : Fibre → Fibre) : (s.updLanes c g).frbase = s.frbase := rfl
@[simp] theorem State.updLanes_frsize (g : Fibre → Fibre) : (s.updLanes c g).frsize = s.frsize := rfl
@[simp] theorem State.updLanes_frwp (g : Fibre → Fibre) : (s.updLanes c g).frwp = s.frwp := rfl
@[simp] theorem State.updLanes_frrp (g : Fibre → Fibre) : (s.updLanes c g).frrp = s.frrp := rfl
@[simp] theorem State.updLanes_frBlocked (g : Fibre → Fibre) : (s.updLanes c g).frBlocked = s.frBlocked := rfl
@[simp] theorem State.updLanes_wdog (g : Fibre → Fibre) : (s.updLanes c g).wdog = s.wdog := rfl
@[simp] theorem State.updLanes_coveWays (g : Fibre → Fibre) : (s.updLanes c g).coveWays = s.coveWays := rfl
@[simp] theorem State.updLanes_covePending (g : Fibre → Fibre) : (s.updLanes c g).covePending = s.covePending := rfl
@[simp] theorem State.updLanes_ptroot (g : Fibre → Fibre) : (s.updLanes c g).ptroot = s.ptroot := rfl
@[simp] theorem State.updLanes_fvec (g : Fibre → Fibre) : (s.updLanes c g).fvec = s.fvec := rfl
@[simp] theorem State.updLanes_groups (g : Fibre → Fibre) : (s.updLanes c g).groups = s.groups := rfl
@[simp] theorem State.updLanes_hostCsr (g : Fibre → Fibre) : (s.updLanes c g).hostCsr = s.hostCsr := rfl
@[simp] theorem State.updLanes_records (g : Fibre → Fibre) : (s.updLanes c g).records = s.records := rfl
@[simp] theorem State.updLanes_blackBox (g : Fibre → Fibre) : (s.updLanes c g).blackBox = s.blackBox := rfl
@[simp] theorem State.updLanes_blackBoxWp (g : Fibre → Fibre) : (s.updLanes c g).blackBoxWp = s.blackBoxWp := rfl
@[simp] theorem State.updLanes_tlb (g : Fibre → Fibre) : (s.updLanes c g).tlb = s.tlb := rfl
@[simp] theorem State.updLanes_rdc (g : Fibre → Fibre) : (s.updLanes c g).rdc = s.rdc := rfl
@[simp] theorem State.updLanes_l2 (g : Fibre → Fibre) : (s.updLanes c g).l2 = s.l2 := rfl
@[simp] theorem State.updLanes_lineLog (g : Fibre → Fibre) : (s.updLanes c g).lineLog = s.lineLog := rfl
@[simp] theorem State.updLanes_owners (g : Fibre → Fibre) : (s.updLanes c g).owners = s.owners := rfl
@[simp] theorem State.updLanes_barrierQ (g : Fibre → Fibre) : (s.updLanes c g).barrierQ = s.barrierQ := rfl
@[simp] theorem State.updLanes_farWaiters (g : Fibre → Fibre) : (s.updLanes c g).farWaiters = s.farWaiters := rfl
@[simp] theorem State.updLanes_barrierHosts (g : Fibre → Fibre) : (s.updLanes c g).barrierHosts = s.barrierHosts := rfl
@[simp] theorem State.updLanes_pkgBrushes (g : Fibre → Fibre) : (s.updLanes c g).pkgBrushes = s.pkgBrushes := rfl
@[simp] theorem State.updLanes_pkgBrushPoison (g : Fibre → Fibre) : (s.updLanes c g).pkgBrushPoison = s.pkgBrushPoison := rfl
@[simp] theorem State.updLanes_packets (g : Fibre → Fibre) : (s.updLanes c g).packets = s.packets := rfl
@[simp] theorem State.updLanes_multi (g : Fibre → Fibre) : (s.updLanes c g).multi = s.multi := rfl
@[simp] theorem State.updLanes_serving (g : Fibre → Fibre) : (s.updLanes c g).serving = s.serving := rfl
@[simp] theorem State.updLanes_peers (g : Fibre → Fibre) : (s.updLanes c g).peers = s.peers := rfl
@[simp] theorem State.updLanes_links (g : Fibre → Fibre) : (s.updLanes c g).links = s.links := rfl
@[simp] theorem State.updLanes_requests (g : Fibre → Fibre) : (s.updLanes c g).requests = s.requests := rfl
@[simp] theorem State.updLanes_fetched (g : Fibre → Fibre) : (s.updLanes c g).fetched = s.fetched := rfl
@[simp] theorem State.updLanes_drops (g : Fibre → Fibre) : (s.updLanes c g).drops = s.drops := rfl
@[simp] theorem State.updLanes_colnalRetries (g : Fibre → Fibre) : (s.updLanes c g).colnalRetries = s.colnalRetries := rfl
@[simp] theorem State.updLanes_strandRetries (g : Fibre → Fibre) : (s.updLanes c g).strandRetries = s.strandRetries := rfl
@[simp] theorem State.updLanes_eccCorrected (g : Fibre → Fibre) : (s.updLanes c g).eccCorrected = s.eccCorrected := rfl
@[simp] theorem State.updLanes_eccPoisoned (g : Fibre → Fibre) : (s.updLanes c g).eccPoisoned = s.eccPoisoned := rfl
@[simp] theorem State.updLanes_hostDirty (g : Fibre → Fibre) : (s.updLanes c g).hostDirty = s.hostDirty := rfl
@[simp] theorem State.updLanes_l2Poison (g : Fibre → Fibre) : (s.updLanes c g).l2Poison = s.l2Poison := rfl
@[simp] theorem State.updLanes_i3cAddress (g : Fibre → Fibre) : (s.updLanes c g).i3cAddress = s.i3cAddress := rfl
@[simp] theorem State.updLanes_limited (g : Fibre → Fibre) : (s.updLanes c g).limited = s.limited := rfl
@[simp] theorem State.updLanes_cores (g : Fibre → Fibre) : (s.updLanes c g).cores = s.cores := rfl
@[simp] theorem State.updLanes_free (g : Fibre → Fibre) : (s.updLanes c g).free = s.free := rfl
@[simp] theorem State.updLanes_inputs (g : Fibre → Fibre) : (s.updLanes c g).inputs = s.inputs := rfl
@[simp] theorem State.updLanes_outputs (g : Fibre → Fibre) : (s.updLanes c g).outputs = s.outputs := rfl
@[simp] theorem State.updLanes_issue (g : Fibre → Fibre) : (s.updLanes c g).issue = s.issue := rfl
@[simp] theorem State.updLanes_nextKey (g : Fibre → Fibre) : (s.updLanes c g).nextKey = s.nextKey := rfl

/-! `lanewise`. -/

@[simp] theorem State.lanewise_tide (g : Fibre → Fibre) : (s.lanewise c g).tide = s.tide := rfl
@[simp] theorem State.lanewise_cyc (g : Fibre → Fibre) : (s.lanewise c g).cyc = s.cyc := rfl
@[simp] theorem State.lanewise_mem (g : Fibre → Fibre) : (s.lanewise c g).mem = s.mem := rfl
@[simp] theorem State.lanewise_memPoison (g : Fibre → Fibre) : (s.lanewise c g).memPoison = s.memPoison := rfl
@[simp] theorem State.lanewise_compCodes (g : Fibre → Fibre) : (s.lanewise c g).compCodes = s.compCodes := rfl
@[simp] theorem State.lanewise_ready (g : Fibre → Fibre) : (s.lanewise c g).ready = s.ready := rfl
@[simp] theorem State.lanewise_memActive (g : Fibre → Fibre) : (s.lanewise c g).memActive = s.memActive := rfl
@[simp] theorem State.lanewise_wiping (g : Fibre → Fibre) : (s.lanewise c g).wiping = s.wiping := rfl
@[simp] theorem State.lanewise_powered (g : Fibre → Fibre) : (s.lanewise c g).powered = s.powered := rfl
@[simp] theorem State.lanewise_lifeCycle (g : Fibre → Fibre) : (s.lanewise c g).lifeCycle = s.lifeCycle := rfl
@[simp] theorem State.lanewise_lifeCyclePending (g : Fibre → Fibre) : (s.lanewise c g).lifeCyclePending = s.lifeCyclePending := rfl
@[simp] theorem State.lanewise_identityKey (g : Fibre → Fibre) : (s.lanewise c g).identityKey = s.identityKey := rfl
@[simp] theorem State.lanewise_firmware (g : Fibre → Fibre) : (s.lanewise c g).firmware = s.firmware := rfl
@[simp] theorem State.lanewise_flash (g : Fibre → Fibre) : (s.lanewise c g).flash = s.flash := rfl
@[simp] theorem State.lanewise_rollback (g : Fibre → Fibre) : (s.lanewise c g).rollback = s.rollback := rfl
@[simp] theorem State.lanewise_recovery (g : Fibre → Fibre) : (s.lanewise c g).recovery = s.recovery := rfl
@[simp] theorem State.lanewise_linksDown (g : Fibre → Fibre) : (s.lanewise c g).linksDown = s.linksDown := rfl
@[simp] theorem State.lanewise_untimed (g : Fibre → Fibre) : (s.lanewise c g).untimed = s.untimed := rfl
@[simp] theorem State.lanewise_queueBase (g : Fibre → Fibre) : (s.lanewise c g).queueBase = s.queueBase := rfl
@[simp] theorem State.lanewise_queueCount (g : Fibre → Fibre) : (s.lanewise c g).queueCount = s.queueCount := rfl
@[simp] theorem State.lanewise_queuePred (g : Fibre → Fibre) : (s.lanewise c g).queuePred = s.queuePred := rfl
@[simp] theorem State.lanewise_lastQueue (g : Fibre → Fibre) : (s.lanewise c g).lastQueue = s.lastQueue := rfl
@[simp] theorem State.lanewise_lseqCounter (g : Fibre → Fibre) : (s.lanewise c g).lseqCounter = s.lseqCounter := rfl
@[simp] theorem State.lanewise_admitPointer (g : Fibre → Fibre) : (s.lanewise c g).admitPointer = s.admitPointer := rfl
@[simp] theorem State.lanewise_launches (g : Fibre → Fibre) : (s.lanewise c g).launches = s.launches := rfl
@[simp] theorem State.lanewise_segments (g : Fibre → Fibre) : (s.lanewise c g).segments = s.segments := rfl
@[simp] theorem State.lanewise_counters (g : Fibre → Fibre) : (s.lanewise c g).counters = s.counters := rfl
@[simp] theorem State.lanewise_dbg (g : Fibre → Fibre) : (s.lanewise c g).dbg = s.dbg := rfl
@[simp] theorem State.lanewise_frbase (g : Fibre → Fibre) : (s.lanewise c g).frbase = s.frbase := rfl
@[simp] theorem State.lanewise_frsize (g : Fibre → Fibre) : (s.lanewise c g).frsize = s.frsize := rfl
@[simp] theorem State.lanewise_frwp (g : Fibre → Fibre) : (s.lanewise c g).frwp = s.frwp := rfl
@[simp] theorem State.lanewise_frrp (g : Fibre → Fibre) : (s.lanewise c g).frrp = s.frrp := rfl
@[simp] theorem State.lanewise_frBlocked (g : Fibre → Fibre) : (s.lanewise c g).frBlocked = s.frBlocked := rfl
@[simp] theorem State.lanewise_wdog (g : Fibre → Fibre) : (s.lanewise c g).wdog = s.wdog := rfl
@[simp] theorem State.lanewise_coveWays (g : Fibre → Fibre) : (s.lanewise c g).coveWays = s.coveWays := rfl
@[simp] theorem State.lanewise_covePending (g : Fibre → Fibre) : (s.lanewise c g).covePending = s.covePending := rfl
@[simp] theorem State.lanewise_ptroot (g : Fibre → Fibre) : (s.lanewise c g).ptroot = s.ptroot := rfl
@[simp] theorem State.lanewise_fvec (g : Fibre → Fibre) : (s.lanewise c g).fvec = s.fvec := rfl
@[simp] theorem State.lanewise_groups (g : Fibre → Fibre) : (s.lanewise c g).groups = s.groups := rfl
@[simp] theorem State.lanewise_hostCsr (g : Fibre → Fibre) : (s.lanewise c g).hostCsr = s.hostCsr := rfl
@[simp] theorem State.lanewise_records (g : Fibre → Fibre) : (s.lanewise c g).records = s.records := rfl
@[simp] theorem State.lanewise_blackBox (g : Fibre → Fibre) : (s.lanewise c g).blackBox = s.blackBox := rfl
@[simp] theorem State.lanewise_blackBoxWp (g : Fibre → Fibre) : (s.lanewise c g).blackBoxWp = s.blackBoxWp := rfl
@[simp] theorem State.lanewise_tlb (g : Fibre → Fibre) : (s.lanewise c g).tlb = s.tlb := rfl
@[simp] theorem State.lanewise_rdc (g : Fibre → Fibre) : (s.lanewise c g).rdc = s.rdc := rfl
@[simp] theorem State.lanewise_l2 (g : Fibre → Fibre) : (s.lanewise c g).l2 = s.l2 := rfl
@[simp] theorem State.lanewise_lineLog (g : Fibre → Fibre) : (s.lanewise c g).lineLog = s.lineLog := rfl
@[simp] theorem State.lanewise_owners (g : Fibre → Fibre) : (s.lanewise c g).owners = s.owners := rfl
@[simp] theorem State.lanewise_barrierQ (g : Fibre → Fibre) : (s.lanewise c g).barrierQ = s.barrierQ := rfl
@[simp] theorem State.lanewise_farWaiters (g : Fibre → Fibre) : (s.lanewise c g).farWaiters = s.farWaiters := rfl
@[simp] theorem State.lanewise_barrierHosts (g : Fibre → Fibre) : (s.lanewise c g).barrierHosts = s.barrierHosts := rfl
@[simp] theorem State.lanewise_pkgBrushes (g : Fibre → Fibre) : (s.lanewise c g).pkgBrushes = s.pkgBrushes := rfl
@[simp] theorem State.lanewise_pkgBrushPoison (g : Fibre → Fibre) : (s.lanewise c g).pkgBrushPoison = s.pkgBrushPoison := rfl
@[simp] theorem State.lanewise_packets (g : Fibre → Fibre) : (s.lanewise c g).packets = s.packets := rfl
@[simp] theorem State.lanewise_multi (g : Fibre → Fibre) : (s.lanewise c g).multi = s.multi := rfl
@[simp] theorem State.lanewise_serving (g : Fibre → Fibre) : (s.lanewise c g).serving = s.serving := rfl
@[simp] theorem State.lanewise_peers (g : Fibre → Fibre) : (s.lanewise c g).peers = s.peers := rfl
@[simp] theorem State.lanewise_links (g : Fibre → Fibre) : (s.lanewise c g).links = s.links := rfl
@[simp] theorem State.lanewise_requests (g : Fibre → Fibre) : (s.lanewise c g).requests = s.requests := rfl
@[simp] theorem State.lanewise_fetched (g : Fibre → Fibre) : (s.lanewise c g).fetched = s.fetched := rfl
@[simp] theorem State.lanewise_drops (g : Fibre → Fibre) : (s.lanewise c g).drops = s.drops := rfl
@[simp] theorem State.lanewise_colnalRetries (g : Fibre → Fibre) : (s.lanewise c g).colnalRetries = s.colnalRetries := rfl
@[simp] theorem State.lanewise_strandRetries (g : Fibre → Fibre) : (s.lanewise c g).strandRetries = s.strandRetries := rfl
@[simp] theorem State.lanewise_eccCorrected (g : Fibre → Fibre) : (s.lanewise c g).eccCorrected = s.eccCorrected := rfl
@[simp] theorem State.lanewise_eccPoisoned (g : Fibre → Fibre) : (s.lanewise c g).eccPoisoned = s.eccPoisoned := rfl
@[simp] theorem State.lanewise_hostDirty (g : Fibre → Fibre) : (s.lanewise c g).hostDirty = s.hostDirty := rfl
@[simp] theorem State.lanewise_l2Poison (g : Fibre → Fibre) : (s.lanewise c g).l2Poison = s.l2Poison := rfl
@[simp] theorem State.lanewise_i3cAddress (g : Fibre → Fibre) : (s.lanewise c g).i3cAddress = s.i3cAddress := rfl
@[simp] theorem State.lanewise_limited (g : Fibre → Fibre) : (s.lanewise c g).limited = s.limited := rfl
@[simp] theorem State.lanewise_cores (g : Fibre → Fibre) : (s.lanewise c g).cores = s.cores := rfl
@[simp] theorem State.lanewise_free (g : Fibre → Fibre) : (s.lanewise c g).free = s.free := rfl
@[simp] theorem State.lanewise_inputs (g : Fibre → Fibre) : (s.lanewise c g).inputs = s.inputs := rfl
@[simp] theorem State.lanewise_outputs (g : Fibre → Fibre) : (s.lanewise c g).outputs = s.outputs := rfl
@[simp] theorem State.lanewise_issue (g : Fibre → Fibre) : (s.lanewise c g).issue = s.issue := rfl
@[simp] theorem State.lanewise_nextKey (g : Fibre → Fibre) : (s.lanewise c g).nextKey = s.nextKey := rfl

/-! `fire`. -/

@[simp] theorem State.fire_tide (n : Option Nat) (l : WatchLine) : (s.fire n l).tide = s.tide := rfl
@[simp] theorem State.fire_cyc (n : Option Nat) (l : WatchLine) : (s.fire n l).cyc = s.cyc := rfl
@[simp] theorem State.fire_mem (n : Option Nat) (l : WatchLine) : (s.fire n l).mem = s.mem := rfl
@[simp] theorem State.fire_memPoison (n : Option Nat) (l : WatchLine) : (s.fire n l).memPoison = s.memPoison := rfl
@[simp] theorem State.fire_compCodes (n : Option Nat) (l : WatchLine) : (s.fire n l).compCodes = s.compCodes := rfl
@[simp] theorem State.fire_ready (n : Option Nat) (l : WatchLine) : (s.fire n l).ready = s.ready := rfl
@[simp] theorem State.fire_memActive (n : Option Nat) (l : WatchLine) : (s.fire n l).memActive = s.memActive := rfl
@[simp] theorem State.fire_wiping (n : Option Nat) (l : WatchLine) : (s.fire n l).wiping = s.wiping := rfl
@[simp] theorem State.fire_powered (n : Option Nat) (l : WatchLine) : (s.fire n l).powered = s.powered := rfl
@[simp] theorem State.fire_lifeCycle (n : Option Nat) (l : WatchLine) : (s.fire n l).lifeCycle = s.lifeCycle := rfl
@[simp] theorem State.fire_lifeCyclePending (n : Option Nat) (l : WatchLine) : (s.fire n l).lifeCyclePending = s.lifeCyclePending := rfl
@[simp] theorem State.fire_identityKey (n : Option Nat) (l : WatchLine) : (s.fire n l).identityKey = s.identityKey := rfl
@[simp] theorem State.fire_firmware (n : Option Nat) (l : WatchLine) : (s.fire n l).firmware = s.firmware := rfl
@[simp] theorem State.fire_flash (n : Option Nat) (l : WatchLine) : (s.fire n l).flash = s.flash := rfl
@[simp] theorem State.fire_rollback (n : Option Nat) (l : WatchLine) : (s.fire n l).rollback = s.rollback := rfl
@[simp] theorem State.fire_recovery (n : Option Nat) (l : WatchLine) : (s.fire n l).recovery = s.recovery := rfl
@[simp] theorem State.fire_linksDown (n : Option Nat) (l : WatchLine) : (s.fire n l).linksDown = s.linksDown := rfl
@[simp] theorem State.fire_untimed (n : Option Nat) (l : WatchLine) : (s.fire n l).untimed = s.untimed := rfl
@[simp] theorem State.fire_queueBase (n : Option Nat) (l : WatchLine) : (s.fire n l).queueBase = s.queueBase := rfl
@[simp] theorem State.fire_queueCount (n : Option Nat) (l : WatchLine) : (s.fire n l).queueCount = s.queueCount := rfl
@[simp] theorem State.fire_queuePred (n : Option Nat) (l : WatchLine) : (s.fire n l).queuePred = s.queuePred := rfl
@[simp] theorem State.fire_lastQueue (n : Option Nat) (l : WatchLine) : (s.fire n l).lastQueue = s.lastQueue := rfl
@[simp] theorem State.fire_lseqCounter (n : Option Nat) (l : WatchLine) : (s.fire n l).lseqCounter = s.lseqCounter := rfl
@[simp] theorem State.fire_admitPointer (n : Option Nat) (l : WatchLine) : (s.fire n l).admitPointer = s.admitPointer := rfl
@[simp] theorem State.fire_launches (n : Option Nat) (l : WatchLine) : (s.fire n l).launches = s.launches := rfl
@[simp] theorem State.fire_segments (n : Option Nat) (l : WatchLine) : (s.fire n l).segments = s.segments := rfl
@[simp] theorem State.fire_counters (n : Option Nat) (l : WatchLine) : (s.fire n l).counters = s.counters := rfl
@[simp] theorem State.fire_dbg (n : Option Nat) (l : WatchLine) : (s.fire n l).dbg = s.dbg := rfl
@[simp] theorem State.fire_frbase (n : Option Nat) (l : WatchLine) : (s.fire n l).frbase = s.frbase := rfl
@[simp] theorem State.fire_frsize (n : Option Nat) (l : WatchLine) : (s.fire n l).frsize = s.frsize := rfl
@[simp] theorem State.fire_frwp (n : Option Nat) (l : WatchLine) : (s.fire n l).frwp = s.frwp := rfl
@[simp] theorem State.fire_frrp (n : Option Nat) (l : WatchLine) : (s.fire n l).frrp = s.frrp := rfl
@[simp] theorem State.fire_frBlocked (n : Option Nat) (l : WatchLine) : (s.fire n l).frBlocked = s.frBlocked := rfl
@[simp] theorem State.fire_wdog (n : Option Nat) (l : WatchLine) : (s.fire n l).wdog = s.wdog := rfl
@[simp] theorem State.fire_coveWays (n : Option Nat) (l : WatchLine) : (s.fire n l).coveWays = s.coveWays := rfl
@[simp] theorem State.fire_covePending (n : Option Nat) (l : WatchLine) : (s.fire n l).covePending = s.covePending := rfl
@[simp] theorem State.fire_ptroot (n : Option Nat) (l : WatchLine) : (s.fire n l).ptroot = s.ptroot := rfl
@[simp] theorem State.fire_fvec (n : Option Nat) (l : WatchLine) : (s.fire n l).fvec = s.fvec := rfl
@[simp] theorem State.fire_groups (n : Option Nat) (l : WatchLine) : (s.fire n l).groups = s.groups := rfl
@[simp] theorem State.fire_hostCsr (n : Option Nat) (l : WatchLine) : (s.fire n l).hostCsr = s.hostCsr := rfl
@[simp] theorem State.fire_records (n : Option Nat) (l : WatchLine) : (s.fire n l).records = s.records := rfl
@[simp] theorem State.fire_blackBox (n : Option Nat) (l : WatchLine) : (s.fire n l).blackBox = s.blackBox := rfl
@[simp] theorem State.fire_blackBoxWp (n : Option Nat) (l : WatchLine) : (s.fire n l).blackBoxWp = s.blackBoxWp := rfl
@[simp] theorem State.fire_tlb (n : Option Nat) (l : WatchLine) : (s.fire n l).tlb = s.tlb := rfl
@[simp] theorem State.fire_rdc (n : Option Nat) (l : WatchLine) : (s.fire n l).rdc = s.rdc := rfl
@[simp] theorem State.fire_l2 (n : Option Nat) (l : WatchLine) : (s.fire n l).l2 = s.l2 := rfl
@[simp] theorem State.fire_lineLog (n : Option Nat) (l : WatchLine) : (s.fire n l).lineLog = s.lineLog := rfl
@[simp] theorem State.fire_owners (n : Option Nat) (l : WatchLine) : (s.fire n l).owners = s.owners := rfl
@[simp] theorem State.fire_barrierQ (n : Option Nat) (l : WatchLine) : (s.fire n l).barrierQ = s.barrierQ := rfl
@[simp] theorem State.fire_farWaiters (n : Option Nat) (l : WatchLine) : (s.fire n l).farWaiters = s.farWaiters := rfl
@[simp] theorem State.fire_barrierHosts (n : Option Nat) (l : WatchLine) : (s.fire n l).barrierHosts = s.barrierHosts := rfl
@[simp] theorem State.fire_pkgBrushes (n : Option Nat) (l : WatchLine) : (s.fire n l).pkgBrushes = s.pkgBrushes := rfl
@[simp] theorem State.fire_pkgBrushPoison (n : Option Nat) (l : WatchLine) : (s.fire n l).pkgBrushPoison = s.pkgBrushPoison := rfl
@[simp] theorem State.fire_packets (n : Option Nat) (l : WatchLine) : (s.fire n l).packets = s.packets := rfl
@[simp] theorem State.fire_multi (n : Option Nat) (l : WatchLine) : (s.fire n l).multi = s.multi := rfl
@[simp] theorem State.fire_serving (n : Option Nat) (l : WatchLine) : (s.fire n l).serving = s.serving := rfl
@[simp] theorem State.fire_peers (n : Option Nat) (l : WatchLine) : (s.fire n l).peers = s.peers := rfl
@[simp] theorem State.fire_links (n : Option Nat) (l : WatchLine) : (s.fire n l).links = s.links := rfl
@[simp] theorem State.fire_requests (n : Option Nat) (l : WatchLine) : (s.fire n l).requests = s.requests := rfl
@[simp] theorem State.fire_fetched (n : Option Nat) (l : WatchLine) : (s.fire n l).fetched = s.fetched := rfl
@[simp] theorem State.fire_drops (n : Option Nat) (l : WatchLine) : (s.fire n l).drops = s.drops := rfl
@[simp] theorem State.fire_colnalRetries (n : Option Nat) (l : WatchLine) : (s.fire n l).colnalRetries = s.colnalRetries := rfl
@[simp] theorem State.fire_strandRetries (n : Option Nat) (l : WatchLine) : (s.fire n l).strandRetries = s.strandRetries := rfl
@[simp] theorem State.fire_eccCorrected (n : Option Nat) (l : WatchLine) : (s.fire n l).eccCorrected = s.eccCorrected := rfl
@[simp] theorem State.fire_eccPoisoned (n : Option Nat) (l : WatchLine) : (s.fire n l).eccPoisoned = s.eccPoisoned := rfl
@[simp] theorem State.fire_hostDirty (n : Option Nat) (l : WatchLine) : (s.fire n l).hostDirty = s.hostDirty := rfl
@[simp] theorem State.fire_l2Poison (n : Option Nat) (l : WatchLine) : (s.fire n l).l2Poison = s.l2Poison := rfl
@[simp] theorem State.fire_i3cAddress (n : Option Nat) (l : WatchLine) : (s.fire n l).i3cAddress = s.i3cAddress := rfl
@[simp] theorem State.fire_limited (n : Option Nat) (l : WatchLine) : (s.fire n l).limited = s.limited := rfl
@[simp] theorem State.fire_cores (n : Option Nat) (l : WatchLine) : (s.fire n l).cores = s.cores := rfl
@[simp] theorem State.fire_free (n : Option Nat) (l : WatchLine) : (s.fire n l).free = s.free := rfl
@[simp] theorem State.fire_inputs (n : Option Nat) (l : WatchLine) : (s.fire n l).inputs = s.inputs := rfl
@[simp] theorem State.fire_outputs (n : Option Nat) (l : WatchLine) : (s.fire n l).outputs = s.outputs := rfl
@[simp] theorem State.fire_issue (n : Option Nat) (l : WatchLine) : (s.fire n l).issue = s.issue := rfl
@[simp] theorem State.fire_nextKey (n : Option Nat) (l : WatchLine) : (s.fire n l).nextKey = s.nextKey := rfl

/-! `tainted`. -/

@[simp] theorem State.tainted_tide (op : Nat) (f : Fields) : (s.tainted c op f).tide = s.tide := by unfold State.tainted; split <;> rfl
@[simp] theorem State.tainted_cyc (op : Nat) (f : Fields) : (s.tainted c op f).cyc = s.cyc := by unfold State.tainted; split <;> rfl
@[simp] theorem State.tainted_mem (op : Nat) (f : Fields) : (s.tainted c op f).mem = s.mem := by unfold State.tainted; split <;> rfl
@[simp] theorem State.tainted_memPoison (op : Nat) (f : Fields) : (s.tainted c op f).memPoison = s.memPoison := by unfold State.tainted; split <;> rfl
@[simp] theorem State.tainted_compCodes (op : Nat) (f : Fields) : (s.tainted c op f).compCodes = s.compCodes := by unfold State.tainted; split <;> rfl
@[simp] theorem State.tainted_ready (op : Nat) (f : Fields) : (s.tainted c op f).ready = s.ready := by unfold State.tainted; split <;> rfl
@[simp] theorem State.tainted_memActive (op : Nat) (f : Fields) : (s.tainted c op f).memActive = s.memActive := by unfold State.tainted; split <;> rfl
@[simp] theorem State.tainted_wiping (op : Nat) (f : Fields) : (s.tainted c op f).wiping = s.wiping := by unfold State.tainted; split <;> rfl
@[simp] theorem State.tainted_powered (op : Nat) (f : Fields) : (s.tainted c op f).powered = s.powered := by unfold State.tainted; split <;> rfl
@[simp] theorem State.tainted_lifeCycle (op : Nat) (f : Fields) : (s.tainted c op f).lifeCycle = s.lifeCycle := by unfold State.tainted; split <;> rfl
@[simp] theorem State.tainted_lifeCyclePending (op : Nat) (f : Fields) : (s.tainted c op f).lifeCyclePending = s.lifeCyclePending := by unfold State.tainted; split <;> rfl
@[simp] theorem State.tainted_identityKey (op : Nat) (f : Fields) : (s.tainted c op f).identityKey = s.identityKey := by unfold State.tainted; split <;> rfl
@[simp] theorem State.tainted_firmware (op : Nat) (f : Fields) : (s.tainted c op f).firmware = s.firmware := by unfold State.tainted; split <;> rfl
@[simp] theorem State.tainted_flash (op : Nat) (f : Fields) : (s.tainted c op f).flash = s.flash := by unfold State.tainted; split <;> rfl
@[simp] theorem State.tainted_rollback (op : Nat) (f : Fields) : (s.tainted c op f).rollback = s.rollback := by unfold State.tainted; split <;> rfl
@[simp] theorem State.tainted_recovery (op : Nat) (f : Fields) : (s.tainted c op f).recovery = s.recovery := by unfold State.tainted; split <;> rfl
@[simp] theorem State.tainted_linksDown (op : Nat) (f : Fields) : (s.tainted c op f).linksDown = s.linksDown := by unfold State.tainted; split <;> rfl
@[simp] theorem State.tainted_untimed (op : Nat) (f : Fields) : (s.tainted c op f).untimed = s.untimed := by unfold State.tainted; split <;> rfl
@[simp] theorem State.tainted_queueBase (op : Nat) (f : Fields) : (s.tainted c op f).queueBase = s.queueBase := by unfold State.tainted; split <;> rfl
@[simp] theorem State.tainted_queueCount (op : Nat) (f : Fields) : (s.tainted c op f).queueCount = s.queueCount := by unfold State.tainted; split <;> rfl
@[simp] theorem State.tainted_queuePred (op : Nat) (f : Fields) : (s.tainted c op f).queuePred = s.queuePred := by unfold State.tainted; split <;> rfl
@[simp] theorem State.tainted_lastQueue (op : Nat) (f : Fields) : (s.tainted c op f).lastQueue = s.lastQueue := by unfold State.tainted; split <;> rfl
@[simp] theorem State.tainted_lseqCounter (op : Nat) (f : Fields) : (s.tainted c op f).lseqCounter = s.lseqCounter := by unfold State.tainted; split <;> rfl
@[simp] theorem State.tainted_admitPointer (op : Nat) (f : Fields) : (s.tainted c op f).admitPointer = s.admitPointer := by unfold State.tainted; split <;> rfl
@[simp] theorem State.tainted_launches (op : Nat) (f : Fields) : (s.tainted c op f).launches = s.launches := by unfold State.tainted; split <;> rfl
@[simp] theorem State.tainted_segments (op : Nat) (f : Fields) : (s.tainted c op f).segments = s.segments := by unfold State.tainted; split <;> rfl
@[simp] theorem State.tainted_counters (op : Nat) (f : Fields) : (s.tainted c op f).counters = s.counters := by unfold State.tainted; split <;> rfl
@[simp] theorem State.tainted_dbg (op : Nat) (f : Fields) : (s.tainted c op f).dbg = s.dbg := by unfold State.tainted; split <;> rfl
@[simp] theorem State.tainted_frbase (op : Nat) (f : Fields) : (s.tainted c op f).frbase = s.frbase := by unfold State.tainted; split <;> rfl
@[simp] theorem State.tainted_frsize (op : Nat) (f : Fields) : (s.tainted c op f).frsize = s.frsize := by unfold State.tainted; split <;> rfl
@[simp] theorem State.tainted_frwp (op : Nat) (f : Fields) : (s.tainted c op f).frwp = s.frwp := by unfold State.tainted; split <;> rfl
@[simp] theorem State.tainted_frrp (op : Nat) (f : Fields) : (s.tainted c op f).frrp = s.frrp := by unfold State.tainted; split <;> rfl
@[simp] theorem State.tainted_frBlocked (op : Nat) (f : Fields) : (s.tainted c op f).frBlocked = s.frBlocked := by unfold State.tainted; split <;> rfl
@[simp] theorem State.tainted_wdog (op : Nat) (f : Fields) : (s.tainted c op f).wdog = s.wdog := by unfold State.tainted; split <;> rfl
@[simp] theorem State.tainted_coveWays (op : Nat) (f : Fields) : (s.tainted c op f).coveWays = s.coveWays := by unfold State.tainted; split <;> rfl
@[simp] theorem State.tainted_covePending (op : Nat) (f : Fields) : (s.tainted c op f).covePending = s.covePending := by unfold State.tainted; split <;> rfl
@[simp] theorem State.tainted_ptroot (op : Nat) (f : Fields) : (s.tainted c op f).ptroot = s.ptroot := by unfold State.tainted; split <;> rfl
@[simp] theorem State.tainted_fvec (op : Nat) (f : Fields) : (s.tainted c op f).fvec = s.fvec := by unfold State.tainted; split <;> rfl
@[simp] theorem State.tainted_groups (op : Nat) (f : Fields) : (s.tainted c op f).groups = s.groups := by unfold State.tainted; split <;> rfl
@[simp] theorem State.tainted_hostCsr (op : Nat) (f : Fields) : (s.tainted c op f).hostCsr = s.hostCsr := by unfold State.tainted; split <;> rfl
@[simp] theorem State.tainted_records (op : Nat) (f : Fields) : (s.tainted c op f).records = s.records := by unfold State.tainted; split <;> rfl
@[simp] theorem State.tainted_blackBox (op : Nat) (f : Fields) : (s.tainted c op f).blackBox = s.blackBox := by unfold State.tainted; split <;> rfl
@[simp] theorem State.tainted_blackBoxWp (op : Nat) (f : Fields) : (s.tainted c op f).blackBoxWp = s.blackBoxWp := by unfold State.tainted; split <;> rfl
@[simp] theorem State.tainted_tlb (op : Nat) (f : Fields) : (s.tainted c op f).tlb = s.tlb := by unfold State.tainted; split <;> rfl
@[simp] theorem State.tainted_rdc (op : Nat) (f : Fields) : (s.tainted c op f).rdc = s.rdc := by unfold State.tainted; split <;> rfl
@[simp] theorem State.tainted_l2 (op : Nat) (f : Fields) : (s.tainted c op f).l2 = s.l2 := by unfold State.tainted; split <;> rfl
@[simp] theorem State.tainted_lineLog (op : Nat) (f : Fields) : (s.tainted c op f).lineLog = s.lineLog := by unfold State.tainted; split <;> rfl
@[simp] theorem State.tainted_owners (op : Nat) (f : Fields) : (s.tainted c op f).owners = s.owners := by unfold State.tainted; split <;> rfl
@[simp] theorem State.tainted_barrierQ (op : Nat) (f : Fields) : (s.tainted c op f).barrierQ = s.barrierQ := by unfold State.tainted; split <;> rfl
@[simp] theorem State.tainted_farWaiters (op : Nat) (f : Fields) : (s.tainted c op f).farWaiters = s.farWaiters := by unfold State.tainted; split <;> rfl
@[simp] theorem State.tainted_barrierHosts (op : Nat) (f : Fields) : (s.tainted c op f).barrierHosts = s.barrierHosts := by unfold State.tainted; split <;> rfl
@[simp] theorem State.tainted_pkgBrushes (op : Nat) (f : Fields) : (s.tainted c op f).pkgBrushes = s.pkgBrushes := by unfold State.tainted; split <;> rfl
@[simp] theorem State.tainted_pkgBrushPoison (op : Nat) (f : Fields) : (s.tainted c op f).pkgBrushPoison = s.pkgBrushPoison := by unfold State.tainted; split <;> rfl
@[simp] theorem State.tainted_packets (op : Nat) (f : Fields) : (s.tainted c op f).packets = s.packets := by unfold State.tainted; split <;> rfl
@[simp] theorem State.tainted_multi (op : Nat) (f : Fields) : (s.tainted c op f).multi = s.multi := by unfold State.tainted; split <;> rfl
@[simp] theorem State.tainted_serving (op : Nat) (f : Fields) : (s.tainted c op f).serving = s.serving := by unfold State.tainted; split <;> rfl
@[simp] theorem State.tainted_peers (op : Nat) (f : Fields) : (s.tainted c op f).peers = s.peers := by unfold State.tainted; split <;> rfl
@[simp] theorem State.tainted_links (op : Nat) (f : Fields) : (s.tainted c op f).links = s.links := by unfold State.tainted; split <;> rfl
@[simp] theorem State.tainted_requests (op : Nat) (f : Fields) : (s.tainted c op f).requests = s.requests := by unfold State.tainted; split <;> rfl
@[simp] theorem State.tainted_fetched (op : Nat) (f : Fields) : (s.tainted c op f).fetched = s.fetched := by unfold State.tainted; split <;> rfl
@[simp] theorem State.tainted_drops (op : Nat) (f : Fields) : (s.tainted c op f).drops = s.drops := by unfold State.tainted; split <;> rfl
@[simp] theorem State.tainted_colnalRetries (op : Nat) (f : Fields) : (s.tainted c op f).colnalRetries = s.colnalRetries := by unfold State.tainted; split <;> rfl
@[simp] theorem State.tainted_strandRetries (op : Nat) (f : Fields) : (s.tainted c op f).strandRetries = s.strandRetries := by unfold State.tainted; split <;> rfl
@[simp] theorem State.tainted_eccCorrected (op : Nat) (f : Fields) : (s.tainted c op f).eccCorrected = s.eccCorrected := by unfold State.tainted; split <;> rfl
@[simp] theorem State.tainted_eccPoisoned (op : Nat) (f : Fields) : (s.tainted c op f).eccPoisoned = s.eccPoisoned := by unfold State.tainted; split <;> rfl
@[simp] theorem State.tainted_hostDirty (op : Nat) (f : Fields) : (s.tainted c op f).hostDirty = s.hostDirty := by unfold State.tainted; split <;> rfl
@[simp] theorem State.tainted_l2Poison (op : Nat) (f : Fields) : (s.tainted c op f).l2Poison = s.l2Poison := by unfold State.tainted; split <;> rfl
@[simp] theorem State.tainted_i3cAddress (op : Nat) (f : Fields) : (s.tainted c op f).i3cAddress = s.i3cAddress := by unfold State.tainted; split <;> rfl
@[simp] theorem State.tainted_limited (op : Nat) (f : Fields) : (s.tainted c op f).limited = s.limited := by unfold State.tainted; split <;> rfl
@[simp] theorem State.tainted_cores (op : Nat) (f : Fields) : (s.tainted c op f).cores = s.cores := by unfold State.tainted; split <;> rfl
@[simp] theorem State.tainted_free (op : Nat) (f : Fields) : (s.tainted c op f).free = s.free := by unfold State.tainted; split <;> rfl
@[simp] theorem State.tainted_inputs (op : Nat) (f : Fields) : (s.tainted c op f).inputs = s.inputs := by unfold State.tainted; split <;> rfl
@[simp] theorem State.tainted_outputs (op : Nat) (f : Fields) : (s.tainted c op f).outputs = s.outputs := by unfold State.tainted; split <;> rfl
@[simp] theorem State.tainted_issue (op : Nat) (f : Fields) : (s.tainted c op f).issue = s.issue := by unfold State.tainted; split <;> rfl
@[simp] theorem State.tainted_nextKey (op : Nat) (f : Fields) : (s.tainted c op f).nextKey = s.nextKey := by unfold State.tainted; split <;> rfl

/-! `log`. -/

@[simp] theorem State.log_tide (a b d e f g h : Nat) : (s.log a b d e f g h).tide = s.tide := by unfold State.log; dsimp only; split <;> rfl
@[simp] theorem State.log_cyc (a b d e f g h : Nat) : (s.log a b d e f g h).cyc = s.cyc := by unfold State.log; dsimp only; split <;> rfl
@[simp] theorem State.log_mem (a b d e f g h : Nat) : (s.log a b d e f g h).mem = s.mem := by unfold State.log; dsimp only; split <;> rfl
@[simp] theorem State.log_memPoison (a b d e f g h : Nat) : (s.log a b d e f g h).memPoison = s.memPoison := by unfold State.log; dsimp only; split <;> rfl
@[simp] theorem State.log_compCodes (a b d e f g h : Nat) : (s.log a b d e f g h).compCodes = s.compCodes := by unfold State.log; dsimp only; split <;> rfl
@[simp] theorem State.log_ready (a b d e f g h : Nat) : (s.log a b d e f g h).ready = s.ready := by unfold State.log; dsimp only; split <;> rfl
@[simp] theorem State.log_memActive (a b d e f g h : Nat) : (s.log a b d e f g h).memActive = s.memActive := by unfold State.log; dsimp only; split <;> rfl
@[simp] theorem State.log_wiping (a b d e f g h : Nat) : (s.log a b d e f g h).wiping = s.wiping := by unfold State.log; dsimp only; split <;> rfl
@[simp] theorem State.log_powered (a b d e f g h : Nat) : (s.log a b d e f g h).powered = s.powered := by unfold State.log; dsimp only; split <;> rfl
@[simp] theorem State.log_lifeCycle (a b d e f g h : Nat) : (s.log a b d e f g h).lifeCycle = s.lifeCycle := by unfold State.log; dsimp only; split <;> rfl
@[simp] theorem State.log_lifeCyclePending (a b d e f g h : Nat) : (s.log a b d e f g h).lifeCyclePending = s.lifeCyclePending := by unfold State.log; dsimp only; split <;> rfl
@[simp] theorem State.log_identityKey (a b d e f g h : Nat) : (s.log a b d e f g h).identityKey = s.identityKey := by unfold State.log; dsimp only; split <;> rfl
@[simp] theorem State.log_firmware (a b d e f g h : Nat) : (s.log a b d e f g h).firmware = s.firmware := by unfold State.log; dsimp only; split <;> rfl
@[simp] theorem State.log_flash (a b d e f g h : Nat) : (s.log a b d e f g h).flash = s.flash := by unfold State.log; dsimp only; split <;> rfl
@[simp] theorem State.log_rollback (a b d e f g h : Nat) : (s.log a b d e f g h).rollback = s.rollback := by unfold State.log; dsimp only; split <;> rfl
@[simp] theorem State.log_recovery (a b d e f g h : Nat) : (s.log a b d e f g h).recovery = s.recovery := by unfold State.log; dsimp only; split <;> rfl
@[simp] theorem State.log_linksDown (a b d e f g h : Nat) : (s.log a b d e f g h).linksDown = s.linksDown := by unfold State.log; dsimp only; split <;> rfl
@[simp] theorem State.log_untimed (a b d e f g h : Nat) : (s.log a b d e f g h).untimed = s.untimed := by unfold State.log; dsimp only; split <;> rfl
@[simp] theorem State.log_queueBase (a b d e f g h : Nat) : (s.log a b d e f g h).queueBase = s.queueBase := by unfold State.log; dsimp only; split <;> rfl
@[simp] theorem State.log_queueCount (a b d e f g h : Nat) : (s.log a b d e f g h).queueCount = s.queueCount := by unfold State.log; dsimp only; split <;> rfl
@[simp] theorem State.log_queuePred (a b d e f g h : Nat) : (s.log a b d e f g h).queuePred = s.queuePred := by unfold State.log; dsimp only; split <;> rfl
@[simp] theorem State.log_lastQueue (a b d e f g h : Nat) : (s.log a b d e f g h).lastQueue = s.lastQueue := by unfold State.log; dsimp only; split <;> rfl
@[simp] theorem State.log_lseqCounter (a b d e f g h : Nat) : (s.log a b d e f g h).lseqCounter = s.lseqCounter := by unfold State.log; dsimp only; split <;> rfl
@[simp] theorem State.log_admitPointer (a b d e f g h : Nat) : (s.log a b d e f g h).admitPointer = s.admitPointer := by unfold State.log; dsimp only; split <;> rfl
@[simp] theorem State.log_launches (a b d e f g h : Nat) : (s.log a b d e f g h).launches = s.launches := by unfold State.log; dsimp only; split <;> rfl
@[simp] theorem State.log_segments (a b d e f g h : Nat) : (s.log a b d e f g h).segments = s.segments := by unfold State.log; dsimp only; split <;> rfl
@[simp] theorem State.log_counters (a b d e f g h : Nat) : (s.log a b d e f g h).counters = s.counters := by unfold State.log; dsimp only; split <;> rfl
@[simp] theorem State.log_dbg (a b d e f g h : Nat) : (s.log a b d e f g h).dbg = s.dbg := by unfold State.log; dsimp only; split <;> rfl
@[simp] theorem State.log_frbase (a b d e f g h : Nat) : (s.log a b d e f g h).frbase = s.frbase := by unfold State.log; dsimp only; split <;> rfl
@[simp] theorem State.log_frsize (a b d e f g h : Nat) : (s.log a b d e f g h).frsize = s.frsize := by unfold State.log; dsimp only; split <;> rfl
@[simp] theorem State.log_frwp (a b d e f g h : Nat) : (s.log a b d e f g h).frwp = s.frwp := by unfold State.log; dsimp only; split <;> rfl
@[simp] theorem State.log_frrp (a b d e f g h : Nat) : (s.log a b d e f g h).frrp = s.frrp := by unfold State.log; dsimp only; split <;> rfl
@[simp] theorem State.log_frBlocked (a b d e f g h : Nat) : (s.log a b d e f g h).frBlocked = s.frBlocked := by unfold State.log; dsimp only; split <;> rfl
@[simp] theorem State.log_wdog (a b d e f g h : Nat) : (s.log a b d e f g h).wdog = s.wdog := by unfold State.log; dsimp only; split <;> rfl
@[simp] theorem State.log_coveWays (a b d e f g h : Nat) : (s.log a b d e f g h).coveWays = s.coveWays := by unfold State.log; dsimp only; split <;> rfl
@[simp] theorem State.log_covePending (a b d e f g h : Nat) : (s.log a b d e f g h).covePending = s.covePending := by unfold State.log; dsimp only; split <;> rfl
@[simp] theorem State.log_ptroot (a b d e f g h : Nat) : (s.log a b d e f g h).ptroot = s.ptroot := by unfold State.log; dsimp only; split <;> rfl
@[simp] theorem State.log_fvec (a b d e f g h : Nat) : (s.log a b d e f g h).fvec = s.fvec := by unfold State.log; dsimp only; split <;> rfl
@[simp] theorem State.log_groups (a b d e f g h : Nat) : (s.log a b d e f g h).groups = s.groups := by unfold State.log; dsimp only; split <;> rfl
@[simp] theorem State.log_hostCsr (a b d e f g h : Nat) : (s.log a b d e f g h).hostCsr = s.hostCsr := by unfold State.log; dsimp only; split <;> rfl
@[simp] theorem State.log_records (a b d e f g h : Nat) : (s.log a b d e f g h).records = s.records := by unfold State.log; dsimp only; split <;> rfl
@[simp] theorem State.log_tlb (a b d e f g h : Nat) : (s.log a b d e f g h).tlb = s.tlb := by unfold State.log; dsimp only; split <;> rfl
@[simp] theorem State.log_rdc (a b d e f g h : Nat) : (s.log a b d e f g h).rdc = s.rdc := by unfold State.log; dsimp only; split <;> rfl
@[simp] theorem State.log_l2 (a b d e f g h : Nat) : (s.log a b d e f g h).l2 = s.l2 := by unfold State.log; dsimp only; split <;> rfl
@[simp] theorem State.log_lineLog (a b d e f g h : Nat) : (s.log a b d e f g h).lineLog = s.lineLog := by unfold State.log; dsimp only; split <;> rfl
@[simp] theorem State.log_owners (a b d e f g h : Nat) : (s.log a b d e f g h).owners = s.owners := by unfold State.log; dsimp only; split <;> rfl
@[simp] theorem State.log_barrierQ (a b d e f g h : Nat) : (s.log a b d e f g h).barrierQ = s.barrierQ := by unfold State.log; dsimp only; split <;> rfl
@[simp] theorem State.log_farWaiters (a b d e f g h : Nat) : (s.log a b d e f g h).farWaiters = s.farWaiters := by unfold State.log; dsimp only; split <;> rfl
@[simp] theorem State.log_barrierHosts (a b d e f g h : Nat) : (s.log a b d e f g h).barrierHosts = s.barrierHosts := by unfold State.log; dsimp only; split <;> rfl
@[simp] theorem State.log_pkgBrushes (a b d e f g h : Nat) : (s.log a b d e f g h).pkgBrushes = s.pkgBrushes := by unfold State.log; dsimp only; split <;> rfl
@[simp] theorem State.log_pkgBrushPoison (a b d e f g h : Nat) : (s.log a b d e f g h).pkgBrushPoison = s.pkgBrushPoison := by unfold State.log; dsimp only; split <;> rfl
@[simp] theorem State.log_packets (a b d e f g h : Nat) : (s.log a b d e f g h).packets = s.packets := by unfold State.log; dsimp only; split <;> rfl
@[simp] theorem State.log_multi (a b d e f g h : Nat) : (s.log a b d e f g h).multi = s.multi := by unfold State.log; dsimp only; split <;> rfl
@[simp] theorem State.log_serving (a b d e f g h : Nat) : (s.log a b d e f g h).serving = s.serving := by unfold State.log; dsimp only; split <;> rfl
@[simp] theorem State.log_peers (a b d e f g h : Nat) : (s.log a b d e f g h).peers = s.peers := by unfold State.log; dsimp only; split <;> rfl
@[simp] theorem State.log_links (a b d e f g h : Nat) : (s.log a b d e f g h).links = s.links := by unfold State.log; dsimp only; split <;> rfl
@[simp] theorem State.log_requests (a b d e f g h : Nat) : (s.log a b d e f g h).requests = s.requests := by unfold State.log; dsimp only; split <;> rfl
@[simp] theorem State.log_fetched (a b d e f g h : Nat) : (s.log a b d e f g h).fetched = s.fetched := by unfold State.log; dsimp only; split <;> rfl
@[simp] theorem State.log_drops (a b d e f g h : Nat) : (s.log a b d e f g h).drops = s.drops := by unfold State.log; dsimp only; split <;> rfl
@[simp] theorem State.log_colnalRetries (a b d e f g h : Nat) : (s.log a b d e f g h).colnalRetries = s.colnalRetries := by unfold State.log; dsimp only; split <;> rfl
@[simp] theorem State.log_strandRetries (a b d e f g h : Nat) : (s.log a b d e f g h).strandRetries = s.strandRetries := by unfold State.log; dsimp only; split <;> rfl
@[simp] theorem State.log_eccCorrected (a b d e f g h : Nat) : (s.log a b d e f g h).eccCorrected = s.eccCorrected := by unfold State.log; dsimp only; split <;> rfl
@[simp] theorem State.log_eccPoisoned (a b d e f g h : Nat) : (s.log a b d e f g h).eccPoisoned = s.eccPoisoned := by unfold State.log; dsimp only; split <;> rfl
@[simp] theorem State.log_hostDirty (a b d e f g h : Nat) : (s.log a b d e f g h).hostDirty = s.hostDirty := by unfold State.log; dsimp only; split <;> rfl
@[simp] theorem State.log_l2Poison (a b d e f g h : Nat) : (s.log a b d e f g h).l2Poison = s.l2Poison := by unfold State.log; dsimp only; split <;> rfl
@[simp] theorem State.log_i3cAddress (a b d e f g h : Nat) : (s.log a b d e f g h).i3cAddress = s.i3cAddress := by unfold State.log; dsimp only; split <;> rfl
@[simp] theorem State.log_limited (a b d e f g h : Nat) : (s.log a b d e f g h).limited = s.limited := by unfold State.log; dsimp only; split <;> rfl
@[simp] theorem State.log_cores (a b d e f g h : Nat) : (s.log a b d e f g h).cores = s.cores := by unfold State.log; dsimp only; split <;> rfl
@[simp] theorem State.log_wgs (a b d e f g h : Nat) : (s.log a b d e f g h).wgs = s.wgs := by unfold State.log; dsimp only; split <;> rfl
@[simp] theorem State.log_free (a b d e f g h : Nat) : (s.log a b d e f g h).free = s.free := by unfold State.log; dsimp only; split <;> rfl
@[simp] theorem State.log_inputs (a b d e f g h : Nat) : (s.log a b d e f g h).inputs = s.inputs := by unfold State.log; dsimp only; split <;> rfl
@[simp] theorem State.log_issue (a b d e f g h : Nat) : (s.log a b d e f g h).issue = s.issue := by unfold State.log; dsimp only; split <;> rfl
@[simp] theorem State.log_nextKey (a b d e f g h : Nat) : (s.log a b d e f g h).nextKey = s.nextKey := by unfold State.log; dsimp only; split <;> rfl

/-! `park`. -/

@[simp] theorem State.park_tide (k : Nat) (e : FaultInfo) : (s.park k e).tide = s.tide := by
  unfold State.park; (repeat' split) <;> simp
@[simp] theorem State.park_cyc (k : Nat) (e : FaultInfo) : (s.park k e).cyc = s.cyc := by
  unfold State.park; (repeat' split) <;> simp
@[simp] theorem State.park_mem (k : Nat) (e : FaultInfo) : (s.park k e).mem = s.mem := by
  unfold State.park; (repeat' split) <;> simp
@[simp] theorem State.park_memPoison (k : Nat) (e : FaultInfo) : (s.park k e).memPoison = s.memPoison := by
  unfold State.park; (repeat' split) <;> simp
@[simp] theorem State.park_compCodes (k : Nat) (e : FaultInfo) : (s.park k e).compCodes = s.compCodes := by
  unfold State.park; (repeat' split) <;> simp
@[simp] theorem State.park_ready (k : Nat) (e : FaultInfo) : (s.park k e).ready = s.ready := by
  unfold State.park; (repeat' split) <;> simp
@[simp] theorem State.park_memActive (k : Nat) (e : FaultInfo) : (s.park k e).memActive = s.memActive := by
  unfold State.park; (repeat' split) <;> simp
@[simp] theorem State.park_wiping (k : Nat) (e : FaultInfo) : (s.park k e).wiping = s.wiping := by
  unfold State.park; (repeat' split) <;> simp
@[simp] theorem State.park_powered (k : Nat) (e : FaultInfo) : (s.park k e).powered = s.powered := by
  unfold State.park; (repeat' split) <;> simp
@[simp] theorem State.park_lifeCycle (k : Nat) (e : FaultInfo) : (s.park k e).lifeCycle = s.lifeCycle := by
  unfold State.park; (repeat' split) <;> simp
@[simp] theorem State.park_lifeCyclePending (k : Nat) (e : FaultInfo) : (s.park k e).lifeCyclePending = s.lifeCyclePending := by
  unfold State.park; (repeat' split) <;> simp
@[simp] theorem State.park_identityKey (k : Nat) (e : FaultInfo) : (s.park k e).identityKey = s.identityKey := by
  unfold State.park; (repeat' split) <;> simp
@[simp] theorem State.park_firmware (k : Nat) (e : FaultInfo) : (s.park k e).firmware = s.firmware := by
  unfold State.park; (repeat' split) <;> simp
@[simp] theorem State.park_flash (k : Nat) (e : FaultInfo) : (s.park k e).flash = s.flash := by
  unfold State.park; (repeat' split) <;> simp
@[simp] theorem State.park_rollback (k : Nat) (e : FaultInfo) : (s.park k e).rollback = s.rollback := by
  unfold State.park; (repeat' split) <;> simp
@[simp] theorem State.park_recovery (k : Nat) (e : FaultInfo) : (s.park k e).recovery = s.recovery := by
  unfold State.park; (repeat' split) <;> simp
@[simp] theorem State.park_linksDown (k : Nat) (e : FaultInfo) : (s.park k e).linksDown = s.linksDown := by
  unfold State.park; (repeat' split) <;> simp
@[simp] theorem State.park_untimed (k : Nat) (e : FaultInfo) : (s.park k e).untimed = s.untimed := by
  unfold State.park; (repeat' split) <;> simp
@[simp] theorem State.park_queueBase (k : Nat) (e : FaultInfo) : (s.park k e).queueBase = s.queueBase := by
  unfold State.park; (repeat' split) <;> simp
@[simp] theorem State.park_queueCount (k : Nat) (e : FaultInfo) : (s.park k e).queueCount = s.queueCount := by
  unfold State.park; (repeat' split) <;> simp
@[simp] theorem State.park_queuePred (k : Nat) (e : FaultInfo) : (s.park k e).queuePred = s.queuePred := by
  unfold State.park; (repeat' split) <;> simp
@[simp] theorem State.park_lastQueue (k : Nat) (e : FaultInfo) : (s.park k e).lastQueue = s.lastQueue := by
  unfold State.park; (repeat' split) <;> simp
@[simp] theorem State.park_lseqCounter (k : Nat) (e : FaultInfo) : (s.park k e).lseqCounter = s.lseqCounter := by
  unfold State.park; (repeat' split) <;> simp
@[simp] theorem State.park_admitPointer (k : Nat) (e : FaultInfo) : (s.park k e).admitPointer = s.admitPointer := by
  unfold State.park; (repeat' split) <;> simp
@[simp] theorem State.park_launches (k : Nat) (e : FaultInfo) : (s.park k e).launches = s.launches := by
  unfold State.park; (repeat' split) <;> simp
@[simp] theorem State.park_segments (k : Nat) (e : FaultInfo) : (s.park k e).segments = s.segments := by
  unfold State.park; (repeat' split) <;> simp
@[simp] theorem State.park_counters (k : Nat) (e : FaultInfo) : (s.park k e).counters = s.counters := by
  unfold State.park; (repeat' split) <;> simp
@[simp] theorem State.park_dbg (k : Nat) (e : FaultInfo) : (s.park k e).dbg = s.dbg := by
  unfold State.park; (repeat' split) <;> simp
@[simp] theorem State.park_frbase (k : Nat) (e : FaultInfo) : (s.park k e).frbase = s.frbase := by
  unfold State.park; (repeat' split) <;> simp
@[simp] theorem State.park_frsize (k : Nat) (e : FaultInfo) : (s.park k e).frsize = s.frsize := by
  unfold State.park; (repeat' split) <;> simp
@[simp] theorem State.park_frwp (k : Nat) (e : FaultInfo) : (s.park k e).frwp = s.frwp := by
  unfold State.park; (repeat' split) <;> simp
@[simp] theorem State.park_frrp (k : Nat) (e : FaultInfo) : (s.park k e).frrp = s.frrp := by
  unfold State.park; (repeat' split) <;> simp
@[simp] theorem State.park_frBlocked (k : Nat) (e : FaultInfo) : (s.park k e).frBlocked = s.frBlocked := by
  unfold State.park; (repeat' split) <;> simp
@[simp] theorem State.park_wdog (k : Nat) (e : FaultInfo) : (s.park k e).wdog = s.wdog := by
  unfold State.park; (repeat' split) <;> simp
@[simp] theorem State.park_coveWays (k : Nat) (e : FaultInfo) : (s.park k e).coveWays = s.coveWays := by
  unfold State.park; (repeat' split) <;> simp
@[simp] theorem State.park_covePending (k : Nat) (e : FaultInfo) : (s.park k e).covePending = s.covePending := by
  unfold State.park; (repeat' split) <;> simp
@[simp] theorem State.park_ptroot (k : Nat) (e : FaultInfo) : (s.park k e).ptroot = s.ptroot := by
  unfold State.park; (repeat' split) <;> simp
@[simp] theorem State.park_fvec (k : Nat) (e : FaultInfo) : (s.park k e).fvec = s.fvec := by
  unfold State.park; (repeat' split) <;> simp
@[simp] theorem State.park_groups (k : Nat) (e : FaultInfo) : (s.park k e).groups = s.groups := by
  unfold State.park; (repeat' split) <;> simp
@[simp] theorem State.park_hostCsr (k : Nat) (e : FaultInfo) : (s.park k e).hostCsr = s.hostCsr := by
  unfold State.park; (repeat' split) <;> simp
@[simp] theorem State.park_tlb (k : Nat) (e : FaultInfo) : (s.park k e).tlb = s.tlb := by
  unfold State.park; (repeat' split) <;> simp
@[simp] theorem State.park_rdc (k : Nat) (e : FaultInfo) : (s.park k e).rdc = s.rdc := by
  unfold State.park; (repeat' split) <;> simp
@[simp] theorem State.park_l2 (k : Nat) (e : FaultInfo) : (s.park k e).l2 = s.l2 := by
  unfold State.park; (repeat' split) <;> simp
@[simp] theorem State.park_lineLog (k : Nat) (e : FaultInfo) : (s.park k e).lineLog = s.lineLog := by
  unfold State.park; (repeat' split) <;> simp
@[simp] theorem State.park_owners (k : Nat) (e : FaultInfo) : (s.park k e).owners = s.owners := by
  unfold State.park; (repeat' split) <;> simp
@[simp] theorem State.park_barrierQ (k : Nat) (e : FaultInfo) : (s.park k e).barrierQ = s.barrierQ := by
  unfold State.park; (repeat' split) <;> simp
@[simp] theorem State.park_farWaiters (k : Nat) (e : FaultInfo) : (s.park k e).farWaiters = s.farWaiters := by
  unfold State.park; (repeat' split) <;> simp
@[simp] theorem State.park_barrierHosts (k : Nat) (e : FaultInfo) : (s.park k e).barrierHosts = s.barrierHosts := by
  unfold State.park; (repeat' split) <;> simp
@[simp] theorem State.park_pkgBrushes (k : Nat) (e : FaultInfo) : (s.park k e).pkgBrushes = s.pkgBrushes := by
  unfold State.park; (repeat' split) <;> simp
@[simp] theorem State.park_pkgBrushPoison (k : Nat) (e : FaultInfo) : (s.park k e).pkgBrushPoison = s.pkgBrushPoison := by
  unfold State.park; (repeat' split) <;> simp
@[simp] theorem State.park_packets (k : Nat) (e : FaultInfo) : (s.park k e).packets = s.packets := by
  unfold State.park; (repeat' split) <;> simp
@[simp] theorem State.park_multi (k : Nat) (e : FaultInfo) : (s.park k e).multi = s.multi := by
  unfold State.park; (repeat' split) <;> simp
@[simp] theorem State.park_serving (k : Nat) (e : FaultInfo) : (s.park k e).serving = s.serving := by
  unfold State.park; (repeat' split) <;> simp
@[simp] theorem State.park_peers (k : Nat) (e : FaultInfo) : (s.park k e).peers = s.peers := by
  unfold State.park; (repeat' split) <;> simp
@[simp] theorem State.park_links (k : Nat) (e : FaultInfo) : (s.park k e).links = s.links := by
  unfold State.park; (repeat' split) <;> simp
@[simp] theorem State.park_requests (k : Nat) (e : FaultInfo) : (s.park k e).requests = s.requests := by
  unfold State.park; (repeat' split) <;> simp
@[simp] theorem State.park_fetched (k : Nat) (e : FaultInfo) : (s.park k e).fetched = s.fetched := by
  unfold State.park; (repeat' split) <;> simp
@[simp] theorem State.park_drops (k : Nat) (e : FaultInfo) : (s.park k e).drops = s.drops := by
  unfold State.park; (repeat' split) <;> simp
@[simp] theorem State.park_colnalRetries (k : Nat) (e : FaultInfo) : (s.park k e).colnalRetries = s.colnalRetries := by
  unfold State.park; (repeat' split) <;> simp
@[simp] theorem State.park_strandRetries (k : Nat) (e : FaultInfo) : (s.park k e).strandRetries = s.strandRetries := by
  unfold State.park; (repeat' split) <;> simp
@[simp] theorem State.park_eccCorrected (k : Nat) (e : FaultInfo) : (s.park k e).eccCorrected = s.eccCorrected := by
  unfold State.park; (repeat' split) <;> simp
@[simp] theorem State.park_eccPoisoned (k : Nat) (e : FaultInfo) : (s.park k e).eccPoisoned = s.eccPoisoned := by
  unfold State.park; (repeat' split) <;> simp
@[simp] theorem State.park_hostDirty (k : Nat) (e : FaultInfo) : (s.park k e).hostDirty = s.hostDirty := by
  unfold State.park; (repeat' split) <;> simp
@[simp] theorem State.park_l2Poison (k : Nat) (e : FaultInfo) : (s.park k e).l2Poison = s.l2Poison := by
  unfold State.park; (repeat' split) <;> simp
@[simp] theorem State.park_i3cAddress (k : Nat) (e : FaultInfo) : (s.park k e).i3cAddress = s.i3cAddress := by
  unfold State.park; (repeat' split) <;> simp
@[simp] theorem State.park_limited (k : Nat) (e : FaultInfo) : (s.park k e).limited = s.limited := by
  unfold State.park; (repeat' split) <;> simp
@[simp] theorem State.park_cores (k : Nat) (e : FaultInfo) : (s.park k e).cores = s.cores := by
  unfold State.park; (repeat' split) <;> simp
@[simp] theorem State.park_free (k : Nat) (e : FaultInfo) : (s.park k e).free = s.free := by
  unfold State.park; (repeat' split) <;> simp
@[simp] theorem State.park_inputs (k : Nat) (e : FaultInfo) : (s.park k e).inputs = s.inputs := by
  unfold State.park; (repeat' split) <;> simp
@[simp] theorem State.park_issue (k : Nat) (e : FaultInfo) : (s.park k e).issue = s.issue := by
  unfold State.park; (repeat' split) <;> simp
@[simp] theorem State.park_nextKey (k : Nat) (e : FaultInfo) : (s.park k e).nextKey = s.nextKey := by
  unfold State.park; (repeat' split) <;> simp

/-! `Fibre.setReg`. -/

@[simp] theorem Fibre.setReg_index (n : Nat) (v : Word) : (x.setReg n v).index = x.index := rfl
@[simp] theorem Fibre.setReg_pc (n : Nat) (v : Word) : (x.setReg n v).pc = x.pc := rfl
@[simp] theorem Fibre.setReg_preds (n : Nat) (v : Word) : (x.setReg n v).preds = x.preds := rfl
@[simp] theorem Fibre.setReg_allot (n : Nat) (v : Word) : (x.setReg n v).allot = x.allot := rfl
@[simp] theorem Fibre.setReg_pendV (n : Nat) (v : Word) : (x.setReg n v).pendV = x.pendV := rfl
@[simp] theorem Fibre.setReg_pendP (n : Nat) (v : Word) : (x.setReg n v).pendP = x.pendP := rfl
@[simp] theorem Fibre.setReg_early (n : Nat) (v : Word) : (x.setReg n v).early = x.early := rfl
@[simp] theorem Fibre.setReg_resident (n : Nat) (v : Word) : (x.setReg n v).resident = x.resident := rfl
@[simp] theorem Fibre.setReg_leaving (n : Nat) (v : Word) : (x.setReg n v).leaving = x.leaving := rfl
@[simp] theorem Fibre.setReg_chosenAt (n : Nat) (v : Word) : (x.setReg n v).chosenAt = x.chosenAt := rfl
@[simp] theorem Fibre.setReg_wait (n : Nat) (v : Word) : (x.setReg n v).wait = x.wait := rfl
@[simp] theorem Fibre.setReg_outsider (n : Nat) (v : Word) : (x.setReg n v).outsider = x.outsider := rfl
@[simp] theorem Fibre.setReg_waitKey (n : Nat) (v : Word) : (x.setReg n v).waitKey = x.waitKey := rfl
@[simp] theorem Fibre.setReg_waitValue (n : Nat) (v : Word) : (x.setReg n v).waitValue = x.waitValue := rfl
@[simp] theorem Fibre.setReg_waitDst (n : Nat) (v : Word) : (x.setReg n v).waitDst = x.waitDst := rfl
@[simp] theorem Fibre.setReg_waitFields (n : Nat) (v : Word) : (x.setReg n v).waitFields = x.waitFields := rfl
@[simp] theorem Fibre.setReg_waitLine (n : Nat) (v : Word) : (x.setReg n v).waitLine = x.waitLine := rfl
@[simp] theorem Fibre.setReg_waitDue (n : Nat) (v : Word) : (x.setReg n v).waitDue = x.waitDue := rfl
@[simp] theorem Fibre.setReg_polled (n : Nat) (v : Word) : (x.setReg n v).polled = x.polled := rfl
@[simp] theorem Fibre.setReg_deadline (n : Nat) (v : Word) : (x.setReg n v).deadline = x.deadline := rfl
@[simp] theorem Fibre.setReg_yielded (n : Nat) (v : Word) : (x.setReg n v).yielded = x.yielded := rfl
@[simp] theorem Fibre.setReg_candidateSince (n : Nat) (v : Word) : (x.setReg n v).candidateSince = x.candidateSince := rfl
@[simp] theorem Fibre.setReg_residentSince (n : Nat) (v : Word) : (x.setReg n v).residentSince = x.residentSince := rfl
@[simp] theorem Fibre.setReg_queuedSince (n : Nat) (v : Word) : (x.setReg n v).queuedSince = x.queuedSince := rfl
@[simp] theorem Fibre.setReg_waitSince (n : Nat) (v : Word) : (x.setReg n v).waitSince = x.waitSince := rfl
@[simp] theorem Fibre.setReg_spin (n : Nat) (v : Word) : (x.setReg n v).spin = x.spin := rfl
@[simp] theorem Fibre.setReg_watch (n : Nat) (v : Word) : (x.setReg n v).watch = x.watch := rfl
@[simp] theorem Fibre.setReg_issued (n : Nat) (v : Word) : (x.setReg n v).issued = x.issued := rfl
@[simp] theorem Fibre.setReg_growFrom (n : Nat) (v : Word) : (x.setReg n v).growFrom = x.growFrom := rfl
@[simp] theorem Fibre.setReg_growAge (n : Nat) (v : Word) : (x.setReg n v).growAge = x.growAge := rfl
@[simp] theorem Fibre.setReg_toAllot (n : Nat) (v : Word) : (x.setReg n v).toAllot = x.toAllot := rfl
@[simp] theorem Fibre.setReg_fresh (n : Nat) (v : Word) : (x.setReg n v).fresh = x.fresh := rfl
@[simp] theorem Fibre.setReg_quiet (n : Nat) (v : Word) : (x.setReg n v).quiet = x.quiet := rfl
@[simp] theorem Fibre.setReg_stored (n : Nat) (v : Word) : (x.setReg n v).stored = x.stored := rfl

/-! `Fibre.setRegP`. -/

@[simp] theorem Fibre.setRegP_index (n : Nat) (v : Word) (b : Bool) : (x.setRegP n v b).index = x.index := by unfold Fibre.setRegP; split <;> rfl
@[simp] theorem Fibre.setRegP_pc (n : Nat) (v : Word) (b : Bool) : (x.setRegP n v b).pc = x.pc := by unfold Fibre.setRegP; split <;> rfl
@[simp] theorem Fibre.setRegP_preds (n : Nat) (v : Word) (b : Bool) : (x.setRegP n v b).preds = x.preds := by unfold Fibre.setRegP; split <;> rfl
@[simp] theorem Fibre.setRegP_allot (n : Nat) (v : Word) (b : Bool) : (x.setRegP n v b).allot = x.allot := by unfold Fibre.setRegP; split <;> rfl
@[simp] theorem Fibre.setRegP_pendV (n : Nat) (v : Word) (b : Bool) : (x.setRegP n v b).pendV = x.pendV := by unfold Fibre.setRegP; split <;> rfl
@[simp] theorem Fibre.setRegP_pendP (n : Nat) (v : Word) (b : Bool) : (x.setRegP n v b).pendP = x.pendP := by unfold Fibre.setRegP; split <;> rfl
@[simp] theorem Fibre.setRegP_early (n : Nat) (v : Word) (b : Bool) : (x.setRegP n v b).early = x.early := by unfold Fibre.setRegP; split <;> rfl
@[simp] theorem Fibre.setRegP_resident (n : Nat) (v : Word) (b : Bool) : (x.setRegP n v b).resident = x.resident := by unfold Fibre.setRegP; split <;> rfl
@[simp] theorem Fibre.setRegP_leaving (n : Nat) (v : Word) (b : Bool) : (x.setRegP n v b).leaving = x.leaving := by unfold Fibre.setRegP; split <;> rfl
@[simp] theorem Fibre.setRegP_chosenAt (n : Nat) (v : Word) (b : Bool) : (x.setRegP n v b).chosenAt = x.chosenAt := by unfold Fibre.setRegP; split <;> rfl
@[simp] theorem Fibre.setRegP_wait (n : Nat) (v : Word) (b : Bool) : (x.setRegP n v b).wait = x.wait := by unfold Fibre.setRegP; split <;> rfl
@[simp] theorem Fibre.setRegP_outsider (n : Nat) (v : Word) (b : Bool) : (x.setRegP n v b).outsider = x.outsider := by unfold Fibre.setRegP; split <;> rfl
@[simp] theorem Fibre.setRegP_waitKey (n : Nat) (v : Word) (b : Bool) : (x.setRegP n v b).waitKey = x.waitKey := by unfold Fibre.setRegP; split <;> rfl
@[simp] theorem Fibre.setRegP_waitValue (n : Nat) (v : Word) (b : Bool) : (x.setRegP n v b).waitValue = x.waitValue := by unfold Fibre.setRegP; split <;> rfl
@[simp] theorem Fibre.setRegP_waitDst (n : Nat) (v : Word) (b : Bool) : (x.setRegP n v b).waitDst = x.waitDst := by unfold Fibre.setRegP; split <;> rfl
@[simp] theorem Fibre.setRegP_waitFields (n : Nat) (v : Word) (b : Bool) : (x.setRegP n v b).waitFields = x.waitFields := by unfold Fibre.setRegP; split <;> rfl
@[simp] theorem Fibre.setRegP_waitLine (n : Nat) (v : Word) (b : Bool) : (x.setRegP n v b).waitLine = x.waitLine := by unfold Fibre.setRegP; split <;> rfl
@[simp] theorem Fibre.setRegP_waitDue (n : Nat) (v : Word) (b : Bool) : (x.setRegP n v b).waitDue = x.waitDue := by unfold Fibre.setRegP; split <;> rfl
@[simp] theorem Fibre.setRegP_polled (n : Nat) (v : Word) (b : Bool) : (x.setRegP n v b).polled = x.polled := by unfold Fibre.setRegP; split <;> rfl
@[simp] theorem Fibre.setRegP_deadline (n : Nat) (v : Word) (b : Bool) : (x.setRegP n v b).deadline = x.deadline := by unfold Fibre.setRegP; split <;> rfl
@[simp] theorem Fibre.setRegP_yielded (n : Nat) (v : Word) (b : Bool) : (x.setRegP n v b).yielded = x.yielded := by unfold Fibre.setRegP; split <;> rfl
@[simp] theorem Fibre.setRegP_candidateSince (n : Nat) (v : Word) (b : Bool) : (x.setRegP n v b).candidateSince = x.candidateSince := by unfold Fibre.setRegP; split <;> rfl
@[simp] theorem Fibre.setRegP_residentSince (n : Nat) (v : Word) (b : Bool) : (x.setRegP n v b).residentSince = x.residentSince := by unfold Fibre.setRegP; split <;> rfl
@[simp] theorem Fibre.setRegP_queuedSince (n : Nat) (v : Word) (b : Bool) : (x.setRegP n v b).queuedSince = x.queuedSince := by unfold Fibre.setRegP; split <;> rfl
@[simp] theorem Fibre.setRegP_waitSince (n : Nat) (v : Word) (b : Bool) : (x.setRegP n v b).waitSince = x.waitSince := by unfold Fibre.setRegP; split <;> rfl
@[simp] theorem Fibre.setRegP_spin (n : Nat) (v : Word) (b : Bool) : (x.setRegP n v b).spin = x.spin := by unfold Fibre.setRegP; split <;> rfl
@[simp] theorem Fibre.setRegP_watch (n : Nat) (v : Word) (b : Bool) : (x.setRegP n v b).watch = x.watch := by unfold Fibre.setRegP; split <;> rfl
@[simp] theorem Fibre.setRegP_issued (n : Nat) (v : Word) (b : Bool) : (x.setRegP n v b).issued = x.issued := by unfold Fibre.setRegP; split <;> rfl
@[simp] theorem Fibre.setRegP_growFrom (n : Nat) (v : Word) (b : Bool) : (x.setRegP n v b).growFrom = x.growFrom := by unfold Fibre.setRegP; split <;> rfl
@[simp] theorem Fibre.setRegP_growAge (n : Nat) (v : Word) (b : Bool) : (x.setRegP n v b).growAge = x.growAge := by unfold Fibre.setRegP; split <;> rfl
@[simp] theorem Fibre.setRegP_toAllot (n : Nat) (v : Word) (b : Bool) : (x.setRegP n v b).toAllot = x.toAllot := by unfold Fibre.setRegP; split <;> rfl
@[simp] theorem Fibre.setRegP_fresh (n : Nat) (v : Word) (b : Bool) : (x.setRegP n v b).fresh = x.fresh := by unfold Fibre.setRegP; split <;> rfl
@[simp] theorem Fibre.setRegP_quiet (n : Nat) (v : Word) (b : Bool) : (x.setRegP n v b).quiet = x.quiet := by unfold Fibre.setRegP; split <;> rfl
@[simp] theorem Fibre.setRegP_stored (n : Nat) (v : Word) (b : Bool) : (x.setRegP n v b).stored = x.stored := by unfold Fibre.setRegP; split <;> rfl

/-! `Fibre.set32`. -/

@[simp] theorem Fibre.set32_index (n : BitVec 9) (v : Word) : (x.set32 n v).index = x.index := by unfold Fibre.set32; split <;> rfl
@[simp] theorem Fibre.set32_pc (n : BitVec 9) (v : Word) : (x.set32 n v).pc = x.pc := by unfold Fibre.set32; split <;> rfl
@[simp] theorem Fibre.set32_preds (n : BitVec 9) (v : Word) : (x.set32 n v).preds = x.preds := by unfold Fibre.set32; split <;> rfl
@[simp] theorem Fibre.set32_allot (n : BitVec 9) (v : Word) : (x.set32 n v).allot = x.allot := by unfold Fibre.set32; split <;> rfl
@[simp] theorem Fibre.set32_pendV (n : BitVec 9) (v : Word) : (x.set32 n v).pendV = x.pendV := by unfold Fibre.set32; split <;> rfl
@[simp] theorem Fibre.set32_pendP (n : BitVec 9) (v : Word) : (x.set32 n v).pendP = x.pendP := by unfold Fibre.set32; split <;> rfl
@[simp] theorem Fibre.set32_early (n : BitVec 9) (v : Word) : (x.set32 n v).early = x.early := by unfold Fibre.set32; split <;> rfl
@[simp] theorem Fibre.set32_resident (n : BitVec 9) (v : Word) : (x.set32 n v).resident = x.resident := by unfold Fibre.set32; split <;> rfl
@[simp] theorem Fibre.set32_leaving (n : BitVec 9) (v : Word) : (x.set32 n v).leaving = x.leaving := by unfold Fibre.set32; split <;> rfl
@[simp] theorem Fibre.set32_chosenAt (n : BitVec 9) (v : Word) : (x.set32 n v).chosenAt = x.chosenAt := by unfold Fibre.set32; split <;> rfl
@[simp] theorem Fibre.set32_wait (n : BitVec 9) (v : Word) : (x.set32 n v).wait = x.wait := by unfold Fibre.set32; split <;> rfl
@[simp] theorem Fibre.set32_outsider (n : BitVec 9) (v : Word) : (x.set32 n v).outsider = x.outsider := by unfold Fibre.set32; split <;> rfl
@[simp] theorem Fibre.set32_waitKey (n : BitVec 9) (v : Word) : (x.set32 n v).waitKey = x.waitKey := by unfold Fibre.set32; split <;> rfl
@[simp] theorem Fibre.set32_waitValue (n : BitVec 9) (v : Word) : (x.set32 n v).waitValue = x.waitValue := by unfold Fibre.set32; split <;> rfl
@[simp] theorem Fibre.set32_waitDst (n : BitVec 9) (v : Word) : (x.set32 n v).waitDst = x.waitDst := by unfold Fibre.set32; split <;> rfl
@[simp] theorem Fibre.set32_waitFields (n : BitVec 9) (v : Word) : (x.set32 n v).waitFields = x.waitFields := by unfold Fibre.set32; split <;> rfl
@[simp] theorem Fibre.set32_waitLine (n : BitVec 9) (v : Word) : (x.set32 n v).waitLine = x.waitLine := by unfold Fibre.set32; split <;> rfl
@[simp] theorem Fibre.set32_waitDue (n : BitVec 9) (v : Word) : (x.set32 n v).waitDue = x.waitDue := by unfold Fibre.set32; split <;> rfl
@[simp] theorem Fibre.set32_polled (n : BitVec 9) (v : Word) : (x.set32 n v).polled = x.polled := by unfold Fibre.set32; split <;> rfl
@[simp] theorem Fibre.set32_deadline (n : BitVec 9) (v : Word) : (x.set32 n v).deadline = x.deadline := by unfold Fibre.set32; split <;> rfl
@[simp] theorem Fibre.set32_yielded (n : BitVec 9) (v : Word) : (x.set32 n v).yielded = x.yielded := by unfold Fibre.set32; split <;> rfl
@[simp] theorem Fibre.set32_candidateSince (n : BitVec 9) (v : Word) : (x.set32 n v).candidateSince = x.candidateSince := by unfold Fibre.set32; split <;> rfl
@[simp] theorem Fibre.set32_residentSince (n : BitVec 9) (v : Word) : (x.set32 n v).residentSince = x.residentSince := by unfold Fibre.set32; split <;> rfl
@[simp] theorem Fibre.set32_queuedSince (n : BitVec 9) (v : Word) : (x.set32 n v).queuedSince = x.queuedSince := by unfold Fibre.set32; split <;> rfl
@[simp] theorem Fibre.set32_waitSince (n : BitVec 9) (v : Word) : (x.set32 n v).waitSince = x.waitSince := by unfold Fibre.set32; split <;> rfl
@[simp] theorem Fibre.set32_spin (n : BitVec 9) (v : Word) : (x.set32 n v).spin = x.spin := by unfold Fibre.set32; split <;> rfl
@[simp] theorem Fibre.set32_watch (n : BitVec 9) (v : Word) : (x.set32 n v).watch = x.watch := by unfold Fibre.set32; split <;> rfl
@[simp] theorem Fibre.set32_issued (n : BitVec 9) (v : Word) : (x.set32 n v).issued = x.issued := by unfold Fibre.set32; split <;> rfl
@[simp] theorem Fibre.set32_growFrom (n : BitVec 9) (v : Word) : (x.set32 n v).growFrom = x.growFrom := by unfold Fibre.set32; split <;> rfl
@[simp] theorem Fibre.set32_growAge (n : BitVec 9) (v : Word) : (x.set32 n v).growAge = x.growAge := by unfold Fibre.set32; split <;> rfl
@[simp] theorem Fibre.set32_toAllot (n : BitVec 9) (v : Word) : (x.set32 n v).toAllot = x.toAllot := by unfold Fibre.set32; split <;> rfl
@[simp] theorem Fibre.set32_fresh (n : BitVec 9) (v : Word) : (x.set32 n v).fresh = x.fresh := by unfold Fibre.set32; split <;> rfl
@[simp] theorem Fibre.set32_quiet (n : BitVec 9) (v : Word) : (x.set32 n v).quiet = x.quiet := by unfold Fibre.set32; split <;> rfl
@[simp] theorem Fibre.set32_stored (n : BitVec 9) (v : Word) : (x.set32 n v).stored = x.stored := by unfold Fibre.set32; split <;> rfl

/-! `Fibre.set64`. -/

@[simp] theorem Fibre.set64_index (n : BitVec 9) (v : DWord) : (x.set64 n v).index = x.index := by unfold Fibre.set64; split <;> rfl
@[simp] theorem Fibre.set64_pc (n : BitVec 9) (v : DWord) : (x.set64 n v).pc = x.pc := by unfold Fibre.set64; split <;> rfl
@[simp] theorem Fibre.set64_preds (n : BitVec 9) (v : DWord) : (x.set64 n v).preds = x.preds := by unfold Fibre.set64; split <;> rfl
@[simp] theorem Fibre.set64_allot (n : BitVec 9) (v : DWord) : (x.set64 n v).allot = x.allot := by unfold Fibre.set64; split <;> rfl
@[simp] theorem Fibre.set64_pendV (n : BitVec 9) (v : DWord) : (x.set64 n v).pendV = x.pendV := by unfold Fibre.set64; split <;> rfl
@[simp] theorem Fibre.set64_pendP (n : BitVec 9) (v : DWord) : (x.set64 n v).pendP = x.pendP := by unfold Fibre.set64; split <;> rfl
@[simp] theorem Fibre.set64_early (n : BitVec 9) (v : DWord) : (x.set64 n v).early = x.early := by unfold Fibre.set64; split <;> rfl
@[simp] theorem Fibre.set64_resident (n : BitVec 9) (v : DWord) : (x.set64 n v).resident = x.resident := by unfold Fibre.set64; split <;> rfl
@[simp] theorem Fibre.set64_leaving (n : BitVec 9) (v : DWord) : (x.set64 n v).leaving = x.leaving := by unfold Fibre.set64; split <;> rfl
@[simp] theorem Fibre.set64_chosenAt (n : BitVec 9) (v : DWord) : (x.set64 n v).chosenAt = x.chosenAt := by unfold Fibre.set64; split <;> rfl
@[simp] theorem Fibre.set64_wait (n : BitVec 9) (v : DWord) : (x.set64 n v).wait = x.wait := by unfold Fibre.set64; split <;> rfl
@[simp] theorem Fibre.set64_outsider (n : BitVec 9) (v : DWord) : (x.set64 n v).outsider = x.outsider := by unfold Fibre.set64; split <;> rfl
@[simp] theorem Fibre.set64_waitKey (n : BitVec 9) (v : DWord) : (x.set64 n v).waitKey = x.waitKey := by unfold Fibre.set64; split <;> rfl
@[simp] theorem Fibre.set64_waitValue (n : BitVec 9) (v : DWord) : (x.set64 n v).waitValue = x.waitValue := by unfold Fibre.set64; split <;> rfl
@[simp] theorem Fibre.set64_waitDst (n : BitVec 9) (v : DWord) : (x.set64 n v).waitDst = x.waitDst := by unfold Fibre.set64; split <;> rfl
@[simp] theorem Fibre.set64_waitFields (n : BitVec 9) (v : DWord) : (x.set64 n v).waitFields = x.waitFields := by unfold Fibre.set64; split <;> rfl
@[simp] theorem Fibre.set64_waitLine (n : BitVec 9) (v : DWord) : (x.set64 n v).waitLine = x.waitLine := by unfold Fibre.set64; split <;> rfl
@[simp] theorem Fibre.set64_waitDue (n : BitVec 9) (v : DWord) : (x.set64 n v).waitDue = x.waitDue := by unfold Fibre.set64; split <;> rfl
@[simp] theorem Fibre.set64_polled (n : BitVec 9) (v : DWord) : (x.set64 n v).polled = x.polled := by unfold Fibre.set64; split <;> rfl
@[simp] theorem Fibre.set64_deadline (n : BitVec 9) (v : DWord) : (x.set64 n v).deadline = x.deadline := by unfold Fibre.set64; split <;> rfl
@[simp] theorem Fibre.set64_yielded (n : BitVec 9) (v : DWord) : (x.set64 n v).yielded = x.yielded := by unfold Fibre.set64; split <;> rfl
@[simp] theorem Fibre.set64_candidateSince (n : BitVec 9) (v : DWord) : (x.set64 n v).candidateSince = x.candidateSince := by unfold Fibre.set64; split <;> rfl
@[simp] theorem Fibre.set64_residentSince (n : BitVec 9) (v : DWord) : (x.set64 n v).residentSince = x.residentSince := by unfold Fibre.set64; split <;> rfl
@[simp] theorem Fibre.set64_queuedSince (n : BitVec 9) (v : DWord) : (x.set64 n v).queuedSince = x.queuedSince := by unfold Fibre.set64; split <;> rfl
@[simp] theorem Fibre.set64_waitSince (n : BitVec 9) (v : DWord) : (x.set64 n v).waitSince = x.waitSince := by unfold Fibre.set64; split <;> rfl
@[simp] theorem Fibre.set64_spin (n : BitVec 9) (v : DWord) : (x.set64 n v).spin = x.spin := by unfold Fibre.set64; split <;> rfl
@[simp] theorem Fibre.set64_watch (n : BitVec 9) (v : DWord) : (x.set64 n v).watch = x.watch := by unfold Fibre.set64; split <;> rfl
@[simp] theorem Fibre.set64_issued (n : BitVec 9) (v : DWord) : (x.set64 n v).issued = x.issued := by unfold Fibre.set64; split <;> rfl
@[simp] theorem Fibre.set64_growFrom (n : BitVec 9) (v : DWord) : (x.set64 n v).growFrom = x.growFrom := by unfold Fibre.set64; split <;> rfl
@[simp] theorem Fibre.set64_growAge (n : BitVec 9) (v : DWord) : (x.set64 n v).growAge = x.growAge := by unfold Fibre.set64; split <;> rfl
@[simp] theorem Fibre.set64_toAllot (n : BitVec 9) (v : DWord) : (x.set64 n v).toAllot = x.toAllot := by unfold Fibre.set64; split <;> rfl
@[simp] theorem Fibre.set64_fresh (n : BitVec 9) (v : DWord) : (x.set64 n v).fresh = x.fresh := by unfold Fibre.set64; split <;> rfl
@[simp] theorem Fibre.set64_quiet (n : BitVec 9) (v : DWord) : (x.set64 n v).quiet = x.quiet := by unfold Fibre.set64; split <;> rfl
@[simp] theorem Fibre.set64_stored (n : BitVec 9) (v : DWord) : (x.set64 n v).stored = x.stored := by unfold Fibre.set64; split <;> rfl

/-! `Fibre.setPred`. -/

@[simp] theorem Fibre.setPred_index (n : Nat) (b : Bool) : (x.setPred n b).index = x.index := rfl
@[simp] theorem Fibre.setPred_pc (n : Nat) (b : Bool) : (x.setPred n b).pc = x.pc := rfl
@[simp] theorem Fibre.setPred_allot (n : Nat) (b : Bool) : (x.setPred n b).allot = x.allot := rfl
@[simp] theorem Fibre.setPred_regs (n : Nat) (b : Bool) : (x.setPred n b).regs = x.regs := rfl
@[simp] theorem Fibre.setPred_poison (n : Nat) (b : Bool) : (x.setPred n b).poison = x.poison := rfl
@[simp] theorem Fibre.setPred_pendV (n : Nat) (b : Bool) : (x.setPred n b).pendV = x.pendV := rfl
@[simp] theorem Fibre.setPred_pendP (n : Nat) (b : Bool) : (x.setPred n b).pendP = x.pendP := rfl
@[simp] theorem Fibre.setPred_early (n : Nat) (b : Bool) : (x.setPred n b).early = x.early := rfl
@[simp] theorem Fibre.setPred_resident (n : Nat) (b : Bool) : (x.setPred n b).resident = x.resident := rfl
@[simp] theorem Fibre.setPred_leaving (n : Nat) (b : Bool) : (x.setPred n b).leaving = x.leaving := rfl
@[simp] theorem Fibre.setPred_chosenAt (n : Nat) (b : Bool) : (x.setPred n b).chosenAt = x.chosenAt := rfl
@[simp] theorem Fibre.setPred_wait (n : Nat) (b : Bool) : (x.setPred n b).wait = x.wait := rfl
@[simp] theorem Fibre.setPred_outsider (n : Nat) (b : Bool) : (x.setPred n b).outsider = x.outsider := rfl
@[simp] theorem Fibre.setPred_waitKey (n : Nat) (b : Bool) : (x.setPred n b).waitKey = x.waitKey := rfl
@[simp] theorem Fibre.setPred_waitValue (n : Nat) (b : Bool) : (x.setPred n b).waitValue = x.waitValue := rfl
@[simp] theorem Fibre.setPred_waitDst (n : Nat) (b : Bool) : (x.setPred n b).waitDst = x.waitDst := rfl
@[simp] theorem Fibre.setPred_waitFields (n : Nat) (b : Bool) : (x.setPred n b).waitFields = x.waitFields := rfl
@[simp] theorem Fibre.setPred_waitLine (n : Nat) (b : Bool) : (x.setPred n b).waitLine = x.waitLine := rfl
@[simp] theorem Fibre.setPred_waitDue (n : Nat) (b : Bool) : (x.setPred n b).waitDue = x.waitDue := rfl
@[simp] theorem Fibre.setPred_polled (n : Nat) (b : Bool) : (x.setPred n b).polled = x.polled := rfl
@[simp] theorem Fibre.setPred_deadline (n : Nat) (b : Bool) : (x.setPred n b).deadline = x.deadline := rfl
@[simp] theorem Fibre.setPred_yielded (n : Nat) (b : Bool) : (x.setPred n b).yielded = x.yielded := rfl
@[simp] theorem Fibre.setPred_candidateSince (n : Nat) (b : Bool) : (x.setPred n b).candidateSince = x.candidateSince := rfl
@[simp] theorem Fibre.setPred_residentSince (n : Nat) (b : Bool) : (x.setPred n b).residentSince = x.residentSince := rfl
@[simp] theorem Fibre.setPred_queuedSince (n : Nat) (b : Bool) : (x.setPred n b).queuedSince = x.queuedSince := rfl
@[simp] theorem Fibre.setPred_waitSince (n : Nat) (b : Bool) : (x.setPred n b).waitSince = x.waitSince := rfl
@[simp] theorem Fibre.setPred_spin (n : Nat) (b : Bool) : (x.setPred n b).spin = x.spin := rfl
@[simp] theorem Fibre.setPred_watch (n : Nat) (b : Bool) : (x.setPred n b).watch = x.watch := rfl
@[simp] theorem Fibre.setPred_issued (n : Nat) (b : Bool) : (x.setPred n b).issued = x.issued := rfl
@[simp] theorem Fibre.setPred_growFrom (n : Nat) (b : Bool) : (x.setPred n b).growFrom = x.growFrom := rfl
@[simp] theorem Fibre.setPred_growAge (n : Nat) (b : Bool) : (x.setPred n b).growAge = x.growAge := rfl
@[simp] theorem Fibre.setPred_toAllot (n : Nat) (b : Bool) : (x.setPred n b).toAllot = x.toAllot := rfl
@[simp] theorem Fibre.setPred_fresh (n : Nat) (b : Bool) : (x.setPred n b).fresh = x.fresh := rfl
@[simp] theorem Fibre.setPred_quiet (n : Nat) (b : Bool) : (x.setPred n b).quiet = x.quiet := rfl
@[simp] theorem Fibre.setPred_stored (n : Nat) (b : Bool) : (x.setPred n b).stored = x.stored := rfl

/-! `Fibre.next`. -/

@[simp] theorem Fibre.next_index : (x.next).index = x.index := rfl
@[simp] theorem Fibre.next_preds : (x.next).preds = x.preds := rfl
@[simp] theorem Fibre.next_allot : (x.next).allot = x.allot := rfl
@[simp] theorem Fibre.next_regs : (x.next).regs = x.regs := rfl
@[simp] theorem Fibre.next_poison : (x.next).poison = x.poison := rfl
@[simp] theorem Fibre.next_pendV : (x.next).pendV = x.pendV := rfl
@[simp] theorem Fibre.next_pendP : (x.next).pendP = x.pendP := rfl
@[simp] theorem Fibre.next_early : (x.next).early = x.early := rfl
@[simp] theorem Fibre.next_resident : (x.next).resident = x.resident := rfl
@[simp] theorem Fibre.next_leaving : (x.next).leaving = x.leaving := rfl
@[simp] theorem Fibre.next_chosenAt : (x.next).chosenAt = x.chosenAt := rfl
@[simp] theorem Fibre.next_wait : (x.next).wait = x.wait := rfl
@[simp] theorem Fibre.next_outsider : (x.next).outsider = x.outsider := rfl
@[simp] theorem Fibre.next_waitKey : (x.next).waitKey = x.waitKey := rfl
@[simp] theorem Fibre.next_waitValue : (x.next).waitValue = x.waitValue := rfl
@[simp] theorem Fibre.next_waitDst : (x.next).waitDst = x.waitDst := rfl
@[simp] theorem Fibre.next_waitFields : (x.next).waitFields = x.waitFields := rfl
@[simp] theorem Fibre.next_waitLine : (x.next).waitLine = x.waitLine := rfl
@[simp] theorem Fibre.next_waitDue : (x.next).waitDue = x.waitDue := rfl
@[simp] theorem Fibre.next_polled : (x.next).polled = x.polled := rfl
@[simp] theorem Fibre.next_deadline : (x.next).deadline = x.deadline := rfl
@[simp] theorem Fibre.next_yielded : (x.next).yielded = x.yielded := rfl
@[simp] theorem Fibre.next_candidateSince : (x.next).candidateSince = x.candidateSince := rfl
@[simp] theorem Fibre.next_residentSince : (x.next).residentSince = x.residentSince := rfl
@[simp] theorem Fibre.next_queuedSince : (x.next).queuedSince = x.queuedSince := rfl
@[simp] theorem Fibre.next_waitSince : (x.next).waitSince = x.waitSince := rfl
@[simp] theorem Fibre.next_spin : (x.next).spin = x.spin := rfl
@[simp] theorem Fibre.next_watch : (x.next).watch = x.watch := rfl
@[simp] theorem Fibre.next_issued : (x.next).issued = x.issued := rfl
@[simp] theorem Fibre.next_growFrom : (x.next).growFrom = x.growFrom := rfl
@[simp] theorem Fibre.next_growAge : (x.next).growAge = x.growAge := rfl
@[simp] theorem Fibre.next_toAllot : (x.next).toAllot = x.toAllot := rfl
@[simp] theorem Fibre.next_fresh : (x.next).fresh = x.fresh := rfl
@[simp] theorem Fibre.next_quiet : (x.next).quiet = x.quiet := rfl
@[simp] theorem Fibre.next_stored : (x.next).stored = x.stored := rfl

/-! `Fibre.goto`. -/

@[simp] theorem Fibre.goto_index (p : BitVec 64) : (x.goto p).index = x.index := rfl
@[simp] theorem Fibre.goto_preds (p : BitVec 64) : (x.goto p).preds = x.preds := rfl
@[simp] theorem Fibre.goto_allot (p : BitVec 64) : (x.goto p).allot = x.allot := rfl
@[simp] theorem Fibre.goto_regs (p : BitVec 64) : (x.goto p).regs = x.regs := rfl
@[simp] theorem Fibre.goto_poison (p : BitVec 64) : (x.goto p).poison = x.poison := rfl
@[simp] theorem Fibre.goto_pendV (p : BitVec 64) : (x.goto p).pendV = x.pendV := rfl
@[simp] theorem Fibre.goto_pendP (p : BitVec 64) : (x.goto p).pendP = x.pendP := rfl
@[simp] theorem Fibre.goto_early (p : BitVec 64) : (x.goto p).early = x.early := rfl
@[simp] theorem Fibre.goto_resident (p : BitVec 64) : (x.goto p).resident = x.resident := rfl
@[simp] theorem Fibre.goto_leaving (p : BitVec 64) : (x.goto p).leaving = x.leaving := rfl
@[simp] theorem Fibre.goto_chosenAt (p : BitVec 64) : (x.goto p).chosenAt = x.chosenAt := rfl
@[simp] theorem Fibre.goto_wait (p : BitVec 64) : (x.goto p).wait = x.wait := rfl
@[simp] theorem Fibre.goto_outsider (p : BitVec 64) : (x.goto p).outsider = x.outsider := rfl
@[simp] theorem Fibre.goto_waitKey (p : BitVec 64) : (x.goto p).waitKey = x.waitKey := rfl
@[simp] theorem Fibre.goto_waitValue (p : BitVec 64) : (x.goto p).waitValue = x.waitValue := rfl
@[simp] theorem Fibre.goto_waitDst (p : BitVec 64) : (x.goto p).waitDst = x.waitDst := rfl
@[simp] theorem Fibre.goto_waitFields (p : BitVec 64) : (x.goto p).waitFields = x.waitFields := rfl
@[simp] theorem Fibre.goto_waitLine (p : BitVec 64) : (x.goto p).waitLine = x.waitLine := rfl
@[simp] theorem Fibre.goto_waitDue (p : BitVec 64) : (x.goto p).waitDue = x.waitDue := rfl
@[simp] theorem Fibre.goto_polled (p : BitVec 64) : (x.goto p).polled = x.polled := rfl
@[simp] theorem Fibre.goto_deadline (p : BitVec 64) : (x.goto p).deadline = x.deadline := rfl
@[simp] theorem Fibre.goto_yielded (p : BitVec 64) : (x.goto p).yielded = x.yielded := rfl
@[simp] theorem Fibre.goto_candidateSince (p : BitVec 64) : (x.goto p).candidateSince = x.candidateSince := rfl
@[simp] theorem Fibre.goto_residentSince (p : BitVec 64) : (x.goto p).residentSince = x.residentSince := rfl
@[simp] theorem Fibre.goto_queuedSince (p : BitVec 64) : (x.goto p).queuedSince = x.queuedSince := rfl
@[simp] theorem Fibre.goto_waitSince (p : BitVec 64) : (x.goto p).waitSince = x.waitSince := rfl
@[simp] theorem Fibre.goto_spin (p : BitVec 64) : (x.goto p).spin = x.spin := rfl
@[simp] theorem Fibre.goto_watch (p : BitVec 64) : (x.goto p).watch = x.watch := rfl
@[simp] theorem Fibre.goto_issued (p : BitVec 64) : (x.goto p).issued = x.issued := rfl
@[simp] theorem Fibre.goto_growFrom (p : BitVec 64) : (x.goto p).growFrom = x.growFrom := rfl
@[simp] theorem Fibre.goto_growAge (p : BitVec 64) : (x.goto p).growAge = x.growAge := rfl
@[simp] theorem Fibre.goto_toAllot (p : BitVec 64) : (x.goto p).toAllot = x.toAllot := rfl
@[simp] theorem Fibre.goto_fresh (p : BitVec 64) : (x.goto p).fresh = x.fresh := rfl
@[simp] theorem Fibre.goto_quiet (p : BitVec 64) : (x.goto p).quiet = x.quiet := rfl
@[simp] theorem Fibre.goto_stored (p : BitVec 64) : (x.goto p).stored = x.stored := rfl

/-! `Fibre.voidSpin`. -/

@[simp] theorem Fibre.voidSpin_index : (x.voidSpin).index = x.index := rfl
@[simp] theorem Fibre.voidSpin_pc : (x.voidSpin).pc = x.pc := rfl
@[simp] theorem Fibre.voidSpin_preds : (x.voidSpin).preds = x.preds := rfl
@[simp] theorem Fibre.voidSpin_allot : (x.voidSpin).allot = x.allot := rfl
@[simp] theorem Fibre.voidSpin_regs : (x.voidSpin).regs = x.regs := rfl
@[simp] theorem Fibre.voidSpin_poison : (x.voidSpin).poison = x.poison := rfl
@[simp] theorem Fibre.voidSpin_pendV : (x.voidSpin).pendV = x.pendV := rfl
@[simp] theorem Fibre.voidSpin_pendP : (x.voidSpin).pendP = x.pendP := rfl
@[simp] theorem Fibre.voidSpin_early : (x.voidSpin).early = x.early := rfl
@[simp] theorem Fibre.voidSpin_resident : (x.voidSpin).resident = x.resident := rfl
@[simp] theorem Fibre.voidSpin_leaving : (x.voidSpin).leaving = x.leaving := rfl
@[simp] theorem Fibre.voidSpin_chosenAt : (x.voidSpin).chosenAt = x.chosenAt := rfl
@[simp] theorem Fibre.voidSpin_wait : (x.voidSpin).wait = x.wait := rfl
@[simp] theorem Fibre.voidSpin_outsider : (x.voidSpin).outsider = x.outsider := rfl
@[simp] theorem Fibre.voidSpin_waitKey : (x.voidSpin).waitKey = x.waitKey := rfl
@[simp] theorem Fibre.voidSpin_waitValue : (x.voidSpin).waitValue = x.waitValue := rfl
@[simp] theorem Fibre.voidSpin_waitDst : (x.voidSpin).waitDst = x.waitDst := rfl
@[simp] theorem Fibre.voidSpin_waitFields : (x.voidSpin).waitFields = x.waitFields := rfl
@[simp] theorem Fibre.voidSpin_waitLine : (x.voidSpin).waitLine = x.waitLine := rfl
@[simp] theorem Fibre.voidSpin_waitDue : (x.voidSpin).waitDue = x.waitDue := rfl
@[simp] theorem Fibre.voidSpin_polled : (x.voidSpin).polled = x.polled := rfl
@[simp] theorem Fibre.voidSpin_deadline : (x.voidSpin).deadline = x.deadline := rfl
@[simp] theorem Fibre.voidSpin_yielded : (x.voidSpin).yielded = x.yielded := rfl
@[simp] theorem Fibre.voidSpin_candidateSince : (x.voidSpin).candidateSince = x.candidateSince := rfl
@[simp] theorem Fibre.voidSpin_residentSince : (x.voidSpin).residentSince = x.residentSince := rfl
@[simp] theorem Fibre.voidSpin_queuedSince : (x.voidSpin).queuedSince = x.queuedSince := rfl
@[simp] theorem Fibre.voidSpin_waitSince : (x.voidSpin).waitSince = x.waitSince := rfl
@[simp] theorem Fibre.voidSpin_watch : (x.voidSpin).watch = x.watch := rfl
@[simp] theorem Fibre.voidSpin_issued : (x.voidSpin).issued = x.issued := rfl
@[simp] theorem Fibre.voidSpin_growFrom : (x.voidSpin).growFrom = x.growFrom := rfl
@[simp] theorem Fibre.voidSpin_growAge : (x.voidSpin).growAge = x.growAge := rfl
@[simp] theorem Fibre.voidSpin_toAllot : (x.voidSpin).toAllot = x.toAllot := rfl
@[simp] theorem Fibre.voidSpin_fresh : (x.voidSpin).fresh = x.fresh := rfl
@[simp] theorem Fibre.voidSpin_quiet : (x.voidSpin).quiet = x.quiet := rfl
@[simp] theorem Fibre.voidSpin_stored : (x.voidSpin).stored = x.stored := rfl

/-! `Fibre.sleep`. -/

@[simp] theorem Fibre.sleep_index (k : Wait) (a b d e now : Nat) : (x.sleep k a b d e now).index = x.index := rfl
@[simp] theorem Fibre.sleep_pc (k : Wait) (a b d e now : Nat) : (x.sleep k a b d e now).pc = x.pc := rfl
@[simp] theorem Fibre.sleep_preds (k : Wait) (a b d e now : Nat) : (x.sleep k a b d e now).preds = x.preds := rfl
@[simp] theorem Fibre.sleep_allot (k : Wait) (a b d e now : Nat) : (x.sleep k a b d e now).allot = x.allot := rfl
@[simp] theorem Fibre.sleep_regs (k : Wait) (a b d e now : Nat) : (x.sleep k a b d e now).regs = x.regs := rfl
@[simp] theorem Fibre.sleep_poison (k : Wait) (a b d e now : Nat) : (x.sleep k a b d e now).poison = x.poison := rfl
@[simp] theorem Fibre.sleep_pendV (k : Wait) (a b d e now : Nat) : (x.sleep k a b d e now).pendV = x.pendV := rfl
@[simp] theorem Fibre.sleep_pendP (k : Wait) (a b d e now : Nat) : (x.sleep k a b d e now).pendP = x.pendP := rfl
@[simp] theorem Fibre.sleep_early (k : Wait) (a b d e now : Nat) : (x.sleep k a b d e now).early = x.early := rfl
@[simp] theorem Fibre.sleep_resident (k : Wait) (a b d e now : Nat) : (x.sleep k a b d e now).resident = x.resident := rfl
@[simp] theorem Fibre.sleep_leaving (k : Wait) (a b d e now : Nat) : (x.sleep k a b d e now).leaving = x.leaving := rfl
@[simp] theorem Fibre.sleep_chosenAt (k : Wait) (a b d e now : Nat) : (x.sleep k a b d e now).chosenAt = x.chosenAt := rfl
@[simp] theorem Fibre.sleep_outsider (k : Wait) (a b d e now : Nat) : (x.sleep k a b d e now).outsider = x.outsider := rfl
@[simp] theorem Fibre.sleep_waitFields (k : Wait) (a b d e now : Nat) : (x.sleep k a b d e now).waitFields = x.waitFields := rfl
@[simp] theorem Fibre.sleep_waitLine (k : Wait) (a b d e now : Nat) : (x.sleep k a b d e now).waitLine = x.waitLine := rfl
@[simp] theorem Fibre.sleep_waitDue (k : Wait) (a b d e now : Nat) : (x.sleep k a b d e now).waitDue = x.waitDue := rfl
@[simp] theorem Fibre.sleep_polled (k : Wait) (a b d e now : Nat) : (x.sleep k a b d e now).polled = x.polled := rfl
@[simp] theorem Fibre.sleep_yielded (k : Wait) (a b d e now : Nat) : (x.sleep k a b d e now).yielded = x.yielded := rfl
@[simp] theorem Fibre.sleep_residentSince (k : Wait) (a b d e now : Nat) : (x.sleep k a b d e now).residentSince = x.residentSince := rfl
@[simp] theorem Fibre.sleep_queuedSince (k : Wait) (a b d e now : Nat) : (x.sleep k a b d e now).queuedSince = x.queuedSince := rfl
@[simp] theorem Fibre.sleep_watch (k : Wait) (a b d e now : Nat) : (x.sleep k a b d e now).watch = x.watch := rfl
@[simp] theorem Fibre.sleep_issued (k : Wait) (a b d e now : Nat) : (x.sleep k a b d e now).issued = x.issued := rfl
@[simp] theorem Fibre.sleep_growFrom (k : Wait) (a b d e now : Nat) : (x.sleep k a b d e now).growFrom = x.growFrom := rfl
@[simp] theorem Fibre.sleep_growAge (k : Wait) (a b d e now : Nat) : (x.sleep k a b d e now).growAge = x.growAge := rfl
@[simp] theorem Fibre.sleep_toAllot (k : Wait) (a b d e now : Nat) : (x.sleep k a b d e now).toAllot = x.toAllot := rfl
@[simp] theorem Fibre.sleep_fresh (k : Wait) (a b d e now : Nat) : (x.sleep k a b d e now).fresh = x.fresh := rfl
@[simp] theorem Fibre.sleep_quiet (k : Wait) (a b d e now : Nat) : (x.sleep k a b d e now).quiet = x.quiet := rfl
@[simp] theorem Fibre.sleep_stored (k : Wait) (a b d e now : Nat) : (x.sleep k a b d e now).stored = x.stored := rfl

/-! Lookups. -/

@[simp] theorem State.core_updWg (k n : Nat) (g : Workgroup → Workgroup) : (s.updWg k g).core n = s.core n := rfl
@[simp] theorem State.core_updLaunch (k n : Nat) (g : Launch → Launch) : (s.updLaunch k g).core n = s.core n := rfl
@[simp] theorem State.core_lanewise (g : Fibre → Fibre) (n : Nat) : (s.lanewise c g).core n = s.core n := rfl
@[simp] theorem State.core_updLanes (g : Fibre → Fibre) (n : Nat) : (s.updLanes c g).core n = s.core n := rfl
@[simp] theorem State.wg?_updCore (k n : Nat) (g : Core → Core) : (s.updCore k g).wg? n = s.wg? n := rfl
@[simp] theorem State.wg?_updLaunch (k n : Nat) (g : Launch → Launch) : (s.updLaunch k g).wg? n = s.wg? n := rfl
@[simp] theorem State.wg?_say (v : Output) (n : Nat) : (s.say v).wg? n = s.wg? n := rfl
@[simp] theorem State.launch?_updCore (k n : Nat) (g : Core → Core) : (s.updCore k g).launch? n = s.launch? n := rfl
@[simp] theorem State.launch?_updWg (k n : Nat) (g : Workgroup → Workgroup) : (s.updWg k g).launch? n = s.launch? n := rfl
@[simp] theorem State.launch?_lanewise (g : Fibre → Fibre) (n : Nat) : (s.lanewise c g).launch? n = s.launch? n := rfl

theorem State.core_updCore (k n : Nat) (g : Core → Core) : (s.updCore k g).core n = if n = k then g (s.core k) else s.core n :=
  Sparse.get_set _ _ _ _ _

@[simp] theorem State.core_updCore_same (k : Nat) (g : Core → Core) : (s.updCore k g).core k = g (s.core k) := by
  rw [State.core_updCore, if_pos rfl]

/-- A list search by a key that an update keeps finds the updated element. -/
theorem find?_map_key {α : Type} (key : α → Nat) (k n : Nat) (g : α → α) (h : ∀ a, key (g a) = key a) (l : List α) :
    (l.map (fun a => if key a = k then g a else a)).find? (fun a => decide (key a = n)) =
      (l.find? (fun a => decide (key a = n))).map (fun a => if n = k then g a else a) := by
  induction l with
  | nil => rfl
  | cons a t ih =>
    by_cases ha : key a = k <;> by_cases hn : key a = n
    · simp [ha, h, ← hn]
    · simp [ha, h, ih, show ¬ k = n by omega]
    · simp [hn, show ¬ n = k by omega]
    · simp [ha, hn, ih]

theorem State.wg?_updWg (k n : Nat) (g : Workgroup → Workgroup) (h : ∀ w, (g w).key = w.key) :
    (s.updWg k g).wg? n = (s.wg? n).map (fun w => if n = k then g w else w) := find?_map_key Workgroup.key k n g h s.wgs

theorem State.wg?_updWg_ne {k n : Nat} (hn : n ≠ k) (g : Workgroup → Workgroup) (h : ∀ w, (g w).key = w.key) : (s.updWg k g).wg? n = s.wg? n := by
  rw [State.wg?_updWg s k n g h]; simp [hn]

theorem State.wg?_updWg_same (k : Nat) (g : Workgroup → Workgroup) (h : ∀ w, (g w).key = w.key) : (s.updWg k g).wg? k = (s.wg? k).map g := by
  rw [State.wg?_updWg s k k g h]; simp

theorem State.launch?_updLaunch (k n : Nat) (g : Launch → Launch) (h : ∀ l, (g l).lseq = l.lseq) :
    (s.updLaunch k g).launch? n = (s.launch? n).map (fun l => if n = k then g l else l) := find?_map_key Launch.lseq k n g h s.launches

theorem Workgroup.fibre?_updFibre (w : Workgroup) (k n : Nat) (g : Fibre → Fibre) (h : ∀ y, (g y).index = y.index) :
    (w.updFibre k g).fibre? n = (w.fibre? n).map (fun y => if n = k then g y else y) := find?_map_key Fibre.index k n g h w.fibres

theorem State.wg?_key {s : State} {k : Nat} {w : Workgroup} (h : s.wg? k = some w) : w.key = k := by
  simpa using List.find?_some h

theorem Workgroup.fibre?_index {w : Workgroup} {k : Nat} {y : Fibre} (h : w.fibre? k = some y) : y.index = k := by
  simpa using List.find?_some h

/-- A workgroup after an instruction that acts lane by lane. -/
theorem State.wg?_lanewise (g : Fibre → Fibre) (n : Nat) : (s.lanewise c g).wg? n = (s.wg? n).map (fun w =>
    if n = c.wg.key then { w with fibres := w.fibres.map (fun y => if c.active y then (if passes c.f y then g y else y).next else y) } else w) :=
  State.wg?_updWg s _ n (fun w => { w with fibres := _ }) (fun _ => rfl)

/-! Registers and predicates. -/

theorem Fibre.reg_setReg (n m : Nat) (v : Word) : Sparse.get 0 (x.setReg n v).regs m = if m = n then v else Sparse.get 0 x.regs m :=
  Sparse.get_set _ _ _ _ _

theorem Fibre.regs_setPred (n : Nat) (b : Bool) : (x.setPred n b).regs = x.regs := rfl

/-- A written predicate reads back, and the others stay (R34). -/
theorem Fibre.preds_setPred {n m : Nat} (b : Bool) (hn : n < 16) (hm : m < 16) :
    (x.setPred n b).preds.getLsbD m = if m = n then b else x.preds.getLsbD m := by
  have h2 : (BitVec.ofNat 16 (2 ^ n)).getLsbD m = decide (n = m) := by
    rw [BitVec.getLsbD_ofNat, Nat.testBit_two_pow]; simp [hm]
  by_cases h : m = n
  · subst h
    cases b <;> simp only [Fibre.setPred, if_true, if_false, Bool.false_eq_true, BitVec.getLsbD_or, BitVec.getLsbD_and, BitVec.getLsbD_not, h2] <;> simp
  · have h3 : ¬ n = m := fun e => h e.symm
    cases b <;> simp only [Fibre.setPred, if_true, if_false, Bool.false_eq_true, BitVec.getLsbD_or, BitVec.getLsbD_and, BitVec.getLsbD_not, h2,
      h, h3] <;> simp [hm]

end Sys2Proof.Machine
end

