-- ==== Sys2Proof/Laws/Access.lean ====
section
/-! SUPPORT. What the shared bodies can answer: the checks over the lanes of an access, loads, stores, atomics, boundaries and transfers,
and what a fault does to its workgroup. -/

namespace Sys2Proof.Machine

variable {s : State} {c : Ctx}

/-! Lanes that pass, or the fault of the lowest that does not. -/

theorem Ctx.laneFault_none {check : Fibre → Option LaneFault} (h : ∀ x ∈ c.passing, check x = none) : c.laneFault check = none := by
  have : c.passing.filterMap (fun x => (check x).map (fun e => (x, e))) = [] := by
    rw [List.filterMap_eq_nil_iff]; intro x hx; simp [h x hx]
  simp only [Ctx.laneFault, this]

theorem Ctx.laneFault_eq_none {check : Fibre → Option LaneFault} : c.laneFault check = none ↔ ∀ x ∈ c.passing, check x = none := by
  refine ⟨fun h x hx => ?_, Ctx.laneFault_none⟩
  unfold Ctx.laneFault at h
  split at h
  · rename_i hl
    rw [List.filterMap_eq_nil_iff] at hl
    simpa using hl x hx
  · cases h

/-- The order of an `ORD` that releases nothing, or acquires nothing (R238, R240). -/
theorem State.ordBefore_id (h : ∀ o sc, c.ord = some (o, sc) → o < 2) : s.ordBefore c = s := by
  unfold State.ordBefore; split
  · rename_i o sc e; have := h o sc e; rw [if_neg (by omega)]
  · rfl

theorem State.ordAfter_id (h : ∀ o sc, c.ord = some (o, sc) → o % 2 = 0) : s.ordAfter c = s := by
  unfold State.ordAfter; split
  · rename_i o sc e; have := h o sc e; rw [if_neg (by omega)]
  · rfl

theorem badOrderLoad_false (h : ∀ o sc, c.ord = some (o, sc) → o < 2) : badOrderLoad c = false := by
  unfold badOrderLoad; split
  · rename_i o sc e; have := h o sc e; simp; omega
  · rfl

theorem badOrderWrite_false (h : ∀ o sc, c.ord = some (o, sc) → o % 2 = 0) : badOrderWrite c = false := by
  unfold badOrderWrite; split
  · rename_i o sc e; have := h o sc e; simp; omega
  · rfl

/-! The bodies. -/

/-- A load: the fault of its lanes, or the reads on their way (R203, R204). -/
theorem loadBody_spec (space width : Nat) : (∃ e, c.laneFault (c.accessFault s space width 1) = some e ∧ loadBody space width c s = .error e) ∨
    ((∀ x ∈ c.passing, c.accessFault s space width 1 x = none) ∧ loadBody space width c s =
      .ok (((s.loadLanes space width c).ordAfter c).updLanes c Fibre.next)) := by
  unfold loadBody
  cases h : c.laneFault (c.accessFault s space width 1) with
  | some e => exact .inl ⟨e, rfl, rfl⟩
  | none => exact .inr ⟨Ctx.laneFault_eq_none.1 h, rfl⟩

/-- A store whose lanes pass (R203, R205). -/
theorem storeBody_ok {role : Role} {space width : Nat} (h : ∀ x ∈ c.passing, c.accessFault s space width 2 x = none)
    (hp : ∀ x ∈ c.passing, role.poisoned c x c.f.srcB = false) : storeBody role space width c s =
      .ok ((((s.storeLanes space width c c.passing (s.ordBefore c)).ordAfter c).commits c (decide (space ≠ 1) && !c.passing.isEmpty)).updLanes c Fibre.next) := by
  unfold storeBody
  dsimp only
  rw [Ctx.laneFault_none]
  intro x hx
  simp [h x hx, hp x hx]

/-- A boundary with no fault held, and with one (R246, R501). -/
theorem boundary_none {g : State → State} (h : c.heldFault = none) : boundary c s g = .ok ((g s).updLanes c Fibre.next) := by
  simp only [boundary, h]

theorem boundary_some {g : State → State} {d : Deferred} (h : c.heldFault = some d) : boundary c s g = .ok (s.deliver c.wg.key d) := by
  simp only [boundary, h]

/-- A control transfer whose destinations are good (R75, R27). -/
theorem State.transfer_ok {tgt : Fibre → Option (BitVec 64)} {g : Fibre → BitVec 64 → Fibre} {stay : Fibre → Fibre}
    (h : ∀ x ∈ c.passing, ∀ pc, tgt x = some pc → s.badTarget c.launch pc = false) : s.transfer c tgt g stay =
      .ok (s.updLanes c (fun x => if passes c.f x then (match tgt x with | some pc => (g x pc).goto pc | none => (stay x).next) else x.next)) := by
  unfold State.transfer
  dsimp only
  split
  · rename_i x l hl
    have hx := List.mem_filter.1 (show x ∈ List.filter _ c.passing by rw [hl]; exact List.mem_cons_self)
    cases ht : tgt x with
    | none => simp [ht] at hx
    | some pc => simp [ht, h x hx.1 pc ht] at hx
  · rfl

/-! Faults of a workgroup (R384). -/

/-- A parked workgroup keeps its record. -/
theorem State.park_parked {key : Nat} {w : Workgroup} (e : FaultInfo) (h : s.wg? key = some w) (hp : w.parked.isSome = true) : s.park key e = s := by
  simp only [State.park, h, hp, if_true]

theorem State.park_none {key : Nat} (e : FaultInfo) (h : s.wg? key = none) : s.park key e = s := by simp only [State.park, h]

@[simp] theorem State.wg?_log (a b d e f g h n : Nat) : (s.log a b d e f g h).wg? n = s.wg? n := by unfold State.wg?; rw [State.log_wgs]

/-- A workgroup that was not parked holds the fault, its fibres' spin records voided and their issued results written. -/
theorem State.wg?_park {key : Nat} {w : Workgroup} (e : FaultInfo) (h : s.wg? key = some w) (hp : w.parked = none) (n : Nat) :
    (s.park key e).wg? n = (s.wg? n).map (fun v => if n = key then { v with
      parked := some e, fibres := v.fibres.map (fun x => { x.voidSpin.finish with yielded := false }), preempt := if v.preempt = .draining then .saving else v.preempt } else v) := by
  simp only [State.park, h, hp, Option.isSome_none, Bool.false_eq_true, if_false, State.wg?_log]
  exact State.wg?_updWg s key n (fun w => { w with
      parked := some e, fibres := w.fibres.map (fun x => { x.voidSpin.finish with yielded := false }), preempt := if w.preempt = .draining then .saving else w.preempt }) (fun _ => rfl)

/-- No memory changes. -/
@[simp] theorem State.parkBatch_mem (s : State) (c : Ctx) (e : FaultInfo) : (s.parkBatch c e).mem = s.mem := State.park_mem ..

@[simp] theorem State.parkBatch_cores (s : State) (c : Ctx) (e : FaultInfo) : (s.parkBatch c e).cores = s.cores := State.park_cores ..

end Sys2Proof.Machine
end

