-- ==== Sys2Proof/Laws/Complete.lean ====
section
/-! SUPPORT. How an instruction that issues completes: for an instruction i of fields f whose row is sh, `Issues i s c` is `IssuesAs` under its
opcode and row by rfl, and `exec i s` is its meaning by rfl; these lemmas then give the next state. -/

namespace Sys2Proof.Machine

variable {op : Nat} {sh : Shape} {f : Fields} {s : State} {c : Ctx}

theorem IssuesAs.fields (h : IssuesAs op sh f s c) : c.f = f := Ctx.of?_fields h.1

/-- A body that answers a state. -/
theorem IssuesAs.next {t : State} {body : Ctx → State → Except FaultInfo State} (h : IssuesAs op sh f s c) (hb : body c (s.tainted c op f) = .ok t) :
    runBatch op sh f s body = .next t := runWith_ok h.1 h.2 hb

/-- A body that faults. -/
theorem IssuesAs.parks {e : FaultInfo} {body : Ctx → State → Except FaultInfo State} (h : IssuesAs op sh f s c)
    (hb : body c (s.tainted c op f) = .error e) : runBatch op sh f s body = .next (s.parkBatch c e) := runWith_error h.1 h.2 hb

/-- Lane by lane, with any function equal to the meaning's. -/
theorem IssuesAs.lanes {g : Ctx → Fibre → Fibre} {g' : Fibre → Fibre} (h : IssuesAs op sh f s c) (hg : g c = g') :
    runLanes op sh f s g = .next ((s.tainted c op f).lanewise c g') := by
  subst hg; exact runLanes_ok h.1 h.2

/-- Lane by lane with flags, none of them trapped. -/
theorem IssuesAs.floats {g : Ctx → Fibre → Fibre × Flags} {g' : Fibre → Fibre × Flags} (h : IssuesAs op sh f s c) (hg : g c = g')
    (hn : NoTrap c g') : runFloat op sh f s g =
      .next (((s.tainted c op f).lanewise c (fun x => (g' x).1)).updWg c.wg.key (fun w => { w with fflags := w.fflags ||| c.raised g' })) := by
  subst hg; exact runFloat_ok h.1 h.2 hn

/-- An opcode that taints no spin record leaves the state as it stands before its effect. -/
theorem State.tainted_id (h : taintsOp op f = false) : s.tainted c op f = s := by
  simp only [State.tainted, h, Bool.false_eq_true, if_false]

end Sys2Proof.Machine
end

