-- ==== Sys2Proof/Laws/Memory.lean ====
section
/-! SUPPORT. The memory at the home: its canonical form is kept by every operation that writes it, the bytes that a write changes, and
that reset memory has the form. -/

namespace Sys2Proof.Machine

/-! One write at the home. -/

@[simp] theorem State.revoke_mem (s : State) (k w : Nat) : (s.revoke k w).mem = s.mem := rfl

@[simp] theorem State.ownWord_mem (s : State) (who : Writer) (w : Nat) : (s.ownWord who w).mem = s.mem := by
  simp only [State.ownWord]; split <;> split <;> rfl

@[simp] theorem State.rdcWrite_mem (s : State) (d : Nat) (cells : List (Nat × Byte)) (b : Bool) : (s.rdcWrite d cells b).mem = s.mem := rfl

@[simp] theorem State.noteLines_mem (s : State) (cells : List (Nat × Byte)) : (s.noteLines cells).mem = s.mem := by
  unfold State.noteLines; split <;> rfl

@[simp] theorem State.noteLines_cores (s : State) (cells : List (Nat × Byte)) : (s.noteLines cells).cores = s.cores := by
  unfold State.noteLines; split <;> rfl

@[simp] theorem State.updLink_mem (s : State) (p : Nat) (g : Link → Link) : (s.updLink p g).mem = s.mem := rfl
@[simp] theorem State.queueFlit_mem (s : State) (p c : Nat) (f : Flit) : (s.queueFlit p c f).mem = s.mem := rfl
@[simp] theorem State.sendRequest_mem (s : State) (k : RequestKind) (l c : Nat) (f : Nat → Flit) : (s.sendRequest k l c f).mem = s.mem := rfl

/-- A list of changes that keep the memory. -/
theorem foldl_mem {α : Type} (g : State → α → State) (h : ∀ s a, (g s a).mem = s.mem) (l : List α) (s : State) : (l.foldl g s).mem = s.mem := by
  induction l generalizing s with
  | nil => rfl
  | cons a t ih => rw [List.foldl_cons, ih, h]

@[simp] theorem State.l2Touch_mem (s : State) (l h p : Nat) : (s.l2Touch l h p).mem = s.mem := by
  unfold State.l2Touch; (repeat' split) <;> rfl

@[simp] theorem State.holdHost_mem (s : State) (cells : List (Nat × Byte)) (p : Nat) : (s.holdHost cells p).mem = s.mem :=
  foldl_mem _ (fun s _ => by simp only []; split <;> simp only [State.l2Touch_mem]) _ s

@[simp] theorem State.sendStores_mem (s : State) (comp : Nat) (cells : List (Nat × Byte)) (bad : Bool) : (s.sendStores comp cells bad).mem = s.mem := by
  unfold State.sendStores; exact foldl_mem _ (fun _ _ => State.sendRequest_mem ..) _ s

/-! Lines asked of other packages. -/

@[simp] theorem State.askLine_mem (w : Reader) (s : State) (n : Nat) : (State.askLine w s n).mem = s.mem := by
  unfold State.askLine; split <;> rfl
@[simp] theorem State.askLines_mem (s : State) (w : Reader) (l : List Nat) : (s.askLines w l).mem = s.mem :=
  foldl_mem _ (fun _ _ => State.askLine_mem ..) _ s
@[simp] theorem State.readOver_mem (s : State) (g : Reader → Bool) : (s.readOver g).mem = s.mem := rfl

/-- Asking for lines leaves the cores and the workgroups as they are. -/
theorem State.askLines_cores (s : State) (w : Reader) (l : List Nat) : (s.askLines w l).cores = s.cores ∧ (s.askLines w l).wgs = s.wgs := by
  unfold State.askLines
  generalize s.lacking w l = m
  induction m generalizing s with
  | nil => exact ⟨rfl, rfl⟩
  | cons n t ih =>
    have h : (State.askLine w s n).cores = s.cores ∧ (State.askLine w s n).wgs = s.wgs := by unfold State.askLine; split <;> exact ⟨rfl, rfl⟩
    exact ⟨(ih _).1.trans h.1, (ih _).2.trans h.2⟩

/-- What a write at the home leaves of the memory: its cells, one by one (R3). -/
theorem State.homeWrite_mem (s : State) (who : Writer) (comp : Nat) (cells : List (Nat × Byte)) (bad : Bool) (p : Nat) :
    (s.homeWrite who comp cells bad p).mem = cells.foldl (fun m e => Sparse.set 0 m e.1 e.2) s.mem := by
  simp only [State.homeWrite, State.sendStores_mem, State.noteLines_mem]
  rw [foldl_mem (fun (t : State) l => t.fire none ⟨0, 0, l⟩) (fun _ _ => rfl)]
  cases who <;> simp only [State.rdcWrite_mem] <;> rw [foldl_mem (fun (t : State) w => t.ownWord _ w) (fun _ _ => State.ownWord_mem ..), State.holdHost_mem]

/-- Cells written keep the canonical form. -/
theorem wf_cells (cells : List (Nat × Byte)) (m : Bytes) (h : Memory.wf m = true) :
    Memory.wf (cells.foldl (fun m e => Sparse.set 0 m e.1 e.2) m) = true := by
  induction cells generalizing m with
  | nil => exact h
  | cons e t ih => exact ih _ (Sparse.wf_set 0 m e.1 e.2 h)

/-- A byte that no cell names stays. -/
theorem get_cells_ne (cells : List (Nat × Byte)) (m : Bytes) (a : Nat) (h : ∀ e ∈ cells, e.1 ≠ a) :
    Sparse.get 0 (cells.foldl (fun m e => Sparse.set 0 m e.1 e.2) m) a = Sparse.get 0 m a := by
  induction cells generalizing m with
  | nil => rfl
  | cons e t ih =>
    rw [List.foldl_cons, ih _ (fun f hf => h f (List.mem_cons_of_mem _ hf)), Sparse.get_set_ne 0 m _ (Ne.symm (h e List.mem_cons_self))]

theorem State.homeWrite_wf {s : State} (h : Memory.wf s.mem = true) (who : Writer) (comp : Nat) (cells : List (Nat × Byte)) (bad : Bool) (p : Nat) :
    Memory.wf (s.homeWrite who comp cells bad p).mem = true := by
  rw [State.homeWrite_mem]; exact wf_cells cells _ h

theorem State.homeWrite_get_ne (s : State) (who : Writer) (comp : Nat) (cells : List (Nat × Byte)) (bad : Bool) (p a : Nat) (h : ∀ e ∈ cells, e.1 ≠ a) :
    Sparse.get 0 (s.homeWrite who comp cells bad p).mem a = Sparse.get 0 s.mem a := by
  rw [State.homeWrite_mem]; exact get_cells_ne cells _ a h

/-- A write through a page by an agent that is no core. -/
theorem State.homePut_wf {s : State} (h : Memory.wf s.mem = true) (a : Attr) (pa : Nat) (l : List Byte) : Memory.wf (s.homePut a pa l).mem = true :=
  State.homeWrite_wf h ..

/-! Runs of bytes as cells. -/

theorem cellsOf_mem {a : Nat} {l : List Byte} {e : Nat × Byte} (h : e ∈ cellsOf a l) : a ≤ e.1 ∧ e.1 < a + l.length := by
  induction l generalizing a with
  | nil => cases h
  | cons b t ih =>
    rcases List.mem_cons.1 h with rfl | h
    · exact ⟨Nat.le_refl _, by simp⟩
    · have := ih h; simp only [List.length_cons]; omega

/-- Writing a run as cells is writing its bytes. -/
theorem cells_write (a : Nat) (l : List Byte) (m : Bytes) : (cellsOf a l).foldl (fun m e => Sparse.set 0 m e.1 e.2) m = Bytes.write m a l := by
  induction l generalizing a m with
  | nil => rfl
  | cons b t ih => exact ih (a + 1) _

/-- A run written at the home reads back, and every other byte stays. -/
theorem State.homeWrite_run (s : State) (who : Writer) (comp a b : Nat) (l : List Byte) (bad : Bool) (p : Nat) :
    Sparse.get 0 (s.homeWrite who comp (cellsOf a l) bad p).mem b = if a ≤ b ∧ b < a + l.length then l.getD (b - a) 0 else Sparse.get 0 s.mem b := by
  rw [State.homeWrite_mem, cells_write, Bytes.get_write]

/-! The L1's writes to the home. -/

@[simp] theorem State.l1Upd_mem (s : State) (k l : Nat) (g : L1Line → L1Line) : (s.l1Upd k l g).mem = s.mem := rfl
@[simp] theorem State.l1Touch_mem (s : State) (k l : Nat) : (s.l1Touch k l).mem = s.mem := rfl
@[simp] theorem State.l1Drop_mem (s : State) (k l : Nat) (m : BitVec 128) : (s.l1Drop k l m).mem = s.mem := rfl
@[simp] theorem State.rdcRefresh_mem (s : State) (d l : Nat) (al : Bool) (m : BitVec 128) (h p : Nat) : (s.rdcRefresh d l al m h p).mem = s.mem := by
  unfold State.rdcRefresh; (repeat' split) <;> rfl

@[simp] theorem State.acquire_mem (s : State) (k sc : Nat) : (s.acquire k sc).mem = s.mem := by
  simp only [State.acquire]
  (repeat' split) <;> first | rfl | exact foldl_mem _ (fun _ _ => State.rdcRefresh_mem ..) _ _

@[simp] theorem State.l1Complete_mem (s : State) (k l : Nat) (m : BitVec 128) : (s.l1Complete k l m).mem = s.mem := by
  unfold State.l1Complete; (repeat' split) <;> first | rfl | simp only [State.rdcRefresh_mem, State.l1Upd_mem]

theorem State.flushLine_wf {s : State} (h : Memory.wf s.mem = true) (k l : Nat) (m : BitVec 128) (r : Bool) : Memory.wf (s.flushLine k l m r).mem = true := by
  unfold State.flushLine
  (repeat' split)
  · exact h
  · exact h
  · simp only [State.l1Complete_mem]; exact State.homeWrite_wf (State.homeWrite_wf (s := s.l1Upd k l _) h ..) ..

/-- A list of changes that keep the canonical form keeps it. -/
theorem foldl_wf {α : Type} (g : State → α → State) (hg : ∀ s a, Memory.wf s.mem = true → Memory.wf (g s a).mem = true) (l : List α) (s : State)
    (h : Memory.wf s.mem = true) : Memory.wf (l.foldl g s).mem = true := by
  induction l generalizing s with
  | nil => exact h
  | cons a t ih => exact ih _ (hg s a h)

theorem State.flushAll_wf {s : State} (h : Memory.wf s.mem = true) (k : Nat) (r : Bool) : Memory.wf (s.flushAll k r).mem = true :=
  foldl_wf _ (fun _ _ h => State.flushLine_wf h _ _ _ _) _ _ h

theorem State.release_wf {s : State} (h : Memory.wf s.mem = true) (k sc : Nat) : Memory.wf (s.release k sc).mem = true := by
  unfold State.release; split
  · exact h
  · exact State.flushAll_wf h _ _

theorem State.l1Evict_mem (s : State) (k l : Nat) : (s.l1Evict k l).mem = (s.flushLine k l (BitVec.allOnes 128) false).mem := by
  simp only [State.l1Evict, State.updCore_mem]
  exact foldl_mem _ (fun s a => by split <;> rfl) _ _

theorem State.l1Evict_wf {s : State} (h : Memory.wf s.mem = true) (k l : Nat) : Memory.wf (s.l1Evict k l).mem = true := by
  rw [State.l1Evict_mem]; exact State.flushLine_wf h _ _ _ _

theorem State.l1Alloc_wf {s : State} (h : Memory.wf s.mem = true) (k l p : Nat) (a : Attr) : Memory.wf (s.l1Alloc k l p a).mem = true := by
  unfold State.l1Alloc
  split
  · exact h
  · simp only [State.updCore_mem]
    split
    · exact State.l1Evict_wf h _ _
    · exact h

theorem State.writeHome_wf {s : State} (h : Memory.wf s.mem = true) (k : Nat) (a : Attr) (hint pa : Nat) (l : List Byte) :
    Memory.wf (s.writeHome k a hint pa l).mem = true := by
  simp only [State.writeHome]
  refine State.homeWrite_wf ?_ ..
  split
  · exact State.flushLine_wf h _ _ _ _
  · rw [State.l2Touch_mem]; exact State.flushLine_wf h _ _ _ _

theorem State.l1Store_wf {s : State} (h : Memory.wf s.mem = true) (k : Nat) (a : Attr) (hint pa : Nat) (l : List Byte) (d : Bool) :
    Memory.wf (s.l1Store k a hint pa l d).mem = true := by
  simp only [State.l1Store, State.fire_mem]
  split <;> simp only [State.l1Complete_mem, State.l1Upd_mem] <;> exact State.l1Alloc_wf h _ _ _ _

/-- A `.G` write by a core keeps the canonical form. -/
theorem State.writeG_wf {s : State} (h : Memory.wf s.mem = true) (k : Nat) (a : Attr) (hint sc pa : Nat) (l : List Byte) :
    Memory.wf (s.writeG k a hint sc pa l).mem = true := by
  simp only [State.writeG]
  (repeat' split)
  · rw [State.l1Drop_mem]; exact State.writeHome_wf h _ _ _ _ _
  · exact State.l1Store_wf (State.writeHome_wf h _ _ _ _ _) _ _ _ _ _ _
  · exact State.l1Store_wf h _ _ _ _ _ _

/-- An engine's `.G` write keeps it. -/
theorem State.engineWrite_wf {s : State} (h : Memory.wf s.mem = true) (k : Nat) (a : Attr) (pa : Nat) (l : List Byte) (bad : Bool) :
    Memory.wf (s.engineWrite k a pa l bad).mem = true := by
  simp only [State.engineWrite]
  refine foldl_wf (fun (t : State) l => t.l1Drop k l _) (fun _ _ h => h) _ _ (State.homeWrite_wf ?_ ..)
  exact foldl_wf (fun (t : State) l => t.flushLine k l _ _) (fun _ _ h => State.flushLine_wf h _ _ _ _) _ _ h

/-! Wipes and resets. -/

theorem State.wiped_wf {s : State} (h : Memory.wf s.mem = true) : Memory.wf s.wiped.mem = true :=
  Sparse.wf_keep 0 (fun a => !ownByte a) s.mem h

/-- Memory at reset lists nothing. -/
theorem reset_memory_wf : Memory.wf State.reset.mem = true := rfl

end Sys2Proof.Machine
end

