-- ==== Sys2Proof/Laws/Runs.lean ====
section
/-! SUPPORT. Every encoding runs through `runWith` for its batch, under its own opcode and row: one lemma per constructor, from which
what holds of all of them (their illegal forms, their outcomes) follows by the lemmas of Laws/Ops. -/

namespace Sys2Proof.Machine

/-- An instruction runs through `runWith`: under its opcode, with the row that `shapeOf` gives it, to which only an `ORD` (R238), compat16
(`PART`, R168) and a brush (`TZIP`, R372) add conditions. -/
def Runs (i : Instr) : Prop :=
  ∃ op f shape, i.opcode = some op ∧ i.fields = some f ∧
    ((∀ g, i ≠ .part g) → (∀ g, i ≠ .tzip g) → ∀ c : Ctx, c.ord = none → shapeOf i = some (shape c)) ∧
    ∀ s, ∃ body, exec i s = runWith op.toNat shape f s body

/-! The runners in terms of `runWith`. -/

variable {i : Instr} {op : BitVec 9} {f : Fields} {sh : Shape} (e : State → Host.Outcome State Fault Refusal)

theorem runLanes_eq (n : Nat) (g : Ctx → Fibre → Fibre) (s : State) :
    runLanes n sh f s g = runWith n (fun _ => sh) f s (fun c t => .ok (t.lanewise c (g c))) := rfl

theorem runFloat_eq (n : Nat) (g : Ctx → Fibre → Fibre × Flags) (s : State) :
    runFloat n sh f s g = runWith n (fun _ => sh) f s (fun c t => t.lanewiseF c (g c)) := rfl

theorem runOnce_eq (n : Nat) (g : Ctx → Fibre → State → Except FaultInfo State) (s : State) :
    runOnce n sh f s g = runWith n (fun _ => sh) f s (fun c t => match c.passing with | [] => .ok (t.lanewise c id) | x :: _ => g c x t) := rfl

theorem Runs.batch {g : Ctx → State → Except FaultInfo State} (h1 : i.opcode = some op) (h2 : i.fields = some f) (h3 : shapeOf i = some sh)
    (he : ∀ s, exec i s = e s) (h : ∀ s, e s = runBatch op.toNat sh f s g) : Runs i := ⟨op, f, fun _ => sh, h1, h2, fun _ _ _ _ => h3, fun s => ⟨g, (he s).trans (h s)⟩⟩

theorem Runs.lanes {g : Ctx → Fibre → Fibre} (h1 : i.opcode = some op) (h2 : i.fields = some f) (h3 : shapeOf i = some sh)
    (he : ∀ s, exec i s = e s) (h : ∀ s, e s = runLanes op.toNat sh f s g) : Runs i := .batch e h1 h2 h3 he fun s => (h s).trans (runLanes_eq _ g s)

theorem Runs.float {g : Ctx → Fibre → Fibre × Flags} (h1 : i.opcode = some op) (h2 : i.fields = some f) (h3 : shapeOf i = some sh)
    (he : ∀ s, exec i s = e s) (h : ∀ s, e s = runFloat op.toNat sh f s g) : Runs i := .batch e h1 h2 h3 he fun s => (h s).trans (runFloat_eq _ g s)

theorem Runs.once {g : Ctx → Fibre → State → Except FaultInfo State} (h1 : i.opcode = some op) (h2 : i.fields = some f)
    (h3 : shapeOf i = some sh) (he : ∀ s, exec i s = e s) (h : ∀ s, e s = runOnce op.toNat sh f s g) : Runs i := .batch e h1 h2 h3 he fun s => (h s).trans (runOnce_eq _ g s)

theorem Runs.easel {g : Ctx → Fibre → State → Except FaultInfo State} (h1 : i.opcode = some op) (h2 : i.fields = some f)
    (h3 : shapeOf i = some sh) (he : ∀ s, exec i s = e s) (h : ∀ s, e s = runEasel op.toNat sh f s g) : Runs i := .once e h1 h2 h3 he h

theorem Runs.unpack {k : Nat} (h1 : i.opcode = some op) (h2 : i.fields = some f) (h3 : shapeOf i = some (.cvt (.unpk k) f))
    (he : ∀ s, exec i s = e s) (h : ∀ s, e s = runUnpack op.toNat k f s) : Runs i := .batch e h1 h2 h3 he h

theorem Runs.quantise {g : Ctx → Fibre → List Word} (h1 : i.opcode = some op) (h2 : i.fields = some f) (h3 : shapeOf i = some sh)
    (he : ∀ s, exec i s = e s) (h : ∀ s, e s = runQuantise op.toNat sh f s g) : Runs i := .batch e h1 h2 h3 he h

theorem Runs.atom {o : AtomOp} (h1 : i.opcode = some op) (h2 : i.fields = some f) (h3 : shapeOf i = some sh)
    (he : ∀ s, exec i s = e s) (h : ∀ s, e s = runAtom op.toNat o sh f s) : Runs i := .batch e h1 h2 h3 he h

theorem Runs.load {space width : Nat} (h1 : i.opcode = some op) (h2 : i.fields = some f) (h3 : shapeOf i = some sh)
    (he : ∀ s, exec i s = e s) (h : ∀ s, e s = runLoad op.toNat space sh width f s) : Runs i :=
  ⟨op, f, _, h1, h2, fun _ _ c ho => by rw [h3]; simp [badOrderLoad, ho], fun s => ⟨_, (he s).trans (h s)⟩⟩

theorem Runs.store {space width : Nat} (h1 : i.opcode = some op) (h2 : i.fields = some f) (h3 : shapeOf i = some sh)
    (he : ∀ s, exec i s = e s) (h : ∀ s, e s = runStore op.toNat space sh width f s) : Runs i :=
  ⟨op, f, _, h1, h2, fun _ _ c ho => by rw [h3]; simp [badOrderWrite, ho], fun s => ⟨_, (he s).trans (h s)⟩⟩

theorem Runs.red {o : AtomOp} (h1 : i.opcode = some op) (h2 : i.fields = some f) (h3 : shapeOf i = some sh)
    (he : ∀ s, exec i s = e s) (h : ∀ s, e s = runRed op.toNat o sh f s) : Runs i :=
  ⟨op, f, _, h1, h2, fun _ _ c ho => by rw [h3]; simp [badOrderWrite, ho], fun s => ⟨_, (he s).trans (h s)⟩⟩

/-! One lemma per constructor. -/

theorem runs_bra (f : Fields) : Runs (.bra f) := .batch (execBra f) rfl rfl rfl (fun _ => rfl) fun _ => rfl
theorem runs_brx (f : Fields) : Runs (.brx f) := .batch (execBrx f) rfl rfl rfl (fun _ => rfl) fun _ => rfl
theorem runs_brxTbl (f : Fields) : Runs (.brxTbl f) := .batch (execBrxTbl f) rfl rfl rfl (fun _ => rfl) fun _ => rfl
theorem runs_call (f : Fields) : Runs (.call f) := .batch (execCall f) rfl rfl rfl (fun _ => rfl) fun _ => rfl
theorem runs_callX (f : Fields) : Runs (.callX f) := .batch (execCallX f) rfl rfl rfl (fun _ => rfl) fun _ => rfl
theorem runs_ret (f : Fields) : Runs (.ret f) := .batch (execRet f) rfl rfl rfl (fun _ => rfl) fun _ => rfl
theorem runs_fspawn (f : Fields) : Runs (.fspawn f) := .batch (execFspawn f) rfl rfl rfl (fun _ => rfl) fun _ => rfl
theorem runs_fspawnN (f : Fields) : Runs (.fspawnN f) := .batch (execFspawnN f) rfl rfl rfl (fun _ => rfl) fun _ => rfl
theorem runs_fend (f : Fields) : Runs (.fend f) := .batch (execFend f) rfl rfl rfl (fun _ => rfl) fun _ => rfl
theorem runs_yield (f : Fields) : Runs (.yield f) := .batch (execYield f) rfl rfl rfl (fun _ => rfl) fun _ => rfl
theorem runs_nop (f : Fields) : Runs (.nop f) := .lanes (execNop f) rfl rfl rfl (fun _ => rfl) fun _ => rfl
theorem runs_braLoop (f : Fields) : Runs (.braLoop f) := .batch (execBraLoop f) rfl rfl rfl (fun _ => rfl) fun _ => rfl
theorem runs_iadd (f : Fields) : Runs (.iadd f) := .lanes (execIadd f) rfl rfl rfl (fun _ => rfl) fun _ => rfl
theorem runs_iadd64 (f : Fields) : Runs (.iadd64 f) := .lanes (execIadd64 f) rfl rfl rfl (fun _ => rfl) fun _ => rfl
theorem runs_iaddSat (f : Fields) : Runs (.iaddSat f) := .lanes (execIaddSat f) rfl rfl rfl (fun _ => rfl) fun _ => rfl
theorem runs_iaddX (f : Fields) : Runs (.iaddX f) := .lanes (execIaddX f) rfl rfl rfl (fun _ => rfl) fun _ => rfl
theorem runs_isub (f : Fields) : Runs (.isub f) := .lanes (execIsub f) rfl rfl rfl (fun _ => rfl) fun _ => rfl
theorem runs_isub64 (f : Fields) : Runs (.isub64 f) := .lanes (execIsub64 f) rfl rfl rfl (fun _ => rfl) fun _ => rfl
theorem runs_isubSat (f : Fields) : Runs (.isubSat f) := .lanes (execIsubSat f) rfl rfl rfl (fun _ => rfl) fun _ => rfl
theorem runs_isubX (f : Fields) : Runs (.isubX f) := .lanes (execIsubX f) rfl rfl rfl (fun _ => rfl) fun _ => rfl
theorem runs_imul (f : Fields) : Runs (.imul f) := .lanes (execImul f) rfl rfl rfl (fun _ => rfl) fun _ => rfl
theorem runs_imulHiS (f : Fields) : Runs (.imulHiS f) := .lanes (execImulHiS f) rfl rfl rfl (fun _ => rfl) fun _ => rfl
theorem runs_imulHiU (f : Fields) : Runs (.imulHiU f) := .lanes (execImulHiU f) rfl rfl rfl (fun _ => rfl) fun _ => rfl
theorem runs_imulWideS (f : Fields) : Runs (.imulWideS f) := .lanes (execImulWideS f) rfl rfl rfl (fun _ => rfl) fun _ => rfl
theorem runs_imulWideU (f : Fields) : Runs (.imulWideU f) := .lanes (execImulWideU f) rfl rfl rfl (fun _ => rfl) fun _ => rfl
theorem runs_imul64 (f : Fields) : Runs (.imul64 f) := .lanes (execImul64 f) rfl rfl rfl (fun _ => rfl) fun _ => rfl
theorem runs_imad (f : Fields) : Runs (.imad f) := .lanes (execImad f) rfl rfl rfl (fun _ => rfl) fun _ => rfl
theorem runs_imadWideS (f : Fields) : Runs (.imadWideS f) := .lanes (execImadWideS f) rfl rfl rfl (fun _ => rfl) fun _ => rfl
theorem runs_imadWideU (f : Fields) : Runs (.imadWideU f) := .lanes (execImadWideU f) rfl rfl rfl (fun _ => rfl) fun _ => rfl
theorem runs_imad64 (f : Fields) : Runs (.imad64 f) := .lanes (execImad64 f) rfl rfl rfl (fun _ => rfl) fun _ => rfl
theorem runs_iabs (f : Fields) : Runs (.iabs f) := .lanes (execIabs f) rfl rfl rfl (fun _ => rfl) fun _ => rfl
theorem runs_iabs64 (f : Fields) : Runs (.iabs64 f) := .lanes (execIabs64 f) rfl rfl rfl (fun _ => rfl) fun _ => rfl
theorem runs_iminS (f : Fields) : Runs (.iminS f) := .lanes (execIminS f) rfl rfl rfl (fun _ => rfl) fun _ => rfl
theorem runs_iminU (f : Fields) : Runs (.iminU f) := .lanes (execIminU f) rfl rfl rfl (fun _ => rfl) fun _ => rfl
theorem runs_iminS64 (f : Fields) : Runs (.iminS64 f) := .lanes (execIminS64 f) rfl rfl rfl (fun _ => rfl) fun _ => rfl
theorem runs_iminU64 (f : Fields) : Runs (.iminU64 f) := .lanes (execIminU64 f) rfl rfl rfl (fun _ => rfl) fun _ => rfl
theorem runs_imaxS (f : Fields) : Runs (.imaxS f) := .lanes (execImaxS f) rfl rfl rfl (fun _ => rfl) fun _ => rfl
theorem runs_imaxU (f : Fields) : Runs (.imaxU f) := .lanes (execImaxU f) rfl rfl rfl (fun _ => rfl) fun _ => rfl
theorem runs_imaxS64 (f : Fields) : Runs (.imaxS64 f) := .lanes (execImaxS64 f) rfl rfl rfl (fun _ => rfl) fun _ => rfl
theorem runs_imaxU64 (f : Fields) : Runs (.imaxU64 f) := .lanes (execImaxU64 f) rfl rfl rfl (fun _ => rfl) fun _ => rfl
theorem runs_shl (f : Fields) : Runs (.shl f) := .lanes (execShl f) rfl rfl rfl (fun _ => rfl) fun _ => rfl
theorem runs_shl64 (f : Fields) : Runs (.shl64 f) := .lanes (execShl64 f) rfl rfl rfl (fun _ => rfl) fun _ => rfl
theorem runs_shrU (f : Fields) : Runs (.shrU f) := .lanes (execShrU f) rfl rfl rfl (fun _ => rfl) fun _ => rfl
theorem runs_shrS (f : Fields) : Runs (.shrS f) := .lanes (execShrS f) rfl rfl rfl (fun _ => rfl) fun _ => rfl
theorem runs_shrU64 (f : Fields) : Runs (.shrU64 f) := .lanes (execShrU64 f) rfl rfl rfl (fun _ => rfl) fun _ => rfl
theorem runs_shrS64 (f : Fields) : Runs (.shrS64 f) := .lanes (execShrS64 f) rfl rfl rfl (fun _ => rfl) fun _ => rfl
theorem runs_rotL (f : Fields) : Runs (.rotL f) := .lanes (execRotL f) rfl rfl rfl (fun _ => rfl) fun _ => rfl
theorem runs_rotR (f : Fields) : Runs (.rotR f) := .lanes (execRotR f) rfl rfl rfl (fun _ => rfl) fun _ => rfl
theorem runs_and (f : Fields) : Runs (.and f) := .lanes (execAnd f) rfl rfl rfl (fun _ => rfl) fun _ => rfl
theorem runs_or (f : Fields) : Runs (.or f) := .lanes (execOr f) rfl rfl rfl (fun _ => rfl) fun _ => rfl
theorem runs_xor (f : Fields) : Runs (.xor f) := .lanes (execXor f) rfl rfl rfl (fun _ => rfl) fun _ => rfl
theorem runs_not (f : Fields) : Runs (.not f) := .lanes (execNot f) rfl rfl rfl (fun _ => rfl) fun _ => rfl
theorem runs_tern (f : Fields) : Runs (.tern f) := .lanes (execTern f) rfl rfl rfl (fun _ => rfl) fun _ => rfl
theorem runs_bfxU (f : Fields) : Runs (.bfxU f) := .lanes (execBfxU f) rfl rfl rfl (fun _ => rfl) fun _ => rfl
theorem runs_bfxS (f : Fields) : Runs (.bfxS f) := .lanes (execBfxS f) rfl rfl rfl (fun _ => rfl) fun _ => rfl
theorem runs_bfi (f : Fields) : Runs (.bfi f) := .lanes (execBfi f) rfl rfl rfl (fun _ => rfl) fun _ => rfl
theorem runs_popc (f : Fields) : Runs (.popc f) := .lanes (execPopc f) rfl rfl rfl (fun _ => rfl) fun _ => rfl
theorem runs_clz (f : Fields) : Runs (.clz f) := .lanes (execClz f) rfl rfl rfl (fun _ => rfl) fun _ => rfl
theorem runs_brev (f : Fields) : Runs (.brev f) := .lanes (execBrev f) rfl rfl rfl (fun _ => rfl) fun _ => rfl
theorem runs_icmpS (f : Fields) : Runs (.icmpS f) := .lanes (execIcmpS f) rfl rfl rfl (fun _ => rfl) fun _ => rfl
theorem runs_icmpU (f : Fields) : Runs (.icmpU f) := .lanes (execIcmpU f) rfl rfl rfl (fun _ => rfl) fun _ => rfl
theorem runs_icmpS64 (f : Fields) : Runs (.icmpS64 f) := .lanes (execIcmpS64 f) rfl rfl rfl (fun _ => rfl) fun _ => rfl
theorem runs_icmpU64 (f : Fields) : Runs (.icmpU64 f) := .lanes (execIcmpU64 f) rfl rfl rfl (fun _ => rfl) fun _ => rfl
theorem runs_sel (f : Fields) : Runs (.sel f) := .lanes (execSel f) rfl rfl rfl (fun _ => rfl) fun _ => rfl
theorem runs_sel64 (f : Fields) : Runs (.sel64 f) := .lanes (execSel64 f) rfl rfl rfl (fun _ => rfl) fun _ => rfl
theorem runs_mov (f : Fields) : Runs (.mov f) := .batch (execMov f) rfl rfl rfl (fun _ => rfl) fun _ => rfl
theorem runs_mov64 (f : Fields) : Runs (.mov64 f) := .lanes (execMov64 f) rfl rfl rfl (fun _ => rfl) fun _ => rfl
theorem runs_movs (f : Fields) : Runs (.movs f) := .batch (execMovs f) rfl rfl rfl (fun _ => rfl) fun _ => rfl
theorem runs_movsI (f : Fields) : Runs (.movsI f) := .batch (execMovsI f) rfl rfl rfl (fun _ => rfl) fun _ => rfl
theorem runs_lea (f : Fields) : Runs (.lea f) := .lanes (execLea f) rfl rfl rfl (fun _ => rfl) fun _ => rfl
theorem runs_lea32 (f : Fields) : Runs (.lea32 f) := .lanes (execLea32 f) rfl rfl rfl (fun _ => rfl) fun _ => rfl
theorem runs_leaSx (f : Fields) : Runs (.leaSx f) := .lanes (execLeaSx f) rfl rfl rfl (fun _ => rfl) fun _ => rfl
theorem runs_plog (f : Fields) : Runs (.plog f) := .lanes (execPlog f) rfl rfl rfl (fun _ => rfl) fun _ => rfl
theorem runs_plogW (f : Fields) : Runs (.plogW f) := .lanes (execPlogW f) rfl rfl rfl (fun _ => rfl) fun _ => rfl
theorem runs_pmovP2v (f : Fields) : Runs (.pmovP2v f) := .lanes (execPmovP2v f) rfl rfl rfl (fun _ => rfl) fun _ => rfl
theorem runs_pmovV2p (f : Fields) : Runs (.pmovV2p f) := .lanes (execPmovV2p f) rfl rfl rfl (fun _ => rfl) fun _ => rfl
theorem runs_cvtDn (f : Fields) : Runs (.cvtDn f) := .float (execCvtDn f) rfl rfl rfl (fun _ => rfl) fun _ => rfl
theorem runs_cvtUp (f : Fields) : Runs (.cvtUp f) := .lanes (execCvtUp f) rfl rfl rfl (fun _ => rfl) fun _ => rfl
theorem runs_cvtD (f : Fields) : Runs (.cvtD f) := .float (execCvtD f) rfl rfl rfl (fun _ => rfl) fun _ => rfl
theorem runs_cvtF2i (f : Fields) : Runs (.cvtF2i f) := .float (execCvtF2i f) rfl rfl rfl (fun _ => rfl) fun _ => rfl
theorem runs_cvtI2f (f : Fields) : Runs (.cvtI2f f) := .float (execCvtI2f f) rfl rfl rfl (fun _ => rfl) fun _ => rfl
theorem runs_cvtF2l (f : Fields) : Runs (.cvtF2l f) := .float (execCvtF2l f) rfl rfl rfl (fun _ => rfl) fun _ => rfl
theorem runs_cvtL2f (f : Fields) : Runs (.cvtL2f f) := .float (execCvtL2f f) rfl rfl rfl (fun _ => rfl) fun _ => rfl
theorem runs_cvtI2i (f : Fields) : Runs (.cvtI2i f) := .lanes (execCvtI2i f) rfl rfl rfl (fun _ => rfl) fun _ => rfl
theorem runs_pack2 (f : Fields) : Runs (.pack2 f) := .float (execPack2 f) rfl rfl rfl (fun _ => rfl) fun _ => rfl
theorem runs_pack4 (f : Fields) : Runs (.pack4 f) := .float (execPack4 f) rfl rfl rfl (fun _ => rfl) fun _ => rfl
theorem runs_pack5 (f : Fields) : Runs (.pack5 f) := .float (execPack5 f) rfl rfl rfl (fun _ => rfl) fun _ => rfl
theorem runs_pack8 (f : Fields) : Runs (.pack8 f) := .float (execPack8 f) rfl rfl rfl (fun _ => rfl) fun _ => rfl
theorem runs_unpk2 (f : Fields) : Runs (.unpk2 f) := .unpack (execUnpk2 f) rfl rfl rfl (fun _ => rfl) fun _ => rfl
theorem runs_unpk4 (f : Fields) : Runs (.unpk4 f) := .unpack (execUnpk4 f) rfl rfl rfl (fun _ => rfl) fun _ => rfl
theorem runs_unpk5 (f : Fields) : Runs (.unpk5 f) := .unpack (execUnpk5 f) rfl rfl rfl (fun _ => rfl) fun _ => rfl
theorem runs_unpk8 (f : Fields) : Runs (.unpk8 f) := .unpack (execUnpk8 f) rfl rfl rfl (fun _ => rfl) fun _ => rfl
theorem runs_cbld (f : Fields) : Runs (.cbld f) := .batch (execCbld f) rfl rfl rfl (fun _ => rfl) fun _ => rfl
theorem runs_cbldM (f : Fields) : Runs (.cbldM f) := .batch (execCbldM f) rfl rfl rfl (fun _ => rfl) fun _ => rfl
theorem runs_cbq (f : Fields) : Runs (.cbq f) := .quantise (execCbq f) rfl rfl rfl (fun _ => rfl) fun _ => rfl
theorem runs_cbqP (f : Fields) : Runs (.cbqP f) := .quantise (execCbqP f) rfl rfl rfl (fun _ => rfl) fun _ => rfl
theorem runs_bsclGet (f : Fields) : Runs (.bsclGet f) := .lanes (execBsclGet f) rfl rfl rfl (fun _ => rfl) fun _ => rfl
theorem runs_bsclGet32 (f : Fields) : Runs (.bsclGet32 f) := .lanes (execBsclGet32 f) rfl rfl rfl (fun _ => rfl) fun _ => rfl
theorem runs_bsclApply (f : Fields) : Runs (.bsclApply f) := .float (execBsclApply f) rfl rfl rfl (fun _ => rfl) fun _ => rfl
theorem runs_bsclInv (f : Fields) : Runs (.bsclInv f) := .float (execBsclInv f) rfl rfl rfl (fun _ => rfl) fun _ => rfl
theorem runs_fadd (f : Fields) : Runs (.fadd f) := .float (execFadd f) rfl rfl rfl (fun _ => rfl) fun _ => rfl
theorem runs_faddF16x2 (f : Fields) : Runs (.faddF16x2 f) := .float (execFaddF16x2 f) rfl rfl rfl (fun _ => rfl) fun _ => rfl
theorem runs_faddBf16x2 (f : Fields) : Runs (.faddBf16x2 f) := .float (execFaddBf16x2 f) rfl rfl rfl (fun _ => rfl) fun _ => rfl
theorem runs_fmul (f : Fields) : Runs (.fmul f) := .float (execFmul f) rfl rfl rfl (fun _ => rfl) fun _ => rfl
theorem runs_fmulF16x2 (f : Fields) : Runs (.fmulF16x2 f) := .float (execFmulF16x2 f) rfl rfl rfl (fun _ => rfl) fun _ => rfl
theorem runs_fmulBf16x2 (f : Fields) : Runs (.fmulBf16x2 f) := .float (execFmulBf16x2 f) rfl rfl rfl (fun _ => rfl) fun _ => rfl
theorem runs_fmac (f : Fields) : Runs (.fmac f) := .float (execFmac f) rfl rfl rfl (fun _ => rfl) fun _ => rfl
theorem runs_fmacF16x2 (f : Fields) : Runs (.fmacF16x2 f) := .float (execFmacF16x2 f) rfl rfl rfl (fun _ => rfl) fun _ => rfl
theorem runs_fmacBf16x2 (f : Fields) : Runs (.fmacBf16x2 f) := .float (execFmacBf16x2 f) rfl rfl rfl (fun _ => rfl) fun _ => rfl
theorem runs_fmin (f : Fields) : Runs (.fmin f) := .float (execFmin f) rfl rfl rfl (fun _ => rfl) fun _ => rfl
theorem runs_fminF16x2 (f : Fields) : Runs (.fminF16x2 f) := .float (execFminF16x2 f) rfl rfl rfl (fun _ => rfl) fun _ => rfl
theorem runs_fminBf16x2 (f : Fields) : Runs (.fminBf16x2 f) := .float (execFminBf16x2 f) rfl rfl rfl (fun _ => rfl) fun _ => rfl
theorem runs_fmax (f : Fields) : Runs (.fmax f) := .float (execFmax f) rfl rfl rfl (fun _ => rfl) fun _ => rfl
theorem runs_fmaxF16x2 (f : Fields) : Runs (.fmaxF16x2 f) := .float (execFmaxF16x2 f) rfl rfl rfl (fun _ => rfl) fun _ => rfl
theorem runs_fmaxBf16x2 (f : Fields) : Runs (.fmaxBf16x2 f) := .float (execFmaxBf16x2 f) rfl rfl rfl (fun _ => rfl) fun _ => rfl
theorem runs_fcmp (f : Fields) : Runs (.fcmp f) := .lanes (execFcmp f) rfl rfl rfl (fun _ => rfl) fun _ => rfl
theorem runs_fcmpF16x2 (f : Fields) : Runs (.fcmpF16x2 f) := .lanes (execFcmpF16x2 f) rfl rfl rfl (fun _ => rfl) fun _ => rfl
theorem runs_fcmpBf16x2 (f : Fields) : Runs (.fcmpBf16x2 f) := .lanes (execFcmpBf16x2 f) rfl rfl rfl (fun _ => rfl) fun _ => rfl
theorem runs_fcmpF64 (f : Fields) : Runs (.fcmpF64 f) := .lanes (execFcmpF64 f) rfl rfl rfl (fun _ => rfl) fun _ => rfl
theorem runs_fcls (f : Fields) : Runs (.fcls f) := .lanes (execFcls f) rfl rfl rfl (fun _ => rfl) fun _ => rfl
theorem runs_fclsF64 (f : Fields) : Runs (.fclsF64 f) := .lanes (execFclsF64 f) rfl rfl rfl (fun _ => rfl) fun _ => rfl
theorem runs_fclsF16x2 (f : Fields) : Runs (.fclsF16x2 f) := .lanes (execFclsF16x2 f) rfl rfl rfl (fun _ => rfl) fun _ => rfl
theorem runs_fclsBf16x2 (f : Fields) : Runs (.fclsBf16x2 f) := .lanes (execFclsBf16x2 f) rfl rfl rfl (fun _ => rfl) fun _ => rfl
theorem runs_frnd (f : Fields) : Runs (.frnd f) := .float (execFrnd f) rfl rfl rfl (fun _ => rfl) fun _ => rfl
theorem runs_frndF64 (f : Fields) : Runs (.frndF64 f) := .float (execFrndF64 f) rfl rfl rfl (fun _ => rfl) fun _ => rfl
theorem runs_frndF16x2 (f : Fields) : Runs (.frndF16x2 f) := .float (execFrndF16x2 f) rfl rfl rfl (fun _ => rfl) fun _ => rfl
theorem runs_frndBf16x2 (f : Fields) : Runs (.frndBf16x2 f) := .float (execFrndBf16x2 f) rfl rfl rfl (fun _ => rfl) fun _ => rfl
theorem runs_rcp (f : Fields) : Runs (.rcp f) := .float (execRcp f) rfl rfl rfl (fun _ => rfl) fun _ => rfl
theorem runs_rcpF64 (f : Fields) : Runs (.rcpF64 f) := .float (execRcpF64 f) rfl rfl rfl (fun _ => rfl) fun _ => rfl
theorem runs_rsq (f : Fields) : Runs (.rsq f) := .float (execRsq f) rfl rfl rfl (fun _ => rfl) fun _ => rfl
theorem runs_rsqF64 (f : Fields) : Runs (.rsqF64 f) := .float (execRsqF64 f) rfl rfl rfl (fun _ => rfl) fun _ => rfl
theorem runs_sqrt (f : Fields) : Runs (.sqrt f) := .float (execSqrt f) rfl rfl rfl (fun _ => rfl) fun _ => rfl
theorem runs_sqrtF64 (f : Fields) : Runs (.sqrtF64 f) := .float (execSqrtF64 f) rfl rfl rfl (fun _ => rfl) fun _ => rfl
theorem runs_ex2 (f : Fields) : Runs (.ex2 f) := .float (execEx2 f) rfl rfl rfl (fun _ => rfl) fun _ => rfl
theorem runs_lg2 (f : Fields) : Runs (.lg2 f) := .float (execLg2 f) rfl rfl rfl (fun _ => rfl) fun _ => rfl
theorem runs_sin (f : Fields) : Runs (.sin f) := .float (execSin f) rfl rfl rfl (fun _ => rfl) fun _ => rfl
theorem runs_cos (f : Fields) : Runs (.cos f) := .float (execCos f) rfl rfl rfl (fun _ => rfl) fun _ => rfl
theorem runs_tanh (f : Fields) : Runs (.tanh f) := .float (execTanh f) rfl rfl rfl (fun _ => rfl) fun _ => rfl
theorem runs_dadd (f : Fields) : Runs (.dadd f) := .float (execDadd f) rfl rfl rfl (fun _ => rfl) fun _ => rfl
theorem runs_dmul (f : Fields) : Runs (.dmul f) := .float (execDmul f) rfl rfl rfl (fun _ => rfl) fun _ => rfl
theorem runs_dmac (f : Fields) : Runs (.dmac f) := .float (execDmac f) rfl rfl rfl (fun _ => rfl) fun _ => rfl
theorem runs_fminF64 (f : Fields) : Runs (.fminF64 f) := .float (execFminF64 f) rfl rfl rfl (fun _ => rfl) fun _ => rfl
theorem runs_fmaxF64 (f : Fields) : Runs (.fmaxF64 f) := .float (execFmaxF64 f) rfl rfl rfl (fun _ => rfl) fun _ => rfl
theorem runs_xpr (f : Fields) : Runs (.xpr f) := .float (execXpr f) rfl rfl rfl (fun _ => rfl) fun _ => rfl
theorem runs_part (f : Fields) : Runs (.part f) :=
  ⟨_, f, _, rfl, rfl, fun h => absurd rfl (h f), fun s => ⟨_, (rfl : _ = execPart f s).trans rfl⟩⟩
theorem runs_xlnIdx (f : Fields) : Runs (.xlnIdx f) := .batch (execXlnIdx f) rfl rfl rfl (fun _ => rfl) fun _ => rfl
theorem runs_xlnSub (f : Fields) : Runs (.xlnSub f) := .batch (execXlnSub f) rfl rfl rfl (fun _ => rfl) fun _ => rfl
theorem runs_xlnAdd (f : Fields) : Runs (.xlnAdd f) := .batch (execXlnAdd f) rfl rfl rfl (fun _ => rfl) fun _ => rfl
theorem runs_xlnFlip (f : Fields) : Runs (.xlnFlip f) := .batch (execXlnFlip f) rfl rfl rfl (fun _ => rfl) fun _ => rfl
theorem runs_vote (f : Fields) : Runs (.vote f) := .batch (execVote f) rfl rfl rfl (fun _ => rfl) fun _ => rfl
theorem runs_lred (f : Fields) : Runs (.lred f) := .batch (execLred f) rfl rfl rfl (fun _ => rfl) fun _ => rfl
theorem runs_lredF (f : Fields) : Runs (.lredF f) := .batch (execLredF f) rfl rfl rfl (fun _ => rfl) fun _ => rfl
theorem runs_lscan (f : Fields) : Runs (.lscan f) := .batch (execLscan f) rfl rfl rfl (fun _ => rfl) fun _ => rfl
theorem runs_lscanF (f : Fields) : Runs (.lscanF f) := .batch (execLscanF f) rfl rfl rfl (fun _ => rfl) fun _ => rfl
theorem runs_perm (f : Fields) : Runs (.perm f) := .batch (execPerm f) rfl rfl rfl (fun _ => rfl) fun _ => rfl
theorem runs_pld (f : Fields) : Runs (.pld f) := .batch (execPld f) rfl rfl rfl (fun _ => rfl) fun _ => rfl
theorem runs_ldS (f : Fields) : Runs (.ldS f) := .load (execLdS f) rfl rfl rfl (fun _ => rfl) fun _ => rfl
theorem runs_ldC (f : Fields) : Runs (.ldC f) := .load (execLdC f) rfl rfl rfl (fun _ => rfl) fun _ => rfl
theorem runs_ldG (f : Fields) : Runs (.ldG f) := .load (execLdG f) rfl rfl rfl (fun _ => rfl) fun _ => rfl
theorem runs_ldSQ (f : Fields) : Runs (.ldSQ f) := .load (execLdSQ f) rfl rfl rfl (fun _ => rfl) fun _ => rfl
theorem runs_ldCQ (f : Fields) : Runs (.ldCQ f) := .load (execLdCQ f) rfl rfl rfl (fun _ => rfl) fun _ => rfl
theorem runs_ldGQ (f : Fields) : Runs (.ldGQ f) := .load (execLdGQ f) rfl rfl rfl (fun _ => rfl) fun _ => rfl
theorem runs_stS (f : Fields) : Runs (.stS f) := .store (execStS f) rfl rfl rfl (fun _ => rfl) fun _ => rfl
theorem runs_stC (f : Fields) : Runs (.stC f) := .store (execStC f) rfl rfl rfl (fun _ => rfl) fun _ => rfl
theorem runs_stG (f : Fields) : Runs (.stG f) := .store (execStG f) rfl rfl rfl (fun _ => rfl) fun _ => rfl
theorem runs_stSQ (f : Fields) : Runs (.stSQ f) := .store (execStSQ f) rfl rfl rfl (fun _ => rfl) fun _ => rfl
theorem runs_stCQ (f : Fields) : Runs (.stCQ f) := .store (execStCQ f) rfl rfl rfl (fun _ => rfl) fun _ => rfl
theorem runs_stGQ (f : Fields) : Runs (.stGQ f) := .store (execStGQ f) rfl rfl rfl (fun _ => rfl) fun _ => rfl
theorem runs_prfL1 (f : Fields) : Runs (.prfL1 f) := .batch (execPrfL1 f) rfl rfl rfl (fun _ => rfl) fun _ => rfl
theorem runs_prfL2 (f : Fields) : Runs (.prfL2 f) := .batch (execPrfL2 f) rfl rfl rfl (fun _ => rfl) fun _ => rfl
theorem runs_cctlInv (f : Fields) : Runs (.cctlInv f) := .batch (execCctlInv f) rfl rfl rfl (fun _ => rfl) fun _ => rfl
theorem runs_cctlWb (f : Fields) : Runs (.cctlWb f) := .batch (execCctlWb f) rfl rfl rfl (fun _ => rfl) fun _ => rfl
theorem runs_cctlWbinv (f : Fields) : Runs (.cctlWbinv f) := .batch (execCctlWbinv f) rfl rfl rfl (fun _ => rfl) fun _ => rfl
theorem runs_cctlPri (f : Fields) : Runs (.cctlPri f) := .batch (execCctlPri f) rfl rfl rfl (fun _ => rfl) fun _ => rfl
theorem runs_aqry (f : Fields) : Runs (.aqry f) := .batch (execAqry f) rfl rfl rfl (fun _ => rfl) fun _ => rfl
theorem runs_aqryH (f : Fields) : Runs (.aqryH f) := .batch (execAqryH f) rfl rfl rfl (fun _ => rfl) fun _ => rfl
theorem runs_phaseRel (f : Fields) : Runs (.phaseRel f) := .batch (execPhaseRel f) rfl rfl rfl (fun _ => rfl) fun _ => rfl
theorem runs_phaseAcq (f : Fields) : Runs (.phaseAcq f) := .batch (execPhaseAcq f) rfl rfl rfl (fun _ => rfl) fun _ => rfl
theorem runs_phaseAr (f : Fields) : Runs (.phaseAr f) := .batch (execPhaseAr f) rfl rfl rfl (fun _ => rfl) fun _ => rfl
theorem runs_fence (f : Fields) : Runs (.fence f) := .batch (execFence f) rfl rfl rfl (fun _ => rfl) fun _ => rfl
theorem runs_fenceE (f : Fields) : Runs (.fenceE f) := .batch (execFenceE f) rfl rfl rfl (fun _ => rfl) fun _ => rfl
theorem runs_ord (f : Fields) : Runs (.ord f) := .batch (execOrd f) rfl rfl rfl (fun _ => rfl) fun _ => rfl
theorem runs_atomAdd (f : Fields) : Runs (.atomAdd f) := .atom (execAtomAdd f) rfl rfl rfl (fun _ => rfl) fun _ => rfl
theorem runs_atomAdd64 (f : Fields) : Runs (.atomAdd64 f) := .atom (execAtomAdd64 f) rfl rfl rfl (fun _ => rfl) fun _ => rfl
theorem runs_atomAddF32 (f : Fields) : Runs (.atomAddF32 f) := .atom (execAtomAddF32 f) rfl rfl rfl (fun _ => rfl) fun _ => rfl
theorem runs_atomAddBf16x2 (f : Fields) : Runs (.atomAddBf16x2 f) := .atom (execAtomAddBf16x2 f) rfl rfl rfl (fun _ => rfl) fun _ => rfl
theorem runs_atomMinS (f : Fields) : Runs (.atomMinS f) := .atom (execAtomMinS f) rfl rfl rfl (fun _ => rfl) fun _ => rfl
theorem runs_atomMinU (f : Fields) : Runs (.atomMinU f) := .atom (execAtomMinU f) rfl rfl rfl (fun _ => rfl) fun _ => rfl
theorem runs_atomMaxS (f : Fields) : Runs (.atomMaxS f) := .atom (execAtomMaxS f) rfl rfl rfl (fun _ => rfl) fun _ => rfl
theorem runs_atomMaxU (f : Fields) : Runs (.atomMaxU f) := .atom (execAtomMaxU f) rfl rfl rfl (fun _ => rfl) fun _ => rfl
theorem runs_atomAnd (f : Fields) : Runs (.atomAnd f) := .atom (execAtomAnd f) rfl rfl rfl (fun _ => rfl) fun _ => rfl
theorem runs_atomOr (f : Fields) : Runs (.atomOr f) := .atom (execAtomOr f) rfl rfl rfl (fun _ => rfl) fun _ => rfl
theorem runs_atomXor (f : Fields) : Runs (.atomXor f) := .atom (execAtomXor f) rfl rfl rfl (fun _ => rfl) fun _ => rfl
theorem runs_atomExch (f : Fields) : Runs (.atomExch f) := .atom (execAtomExch f) rfl rfl rfl (fun _ => rfl) fun _ => rfl
theorem runs_atomExch64 (f : Fields) : Runs (.atomExch64 f) := .atom (execAtomExch64 f) rfl rfl rfl (fun _ => rfl) fun _ => rfl
theorem runs_atomCas (f : Fields) : Runs (.atomCas f) := .atom (execAtomCas f) rfl rfl rfl (fun _ => rfl) fun _ => rfl
theorem runs_atomCas64 (f : Fields) : Runs (.atomCas64 f) := .atom (execAtomCas64 f) rfl rfl rfl (fun _ => rfl) fun _ => rfl
theorem runs_atomInc (f : Fields) : Runs (.atomInc f) := .atom (execAtomInc f) rfl rfl rfl (fun _ => rfl) fun _ => rfl
theorem runs_redAdd (f : Fields) : Runs (.redAdd f) := .red (execRedAdd f) rfl rfl rfl (fun _ => rfl) fun _ => rfl
theorem runs_redAdd64 (f : Fields) : Runs (.redAdd64 f) := .red (execRedAdd64 f) rfl rfl rfl (fun _ => rfl) fun _ => rfl
theorem runs_redAddF32 (f : Fields) : Runs (.redAddF32 f) := .red (execRedAddF32 f) rfl rfl rfl (fun _ => rfl) fun _ => rfl
theorem runs_redAddBf16x2 (f : Fields) : Runs (.redAddBf16x2 f) := .red (execRedAddBf16x2 f) rfl rfl rfl (fun _ => rfl) fun _ => rfl
theorem runs_redMinS (f : Fields) : Runs (.redMinS f) := .red (execRedMinS f) rfl rfl rfl (fun _ => rfl) fun _ => rfl
theorem runs_redMinU (f : Fields) : Runs (.redMinU f) := .red (execRedMinU f) rfl rfl rfl (fun _ => rfl) fun _ => rfl
theorem runs_redMaxS (f : Fields) : Runs (.redMaxS f) := .red (execRedMaxS f) rfl rfl rfl (fun _ => rfl) fun _ => rfl
theorem runs_redMaxU (f : Fields) : Runs (.redMaxU f) := .red (execRedMaxU f) rfl rfl rfl (fun _ => rfl) fun _ => rfl
theorem runs_redAnd (f : Fields) : Runs (.redAnd f) := .red (execRedAnd f) rfl rfl rfl (fun _ => rfl) fun _ => rfl
theorem runs_redOr (f : Fields) : Runs (.redOr f) := .red (execRedOr f) rfl rfl rfl (fun _ => rfl) fun _ => rfl
theorem runs_redXor (f : Fields) : Runs (.redXor f) := .red (execRedXor f) rfl rfl rfl (fun _ => rfl) fun _ => rfl
theorem runs_redInc (f : Fields) : Runs (.redInc f) := .red (execRedInc f) rfl rfl rfl (fun _ => rfl) fun _ => rfl
theorem runs_binit (f : Fields) : Runs (.binit f) := .batch (execBinit f) rfl rfl rfl (fun _ => rfl) fun _ => rfl
theorem runs_barv (f : Fields) : Runs (.barv f) := .batch (execBarv f) rfl rfl rfl (fun _ => rfl) fun _ => rfl
theorem runs_barvC (f : Fields) : Runs (.barvC f) := .batch (execBarvC f) rfl rfl rfl (fun _ => rfl) fun _ => rfl
theorem runs_bwait (f : Fields) : Runs (.bwait f) := .batch (execBwait f) rfl rfl rfl (fun _ => rfl) fun _ => rfl
theorem runs_barr (f : Fields) : Runs (.barr f) := .batch (execBarr f) rfl rfl rfl (fun _ => rfl) fun _ => rfl
theorem runs_binv (f : Fields) : Runs (.binv f) := .batch (execBinv f) rfl rfl rfl (fun _ => rfl) fun _ => rfl
theorem runs_bqry (f : Fields) : Runs (.bqry f) := .batch (execBqry f) rfl rfl rfl (fun _ => rfl) fun _ => rfl
theorem runs_watch (f : Fields) : Runs (.watch f) := .batch (execWatch f) rfl rfl rfl (fun _ => rfl) fun _ => rfl
theorem runs_watchClr (f : Fields) : Runs (.watchClr f) := .batch (execWatchClr f) rfl rfl rfl (fun _ => rfl) fun _ => rfl
theorem runs_waitw (f : Fields) : Runs (.waitw f) := .batch (execWaitw f) rfl rfl rfl (fun _ => rfl) fun _ => rfl
theorem runs_waitwT (f : Fields) : Runs (.waitwT f) := .batch (execWaitwT f) rfl rfl rfl (fun _ => rfl) fun _ => rfl
theorem runs_rgrow (f : Fields) : Runs (.rgrow f) := .batch (execRgrow f) rfl rfl rfl (fun _ => rfl) fun _ => rfl
theorem runs_rgrowTry (f : Fields) : Runs (.rgrowTry f) := .batch (execRgrowTry f) rfl rfl rfl (fun _ => rfl) fun _ => rfl
theorem runs_rshrink (f : Fields) : Runs (.rshrink f) := .batch (execRshrink f) rfl rfl rfl (fun _ => rfl) fun _ => rfl
theorem runs_cpy (f : Fields) : Runs (.cpy f) := .batch (execCpy f) rfl rfl rfl (fun _ => rfl) fun _ => rfl
theorem runs_cpySlot (f : Fields) : Runs (.cpySlot f) := .batch (execCpySlot f) rfl rfl rfl (fun _ => rfl) fun _ => rfl
theorem runs_cpyCl (f : Fields) : Runs (.cpyCl f) := .batch (execCpyCl f) rfl rfl rfl (fun _ => rfl) fun _ => rfl
theorem runs_cpyReg (f : Fields) : Runs (.cpyReg f) := .batch (execCpyReg f) rfl rfl rfl (fun _ => rfl) fun _ => rfl
theorem runs_cpyRing (f : Fields) : Runs (.cpyRing f) := .batch (execCpyRing f) rfl rfl rfl (fun _ => rfl) fun _ => rfl
theorem runs_cpyAcc (f : Fields) : Runs (.cpyAcc f) := .batch (execCpyAcc f) rfl rfl rfl (fun _ => rfl) fun _ => rfl
theorem runs_cpyB (f : Fields) : Runs (.cpyB f) := .batch (execCpyB f) rfl rfl rfl (fun _ => rfl) fun _ => rfl
theorem runs_gth (f : Fields) : Runs (.gth f) := .batch (execGth f) rfl rfl rfl (fun _ => rfl) fun _ => rfl
theorem runs_gthSlot (f : Fields) : Runs (.gthSlot f) := .batch (execGthSlot f) rfl rfl rfl (fun _ => rfl) fun _ => rfl
theorem runs_sct (f : Fields) : Runs (.sct f) := .batch (execSct f) rfl rfl rfl (fun _ => rfl) fun _ => rfl
theorem runs_sctCl (f : Fields) : Runs (.sctCl f) := .batch (execSctCl f) rfl rfl rfl (fun _ => rfl) fun _ => rfl
theorem runs_seal (f : Fields) : Runs (.seal f) := .batch (execSeal f) rfl rfl rfl (fun _ => rfl) fun _ => rfl
theorem runs_waitc (f : Fields) : Runs (.waitc f) := .batch (execWaitc f) rfl rfl rfl (fun _ => rfl) fun _ => rfl
theorem runs_swinit (f : Fields) : Runs (.swinit f) := .batch (execSwinit f) rfl rfl rfl (fun _ => rfl) fun _ => rfl
theorem runs_swexp (f : Fields) : Runs (.swexp f) := .batch (execSwexp f) rfl rfl rfl (fun _ => rfl) fun _ => rfl
theorem runs_swwait (f : Fields) : Runs (.swwait f) := .batch (execSwwait f) rfl rfl rfl (fun _ => rfl) fun _ => rfl
theorem runs_rwait (f : Fields) : Runs (.rwait f) := .batch (execRwait f) rfl rfl rfl (fun _ => rfl) fun _ => rfl
theorem runs_rrel (f : Fields) : Runs (.rrel f) := .batch (execRrel f) rfl rfl rfl (fun _ => rfl) fun _ => rfl
theorem runs_sclm (f : Fields) : Runs (.sclm f) := .once (execSclm f) rfl rfl rfl (fun _ => rfl) fun _ => rfl
theorem runs_sclmTry (f : Fields) : Runs (.sclmTry f) := .once (execSclmTry f) rfl rfl rfl (fun _ => rfl) fun _ => rfl
theorem runs_srel (f : Fields) : Runs (.srel f) := .once (execSrel f) rfl rfl rfl (fun _ => rfl) fun _ => rfl
theorem runs_mloop (f : Fields) : Runs (.mloop f) := .easel (execMloop f) rfl rfl rfl (fun _ => rfl) fun _ => rfl
theorem runs_mloopC (f : Fields) : Runs (.mloopC f) := .easel (execMloopC f) rfl rfl rfl (fun _ => rfl) fun _ => rfl
theorem runs_mloopG (f : Fields) : Runs (.mloopG f) := .easel (execMloopG f) rfl rfl rfl (fun _ => rfl) fun _ => rfl
theorem runs_mzero (f : Fields) : Runs (.mzero f) := .easel (execMzero f) rfl rfl rfl (fun _ => rfl) fun _ => rfl
theorem runs_mlda (f : Fields) : Runs (.mlda f) := .easel (execMlda f) rfl rfl rfl (fun _ => rfl) fun _ => rfl
theorem runs_msta (f : Fields) : Runs (.msta f) := .easel (execMsta f) rfl rfl rfl (fun _ => rfl) fun _ => rfl
theorem runs_cmrg (f : Fields) : Runs (.cmrg f) := .easel (execCmrg f) rfl rfl rfl (fun _ => rfl) fun _ => rfl
theorem runs_cdrn (f : Fields) : Runs (.cdrn f) := .easel (execCdrn f) rfl rfl rfl (fun _ => rfl) fun _ => rfl
theorem runs_cdrnI (f : Fields) : Runs (.cdrnI f) := .easel (execCdrnI f) rfl rfl rfl (fun _ => rfl) fun _ => rfl
theorem runs_czero (f : Fields) : Runs (.czero f) := .easel (execCzero f) rfl rfl rfl (fun _ => rfl) fun _ => rfl
theorem runs_czeroD (f : Fields) : Runs (.czeroD f) := .easel (execCzeroD f) rfl rfl rfl (fun _ => rfl) fun _ => rfl
theorem runs_brld (f : Fields) : Runs (.brld f) := .once (execBrld f) rfl rfl rfl (fun _ => rfl) fun _ => rfl
theorem runs_brldPkg (f : Fields) : Runs (.brldPkg f) := .once (execBrldPkg f) rfl rfl rfl (fun _ => rfl) fun _ => rfl
theorem runs_brdrop (f : Fields) : Runs (.brdrop f) := .once (execBrdrop f) rfl rfl rfl (fun _ => rfl) fun _ => rfl
theorem runs_brdropPkg (f : Fields) : Runs (.brdropPkg f) := .once (execBrdropPkg f) rfl rfl rfl (fun _ => rfl) fun _ => rfl
theorem runs_tzip (f : Fields) : Runs (.tzip f) :=
  ⟨_, f, _, rfl, rfl, fun _ h => absurd rfl (h f), fun s => ⟨_, (rfl : _ = execTzip f s).trans rfl⟩⟩
theorem runs_tfold (f : Fields) : Runs (.tfold f) := .batch (execTfold f) rfl rfl rfl (fun _ => rfl) fun _ => rfl
theorem runs_tscan (f : Fields) : Runs (.tscan f) := .batch (execTscan f) rfl rfl rfl (fun _ => rfl) fun _ => rfl
theorem runs_touter (f : Fields) : Runs (.touter f) := .once (execTouter f) rfl rfl rfl (fun _ => rfl) fun _ => rfl
theorem runs_trap (f : Fields) : Runs (.trap f) := .once (execTrap f) rfl rfl rfl (fun _ => rfl) fun _ => rfl
theorem runs_sysc (f : Fields) : Runs (.sysc f) := .once (execSysc f) rfl rfl rfl (fun _ => rfl) fun _ => rfl
theorem runs_csrr (f : Fields) : Runs (.csrr f) := .once (execCsrr f) rfl rfl rfl (fun _ => rfl) fun _ => rfl
theorem runs_csrw (f : Fields) : Runs (.csrw f) := .once (execCsrw f) rfl rfl rfl (fun _ => rfl) fun _ => rfl
theorem runs_csrs (f : Fields) : Runs (.csrs f) := .once (execCsrs f) rfl rfl rfl (fun _ => rfl) fun _ => rfl
theorem runs_csrc (f : Fields) : Runs (.csrc f) := .once (execCsrc f) rfl rfl rfl (fun _ => rfl) fun _ => rfl
theorem runs_brk (f : Fields) : Runs (.brk f) := .once (execBrk f) rfl rfl rfl (fun _ => rfl) fun _ => rfl
theorem runs_frd (f : Fields) : Runs (.frd f) := .once (execFrd f) rfl rfl rfl (fun _ => rfl) fun _ => rfl
theorem runs_fres (f : Fields) : Runs (.fres f) := .once (execFres f) rfl rfl rfl (fun _ => rfl) fun _ => rfl
theorem runs_fkill (f : Fields) : Runs (.fkill f) := .once (execFkill f) rfl rfl rfl (fun _ => rfl) fun _ => rfl
theorem runs_mldr (f : Fields) : Runs (.mldr f) := .batch (execMldr f) rfl rfl rfl (fun _ => rfl) fun _ => rfl
theorem runs_mldrF32 (f : Fields) : Runs (.mldrF32 f) := .batch (execMldrF32 f) rfl rfl rfl (fun _ => rfl) fun _ => rfl
theorem runs_msto (f : Fields) : Runs (.msto f) := .batch (execMsto f) rfl rfl rfl (fun _ => rfl) fun _ => rfl
theorem runs_psend (f : Fields) : Runs (.psend f) := .once (execPsend f) rfl rfl rfl (fun _ => rfl) fun _ => rfl
theorem runs_psendT (f : Fields) : Runs (.psendT f) := .once (execPsendT f) rfl rfl rfl (fun _ => rfl) fun _ => rfl
theorem runs_lcarm (f : Fields) : Runs (.lcarm f) := .once (execLcarm f) rfl rfl rfl (fun _ => rfl) fun _ => rfl
theorem runs_lcarmAdd (f : Fields) : Runs (.lcarmAdd f) := .once (execLcarmAdd f) rfl rfl rfl (fun _ => rfl) fun _ => rfl
theorem runs_twait (f : Fields) : Runs (.twait f) := .batch (execTwait f) rfl rfl rfl (fun _ => rfl) fun _ => rfl
theorem runs_twaitRel (f : Fields) : Runs (.twaitRel f) := .batch (execTwaitRel f) rfl rfl rfl (fun _ => rfl) fun _ => rfl
theorem runs_tread (f : Fields) : Runs (.tread f) := .lanes (execTread f) rfl rfl rfl (fun _ => rfl) fun _ => rfl
theorem runs_task (f : Fields) : Runs (.task f) := .once (execTask f) rfl rfl rfl (fun _ => rfl) fun _ => rfl
theorem runs_taskT (f : Fields) : Runs (.taskT f) := .once (execTaskT f) rfl rfl rfl (fun _ => rfl) fun _ => rfl
theorem runs_hints (f : Fields) : Runs (.hints f) := .once (execHints f) rfl rfl rfl (fun _ => rfl) fun _ => rfl
theorem runs_waitpred (f : Fields) : Runs (.waitpred f) := .batch (execWaitpred f) rfl rfl rfl (fun _ => rfl) fun _ => rfl

/-- Every encoding. -/
theorem runs : (i : Instr) → i.opcode.isSome = true → Runs i
  | .bra f, _ => runs_bra f
  | .brx f, _ => runs_brx f
  | .brxTbl f, _ => runs_brxTbl f
  | .call f, _ => runs_call f
  | .callX f, _ => runs_callX f
  | .ret f, _ => runs_ret f
  | .fspawn f, _ => runs_fspawn f
  | .fspawnN f, _ => runs_fspawnN f
  | .fend f, _ => runs_fend f
  | .yield f, _ => runs_yield f
  | .nop f, _ => runs_nop f
  | .braLoop f, _ => runs_braLoop f
  | .iadd f, _ => runs_iadd f
  | .iadd64 f, _ => runs_iadd64 f
  | .iaddSat f, _ => runs_iaddSat f
  | .iaddX f, _ => runs_iaddX f
  | .isub f, _ => runs_isub f
  | .isub64 f, _ => runs_isub64 f
  | .isubSat f, _ => runs_isubSat f
  | .isubX f, _ => runs_isubX f
  | .imul f, _ => runs_imul f
  | .imulHiS f, _ => runs_imulHiS f
  | .imulHiU f, _ => runs_imulHiU f
  | .imulWideS f, _ => runs_imulWideS f
  | .imulWideU f, _ => runs_imulWideU f
  | .imul64 f, _ => runs_imul64 f
  | .imad f, _ => runs_imad f
  | .imadWideS f, _ => runs_imadWideS f
  | .imadWideU f, _ => runs_imadWideU f
  | .imad64 f, _ => runs_imad64 f
  | .iabs f, _ => runs_iabs f
  | .iabs64 f, _ => runs_iabs64 f
  | .iminS f, _ => runs_iminS f
  | .iminU f, _ => runs_iminU f
  | .iminS64 f, _ => runs_iminS64 f
  | .iminU64 f, _ => runs_iminU64 f
  | .imaxS f, _ => runs_imaxS f
  | .imaxU f, _ => runs_imaxU f
  | .imaxS64 f, _ => runs_imaxS64 f
  | .imaxU64 f, _ => runs_imaxU64 f
  | .shl f, _ => runs_shl f
  | .shl64 f, _ => runs_shl64 f
  | .shrU f, _ => runs_shrU f
  | .shrS f, _ => runs_shrS f
  | .shrU64 f, _ => runs_shrU64 f
  | .shrS64 f, _ => runs_shrS64 f
  | .rotL f, _ => runs_rotL f
  | .rotR f, _ => runs_rotR f
  | .and f, _ => runs_and f
  | .or f, _ => runs_or f
  | .xor f, _ => runs_xor f
  | .not f, _ => runs_not f
  | .tern f, _ => runs_tern f
  | .bfxU f, _ => runs_bfxU f
  | .bfxS f, _ => runs_bfxS f
  | .bfi f, _ => runs_bfi f
  | .popc f, _ => runs_popc f
  | .clz f, _ => runs_clz f
  | .brev f, _ => runs_brev f
  | .icmpS f, _ => runs_icmpS f
  | .icmpU f, _ => runs_icmpU f
  | .icmpS64 f, _ => runs_icmpS64 f
  | .icmpU64 f, _ => runs_icmpU64 f
  | .sel f, _ => runs_sel f
  | .sel64 f, _ => runs_sel64 f
  | .mov f, _ => runs_mov f
  | .mov64 f, _ => runs_mov64 f
  | .movs f, _ => runs_movs f
  | .movsI f, _ => runs_movsI f
  | .lea f, _ => runs_lea f
  | .lea32 f, _ => runs_lea32 f
  | .leaSx f, _ => runs_leaSx f
  | .plog f, _ => runs_plog f
  | .plogW f, _ => runs_plogW f
  | .pmovP2v f, _ => runs_pmovP2v f
  | .pmovV2p f, _ => runs_pmovV2p f
  | .cvtDn f, _ => runs_cvtDn f
  | .cvtUp f, _ => runs_cvtUp f
  | .cvtD f, _ => runs_cvtD f
  | .cvtF2i f, _ => runs_cvtF2i f
  | .cvtI2f f, _ => runs_cvtI2f f
  | .cvtF2l f, _ => runs_cvtF2l f
  | .cvtL2f f, _ => runs_cvtL2f f
  | .cvtI2i f, _ => runs_cvtI2i f
  | .pack2 f, _ => runs_pack2 f
  | .pack4 f, _ => runs_pack4 f
  | .pack5 f, _ => runs_pack5 f
  | .pack8 f, _ => runs_pack8 f
  | .unpk2 f, _ => runs_unpk2 f
  | .unpk4 f, _ => runs_unpk4 f
  | .unpk5 f, _ => runs_unpk5 f
  | .unpk8 f, _ => runs_unpk8 f
  | .cbld f, _ => runs_cbld f
  | .cbldM f, _ => runs_cbldM f
  | .cbq f, _ => runs_cbq f
  | .cbqP f, _ => runs_cbqP f
  | .bsclGet f, _ => runs_bsclGet f
  | .bsclGet32 f, _ => runs_bsclGet32 f
  | .bsclApply f, _ => runs_bsclApply f
  | .bsclInv f, _ => runs_bsclInv f
  | .fadd f, _ => runs_fadd f
  | .faddF16x2 f, _ => runs_faddF16x2 f
  | .faddBf16x2 f, _ => runs_faddBf16x2 f
  | .fmul f, _ => runs_fmul f
  | .fmulF16x2 f, _ => runs_fmulF16x2 f
  | .fmulBf16x2 f, _ => runs_fmulBf16x2 f
  | .fmac f, _ => runs_fmac f
  | .fmacF16x2 f, _ => runs_fmacF16x2 f
  | .fmacBf16x2 f, _ => runs_fmacBf16x2 f
  | .fmin f, _ => runs_fmin f
  | .fminF16x2 f, _ => runs_fminF16x2 f
  | .fminBf16x2 f, _ => runs_fminBf16x2 f
  | .fmax f, _ => runs_fmax f
  | .fmaxF16x2 f, _ => runs_fmaxF16x2 f
  | .fmaxBf16x2 f, _ => runs_fmaxBf16x2 f
  | .fcmp f, _ => runs_fcmp f
  | .fcmpF16x2 f, _ => runs_fcmpF16x2 f
  | .fcmpBf16x2 f, _ => runs_fcmpBf16x2 f
  | .fcmpF64 f, _ => runs_fcmpF64 f
  | .fcls f, _ => runs_fcls f
  | .fclsF64 f, _ => runs_fclsF64 f
  | .fclsF16x2 f, _ => runs_fclsF16x2 f
  | .fclsBf16x2 f, _ => runs_fclsBf16x2 f
  | .frnd f, _ => runs_frnd f
  | .frndF64 f, _ => runs_frndF64 f
  | .frndF16x2 f, _ => runs_frndF16x2 f
  | .frndBf16x2 f, _ => runs_frndBf16x2 f
  | .rcp f, _ => runs_rcp f
  | .rcpF64 f, _ => runs_rcpF64 f
  | .rsq f, _ => runs_rsq f
  | .rsqF64 f, _ => runs_rsqF64 f
  | .sqrt f, _ => runs_sqrt f
  | .sqrtF64 f, _ => runs_sqrtF64 f
  | .ex2 f, _ => runs_ex2 f
  | .lg2 f, _ => runs_lg2 f
  | .sin f, _ => runs_sin f
  | .cos f, _ => runs_cos f
  | .tanh f, _ => runs_tanh f
  | .dadd f, _ => runs_dadd f
  | .dmul f, _ => runs_dmul f
  | .dmac f, _ => runs_dmac f
  | .fminF64 f, _ => runs_fminF64 f
  | .fmaxF64 f, _ => runs_fmaxF64 f
  | .xpr f, _ => runs_xpr f
  | .part f, _ => runs_part f
  | .xlnIdx f, _ => runs_xlnIdx f
  | .xlnSub f, _ => runs_xlnSub f
  | .xlnAdd f, _ => runs_xlnAdd f
  | .xlnFlip f, _ => runs_xlnFlip f
  | .vote f, _ => runs_vote f
  | .lred f, _ => runs_lred f
  | .lredF f, _ => runs_lredF f
  | .lscan f, _ => runs_lscan f
  | .lscanF f, _ => runs_lscanF f
  | .perm f, _ => runs_perm f
  | .pld f, _ => runs_pld f
  | .ldS f, _ => runs_ldS f
  | .ldC f, _ => runs_ldC f
  | .ldG f, _ => runs_ldG f
  | .ldSQ f, _ => runs_ldSQ f
  | .ldCQ f, _ => runs_ldCQ f
  | .ldGQ f, _ => runs_ldGQ f
  | .stS f, _ => runs_stS f
  | .stC f, _ => runs_stC f
  | .stG f, _ => runs_stG f
  | .stSQ f, _ => runs_stSQ f
  | .stCQ f, _ => runs_stCQ f
  | .stGQ f, _ => runs_stGQ f
  | .prfL1 f, _ => runs_prfL1 f
  | .prfL2 f, _ => runs_prfL2 f
  | .cctlInv f, _ => runs_cctlInv f
  | .cctlWb f, _ => runs_cctlWb f
  | .cctlWbinv f, _ => runs_cctlWbinv f
  | .cctlPri f, _ => runs_cctlPri f
  | .aqry f, _ => runs_aqry f
  | .aqryH f, _ => runs_aqryH f
  | .phaseRel f, _ => runs_phaseRel f
  | .phaseAcq f, _ => runs_phaseAcq f
  | .phaseAr f, _ => runs_phaseAr f
  | .fence f, _ => runs_fence f
  | .fenceE f, _ => runs_fenceE f
  | .ord f, _ => runs_ord f
  | .atomAdd f, _ => runs_atomAdd f
  | .atomAdd64 f, _ => runs_atomAdd64 f
  | .atomAddF32 f, _ => runs_atomAddF32 f
  | .atomAddBf16x2 f, _ => runs_atomAddBf16x2 f
  | .atomMinS f, _ => runs_atomMinS f
  | .atomMinU f, _ => runs_atomMinU f
  | .atomMaxS f, _ => runs_atomMaxS f
  | .atomMaxU f, _ => runs_atomMaxU f
  | .atomAnd f, _ => runs_atomAnd f
  | .atomOr f, _ => runs_atomOr f
  | .atomXor f, _ => runs_atomXor f
  | .atomExch f, _ => runs_atomExch f
  | .atomExch64 f, _ => runs_atomExch64 f
  | .atomCas f, _ => runs_atomCas f
  | .atomCas64 f, _ => runs_atomCas64 f
  | .atomInc f, _ => runs_atomInc f
  | .redAdd f, _ => runs_redAdd f
  | .redAdd64 f, _ => runs_redAdd64 f
  | .redAddF32 f, _ => runs_redAddF32 f
  | .redAddBf16x2 f, _ => runs_redAddBf16x2 f
  | .redMinS f, _ => runs_redMinS f
  | .redMinU f, _ => runs_redMinU f
  | .redMaxS f, _ => runs_redMaxS f
  | .redMaxU f, _ => runs_redMaxU f
  | .redAnd f, _ => runs_redAnd f
  | .redOr f, _ => runs_redOr f
  | .redXor f, _ => runs_redXor f
  | .redInc f, _ => runs_redInc f
  | .binit f, _ => runs_binit f
  | .barv f, _ => runs_barv f
  | .barvC f, _ => runs_barvC f
  | .bwait f, _ => runs_bwait f
  | .barr f, _ => runs_barr f
  | .binv f, _ => runs_binv f
  | .bqry f, _ => runs_bqry f
  | .watch f, _ => runs_watch f
  | .watchClr f, _ => runs_watchClr f
  | .waitw f, _ => runs_waitw f
  | .waitwT f, _ => runs_waitwT f
  | .rgrow f, _ => runs_rgrow f
  | .rgrowTry f, _ => runs_rgrowTry f
  | .rshrink f, _ => runs_rshrink f
  | .cpy f, _ => runs_cpy f
  | .cpySlot f, _ => runs_cpySlot f
  | .cpyCl f, _ => runs_cpyCl f
  | .cpyReg f, _ => runs_cpyReg f
  | .cpyRing f, _ => runs_cpyRing f
  | .cpyAcc f, _ => runs_cpyAcc f
  | .cpyB f, _ => runs_cpyB f
  | .gth f, _ => runs_gth f
  | .gthSlot f, _ => runs_gthSlot f
  | .sct f, _ => runs_sct f
  | .sctCl f, _ => runs_sctCl f
  | .seal f, _ => runs_seal f
  | .waitc f, _ => runs_waitc f
  | .swinit f, _ => runs_swinit f
  | .swexp f, _ => runs_swexp f
  | .swwait f, _ => runs_swwait f
  | .rwait f, _ => runs_rwait f
  | .rrel f, _ => runs_rrel f
  | .sclm f, _ => runs_sclm f
  | .sclmTry f, _ => runs_sclmTry f
  | .srel f, _ => runs_srel f
  | .mloop f, _ => runs_mloop f
  | .mloopC f, _ => runs_mloopC f
  | .mloopG f, _ => runs_mloopG f
  | .mzero f, _ => runs_mzero f
  | .mlda f, _ => runs_mlda f
  | .msta f, _ => runs_msta f
  | .cmrg f, _ => runs_cmrg f
  | .cdrn f, _ => runs_cdrn f
  | .cdrnI f, _ => runs_cdrnI f
  | .czero f, _ => runs_czero f
  | .czeroD f, _ => runs_czeroD f
  | .brld f, _ => runs_brld f
  | .brldPkg f, _ => runs_brldPkg f
  | .brdrop f, _ => runs_brdrop f
  | .brdropPkg f, _ => runs_brdropPkg f
  | .tzip f, _ => runs_tzip f
  | .tfold f, _ => runs_tfold f
  | .tscan f, _ => runs_tscan f
  | .touter f, _ => runs_touter f
  | .trap f, _ => runs_trap f
  | .sysc f, _ => runs_sysc f
  | .csrr f, _ => runs_csrr f
  | .csrw f, _ => runs_csrw f
  | .csrs f, _ => runs_csrs f
  | .csrc f, _ => runs_csrc f
  | .brk f, _ => runs_brk f
  | .frd f, _ => runs_frd f
  | .fres f, _ => runs_fres f
  | .fkill f, _ => runs_fkill f
  | .mldr f, _ => runs_mldr f
  | .mldrF32 f, _ => runs_mldrF32 f
  | .msto f, _ => runs_msto f
  | .psend f, _ => runs_psend f
  | .psendT f, _ => runs_psendT f
  | .lcarm f, _ => runs_lcarm f
  | .lcarmAdd f, _ => runs_lcarmAdd f
  | .twait f, _ => runs_twait f
  | .twaitRel f, _ => runs_twaitRel f
  | .tread f, _ => runs_tread f
  | .task f, _ => runs_task f
  | .taskT f, _ => runs_taskT f
  | .hints f, _ => runs_hints f
  | .waitpred f, _ => runs_waitpred f
  | .loadDataReturn .., h => nomatch h
  | .homeWritePerformed .., h => nomatch h
  | .barrierUnitRequest .., h => nomatch h
  | .rotationDecision .., h => nomatch h
  | .rotationTransferDone .., h => nomatch h
  | .rotationQuantumExpiry .., h => nomatch h
  | .spinTimeout .., h => nomatch h
  | .waitwReread .., h => nomatch h
  | .waitwDeadline .., h => nomatch h
  | .swwaitReread .., h => nomatch h
  | .copyUnitGrant .., h => nomatch h
  | .engineOpComplete .., h => nomatch h
  | .easelUnitStart .., h => nomatch h
  | .easelUnitEnd .., h => nomatch h
  | .faultRecordWrite .., h => nomatch h
  | .faultRingRetry .., h => nomatch h
  | .watchdogExpiry .., h => nomatch h
  | .csrWrite .., h => nomatch h
  | .fcmdResumeAtPc .., h => nomatch h
  | .fcmdResumePast .., h => nomatch h
  | .fcmdKill .., h => nomatch h
  | .preemptRequest .., h => nomatch h
  | .preemptSaveDone .., h => nomatch h
  | .preemptRestore .., h => nomatch h
  | .preemptKillSaved .., h => nomatch h
  | .tlbInvalidate .., h => nomatch h
  | .launchCounterDisarm .., h => nomatch h
  | .faultRingReadIndexWrite .., h => nomatch h
  | .coveWaysWrite .., h => nomatch h
  | .tideTargetReached .., h => nomatch h
  | .multicastMemberRequest .., h => nomatch h
  | .multicastResponse .., h => nomatch h
  | .multicastMemberTimeout .., h => nomatch h
  | .packetHop .., h => nomatch h
  | .colnalFlitReceive .., h => nomatch h
  | .strandFrameReceive .., h => nomatch h
  | .strandSackReceive .., h => nomatch h
  | .strandSackTimer .., h => nomatch h
  | .strandRetransmitTimeout .., h => nomatch h
  | .strandPeerTimeout .., h => nomatch h
  | .queueNotify .., h => nomatch h
  | .workgroupAdmission .., h => nomatch h
  | .chunkTake .., h => nomatch h
  | .workgroupEnd .., h => nomatch h
  | .jobComplete .., h => nomatch h
  | .launchComplete .., h => nomatch h
  | .cxlMemAccess .., h => nomatch h
  | .cxlCacheSnoop .., h => nomatch h
  | .mgmtReadBlackBox .., h => nomatch h
  | .mgmtReadPower .., h => nomatch h
  | .mgmtReadCounters .., h => nomatch h
  | .mgmtWritePeer .., h => nomatch h
  | .mgmtInstallKey .., h => nomatch h
  | .mgmtPeerUp .., h => nomatch h
  | .mgmtPeerDown .., h => nomatch h
  | .mgmtLifeCycleStep .., h => nomatch h
  | .mgmtTenantReset .., h => nomatch h
  | .mgmtWarmReset .., h => nomatch h
  | .spdmMessage .., h => nomatch h
  | .mctpControlMessage .., h => nomatch h
  | .coldReset, h => nomatch h
  | .cxlConventionalReset .., h => nomatch h
  | .wipeDone .., h => nomatch h
  | .thermalTrip .., h => nomatch h
  | .blockLocalLimit .., h => nomatch h
  | .patrolScrub .., h => nomatch h
  | .tideSynchronisation .., h => nomatch h
  | .startTimeReached .., h => nomatch h
  | .powerRemoved .., h => nomatch h
  | .pageWalkComplete .., h => nomatch h
  | .lineFetchReturn .., h => nomatch h
  | .i3cDynamicAddressAssignment .., h => nomatch h

/-- What an encoding can answer: a next state, or, without an issuing batch, the fault that says so. -/
theorem exec_encoding {i : Instr} {op : BitVec 9} {f : Fields} (ho : i.opcode = some op) (hf : i.fields = some f) (s : State) :
    (Ctx.of? s op.toNat f = none ∧ exec i s = .fault .noIssuingBatch) ∨ ∃ c t, Ctx.of? s op.toNat f = some c ∧ exec i s = .next t := by
  obtain ⟨op', f', shape, h1, h2, -, h⟩ := runs i (by rw [ho]; rfl)
  obtain rfl := Option.some.inj (h1.symm.trans ho); obtain rfl := Option.some.inj (h2.symm.trans hf)
  obtain ⟨body, h⟩ := h s
  rw [h]
  rcases runWith_spec op'.toNat shape f' s body with h | ⟨c, e, hc, -, h⟩ | ⟨c, e, hc, -, -, h⟩ | ⟨c, t, hc, -, -, h⟩
  · exact .inl h
  · exact .inr ⟨c, _, hc, h⟩
  · exact .inr ⟨c, _, hc, h⟩
  · exact .inr ⟨c, t, hc, h⟩

/-- An encoding whose word fails steps 2 to 6 of R49 parks its workgroup. -/
theorem exec_park {i : Instr} {op : BitVec 9} {f : Fields} {sh : Shape} {s : State} {c : Ctx} {e : FaultInfo} (ho : i.opcode = some op)
    (hf : i.fields = some f) (hs : shapeOf i = some sh) (hp : ∀ g, i ≠ .part g) (hz : ∀ g, i ≠ .tzip g) (hc : Ctx.of? s op.toNat f = some c)
    (hord : c.ord = none) (hk : checkIssue op.toNat sh c = some e) : exec i s = .next (s.parkBatch c e) := by
  obtain ⟨op', f', shape, h1, h2, h3, h⟩ := runs i (by rw [ho]; rfl)
  obtain rfl := Option.some.inj (h1.symm.trans ho); obtain rfl := Option.some.inj (h2.symm.trans hf)
  obtain rfl := Option.some.inj ((h3 hp hz c hord).symm.trans hs)
  obtain ⟨body, h⟩ := h s
  rw [h]; exact runWith_park hc hk

/-! Events that branch at once. -/

theorem managed_next {s : State} {o : Host.Outcome State Fault Refusal} (h : ∃ t, o = .next t) : ∃ t, s.managed o = .next t := by
  unfold State.managed; split
  · exact ⟨_, rfl⟩
  · exact h

theorem execLoadDataReturn_next (core i : Nat) (s : State) : ∃ t, execLoadDataReturn core i s = .next t := by
  unfold execLoadDataReturn
  repeat (first | exact ⟨_, rfl⟩ | split | dsimp only)

theorem execHomeWritePerformed_next (core i : Nat) (s : State) : ∃ t, execHomeWritePerformed core i s = .next t := by
  unfold execHomeWritePerformed
  repeat (first | exact ⟨_, rfl⟩ | split | dsimp only)

theorem execBarrierUnitRequest_next (i : Nat) (s : State) : ∃ t, execBarrierUnitRequest i s = .next t := by
  unfold execBarrierUnitRequest
  repeat (first | exact ⟨_, rfl⟩ | split | dsimp only)

theorem execRotationTransferDone_next (core : Nat) (s : State) : ∃ t, execRotationTransferDone core s = .next t := by
  unfold execRotationTransferDone
  repeat (first | exact ⟨_, rfl⟩ | split | dsimp only)

theorem execSpinTimeout_next (wg fibre : Nat) (s : State) : ∃ t, execSpinTimeout wg fibre s = .next t := by
  unfold execSpinTimeout
  repeat (first | exact ⟨_, rfl⟩ | split | dsimp only)

theorem execWaitwDeadline_next (wg fibre : Nat) (s : State) : ∃ t, execWaitwDeadline wg fibre s = .next t := by
  unfold execWaitwDeadline
  repeat (first | exact ⟨_, rfl⟩ | split | dsimp only)

theorem execSwwaitReread_next (wg fibre : Nat) (s : State) : ∃ t, execSwwaitReread wg fibre s = .next t := by
  unfold execSwwaitReread
  repeat (first | exact ⟨_, rfl⟩ | split | dsimp only)

theorem execCopyUnitGrant_next (core entry : Nat) (s : State) : ∃ t, execCopyUnitGrant core entry s = .next t := by
  unfold execCopyUnitGrant
  repeat (first | exact ⟨_, rfl⟩ | split | dsimp only)

theorem execEngineOpComplete_next (core entry : Nat) (s : State) : ∃ t, execEngineOpComplete core entry s = .next t := by
  unfold execEngineOpComplete
  repeat (first | exact ⟨_, rfl⟩ | split | dsimp only)

theorem execEaselUnitStart_next (core : Nat) (s : State) : ∃ t, execEaselUnitStart core s = .next t := by
  unfold execEaselUnitStart
  repeat (first | exact ⟨_, rfl⟩ | split | dsimp only)

theorem execEaselUnitEnd_next (core : Nat) (s : State) : ∃ t, execEaselUnitEnd core s = .next t := by
  unfold execEaselUnitEnd
  repeat (first | exact ⟨_, rfl⟩ | split | dsimp only)

theorem execWatchdogExpiry_next (wg : Nat) (s : State) : ∃ t, execWatchdogExpiry wg s = .next t := by
  unfold execWatchdogExpiry
  repeat (first | exact ⟨_, rfl⟩ | split | dsimp only)

theorem execCsrWrite_next (agent : Agent) (num : BitVec 12) (value : Word) (s : State) : ∃ t, execCsrWrite agent num value s = .next t := by
  unfold execCsrWrite
  repeat (first | exact ⟨_, rfl⟩ | split | dsimp only)

theorem execPreemptSaveDone_next (wg : Nat) (s : State) : ∃ t, execPreemptSaveDone wg s = .next t := by
  unfold execPreemptSaveDone
  repeat (first | exact ⟨_, rfl⟩ | split | dsimp only)

theorem execMulticastMemberRequest_next (member group offset width : Nat) (value : MemberAsk) (s : State) :
    ∃ t, execMulticastMemberRequest member group offset width value s = .next t := by
  unfold execMulticastMemberRequest
  repeat (first | exact ⟨_, rfl⟩ | split | dsimp only)

theorem execPacketHop_next (i : Nat) (s : State) : ∃ t, execPacketHop i s = .next t := by
  unfold execPacketHop
  repeat (first | exact ⟨_, rfl⟩ | split | dsimp only)

theorem execColnalFlitReceive_next (port : Nat) (crcGood : Bool) (item : ColnalItem) (s : State) :
    ∃ t, execColnalFlitReceive port crcGood item s = .next t := by
  unfold execColnalFlitReceive
  repeat (first | exact ⟨_, rfl⟩ | split | dsimp only)

theorem execStrandFrameReceive_next (frame : StrandFrame) (s : State) : ∃ t, execStrandFrameReceive frame s = .next t := by
  unfold execStrandFrameReceive
  repeat (first | exact ⟨_, rfl⟩ | split | dsimp only)

theorem execStrandSackReceive_next (head : StrandHead) (cumulative : Nat) (bitmap : BitVec 64) (s : State) :
    ∃ t, execStrandSackReceive head cumulative bitmap s = .next t := by
  unfold execStrandSackReceive
  repeat (first | exact ⟨_, rfl⟩ | split | dsimp only)

theorem execStrandSackTimer_next (peer : Nat) (s : State) : ∃ t, execStrandSackTimer peer s = .next t := by
  unfold execStrandSackTimer
  repeat (first | exact ⟨_, rfl⟩ | split | dsimp only)

theorem execStrandPeerTimeout_next (peer : Nat) (s : State) : ∃ t, execStrandPeerTimeout peer s = .next t := by
  unfold execStrandPeerTimeout
  repeat (first | exact ⟨_, rfl⟩ | split | dsimp only)

theorem execQueueNotify_next (queue : Nat) (index : Word) (table : Option (BitVec 64 × Word)) (s : State) : ∃ t, execQueueNotify queue index table s = .next t := by
  unfold execQueueNotify
  repeat (first | exact ⟨_, rfl⟩ | split | dsimp only)

theorem execWorkgroupAdmission_next (s : State) : ∃ t, execWorkgroupAdmission s = .next t := by
  unfold execWorkgroupAdmission
  repeat (first | exact ⟨_, rfl⟩ | split | dsimp only)

theorem execChunkTake_next (core slice : Nat) (s : State) : ∃ t, execChunkTake core slice s = .next t := by
  unfold execChunkTake
  repeat (first | exact ⟨_, rfl⟩ | split | dsimp only)

theorem execWorkgroupEnd_next (wg : Nat) (s : State) : ∃ t, execWorkgroupEnd wg s = .next t := by
  unfold execWorkgroupEnd
  repeat (first | exact ⟨_, rfl⟩ | split | dsimp only)

theorem execJobComplete_next (launch : Nat) (s : State) : ∃ t, execJobComplete launch s = .next t := by
  unfold execJobComplete
  repeat (first | exact ⟨_, rfl⟩ | split | dsimp only)

theorem execLaunchComplete_next (launch : Nat) (s : State) : ∃ t, execLaunchComplete launch s = .next t := by
  unfold execLaunchComplete
  repeat (first | exact ⟨_, rfl⟩ | split | dsimp only)

theorem execCxlMemAccess_next (pa : Nat) (data : Option (List Byte)) (length : Nat) (s : State) : ∃ t, execCxlMemAccess pa data length s = .next t := by
  unfold execCxlMemAccess
  repeat (first | exact ⟨_, rfl⟩ | split | dsimp only)

theorem execMgmtReadBlackBox_next (die first count : Nat) (s : State) : ∃ t, execMgmtReadBlackBox die first count s = .next t := by
  unfold execMgmtReadBlackBox
  repeat (first | exact ⟨_, rfl⟩ | split | dsimp only)

theorem execMgmtWritePeer_next (bytes : List Byte) (s : State) : ∃ t, execMgmtWritePeer bytes s = .next t := by
  unfold execMgmtWritePeer
  refine managed_next ?_
  repeat (first | exact ⟨_, rfl⟩ | split | dsimp only)

theorem execMgmtInstallKey_next (bytes : List Byte) (s : State) : ∃ t, execMgmtInstallKey bytes s = .next t := by
  unfold execMgmtInstallKey
  refine managed_next ?_
  repeat (first | exact ⟨_, rfl⟩ | split | dsimp only)

theorem execMgmtPeerUp_next (peer : Nat) (s : State) : ∃ t, execMgmtPeerUp peer s = .next t := by
  unfold execMgmtPeerUp
  refine managed_next ?_
  repeat (first | exact ⟨_, rfl⟩ | split | dsimp only)

theorem execMgmtPeerDown_next (peer : Nat) (s : State) : ∃ t, execMgmtPeerDown peer s = .next t := by
  unfold execMgmtPeerDown
  refine managed_next ?_
  repeat (first | exact ⟨_, rfl⟩ | split | dsimp only)

theorem execMgmtLifeCycleStep_next (bytes : List Byte) (s : State) : ∃ t, execMgmtLifeCycleStep bytes s = .next t := by
  unfold execMgmtLifeCycleStep
  refine managed_next ?_
  repeat (first | exact ⟨_, rfl⟩ | split | dsimp only)

theorem execWipeDone_next (s : State) : ∃ t, execWipeDone s = .next t := by
  unfold execWipeDone
  repeat (first | exact ⟨_, rfl⟩ | split | dsimp only)

theorem execStartTimeReached_next (value : Nat) (s : State) : ∃ t, execStartTimeReached value s = .next t := by
  unfold execStartTimeReached
  repeat (first | exact ⟨_, rfl⟩ | split | dsimp only)

theorem execLineFetchReturn_next (core slot : Nat) (s : State) : ∃ t, execLineFetchReturn core slot s = .next t := by
  unfold execLineFetchReturn
  repeat (first | exact ⟨_, rfl⟩ | split | dsimp only)

/-- An event always gives a next state. -/
theorem exec_event : (i : Instr) → i.opcode = none → ∀ s, ∃ t, exec i s = .next t
  | .bra _, h, _ => nomatch h
  | .brx _, h, _ => nomatch h
  | .brxTbl _, h, _ => nomatch h
  | .call _, h, _ => nomatch h
  | .callX _, h, _ => nomatch h
  | .ret _, h, _ => nomatch h
  | .fspawn _, h, _ => nomatch h
  | .fspawnN _, h, _ => nomatch h
  | .fend _, h, _ => nomatch h
  | .yield _, h, _ => nomatch h
  | .nop _, h, _ => nomatch h
  | .braLoop _, h, _ => nomatch h
  | .iadd _, h, _ => nomatch h
  | .iadd64 _, h, _ => nomatch h
  | .iaddSat _, h, _ => nomatch h
  | .iaddX _, h, _ => nomatch h
  | .isub _, h, _ => nomatch h
  | .isub64 _, h, _ => nomatch h
  | .isubSat _, h, _ => nomatch h
  | .isubX _, h, _ => nomatch h
  | .imul _, h, _ => nomatch h
  | .imulHiS _, h, _ => nomatch h
  | .imulHiU _, h, _ => nomatch h
  | .imulWideS _, h, _ => nomatch h
  | .imulWideU _, h, _ => nomatch h
  | .imul64 _, h, _ => nomatch h
  | .imad _, h, _ => nomatch h
  | .imadWideS _, h, _ => nomatch h
  | .imadWideU _, h, _ => nomatch h
  | .imad64 _, h, _ => nomatch h
  | .iabs _, h, _ => nomatch h
  | .iabs64 _, h, _ => nomatch h
  | .iminS _, h, _ => nomatch h
  | .iminU _, h, _ => nomatch h
  | .iminS64 _, h, _ => nomatch h
  | .iminU64 _, h, _ => nomatch h
  | .imaxS _, h, _ => nomatch h
  | .imaxU _, h, _ => nomatch h
  | .imaxS64 _, h, _ => nomatch h
  | .imaxU64 _, h, _ => nomatch h
  | .shl _, h, _ => nomatch h
  | .shl64 _, h, _ => nomatch h
  | .shrU _, h, _ => nomatch h
  | .shrS _, h, _ => nomatch h
  | .shrU64 _, h, _ => nomatch h
  | .shrS64 _, h, _ => nomatch h
  | .rotL _, h, _ => nomatch h
  | .rotR _, h, _ => nomatch h
  | .and _, h, _ => nomatch h
  | .or _, h, _ => nomatch h
  | .xor _, h, _ => nomatch h
  | .not _, h, _ => nomatch h
  | .tern _, h, _ => nomatch h
  | .bfxU _, h, _ => nomatch h
  | .bfxS _, h, _ => nomatch h
  | .bfi _, h, _ => nomatch h
  | .popc _, h, _ => nomatch h
  | .clz _, h, _ => nomatch h
  | .brev _, h, _ => nomatch h
  | .icmpS _, h, _ => nomatch h
  | .icmpU _, h, _ => nomatch h
  | .icmpS64 _, h, _ => nomatch h
  | .icmpU64 _, h, _ => nomatch h
  | .sel _, h, _ => nomatch h
  | .sel64 _, h, _ => nomatch h
  | .mov _, h, _ => nomatch h
  | .mov64 _, h, _ => nomatch h
  | .movs _, h, _ => nomatch h
  | .movsI _, h, _ => nomatch h
  | .lea _, h, _ => nomatch h
  | .lea32 _, h, _ => nomatch h
  | .leaSx _, h, _ => nomatch h
  | .plog _, h, _ => nomatch h
  | .plogW _, h, _ => nomatch h
  | .pmovP2v _, h, _ => nomatch h
  | .pmovV2p _, h, _ => nomatch h
  | .cvtDn _, h, _ => nomatch h
  | .cvtUp _, h, _ => nomatch h
  | .cvtD _, h, _ => nomatch h
  | .cvtF2i _, h, _ => nomatch h
  | .cvtI2f _, h, _ => nomatch h
  | .cvtF2l _, h, _ => nomatch h
  | .cvtL2f _, h, _ => nomatch h
  | .cvtI2i _, h, _ => nomatch h
  | .pack2 _, h, _ => nomatch h
  | .pack4 _, h, _ => nomatch h
  | .pack5 _, h, _ => nomatch h
  | .pack8 _, h, _ => nomatch h
  | .unpk2 _, h, _ => nomatch h
  | .unpk4 _, h, _ => nomatch h
  | .unpk5 _, h, _ => nomatch h
  | .unpk8 _, h, _ => nomatch h
  | .cbld _, h, _ => nomatch h
  | .cbldM _, h, _ => nomatch h
  | .cbq _, h, _ => nomatch h
  | .cbqP _, h, _ => nomatch h
  | .bsclGet _, h, _ => nomatch h
  | .bsclGet32 _, h, _ => nomatch h
  | .bsclApply _, h, _ => nomatch h
  | .bsclInv _, h, _ => nomatch h
  | .fadd _, h, _ => nomatch h
  | .faddF16x2 _, h, _ => nomatch h
  | .faddBf16x2 _, h, _ => nomatch h
  | .fmul _, h, _ => nomatch h
  | .fmulF16x2 _, h, _ => nomatch h
  | .fmulBf16x2 _, h, _ => nomatch h
  | .fmac _, h, _ => nomatch h
  | .fmacF16x2 _, h, _ => nomatch h
  | .fmacBf16x2 _, h, _ => nomatch h
  | .fmin _, h, _ => nomatch h
  | .fminF16x2 _, h, _ => nomatch h
  | .fminBf16x2 _, h, _ => nomatch h
  | .fmax _, h, _ => nomatch h
  | .fmaxF16x2 _, h, _ => nomatch h
  | .fmaxBf16x2 _, h, _ => nomatch h
  | .fcmp _, h, _ => nomatch h
  | .fcmpF16x2 _, h, _ => nomatch h
  | .fcmpBf16x2 _, h, _ => nomatch h
  | .fcmpF64 _, h, _ => nomatch h
  | .fcls _, h, _ => nomatch h
  | .fclsF64 _, h, _ => nomatch h
  | .fclsF16x2 _, h, _ => nomatch h
  | .fclsBf16x2 _, h, _ => nomatch h
  | .frnd _, h, _ => nomatch h
  | .frndF64 _, h, _ => nomatch h
  | .frndF16x2 _, h, _ => nomatch h
  | .frndBf16x2 _, h, _ => nomatch h
  | .rcp _, h, _ => nomatch h
  | .rcpF64 _, h, _ => nomatch h
  | .rsq _, h, _ => nomatch h
  | .rsqF64 _, h, _ => nomatch h
  | .sqrt _, h, _ => nomatch h
  | .sqrtF64 _, h, _ => nomatch h
  | .ex2 _, h, _ => nomatch h
  | .lg2 _, h, _ => nomatch h
  | .sin _, h, _ => nomatch h
  | .cos _, h, _ => nomatch h
  | .tanh _, h, _ => nomatch h
  | .dadd _, h, _ => nomatch h
  | .dmul _, h, _ => nomatch h
  | .dmac _, h, _ => nomatch h
  | .fminF64 _, h, _ => nomatch h
  | .fmaxF64 _, h, _ => nomatch h
  | .xpr _, h, _ => nomatch h
  | .part _, h, _ => nomatch h
  | .xlnIdx _, h, _ => nomatch h
  | .xlnSub _, h, _ => nomatch h
  | .xlnAdd _, h, _ => nomatch h
  | .xlnFlip _, h, _ => nomatch h
  | .vote _, h, _ => nomatch h
  | .lred _, h, _ => nomatch h
  | .lredF _, h, _ => nomatch h
  | .lscan _, h, _ => nomatch h
  | .lscanF _, h, _ => nomatch h
  | .perm _, h, _ => nomatch h
  | .pld _, h, _ => nomatch h
  | .ldS _, h, _ => nomatch h
  | .ldC _, h, _ => nomatch h
  | .ldG _, h, _ => nomatch h
  | .ldSQ _, h, _ => nomatch h
  | .ldCQ _, h, _ => nomatch h
  | .ldGQ _, h, _ => nomatch h
  | .stS _, h, _ => nomatch h
  | .stC _, h, _ => nomatch h
  | .stG _, h, _ => nomatch h
  | .stSQ _, h, _ => nomatch h
  | .stCQ _, h, _ => nomatch h
  | .stGQ _, h, _ => nomatch h
  | .prfL1 _, h, _ => nomatch h
  | .prfL2 _, h, _ => nomatch h
  | .cctlInv _, h, _ => nomatch h
  | .cctlWb _, h, _ => nomatch h
  | .cctlWbinv _, h, _ => nomatch h
  | .cctlPri _, h, _ => nomatch h
  | .aqry _, h, _ => nomatch h
  | .aqryH _, h, _ => nomatch h
  | .phaseRel _, h, _ => nomatch h
  | .phaseAcq _, h, _ => nomatch h
  | .phaseAr _, h, _ => nomatch h
  | .fence _, h, _ => nomatch h
  | .fenceE _, h, _ => nomatch h
  | .ord _, h, _ => nomatch h
  | .atomAdd _, h, _ => nomatch h
  | .atomAdd64 _, h, _ => nomatch h
  | .atomAddF32 _, h, _ => nomatch h
  | .atomAddBf16x2 _, h, _ => nomatch h
  | .atomMinS _, h, _ => nomatch h
  | .atomMinU _, h, _ => nomatch h
  | .atomMaxS _, h, _ => nomatch h
  | .atomMaxU _, h, _ => nomatch h
  | .atomAnd _, h, _ => nomatch h
  | .atomOr _, h, _ => nomatch h
  | .atomXor _, h, _ => nomatch h
  | .atomExch _, h, _ => nomatch h
  | .atomExch64 _, h, _ => nomatch h
  | .atomCas _, h, _ => nomatch h
  | .atomCas64 _, h, _ => nomatch h
  | .atomInc _, h, _ => nomatch h
  | .redAdd _, h, _ => nomatch h
  | .redAdd64 _, h, _ => nomatch h
  | .redAddF32 _, h, _ => nomatch h
  | .redAddBf16x2 _, h, _ => nomatch h
  | .redMinS _, h, _ => nomatch h
  | .redMinU _, h, _ => nomatch h
  | .redMaxS _, h, _ => nomatch h
  | .redMaxU _, h, _ => nomatch h
  | .redAnd _, h, _ => nomatch h
  | .redOr _, h, _ => nomatch h
  | .redXor _, h, _ => nomatch h
  | .redInc _, h, _ => nomatch h
  | .binit _, h, _ => nomatch h
  | .barv _, h, _ => nomatch h
  | .barvC _, h, _ => nomatch h
  | .bwait _, h, _ => nomatch h
  | .barr _, h, _ => nomatch h
  | .binv _, h, _ => nomatch h
  | .bqry _, h, _ => nomatch h
  | .watch _, h, _ => nomatch h
  | .watchClr _, h, _ => nomatch h
  | .waitw _, h, _ => nomatch h
  | .waitwT _, h, _ => nomatch h
  | .rgrow _, h, _ => nomatch h
  | .rgrowTry _, h, _ => nomatch h
  | .rshrink _, h, _ => nomatch h
  | .cpy _, h, _ => nomatch h
  | .cpySlot _, h, _ => nomatch h
  | .cpyCl _, h, _ => nomatch h
  | .cpyReg _, h, _ => nomatch h
  | .cpyRing _, h, _ => nomatch h
  | .cpyAcc _, h, _ => nomatch h
  | .cpyB _, h, _ => nomatch h
  | .gth _, h, _ => nomatch h
  | .gthSlot _, h, _ => nomatch h
  | .sct _, h, _ => nomatch h
  | .sctCl _, h, _ => nomatch h
  | .seal _, h, _ => nomatch h
  | .waitc _, h, _ => nomatch h
  | .swinit _, h, _ => nomatch h
  | .swexp _, h, _ => nomatch h
  | .swwait _, h, _ => nomatch h
  | .rwait _, h, _ => nomatch h
  | .rrel _, h, _ => nomatch h
  | .sclm _, h, _ => nomatch h
  | .sclmTry _, h, _ => nomatch h
  | .srel _, h, _ => nomatch h
  | .mloop _, h, _ => nomatch h
  | .mloopC _, h, _ => nomatch h
  | .mloopG _, h, _ => nomatch h
  | .mzero _, h, _ => nomatch h
  | .mlda _, h, _ => nomatch h
  | .msta _, h, _ => nomatch h
  | .cmrg _, h, _ => nomatch h
  | .cdrn _, h, _ => nomatch h
  | .cdrnI _, h, _ => nomatch h
  | .czero _, h, _ => nomatch h
  | .czeroD _, h, _ => nomatch h
  | .brld _, h, _ => nomatch h
  | .brldPkg _, h, _ => nomatch h
  | .brdrop _, h, _ => nomatch h
  | .brdropPkg _, h, _ => nomatch h
  | .tzip _, h, _ => nomatch h
  | .tfold _, h, _ => nomatch h
  | .tscan _, h, _ => nomatch h
  | .touter _, h, _ => nomatch h
  | .trap _, h, _ => nomatch h
  | .sysc _, h, _ => nomatch h
  | .csrr _, h, _ => nomatch h
  | .csrw _, h, _ => nomatch h
  | .csrs _, h, _ => nomatch h
  | .csrc _, h, _ => nomatch h
  | .brk _, h, _ => nomatch h
  | .frd _, h, _ => nomatch h
  | .fres _, h, _ => nomatch h
  | .fkill _, h, _ => nomatch h
  | .mldr _, h, _ => nomatch h
  | .mldrF32 _, h, _ => nomatch h
  | .msto _, h, _ => nomatch h
  | .psend _, h, _ => nomatch h
  | .psendT _, h, _ => nomatch h
  | .lcarm _, h, _ => nomatch h
  | .lcarmAdd _, h, _ => nomatch h
  | .twait _, h, _ => nomatch h
  | .twaitRel _, h, _ => nomatch h
  | .tread _, h, _ => nomatch h
  | .task _, h, _ => nomatch h
  | .taskT _, h, _ => nomatch h
  | .hints _, h, _ => nomatch h
  | .waitpred _, h, _ => nomatch h
  | .loadDataReturn core ix, _, s => execLoadDataReturn_next core ix s
  | .homeWritePerformed core ix, _, s => execHomeWritePerformed_next core ix s
  | .barrierUnitRequest ix, _, s => execBarrierUnitRequest_next ix s
  | .rotationDecision core wg, _, s => ⟨_, (rfl : _ = execRotationDecision core wg s).trans rfl⟩
  | .rotationTransferDone core, _, s => execRotationTransferDone_next core s
  | .rotationQuantumExpiry core wg, _, s => ⟨_, (rfl : _ = execRotationQuantumExpiry core wg s).trans rfl⟩
  | .spinTimeout wg fibre, _, s => execSpinTimeout_next wg fibre s
  | .waitwReread wg fibre, _, s => ⟨_, (rfl : _ = execWaitwReread wg fibre s).trans rfl⟩
  | .waitwDeadline wg fibre, _, s => execWaitwDeadline_next wg fibre s
  | .swwaitReread wg fibre, _, s => execSwwaitReread_next wg fibre s
  | .copyUnitGrant core entry, _, s => execCopyUnitGrant_next core entry s
  | .engineOpComplete core entry, _, s => execEngineOpComplete_next core entry s
  | .easelUnitStart core, _, s => execEaselUnitStart_next core s
  | .easelUnitEnd core, _, s => execEaselUnitEnd_next core s
  | .faultRecordWrite, _, s => ⟨_, (rfl : _ = execFaultRecordWrite s).trans rfl⟩
  | .faultRingRetry, _, s => ⟨_, (rfl : _ = execFaultRingRetry s).trans rfl⟩
  | .watchdogExpiry wg, _, s => execWatchdogExpiry_next wg s
  | .csrWrite agent num value, _, s => execCsrWrite_next agent num value s
  | .fcmdResumeAtPc agent value, _, s => ⟨_, (rfl : _ = execFcmdResumeAtPc agent value s).trans rfl⟩
  | .fcmdResumePast agent value, _, s => ⟨_, (rfl : _ = execFcmdResumePast agent value s).trans rfl⟩
  | .fcmdKill agent, _, s => ⟨_, (rfl : _ = execFcmdKill agent s).trans rfl⟩
  | .preemptRequest agent, _, s => ⟨_, (rfl : _ = execPreemptRequest agent s).trans rfl⟩
  | .preemptSaveDone wg, _, s => execPreemptSaveDone_next wg s
  | .preemptRestore agent, _, s => ⟨_, (rfl : _ = execPreemptRestore agent s).trans rfl⟩
  | .preemptKillSaved agent, _, s => ⟨_, (rfl : _ = execPreemptKillSaved agent s).trans rfl⟩
  | .tlbInvalidate agent value, _, s => ⟨_, (rfl : _ = execTlbInvalidate agent value s).trans rfl⟩
  | .launchCounterDisarm value, _, s => ⟨_, (rfl : _ = execLaunchCounterDisarm value s).trans rfl⟩
  | .faultRingReadIndexWrite value, _, s => ⟨_, (rfl : _ = execFaultRingReadIndexWrite value s).trans rfl⟩
  | .coveWaysWrite agent value, _, s => ⟨_, (rfl : _ = execCoveWaysWrite agent value s).trans rfl⟩
  | .tideTargetReached wg fibre, _, s => ⟨_, (rfl : _ = execTideTargetReached wg fibre s).trans rfl⟩
  | .multicastMemberRequest member group offset width value, _, s => execMulticastMemberRequest_next member group offset width value s
  | .multicastResponse op answers, _, s => ⟨_, (rfl : _ = execMulticastResponse op answers s).trans rfl⟩
  | .multicastMemberTimeout op member, _, s => ⟨_, (rfl : _ = execMulticastMemberTimeout op member s).trans rfl⟩
  | .packetHop ix, _, s => execPacketHop_next ix s
  | .colnalFlitReceive port crcGood packet, _, s => execColnalFlitReceive_next port crcGood packet s
  | .strandFrameReceive frame, _, s => execStrandFrameReceive_next frame s
  | .strandSackReceive head cumulative bitmap, _, s => execStrandSackReceive_next head cumulative bitmap s
  | .strandSackTimer peer, _, s => execStrandSackTimer_next peer s
  | .strandRetransmitTimeout peer seq, _, s => ⟨_, (rfl : _ = execStrandRetransmitTimeout peer seq s).trans rfl⟩
  | .strandPeerTimeout peer, _, s => execStrandPeerTimeout_next peer s
  | .queueNotify queue index table, _, s => execQueueNotify_next queue index table s
  | .workgroupAdmission, _, s => execWorkgroupAdmission_next s
  | .chunkTake core slice, _, s => execChunkTake_next core slice s
  | .workgroupEnd wg, _, s => execWorkgroupEnd_next wg s
  | .jobComplete launch, _, s => execJobComplete_next launch s
  | .launchComplete launch, _, s => execLaunchComplete_next launch s
  | .cxlMemAccess pa data length, _, s => execCxlMemAccess_next pa data length s
  | .cxlCacheSnoop pa exclusive, _, s => ⟨_, (rfl : _ = execCxlCacheSnoop pa exclusive s).trans rfl⟩
  | .mgmtReadBlackBox die first count, _, s => execMgmtReadBlackBox_next die first count s
  | .mgmtReadPower, _, s => managed_next (s := s) ⟨_, rfl⟩
  | .mgmtReadCounters, _, s => managed_next (s := s) ⟨_, rfl⟩
  | .mgmtWritePeer bytes, _, s => execMgmtWritePeer_next bytes s
  | .mgmtInstallKey bytes, _, s => execMgmtInstallKey_next bytes s
  | .mgmtPeerUp peer, _, s => execMgmtPeerUp_next peer s
  | .mgmtPeerDown peer, _, s => execMgmtPeerDown_next peer s
  | .mgmtLifeCycleStep bytes, _, s => execMgmtLifeCycleStep_next bytes s
  | .mgmtTenantReset, _, s => managed_next (s := s) ⟨_, rfl⟩
  | .mgmtWarmReset, _, s => managed_next (s := s) ⟨_, rfl⟩
  | .spdmMessage bytes, _, s => ⟨_, (rfl : _ = execSpdmMessage bytes s).trans rfl⟩
  | .mctpControlMessage _, _, s => managed_next (s := s) ⟨_, rfl⟩
  | .coldReset, _, s => ⟨_, (rfl : _ = execColdReset s).trans rfl⟩
  | .cxlConventionalReset, _, s => ⟨_, (rfl : _ = execCxlConventionalReset s).trans rfl⟩
  | .wipeDone, _, s => execWipeDone_next s
  | .thermalTrip, _, s => ⟨_, (rfl : _ = execThermalTrip s).trans rfl⟩
  | .blockLocalLimit block, _, s => ⟨_, (rfl : _ = execBlockLocalLimit block s).trans rfl⟩
  | .patrolScrub errors, _, s => ⟨_, (rfl : _ = execPatrolScrub errors s).trans rfl⟩
  | .tideSynchronisation value, _, s => ⟨_, (rfl : _ = execTideSynchronisation value s).trans rfl⟩
  | .startTimeReached value, _, s => execStartTimeReached_next value s
  | .powerRemoved, _, s => ⟨_, (rfl : _ = execPowerRemoved s).trans rfl⟩
  | .pageWalkComplete space va, _, s => ⟨_, (rfl : _ = execPageWalkComplete space va s).trans rfl⟩
  | .lineFetchReturn core slot, _, s => execLineFetchReturn_next core slot s
  | .i3cDynamicAddressAssignment address, _, s => ⟨_, (rfl : _ = execI3cDynamicAddressAssignment address s).trans rfl⟩

end Sys2Proof.Machine
end

