-- ==== Sys2Proof/Laws/Settle.lean ====
section
/-! SUPPORT. What the writing of rotation-store records (R257) keeps: the age counters of every core (R72) and the canonical form of the
memory; and that the answers of other packages and the resets keep that form too. -/

namespace Sys2Proof.Machine

theorem Sparse.mem_erase {β : Type} {a : Nat} {m : Sparse β} {e : Nat × β} (h : e ∈ Sparse.erase a m) : e ∈ m := by
  induction m with
  | nil => exact h
  | cons x t ih =>
    obtain ⟨k, v⟩ := x
    simp only [Sparse.erase] at h
    split at h
    · exact List.mem_cons_of_mem _ (ih h)
    · rcases List.mem_cons.1 h with rfl | h
      · exact List.mem_cons_self
      · exact List.mem_cons_of_mem _ (ih h)

theorem Sparse.mem_put {β : Type} {a : Nat} {v : β} {m : Sparse β} {e : Nat × β} (h : e ∈ Sparse.put a v m) : e = (a, v) ∨ e ∈ m := by
  induction m with
  | nil => exact .inl (List.mem_singleton.1 h)
  | cons x t ih =>
    obtain ⟨k, w⟩ := x
    simp only [Sparse.put] at h
    split at h
    · exact List.mem_cons.1 h
    · rcases List.mem_cons.1 h with rfl | h
      · exact .inr List.mem_cons_self
      · exact (ih h).imp_right (List.mem_cons_of_mem _)

/-- An entry of a store that was written is the one written or an old one. -/
theorem Sparse.mem_set {β : Type} [DecidableEq β] {d : β} {m : Sparse β} {a : Nat} {v : β} {e : Nat × β} (h : e ∈ Sparse.set d m a v) :
    e = (a, v) ∨ e ∈ m := by
  simp only [Sparse.set] at h
  split at h
  · exact .inr (Sparse.mem_erase h)
  · exact (Sparse.mem_put h).imp_right Sparse.mem_erase

theorem Sparse.get_mem {β : Type} (d : β) (m : Sparse β) (a : Nat) : Sparse.get d m a = d ∨ (a, Sparse.get d m a) ∈ m := by
  induction m with
  | nil => exact .inl rfl
  | cons x t ih =>
    obtain ⟨k, v⟩ := x
    simp only [Sparse.get]
    split
    · next h => subst h; exact .inr List.mem_cons_self
    · exact ih.imp_right (List.mem_cons_of_mem _)

theorem Core.countersOk_empty : Core.countersOk {} := fun _ _ h => absurd h (Nat.not_lt_zero _)

/-- A core that a sound state holds, or the empty one, has its counters in order. -/
theorem State.core_countersOk {s : State} (h : s.countersOk) (k : Nat) : (s.core k).countersOk := by
  rcases Sparse.get_mem {} s.cores k with e | e
  · rw [State.core, e]; exact Core.countersOk_empty
  · exact h _ e

/-- A change of a core that keeps its slots keeps the counters. -/
theorem State.updCore_countersOk {s : State} (h : s.countersOk) (k : Nat) {g : Core → Core} (hg : ∀ c, (g c).slots = c.slots) :
    (s.updCore k g).countersOk := by
  intro e he
  rcases Sparse.mem_set he with rfl | he
  · have := State.core_countersOk h k
    simpa only [Core.countersOk, Core.occupied, hg] using this
  · exact h e he

theorem State.countersOk_of_cores {s t : State} (h : s.countersOk) (e : t.cores = s.cores) : t.countersOk := by
  rw [State.countersOk, e]; exact h

theorem foldl_countersOk {α : Type} (g : State → α → State) (hg : ∀ s a, State.countersOk s → (g s a).countersOk) (l : List α) {s : State}
    (h : s.countersOk) : (l.foldl g s).countersOk := by
  induction l generalizing s with
  | nil => exact h
  | cons a t ih => exact ih (hg s a h)

theorem State.ownWord_countersOk {s : State} (h : s.countersOk) (who : Writer) (w : Nat) : (s.ownWord who w).countersOk := by
  simp only [State.ownWord]
  split
  all_goals
    refine State.countersOk_of_cores (s := if _ then s.revoke _ w else s) ?_ rfl
    split
    · exact State.updCore_countersOk h _ fun _ => rfl
    · exact h

@[simp] theorem State.l2Touch_cores (s : State) (l h p : Nat) : (s.l2Touch l h p).cores = s.cores := by
  unfold State.l2Touch; (repeat' split) <;> rfl

/-- A write at the home keeps the counters. -/
theorem State.homeWrite_countersOk {s : State} (h : s.countersOk) (who : Writer) (comp : Nat) (cells : List (Nat × Byte)) (bad : Bool) (p : Nat) :
    (s.homeWrite who comp cells bad p).countersOk := by
  simp only [State.homeWrite]
  refine foldl_countersOk (fun (t : State) n => t.sendRequest _ n 1 _) (fun t n ht => State.countersOk_of_cores ht rfl) _ ?_
  refine State.countersOk_of_cores ?_ (State.noteLines_cores ..)
  refine foldl_countersOk (fun (t : State) l => t.fire none ⟨0, 0, l⟩) (fun t l ht => State.countersOk_of_cores ht rfl) _ ?_
  have h1 := foldl_countersOk (fun (t : State) w => t.ownWord who w) (fun t w ht => State.ownWord_countersOk ht who w)
    (wordsIn cells) (foldl_countersOk _ (fun t n ht => by
      simp only []; split <;> exact State.countersOk_of_cores ht (State.l2Touch_cores ..)) _ h : (s.holdHost cells p).countersOk)
  cases who <;> exact State.countersOk_of_cores h1 rfl

theorem State.recordPieces_countersOk (space n : Nat) (va : Nat) (bytes : List Byte) {s : State} (h : s.countersOk) :
    (State.recordPieces space n va bytes s).countersOk := by
  induction n generalizing va bytes s with
  | zero => exact h
  | succ n ih =>
    simp only [State.recordPieces]
    refine ih _ _ ?_
    split
    · exact State.homeWrite_countersOk h _ _ _ _ _
    · exact h

theorem State.storeFibre_countersOk {s : State} (h : s.countersOk) (key i : Nat) : (s.storeFibre key i).countersOk := by
  simp only [State.storeFibre]
  repeat' split
  all_goals first
    | exact h
    | exact State.countersOk_of_cores (State.recordPieces_countersOk _ _ _ _ h) rfl

/-- The writing of records keeps the counters. -/
theorem State.storeRecords_countersOk {s : State} (h : s.countersOk) : s.storeRecords.countersOk :=
  foldl_countersOk _ (fun _ e ht => State.storeFibre_countersOk ht e.1 e.2) _ h

theorem State.recordPieces_wf (space n : Nat) (va : Nat) (bytes : List Byte) {s : State} (h : Memory.wf s.mem = true) :
    Memory.wf (State.recordPieces space n va bytes s).mem = true := by
  induction n generalizing va bytes s with
  | zero => exact h
  | succ n ih =>
    simp only [State.recordPieces]
    refine ih _ _ ?_
    split
    · exact State.homeWrite_wf h ..
    · exact h

theorem State.storeFibre_wf {s : State} (h : Memory.wf s.mem = true) (key i : Nat) : Memory.wf (s.storeFibre key i).mem = true := by
  simp only [State.storeFibre]
  repeat' split
  all_goals first
    | exact h
    | exact State.recordPieces_wf _ _ _ _ h

/-- The writing of records keeps the canonical form. -/
theorem State.storeRecords_wf {s : State} (h : Memory.wf s.mem = true) : Memory.wf s.storeRecords.mem = true :=
  foldl_wf _ (fun _ e ht => State.storeFibre_wf ht e.1 e.2) _ _ h

/-- What another package's home tells keeps the canonical form. -/
theorem State.known_wf {s : State} (h : Memory.wf s.mem = true) (tag : Nat) (cells : List (Nat × Byte)) (poisoned : List Nat) :
    Memory.wf (s.known tag cells poisoned).mem = true := by
  simp only [State.known, State.noteLines_mem]
  exact wf_cells _ _ h

/-- The memory without what only an L2 held is in canonical form (R474). -/
theorem State.hostMemory_wf {s : State} (h : Memory.wf s.mem = true) : Memory.wf s.hostMemory = true := by
  simp only [State.hostMemory]
  generalize s.mem = m at h ⊢
  induction s.hostDirty generalizing m with
  | nil => exact h
  | cons e t ih => exact ih _ (wf_cells (cellsOf (e.1 * 128) e.2.1) _ h)

/-- A reset keeps the canonical form. -/
theorem State.afterReset_wf {s : State} (h : Memory.wf s.mem = true) : Memory.wf s.afterReset.mem = true := State.hostMemory_wf h

end Sys2Proof.Machine
end

