-- ==== Sys2Proof/WellFormed.lean ====
section
/-! DEFINITION. Well-formed instructions: for an encoding, what steps 2 and 4 of R49 check on its word alone (R32, R34, R35, R60); for
an event, that the agent it names exists (R1, R5, R66, R290, R401, R439, R448). -/

namespace Sys2Proof

/-- Why an instruction is ill-formed. -/
inductive WfError where
  /-- A modifier bit that the row does not define is set (R32). -/
  | undefinedModifier
  /-- Another illegal-opcode condition of the row (step 2 of R49). -/
  | illegalOpcode
  /-- An illegal operand, with its code (step 4 of R49). -/
  | illegalOperand (code : BitVec 9)
  /-- An event of a core, slot, entry, die, queue, group or peer that does not exist. -/
  | noSuchAgent
  deriving DecidableEq, Repr

/-- The checks of a word against its row. -/
def checkWord (sh : Machine.Shape) (f : Fields) : Option WfError :=
  if f.mods &&& ~~~sh.mask ≠ 0 then some .undefinedModifier
  else if sh.badOpcode then some .illegalOpcode
  else (sh.illegalOperand f).map .illegalOperand

/-- The numbers of an event are those of agents that exist. -/
def eventNames : Instr → Bool
  | .loadDataReturn core _ | .homeWritePerformed core _ | .rotationDecision core _ | .rotationTransferDone core | .rotationQuantumExpiry core _
  | .easelUnitStart core | .easelUnitEnd core => decide (core < Config.cores)
  | .copyUnitGrant core entry | .engineOpComplete core entry => decide (core < Config.cores) && decide (entry < 16)
  | .lineFetchReturn core slot => decide (core < Config.cores) && decide (slot < 64)
  | .chunkTake core slice => decide (core < Config.cores) && decide (slice < 16 * Config.dies)
  | .multicastMemberRequest _ group _ width .. => decide (group < 256) && decide (width = 2 ∨ width = 4)
  | .strandFrameReceive frame => decide (frame.head.peer < 64) && decide (frame.head.port < 8)
  | .strandSackReceive head _ _ => decide (head.peer < 64) && decide (head.port < 8)
  | .colnalFlitReceive port _ _ => decide (port < 32)
  | .strandSackTimer peer | .strandRetransmitTimeout peer _ | .strandPeerTimeout peer | .mgmtPeerUp peer
  | .mgmtPeerDown peer => decide (peer < 64)
  | .queueNotify queue _ _ => decide (queue < 1024)
  | .mgmtReadBlackBox die _ _ => decide (die < Config.dies)
  | .pageWalkComplete space _ => decide (space < 256)
  | _ => true

/-- The first check that an instruction fails. -/
def Instr.check (i : Instr) : Option WfError :=
  match Machine.shapeOf i, i.fields with
  | some sh, some f => checkWord sh f
  | _, _ => if eventNames i then none else some .noSuchAgent

/-- A well-formed instruction. -/
def Instr.wf (i : Instr) : Bool := i.check.isNone

end Sys2Proof
end

