-- ==== Sys2Proof/Tests/Slice0.lean ====
section
/-! SUPPORT. Tests: words written out from the encodings, ill-formed terms, and for the statements with hypotheses states and operands that
meet them. -/

noncomputable section

namespace Sys2Proof.Tests

open Sys2Proof Sys2Proof.Machine

-- One proof at a time: a thread for each waiting one would not fit the memory limit.
set_option Elab.async false

/-! The small state of the tests: one launch, one workgroup of two fibres on core 0, and its batch about to issue. -/

/-- Sixteen 4 KiB pages' worth of nothing but a page table: 1 GiB of HBM mapped at 0, readable, writable and executable. -/
def pages : Bytes := [(0x10000, 1), (0x10001, 0x10), (0x10002, 1), (0x11000, 1), (0x11001, 0x20), (0x11002, 1), (0x12000, 0x7F)]

/-- Four copy entries, 240 registers a fibre, 64 KiB of scratchpad, 8 slots, and some of everything else. -/
def kernel0 : Kernel := { header := 0x08400F40, accBytes := 524288, brushes := 2, books := 2, palette := 128 }

def launch0 : Launch :=
  { lseq := 7, kind := .packet, privileged := true, kernel := some kernel0, barrierBase := 0x20000, barrierEntries := 64, admitted := 1, active := true }

def fibre0 (n : Nat) (regs : Sparse Word) : Fibre := { index := n, pc := 0, allot := 240, regs := regs }

def wg0 (regs : Sparse Word) : Workgroup :=
  { key := 1, launch := 7, core := 0, wgid := 0, fibres := [fibre0 0 regs, fibre0 1 regs], slotFlags := List.replicate 8 {} }

def slot0 : Slot := { id := 0, wg := 1, lanes := [0, 1], age := 0 }

/-- The workgroup `w` on core `k`, its batch issuing. -/
def worldOf (w : Workgroup) (k : Core) : State := { State.reset with
  mem := pages, ptroot := [(0, 0x10000)], cores := [(0, { k with slots := [slot0] })], wgs := [w], launches := [launch0], nextKey := 2,
  issue := some { core := 0, slot := 0 } }

def world (regs : Sparse Word) : State := worldOf (wg0 regs) {}

/-- The same with the 1 GiB that is mapped homed on another package. -/
def farther (s : State) : State := { s with mem := pages ++ [(0x12005, 2)] }

/-- Fields with registers that fit every alignment. -/
def f0 : Fields :=
  { stall := 0, guardOn := false, guardPred := 0, guardNeg := false, dst := 16, srcA := 24, srcB := 32, srcC := 40, immSel := false, mods := 0, imm := 0 }

/-- The same with a predicate for D and C. -/
def fp : Fields := { f0 with dst := 2, srcC := 3 }

/-- The batch for which an instruction issues. -/
def batchOf (i : Instr) (s : State) : Option Ctx :=
  match i.opcode, i.fields, shapeOf i with
  | some op, some f, some sh => match Ctx.of? s op.toNat f with
    | some c => if checkIssue op.toNat sh c = none then some c else none
    | none => none
  | _, _, _ => none

theorem issues_of_batchOf {i : Instr} {s : State} {c : Ctx} (h : batchOf i s = some c) : Issues i s c := by
  unfold batchOf at h
  split at h
  · rename_i op f sh h1 h2 h3
    split at h
    · split at h
      · rename_i c' hc hk
        obtain rfl := Option.some.inj h
        unfold Issues
        rw [h1, h2, h3]
        exact ⟨hc, hk⟩
      · cases h
    · cases h
  · cases h

/-- Each of the instructions issues, with what is asked of it and its batch. -/
def Meets (l : List Instr) (s : State) (p : Instr → Ctx → Prop) : Prop := ∀ i ∈ l, ∃ c, Issues i s c ∧ p i c

theorem meets {l : List Instr} {s : State} {p : Instr → Ctx → Prop} [∀ i c, Decidable (p i c)]
    (h : (l.all fun i => match batchOf i s with | some c => decide (p i c) | none => false) = true) : Meets l s p := by
  intro i hi
  have := List.all_eq_true.mp h i hi
  split at this
  · rename_i c hc
    exact ⟨c, issues_of_batchOf hc, of_decide_eq_true this⟩
  · cases this

/-! States and operands that meet the hypotheses of the statements. -/

/-- Nothing is trapped where the launch traps nothing. -/
theorem noTrap {c : Ctx} (h : c.launch.traps = 0) (g : Fibre → Fibre × Flags) : NoTrap c g := by
  intro x _; rw [h]; exact BitVec.and_zero

abbrev Any : Instr → Ctx → Prop := fun _ _ => True

/-- No lane passes: a guard on a predicate that is false. -/
def off (f : Fields) : Fields := { f with guardOn := true }

/-- IntegerArithmeticCompletes. -/
theorem test_meets_integers : Meets [.iadd f0, .iadd64 f0, .isub f0, .isub64 f0, .imul f0, .imulHiS f0, .imulHiU f0, .imulWideS f0, .imulWideU f0, .imul64 f0,
    .imad f0, .imadWideS f0, .imadWideU f0, .imad64 f0, .iminS f0, .iminU f0, .iminS64 f0, .iminU64 f0, .imaxS f0, .imaxU f0, .imaxS64 f0, .imaxU64 f0,
    .iaddSat f0, .isubSat f0, .iaddX f0, .isubX f0, .iabs f0, .iabs64 f0] (world []) Any := meets (by decide +kernel)

/-- ShiftsCompleteBitByBit, LogicAndBitFieldsCompleteBitByBit. -/
theorem test_meets_shifts_logic : Meets [.shl f0, .shl64 f0, .shrU f0, .shrU64 f0, .shrS f0, .shrS64 f0, .rotL f0, .rotR f0, .and f0, .or f0, .xor f0, .not f0,
    .tern f0, .bfxU f0, .bfxS f0, .bfi f0, .popc f0, .clz f0, .brev f0] (world []) Any := meets (by decide +kernel)

def fs : Fields := { f0 with dst := 0x141 }
def fl : Fields := { f0 with dst := 0x19C }
def fq : Fields := { fp with srcA := 4, srcB := 5 }

/-- ComparesAndMovesComplete: with lanes that pass, and with none. -/
theorem test_meets_compares_moves : Meets [.icmpS fp, .icmpU fp, .icmpS64 fp, .icmpU64 fp, .sel { f0 with srcC := 3 }, .sel64 { f0 with srcC := 3 }, .mov64 f0,
    .lea f0, .leaSx f0, .lea32 f0, .plog fq, .plogW f0, .pmovP2v f0, .pmovV2p f0] (world []) Any ∧
    Meets [.mov f0] (world []) (fun _ c => c.f.dst.toNat < 0x180) ∧
    Meets [.movs fs] (world []) (fun _ c => c.passing ≠ []) ∧ Meets [.movs (off fs)] (world []) (fun _ c => c.passing = []) ∧
    Meets [.movsI { fs with imm := 1 }] (world []) (fun _ c => (c.passing.find? (fun y => y.lane = c.f.imm.toNat % 32)).isSome) ∧
    Meets [.movsI { fs with imm := 31 }] (world []) (fun _ c => c.passing.find? (fun y => y.lane = c.f.imm.toNat % 32) = none) ∧
    Meets [.mov fl] (world []) (fun _ c => 0x180 ≤ c.f.dst.toNat ∧ c.passing ≠ []) ∧
    Meets [.mov (off fl)] (world []) (fun _ c => 0x180 ≤ c.f.dst.toNat ∧ c.passing = []) :=
  ⟨meets (by decide +kernel), meets (by decide +kernel), meets (by decide +kernel), meets (by decide +kernel), meets (by decide +kernel),
   meets (by decide +kernel), meets (by decide +kernel), meets (by decide +kernel)⟩

def fi (imm : Word) : Fields := { f0 with imm := imm }

/-- ConversionsAndCodebooksComplete: conversions, packing, scales and quantisation that trap nothing. -/
theorem test_meets_conversions : Meets [.cvtDn (fi 0x10), .cvtUp (fi 1), .cvtD (fi 0x0B), .cvtF2i f0, .cvtI2f f0, .cvtF2l (fi 0x80), .cvtL2f (fi 8), .cvtI2i f0,
    .pack2 (fi 0x10), .pack4 (fi 0x30), .pack5 (fi 0x50), .pack8 (fi 0x70), .bsclGet (fi 3), .bsclGet32 (fi 3), .bsclApply f0, .bsclInv f0] (world [])
      (fun _ c => c.launch.traps = 0) ∧
    Meets [.unpk2 (fi 1), .unpk4 (fi 3), .unpk5 (fi 5), .unpk8 (fi 7)] (world []) (fun _ c => c.f.imm.toNat % 16 ≠ 8) ∧
    Meets [.unpk8 (fi 8)] (world []) (fun _ c => ∀ x ∈ c.passing, (src32 c x c.f.srcB).toNat % 64 < c.kernel.books) :=
  ⟨meets (by decide +kernel), meets (by decide +kernel), meets (by decide +kernel)⟩

/-- ConversionsAndCodebooksComplete: the codebook instructions. -/
theorem test_meets_codebooks : Meets [.cbld f0] (world []) (fun _ c => ∀ x ∈ c.passing, (src32 c x c.f.srcA).toNat % 64 < c.kernel.books) ∧
    Meets [.cbldM f0] (world []) (fun _ c => (∀ x ∈ c.passing, (src32 c x c.f.srcA).toNat % 64 < c.kernel.books) ∧
      ∀ x ∈ c.passing, (src32 c x c.f.srcB + c.f.imm).toNat % 32 = 0 ∧ (src32 c x c.f.srcB + c.f.imm).toNat < c.kernel.scratchBytes ∧
        ∀ i, i < 32 → (c.wg.scratchBase + (src32 c x c.f.srcB + c.f.imm).toNat + i) / 4 ∉ ((world []).core c.core).scratchPoison) ∧
    Meets [.cbq f0, .cbqP f0] (world []) (fun _ c => (∀ x ∈ c.passing, (srcB32 c x).toNat % 64 < c.kernel.books) ∧ c.launch.traps = 0) :=
  ⟨meets (by decide +kernel), meets (by decide +kernel), meets (by decide +kernel)⟩

/-- PackedFieldsAreInOrder. -/
theorem test_meets_packed : Meets [.unpk4 (fi 3), .pack4 (fi 0x30)] (world []) (fun _ c => c.f.imm.toNat % 16 ≤ 7 ∧ c.f.dst.toNat + 4 ≤ 240 ∧ c.f.dst.toNat < 240) :=
  meets (by decide +kernel)

/-- FloatInstructionsComplete. -/
theorem test_meets_floats : Meets [.fadd f0, .faddF16x2 f0, .faddBf16x2 f0, .dadd f0, .fmul f0, .fmulF16x2 f0, .fmulBf16x2 f0, .dmul f0, .fmac f0, .fmacF16x2 f0,
    .fmacBf16x2 f0, .dmac f0, .fmin f0, .fminF16x2 f0, .fminBf16x2 f0, .fminF64 f0, .fmax f0, .fmaxF16x2 f0, .fmaxBf16x2 f0, .fmaxF64 f0, .frnd f0,
    .frndF16x2 f0, .frndBf16x2 f0, .frndF64 f0, .fcmp fp, .fcmpF64 fp, .fcmpF16x2 fp, .fcmpBf16x2 fp, .fcls f0, .fclsF64 f0, .fclsF16x2 f0, .fclsBf16x2 f0,
    .rcp f0, .rcpF64 f0, .rsq f0, .rsqF64 f0, .sqrt f0, .sqrtF64 f0, .ex2 f0, .lg2 f0, .sin f0, .cos f0, .tanh f0, .xpr (fi 1)] (world [])
    (fun _ c => c.launch.traps = 0) := meets (by decide +kernel)

/-- The batch's launch traps every flag. -/
def trapping (regs : Sparse Word) : State :=
  let s := world regs
  { s with launches := [{ launch0 with traps := 0x1F }] }

/-- What an instruction of TrappedFlagWritesNoLane computes. -/
def computes (i : Instr) (c : Ctx) : Fibre → Fibre × Flags :=
  match i with
  | .fadd _ => fp32 (arith .add .f32) c | .fmul _ => fp32 (arith .mul .f32) c | .fmac _ => fp32 (arith .mac .f32) c
  | .faddF16x2 _ => fpPacked .f16 (arith .add .f16) c | .fmulF16x2 _ => fpPacked .f16 (arith .mul .f16) c | .fmacF16x2 _ => fpPacked .f16 (arith .mac .f16) c
  | .faddBf16x2 _ => fpPacked .bf16 (arith .add .bf16) c | .fmulBf16x2 _ => fpPacked .bf16 (arith .mul .bf16) c
  | .fmacBf16x2 _ => fpPacked .bf16 (arith .mac .bf16) c
  | .dadd _ => fp64 (arith .add .f64) c | .dmul _ => fp64 (arith .mul .f64) c | _ => fp64 (arith .mac .f64) c

abbrev Traps : Instr → Ctx → Prop := fun i c => ¬ ∀ x ∈ c.passing, (computes i c x).2 &&& c.launch.traps = 0

/-- An infinity less itself. -/
def fsub : Fields := { f0 with srcB := 24, mods := 8 }

/-- TrappedFlagWritesNoLane: an infinity less itself, and an infinity times 0, are invalid. -/
theorem test_meets_trapped : Meets [.fadd fsub, .fmul f0, .fmac f0] (trapping [(24, 0x7F800000)]) (fun i c => ¬ NoTrap c (computes i c)) ∧
    Meets [.faddF16x2 fsub, .fmulF16x2 f0, .fmacF16x2 f0] (trapping [(24, 0x7C007C00)]) (fun i c => ¬ NoTrap c (computes i c)) ∧
    Meets [.faddBf16x2 fsub, .fmulBf16x2 f0, .fmacBf16x2 f0] (trapping [(24, 0x7F807F80)]) (fun i c => ¬ NoTrap c (computes i c)) ∧
    Meets [.dadd fsub, .dmul f0, .dmac f0] (trapping [(25, 0x7FF00000)]) (fun i c => ¬ NoTrap c (computes i c)) :=
  ⟨meets (p := Traps) (by decide +kernel), meets (p := Traps) (by decide +kernel), meets (p := Traps) (by decide +kernel),
   meets (p := Traps) (by decide +kernel)⟩

/-- RoundingFollowsItsMode: a third of a unit, in each mode. -/
theorem test_meets_rounding : [Mode.rn, .rz, .rm, .rp].all (fun mode => (roundTo .f32 mode false (.fin true 0x5555555 (-28))).2 &&& Flags.overflow = 0) = true := by
  decide +kernel

/-- MinMaxTreatNanAndZero: two NaNs, one on either side, and zeros of both signs. -/
theorem test_meets_minmax : (Fmt.f32.value 0x7FC00000).isNan = true ∧ (Fmt.f32.value 0x3F800000).isNan = false ∧
    (Fmt.f32.value 0).isZero = true ∧ (Fmt.f32.value 0x80000000).isZero = true ∧ (Fmt.f32.value 0).isNeg ≠ (Fmt.f32.value 0x80000000).isNeg := by decide +kernel

def fm (n : BitVec 7) : Fields := { f0 with mods := n }

/-- LaneAndPaletteInstructionsComplete. -/
theorem test_meets_lanes : Meets [.part (fi 0xFFFFFFFF)] (world []) (fun _ c => c.compat16 = false) ∧
    Meets [.xlnIdx (fi 3), .xlnSub (fi 3), .xlnAdd (fi 3), .xlnFlip (fi 3), .vote { fq with imm := 3 }, .lred (fi 3), .lredF (fi 3), .lscan (fi 3), .lscanF (fi 3),
      .perm (fi 3)] (world []) Any ∧
    Meets [.pld f0] (world []) (fun _ c => ∀ x ∈ c.passing, (src32 c x c.f.srcA).toNat % 64 < c.kernel.palette / 64 ∧
      (src32 c x c.f.srcB + c.f.imm).toNat % 64 = 0 ∧ (src32 c x c.f.srcB + c.f.imm).toNat < c.kernel.scratchBytes ∧
      ∀ i, i < 64 → (c.wg.scratchBase + (src32 c x c.f.srcB + c.f.imm).toNat + i) / 4 ∉ ((world []).core c.core).scratchPoison) :=
  ⟨meets (by decide +kernel), meets (by decide +kernel), meets (by decide +kernel)⟩

/-- LaneOperationValues: each operation answers for the batch's two lanes: `PART` where they name the widths 2 and 32, a vote, a ballot, and `PERM`
with a pattern of 64 zeros. -/
theorem test_meets_lane_values :
    (let answers := fun (op : Nat) (p : Option (List Byte)) (c : Ctx) => (match laneOperation op c c.lanes 0 32 [] p 0 [] with | .ok _ => true | .error _ => false) = true
     Meets [.xlnIdx (fi 3)] (world []) (fun _ c => ∀ op ∈ [0xA1, 0xA2, 0xA3, 0xA4, 0xA5, 0xA6, 0xA7, 0xA8, 0xA9], answers op none c) ∧
     Meets [.part (fi 0xFFFFFFFF)] (world [(24, 2)]) (fun _ c => answers 0xA0 none c ∧ c.lanes ≠ []) ∧ Meets [.part (fi 0xFFFFFFFF)] (world [(24, 32)]) (fun _ c => answers 0xA0 none c) ∧
     Meets [.vote { fq with imm := 3, mods := 2 }] (world []) (fun _ c => answers 0xA5 none c ∧ c.f.mods.toNat % 4 < 3) ∧
     Meets [.vote { fq with imm := 3, mods := 3, dst := 16 }] (world []) (fun _ c => answers 0xA5 none c ∧ c.f.mods.toNat % 4 = 3 ∧ ∀ y ∈ c.lanes, 0 ≤ y.lane) ∧
     Meets [.perm (fi 3)] (world []) (fun _ c => answers 0xAA (some (List.replicate 64 0)) c)) :=
  ⟨meets (by decide +kernel), meets (by decide +kernel), meets (by decide +kernel), meets (by decide +kernel), meets (by decide +kernel), meets (by decide +kernel)⟩

/-- A line of NOPs at address 0 whose only target is slot 0 (R26). -/
def code : Bytes := [(2, 2), (3, 8)] ++ pages

def coded (regs : Sparse Word) : State :=
  let s := world regs
  { s with mem := code }

def good (c : Ctx) (pc : BitVec 64) : Bool := !(coded []).badTarget c.launch pc

/-- ControlInstructionsComplete: transfers to slot 0, directly, by register, and by table inside and outside it. -/
theorem test_meets_control : Meets [.bra f0, .call f0, .braLoop f0] (coded []) (fun _ c => (coded []).badTarget c.launch (immTarget c.pc c.f.imm) = false) ∧
    Meets [.brx f0, .callX f0, .ret f0] (coded []) (fun _ c => ∀ x ∈ c.passing, (coded []).badTarget c.launch (src64 c x c.f.srcA) = false) ∧
    Meets [.brx f0] (coded [(24, 1)]) (fun _ c => c.passing ≠ [] ∧ ∀ x ∈ c.passing, src64 c x c.f.srcA = seqPc c.pc) ∧
    Meets [.brxTbl f0] (coded [(24, 1), (32, 2)]) (fun _ c => c.passing ≠ [] ∧ ∀ x ∈ c.passing, (src32 c x c.f.srcA).toNat < (src32 c x c.f.srcB).toNat ∧
      slotsAfter (immTarget c.pc c.f.imm) (src32 c x c.f.srcA).toNat = seqPc c.pc) ∧
    Meets [.brxTbl f0] (coded [(32, 1)]) (fun _ c => ∀ x ∈ c.passing, (src32 c x c.f.srcA).toNat < (src32 c x c.f.srcB).toNat ∧
      (coded [(32, 1)]).badTarget c.launch (slotsAfter (immTarget c.pc c.f.imm) (src32 c x c.f.srcA).toNat) = false) ∧
    Meets [.brxTbl f0] (coded []) (fun _ c => ∀ x ∈ c.passing, ¬ (src32 c x c.f.srcA).toNat < (src32 c x c.f.srcB).toNat) :=
  ⟨meets (by decide +kernel), meets (by decide +kernel), meets (by decide +kernel), meets (by decide +kernel), meets (by decide +kernel), meets (by decide +kernel)⟩

/-- ControlInstructionsComplete: creation, the end of a batch with no result awaited and with one in every lane, and what only moves on. -/
theorem test_meets_spawn_end : Meets [.fspawn f0, .fspawnN f0] (coded []) (fun _ c => c.passing ≠ [] ∧
      ∀ x ∈ c.passing, (coded []).spawnFault c x (immTarget c.pc c.f.imm) = none) ∧
    Meets [.fend f0] (coded []) (fun _ c => c.passing.filter (fun x => x.pendV.isEmpty && x.pendP.isEmpty) ≠ []) ∧
    Meets [.fend f0] (worldOf { wg0 [] with fibres := [{ fibre0 0 [] with pendV := [9] }, { fibre0 1 [] with pendV := [9] }] } {})
      (fun _ c => c.passing ≠ [] ∧ c.passing.filter (fun x => x.pendV.isEmpty && x.pendP.isEmpty) = []) ∧ Meets [.yield f0, .nop f0] (coded []) Any :=
  ⟨meets (by decide +kernel), meets (by decide +kernel), meets (by decide +kernel), meets (by decide +kernel)⟩

/-- BadTargetParks: slots 1 and 2, which have no target mark, the first the successor of `BRX`'s slot 0, and slot 5, which no PC may name. -/
theorem test_meets_bad_target : Meets [.bra (fi 1), .call (fi 1), .bra (fi 5), .call (fi 5)] (coded [])
      (fun _ c => ∀ x ∈ c.passing, (coded []).badTarget c.launch ((fun _ => immTarget c.pc c.f.imm) x) = true) ∧
    Meets [.braLoop (fi 1)] (coded []) (fun _ c => c.passing ≠ [] ∧ (coded []).badTarget c.launch (immTarget c.pc c.f.imm) = true ∧
      ∀ x ∈ c.passing, src32 c x c.f.srcA - 1 ≠ 0) ∧
    Meets [.brxTbl (fi 2)] (coded [(32, 1)]) (fun _ c => c.passing ≠ [] ∧ ∀ x ∈ c.passing, (src32 c x c.f.srcA).toNat < (src32 c x c.f.srcB).toNat ∧
      slotsAfter (immTarget c.pc c.f.imm) (src32 c x c.f.srcA).toNat ≠ seqPc c.pc ∧
      (coded [(32, 1)]).badTarget c.launch (slotsAfter (immTarget c.pc c.f.imm) (src32 c x c.f.srcA).toNat) = true) ∧
    Meets [.brx f0, .callX f0, .ret f0] (coded [(24, 2)]) (fun _ c => ∀ x ∈ c.passing, src64 c x c.f.srcA ≠ seqPc c.pc ∧ (coded []).badTarget c.launch (src64 c x c.f.srcA) = true) ∧
    Meets [.brx f0, .callX f0, .ret f0] (coded [(24, 8)]) (fun _ c => ∀ x ∈ c.passing, (coded []).badTarget c.launch (src64 c x c.f.srcA) = true) :=
  ⟨meets (by decide +kernel), meets (by decide +kernel), meets (by decide +kernel), meets (by decide +kernel), meets (by decide +kernel)⟩

/-- A store area with room for more fibres. -/
def roomy : State :=
  let s := worldOf { wg0 [] with storeArea := some 0 } {}
  { s with mem := code, launches := [{ launch0 with storeArea := 65536 }] }

/-- SpawnedFibreStartsAtTarget. -/
theorem test_meets_spawned : Meets [.fspawn f0] roomy (fun _ c => roomy.wg? c.wg.key = some c.wg ∧ c.wg.fibres.length < 4096 ∧ c.f.dst.toNat < 240 ∧
    ∀ x ∈ c.passing, c.wg.fibre? x.index = some x ∧ (∀ y ∈ c.wg.fibres, y.index < 4096) ∧ roomy.spawnRoom c.wg 1 x.allot (immTarget c.pc c.f.imm) = true) :=
  meets (by decide +kernel)

abbrev Fits (s : State) (space width perms : Nat) : Instr → Ctx → Prop := fun _ c =>
  (∀ o sc, c.ord = some (o, sc) → o < 2) ∧ ∀ x ∈ c.passing, c.accessFault s space width perms x = none

/-- LoadsAndStoresComplete: every space and width class, and two words of the pair (an `ORD` that a load and one that a store may carry). -/
theorem test_meets_accesses : Meets [.ldS (fm 2)] (world []) (fun _ c => c.ord = none ∧ ∀ x ∈ c.passing, c.accessFault (world []) 1 4 1 x = none) ∧
    Meets [.ldC (fm 0)] (world []) (fun _ c => c.ord = none ∧ ∀ x ∈ c.passing, c.accessFault (world []) 2 1 1 x = none) ∧
    Meets [.ldG (fm 3)] (world []) (fun _ c => c.ord = none ∧ ∀ x ∈ c.passing, c.accessFault (world []) 0 8 1 x = none) ∧
    Meets [.ldSQ (fm 0)] (world []) (fun _ c => c.ord = none ∧ ∀ x ∈ c.passing, c.accessFault (world []) 1 16 1 x = none) ∧
    Meets [.ldCQ (fm 1)] (world []) (fun _ c => c.ord = none ∧ ∀ x ∈ c.passing, c.accessFault (world []) 2 32 1 x = none) ∧
    Meets [.ldGQ (fm 2)] (world []) (fun _ c => c.ord = none ∧ ∀ x ∈ c.passing, c.accessFault (world []) 0 64 1 x = none) ∧
    Meets [.stS (fm 2)] (world []) (fun _ c => c.ord = none ∧ ∀ x ∈ c.passing, c.accessFault (world []) 1 4 2 x = none ∧ Role.v.poisoned c x c.f.srcB = false) ∧
    Meets [.stC (fm 0)] (world []) (fun _ c => c.ord = none ∧ ∀ x ∈ c.passing, c.accessFault (world []) 2 1 2 x = none ∧ Role.v.poisoned c x c.f.srcB = false) ∧
    Meets [.stG (fm 3)] (world []) (fun _ c => c.ord = none ∧ ∀ x ∈ c.passing, c.accessFault (world []) 0 8 2 x = none ∧ Role.pair.poisoned c x c.f.srcB = false) ∧
    Meets [.stSQ (fm 0)] (world []) (fun _ c => c.ord = none ∧ ∀ x ∈ c.passing, c.accessFault (world []) 1 16 2 x = none ∧ (Role.run 4).poisoned c x c.f.srcB = false) ∧
    Meets [.stCQ (fm 1)] (world []) (fun _ c => c.ord = none ∧ ∀ x ∈ c.passing, c.accessFault (world []) 2 32 2 x = none ∧ (Role.run 8).poisoned c x c.f.srcB = false) ∧
    Meets [.stGQ (fm 2)] (world []) (fun _ c => c.ord = none ∧ ∀ x ∈ c.passing, c.accessFault (world []) 0 64 2 x = none ∧ (Role.run 16).poisoned c x c.f.srcB = false) :=
  ⟨meets (by decide +kernel), meets (by decide +kernel), meets (by decide +kernel), meets (by decide +kernel), meets (by decide +kernel),
   meets (by decide +kernel), meets (by decide +kernel), meets (by decide +kernel), meets (by decide +kernel), meets (by decide +kernel),
   meets (by decide +kernel), meets (by decide +kernel)⟩

/-- ScratchLoadReadsItsWords. -/
theorem test_meets_scratch_load : Meets [.ldS (fm 2), .ldSQ (fm 0)] (world []) (fun _ c => c.ord = none ∧ c.f.dst.toNat < 240 ∧ c.passing ≠ [] ∧
    ∀ x ∈ c.passing, (src32 c x c.f.srcA + c.f.imm).toNat % 16 = 0 ∧ (src32 c x c.f.srcA + c.f.imm).toNat < c.kernel.scratchBytes) := meets (by decide +kernel)

/-- ScratchLoadReadsItsWords: a return of registers up to the last, of a codebook table and of a pattern. -/
theorem test_meets_scratch_return : [(LoadDst.regs 236, 16), (.book 1, 32), (.pattern 0, 64)].all (fun d =>
    let l : Load := { fibre := 1, dst := d.1, place := .scratch 0 32 1, width := d.2 }
    let s := worldOf (wg0 []) { loads := [{ wg := 1, loads := [l] }] }
    decide ((s.core 0).loads[0]? = some { wg := 1, loads := [l] } ∧ l.value = none ∧ l.request = none ∧ l.width % 4 = 0 ∧ 0 < l.width) &&
      (s.wg? 1).any (fun w => (w.fibre? l.fibre).isSome)) = true ∧ (236 : Nat) + 16 / 4 ≤ 240 := by decide +kernel

/-- The next state of an outcome. -/
def nextOf (o : Host.Outcome State Fault Refusal) : Option State := match o with | .next t => some t | _ => none

/-- An instruction gives a next state in which its workgroup is not parked. -/
def runsOn (i : Instr) (s : State) : Bool := match nextOf (exec i s) with | some t => (t.parkedWg 1).isNone && (t.wg? 1).isSome | none => false

/-- ScratchStoreWritesItsBytes, RegisterInstructionsKeepTheRest, GlobalAccessesKeepOtherBytes: they issue and run on, with no line in the L1. -/
theorem test_meets_frames : Meets [.stS (fm 2), .stC (fm 2), .stSQ (fm 0), .stCQ (fm 1), .ldG (fm 3), .ldGQ (fm 0), .stG (fm 3), .stGQ (fm 0), .atomAdd (fm 0),
      .redXor (fm 0), .atomCas (fm 1), .redMinS (fm 2), .atomAdd64 (fm 0), .redAdd64 (fm 1)] (world [])
    (fun i c => runsOn i (world []) = true ∧ ((world []).core c.core).l1 = []) := meets (by decide +kernel)

/-- RegisterInstructionsKeepTheRest: some of each list, and all of the short ones. -/
theorem test_meets_register_frames : Meets [.iadd f0, .fcls f0, .iadd64 f0, .tread f0, .icmpS fp, .fcmp fp, .iaddX f0, .isubX f0, .fcmpF16x2 fp, .fcmpBf16x2 fp,
      .plogW f0, .pmovV2p f0, .mov f0, .mov fl, .movs fs, .movsI { fs with imm := 1 }, .fadd f0, .cbq f0, .dadd f0, .rsqF64 f0, .cvtDn (fi 0x10), .cvtD (fi 0x0B),
      .cvtD (fi 0xB0), .cvtI2f f0, .cvtL2f (fi 8), .unpk2 (fi 1), .unpk4 (fi 3), .unpk5 (fi 5), .unpk8 (fi 8)] (world [])
    (fun i _ => runsOn i (world []) = true) := meets (by decide +kernel)

/-- CacheControlAndBoundariesComplete. -/
theorem test_meets_cache_boundaries : Meets [.prfL1 f0, .prfL2 f0, .cctlInv f0, .cctlPri f0, .cctlWb f0, .cctlWbinv f0, .cctlWbinv (fm 1), .aqryH f0, .fenceE f0] (world []) Any ∧
    Meets [.aqry (fm 1)] (world []) (fun _ c => c.f.mod 0 = true) ∧ Meets [.aqry (fm 0)] (world []) (fun _ c => c.f.mod 0 = false) ∧
    Meets [.phaseRel (fm 2), .phaseAcq (fm 2), .phaseAr (fm 2), .fence f0] (world []) (fun _ c => c.heldFault = none) ∧
    Meets [.ord (fm 14)] (world []) (fun _ _ => (world []).issue.isSome = true) :=
  ⟨meets (by decide +kernel), meets (by decide +kernel), meets (by decide +kernel), meets (by decide +kernel), meets (by decide +kernel)⟩

/-- A store of a line homed on another package is out. -/
def storing : State :=
  let s := world []
  { s with requests := [{ tag := 1, line := 2 ^ 34, kind := .store [] }] }

/-- CacheControlAndBoundariesComplete, PhaseArIsReleaseThenAcquire: with a store out and with none. -/
theorem test_meets_store_out : Meets [.phaseRel (fm 2), .phaseAr (fm 2), .fence f0] storing (fun _ c => c.heldFault = none ∧
      c.f.mods.toNat % 8 = 2 ∧ (storing.release c.core (c.f.mods.toNat % 8)).openStores ≠ [] ∨ c.f.mods = 0 ∧ storing.openStores ≠ []) ∧
    Meets [.phaseRel (fm 2), .phaseAcq (fm 2), .phaseAr (fm 2)] (world []) (fun _ c => c.heldFault = none ∧
      ((world []).release c.core (c.f.mods.toNat % 8)).openStores = []) := ⟨meets (by decide +kernel), meets (by decide +kernel)⟩

/-- The workgroup holds a deferred barrier fault. -/
def holding : State := worldOf { wg0 [] with deferred := [{ issuer := 0, cls := 15, info := { cls := 15, cause := 1, deferred := true }, entry := none }] } {}

theorem test_meets_held_boundary : Meets [.phaseRel (fm 2), .phaseAcq (fm 2), .phaseAr (fm 2), .fence f0] holding (fun _ c => c.heldFault ≠ none) :=
  meets (by decide +kernel)

/-- AtomicsComplete: in `.S`; all its reductions without an `ORD`. -/
theorem test_meets_atomics : Meets [.atomAdd (fm 1), .atomAddF32 (fm 1), .atomAddBf16x2 (fm 1), .atomMinS (fm 1), .atomMinU (fm 1), .atomMaxS (fm 1), .atomMaxU (fm 1),
      .atomAnd (fm 1), .atomOr (fm 1), .atomXor (fm 1), .atomExch (fm 1), .atomCas (fm 1), .atomInc (fm 1), .redAdd (fm 1), .redAddF32 (fm 1), .redAddBf16x2 (fm 1),
      .redMinS (fm 1), .redMinU (fm 1), .redMaxS (fm 1), .redMaxU (fm 1), .redAnd (fm 1), .redOr (fm 1), .redXor (fm 1), .redInc (fm 1)] (world [])
      (fun _ c => c.ord = none ∧ ∀ x ∈ c.passing, c.accessFault (world []) 1 4 3 x = none) ∧
    Meets [.atomAdd64 (fm 0), .atomExch64 (fm 0), .atomCas64 (fm 0), .redAdd64 (fm 0)] (world [])
      (fun _ c => c.ord = none ∧ ∀ x ∈ c.passing, c.accessFault (world []) 0 8 3 x = none) := ⟨meets (by decide +kernel), meets (by decide +kernel)⟩

/-- AtomicsActLaneByLane. -/
theorem test_meets_lane_by_lane : ∀ w ∈ [32, 64], (5 : Nat) < 2 ^ w ∧ ∀ l ∈ [((7 : Nat), (9 : Nat)), (2 ^ w - 1, 0)], l.1 < 2 ^ w ∧ l.2 < 2 ^ w := by decide

/-- The same workgroup with a batch of one fibre. -/
def soloOf (w : Workgroup) (k : Core) : State :=
  let s := worldOf w k
  { s with cores := [(0, { k with slots := [{ slot0 with lanes := [0] }] })] }

def solo (regs : Sparse Word) : State := soloOf (wg0 regs) {}

/-- BarrierInstructionsComplete: with lanes that pass and with none, the port holding no scope. -/
theorem test_meets_barriers : Meets [.barv f0, .barvC f0, .barr fp, .bwait fp, .bqry (fm 1)] (world [])
      (fun _ c => c.heldBarrier = none ∧ c.passing ≠ [] ∧ byHandle c (fun x => (srcB32 c x).toNat) (fun _ => 1) ≠ [] ∧
        ∀ e ∈ byHandle c (fun x => (srcB32 c x).toNat) (fun _ => 1), (world []).portScope c.core c.launch.areaOwner e.1 = 0) ∧
    Meets [.barv (off f0), .barvC (off f0), .barr (off fp), .bwait (off fp), .bqry (off f0)] (world []) (fun _ c => c.heldBarrier = none ∧ c.passing = []) ∧
    Meets [.binit (fm 0)] (world [(24, 1)]) (fun _ c => c.heldBarrier = none ∧ ∀ x ∈ c.passing, (srcB32 c x).toNat < 2 ^ 20 ∧
      (srcB32 c x).toNat + 9 ≤ c.launch.barrierEntries ∧ (src32 c x c.f.srcA).toNat ≠ 0 ∧ (src32 c x c.f.srcA).toNat ≤ 4096) ∧
    Meets [.binit (fm 1), .binv f0] (world [(24, 1), (32, 63)]) (fun _ c => c.heldBarrier = none ∧ ∀ x ∈ c.passing, (srcB32 c x).toNat < 2 ^ 20 ∧
      (srcB32 c x).toNat + 1 ≤ c.launch.barrierEntries ∧ (src32 c x c.f.srcA).toNat ≠ 0) :=
  ⟨meets (by decide +kernel), meets (by decide +kernel), meets (by decide +kernel), meets (by decide +kernel)⟩

/-- The port holds a scope for the handles. -/
def ported : State := worldOf (wg0 []) { portScopes := [(7 * 2 ^ 32, 4)] }

theorem test_meets_ported : Meets [.barv f0, .barvC f0, .barr fp] ported (fun _ c => c.heldBarrier = none ∧ c.passing ≠ [] ∧
    ∀ e ∈ byHandle c (fun x => (srcB32 c x).toNat) (fun _ => 1), ported.portScope c.core c.launch.areaOwner e.1 ≠ 0) := meets (by decide +kernel)

/-- BarrierInstructionsComplete: with a store out after the release, and with none. -/
theorem test_meets_arrival_stores : [false, true].all (fun out =>
    let s : State := { ported with requests := if out then storing.requests else [] }
    (batchOf (.barv f0) s).any (fun c =>
      let sc := s.widest c.core c.launch.areaOwner ((byHandle c (fun x => (srcB32 c x).toNat) (fun _ => 1)).map (fun e => e.1))
      decide ((s.release c.core (sc - 1)).openStores = []) == !out)) = true := by decide +kernel

/-- A batch of one fibre of 32 registers, whose register 8 holds the size to ask for. -/
def small (n : Nat) : State := soloOf { wg0 [] with fibres := [{ fibre0 0 [(8, BitVec.ofNat 32 n)] with allot := 32 }] } {}

def fw : Fields := { f0 with dst := 2, srcB := 8 }

/-- WatchAndWindowsComplete. -/
theorem test_meets_watch_windows : Meets [.watch f0] (world []) (fun _ c => c.heldBarrier = none ∧ ∀ x ∈ c.passing, c.accessFault (world []) 0 4 1 x = none ∧ x.watch.length < 4) ∧
    Meets [.watchClr f0] (world []) (fun _ c => c.heldBarrier = none) ∧
    Meets [.waitw (fp), .waitwT { fp with srcC := 40 }] (world []) (fun _ c => c.heldBarrier = none ∧ ∀ x ∈ c.passing, c.accessFault (world []) 0 4 1 x = none) ∧
    Meets [.rgrow fw, .rgrowTry fw] (small 48) (fun i c => c.heldBarrier = none ∧ (match State.growLanes (decide (i = .rgrowTry fw)) c c.passing (small 48) with
      | .ok _ => true | .error _ => false) = true) ∧
    Meets [.rgrow fw] (small 48) (fun _ c => c.passing.length = 1 ∧ (small 48).wg? c.wg.key = some c.wg ∧ ∀ x ∈ c.passing, (srcB32 c x).toNat = 48 ∧ x.allot < 48 ∧
      (small 48).fits c.wg 0 (48 - x.allot) = true) ∧
    Meets [.rshrink fw] (small 16) (fun _ c => c.heldBarrier = none ∧ ∀ x ∈ c.passing, (srcB32 c x).toNat = 16 ∧ 16 ≤ x.allot ∧ ∀ r ∈ x.pendV, r < 16) :=
  ⟨meets (by decide +kernel), meets (by decide +kernel), meets (by decide +kernel), meets (by decide +kernel), meets (by decide +kernel), meets (by decide +kernel)⟩

/-- A brush of two FP32 inputs and one operation, associative, with an identity. -/
def brush0 : Brush := { header := 0x161, ops := [], table := [] }

/-- A workgroup with a brush, with all its slots claimed, and registers for one-element tiles. -/
def tiled : Workgroup := { wg0 [(27, 0x10001), (35, 0x10001), (43, 0x10001)] with brushes := [(0, some brush0)], slotFlags := List.replicate 8 { claimed := true } }

def tileWorld : State := worldOf tiled {}

abbrev Queues (s : State) (cls : Nat) (push : Bool) (tests : Ctx → Fibre → List (Bool × LaneFault)) : Instr → Ctx → Prop :=
  fun _ c => c.copyReady s cls = true ∧ c.passing ≠ [] ∧ ∀ x ∈ c.passing, c.issueFault s push (tests c) x = none

def words : State := worldOf { tiled with fibres := [fibre0 0 [(32, 16), (33, 1)], fibre0 1 [(32, 16), (33, 1)]] } {}

/-- CopiesAreQueued. -/
theorem test_meets_copies : Meets [.cpy f0] words (Queues words 0 false (fun c x => tlrTests c x ++ alignTests 16 c x)) ∧
    Meets [.cpySlot f0] words (Queues words 0 false (fun c x => tlrTests c x ++ slotTests c x)) ∧
    Meets [.cpyCl f0] words (Queues words 0 true (fun c x => [(decide ((src32 c x c.f.srcA).toNat % 16 ≠ 0), misaligned (src32 c x c.f.srcA).toNat 16),
      (decide ((src32 c x c.f.srcC).toNat % 16 ≠ 0), misaligned (src32 c x c.f.srcC).toNat 16),
      (decide ((src32 c x c.f.srcB).toNat % 16 ≠ 0 ∨ (src32 c x c.f.srcB).toNat < 16 ∨ (src32 c x c.f.srcB).toNat > 65536), c.badOperand c.f.srcB)])) ∧
    Meets [.cpyRing f0] words (Queues words 0 false (fun c x => tlrTests c x ++ alignTests 32 c x ++
      [(decide ((src32 c x c.f.srcC).toNat + 32 > c.kernel.scratchBytes), { cls := 10, cause := 8, v0 := (src32 c x c.f.srcC).toNat, v1 := 32 })])) ∧
    Meets [.cpyAcc f0] words (Queues words 0 false (fun c x => tlrTests c x ++ alignTests 16 c x ++
      [(decide ((src32 c x c.f.srcC).toNat ≥ c.kernel.accBytes), c.slotLane (src32 c x c.f.srcC).toNat)])) ∧
    Meets [.cpyB f0] words (Queues words 0 false (fun c x => tlrTests c x ++ alignTests 16 c x ++
      [((c.wg.brush? (c.f.mods.toNat % 64)).isNone, c.badOperand c.f.srcB)])) ∧
    Meets [.cpyReg f0] words (fun _ c => c.copyReady words 0 = true ∧ regReady c words = true ∧
      ∀ x ∈ c.passing, c.issueFault words false (fun x => tlrTests c x ++ targetTests c x) x = none) ∧
    Meets [.gth f0, .sct f0, .sctCl f0] words (Queues words 1 false (fun c x => tlrTests c x ++ indexTests c x)) ∧
    Meets [.gthSlot f0] words (Queues words 1 false (fun c x => tlrTests c x ++ slotTests c x ++ indexTests c x)) :=
  ⟨meets (by decide +kernel), meets (by decide +kernel), meets (by decide +kernel), meets (by decide +kernel), meets (by decide +kernel), meets (by decide +kernel),
   meets (by decide +kernel), meets (by decide +kernel), meets (by decide +kernel)⟩

theorem test_meets_tiles : Meets [.tfold f0] tileWorld (Queues tileWorld 3 false (tileTests .tfold (fun b _ _ => decide (b.arity = 0)))) ∧
    Meets [.tscan f0] tileWorld (Queues tileWorld 3 false (tileTests .tscan (fun b _ _ => decide (b.arity = 0) || decide (b.xFmt ≠ b.yFmt) || decide (b.yFmt ≠ b.zFmt)))) ∧
    (∃ c, IssuesAs 0x144 (.tzip f0 (c.handleBrush.any (fun b => b.arity = 1))) f0 tileWorld c ∧
      Queues tileWorld 3 false (tileTests .tzip (fun _ _ _ => false)) (.tzip f0) c) := by
  refine ⟨meets (by decide +kernel), meets (by decide +kernel), ?_⟩
  have h : (match Ctx.of? tileWorld 0x144 f0 with
    | some c => decide (checkIssue 0x144 (.tzip f0 (c.handleBrush.any (fun b => b.arity = 1))) c = none ∧
        Queues tileWorld 3 false (tileTests .tzip (fun _ _ _ => false)) (.tzip f0) c)
    | none => false) = true := by decide +kernel
  split at h
  · rename_i c hc
    have := of_decide_eq_true h
    exact ⟨c, ⟨hc, this.1⟩, this.2⟩
  · cases h

/-- QueuedOperationIsCounted. -/
theorem test_meets_queued : Meets [.cpy f0] words (fun _ c => words.wg? c.wg.key = some c.wg ∧ c.f.imm.toNat / 2 ^ 30 = 0 ∧ c.passing ≠ []) ∧
    ∀ e : CopyEntry, let g := fun e : CopyEntry => { e with kind := .ld }
      (g e).kind = .ld ∧ (g e).imm = e.imm ∧ (g e).id = e.id ∧ (g e).entry = e.entry ∧ (g e).wg = e.wg ∧ (g e).pc = e.pc ∧ (g e).fibre = e.fibre :=
  ⟨meets (by decide +kernel), fun _ => ⟨rfl, rfl, rfl, rfl, rfl, rfl, rfl⟩⟩

/-- Scratchpad with a valid sync word at 0 and a valid ring of one slot of one unit at 32 (R310, R314). -/
def banked (count free filled : Byte) : State := soloOf { wg0 [] with fibres := [fibre0 0 [(24, 32), (32, 1)]] }
  { scratch := [(0, count), (8, 1), (36, 1), (38, 1), (44, free), (46, filled)] }

/-- Two lanes: a valid sync word of count 0 at 0, and a valid ring of one slot at 32 for the first lane and at 64 for the second. -/
def banked2 : State := worldOf { wg0 [] with fibres := [fibre0 0 [(24, 32), (32, 1)], fibre0 1 [(24, 64), (32, 1)]] }
  { scratch := [(8, 1), (36, 1), (38, 1), (68, 1), (70, 1)] }

def fb : Fields := { f0 with srcA := 26, srcB := 28, mods := 0 }

/-- SyncInstructionsComplete: the words of two lanes and of none. -/
theorem test_meets_sync : Meets [.seal f0] (world []) (fun _ c => (c.wg.stream (issuerOf c.compat16 (lowestFibre c.lanes)) 0).unsealedAny = false) ∧
    Meets [.seal f0] (worldOf { wg0 [] with streams := [{ issuer := 0, cls := 0, unsealedAny := true }] } {})
      (fun _ c => let q := c.wg.stream (issuerOf c.compat16 (lowestFibre c.lanes)) 0; q.unsealedAny = true ∧ q.pending.length < 65535) ∧
    Meets [.waitc (fm 4)] (world []) (fun _ c => c.lanes ≠ [] ∧ ∀ d ∈ c.wg.deferred, d.issuer = issuerOf c.compat16 (lowestFibre c.lanes) →
      d.cls ≠ c.f.mods.toNat % 8 ∧ d.cls < 11) ∧
    Meets [.swinit fb, .swinit (off fb)] banked2 (fun _ c => (∀ x ∈ c.passing, c.accessFault banked2 1 16 2 x = none) ∧
      c.passing.zipIdx.all (fun e =>
        let t := (c.passing.take e.2).foldl (fun t x => let b := c.bankOf t 1 16 x
          t.syncWrite b.1 b.2 { count := (src32 c x c.f.srcB).toInt, completions := 0, valid := true, waiters := 0, refs := 0 }) banked2
        let b := c.bankOf t 1 16 e.1
        decide ((t.syncRead b.1 b.2).waiters = 0 ∧ (t.syncRead b.1 b.2).refs = 0)) = true) ∧
    Meets [.swexp fb, .swexp (off fb)] banked2 (fun _ c => (∀ x ∈ c.passing, c.accessFault banked2 1 16 2 x = none) ∧
      (c.passing.foldl (fun (t : Option State) x => t.bind (fun t => let b := c.bankOf t 1 16 x
        if (t.syncRead b.1 b.2).valid = true then t.syncAdd b.1 b.2 (src32 c x c.f.srcB).toInt else none)) (some banked2)).isSome = true) ∧
    Meets [.swwait { fb with dst := 2 }] (banked 1 0 0) (fun _ c => ∀ x ∈ c.passing, c.accessFault (banked 1 0 0) 1 16 2 x = none) ∧
    Meets [.rwait f0] (banked 0 0 1) (fun _ c => ∀ x ∈ c.passing, ringFault c (banked 0 0 1) x = none) ∧
    Meets [.rrel f0, .rrel (off f0)] banked2 (fun _ c => (banked2.core c.core).loading c.wg.key c.lanes = false ∧ (∀ x ∈ c.passing, ringFault c banked2 x = none) ∧
      (c.passing.foldl (fun (t : Option State) x => t.bind (fun t =>
        let n := (src32 c x c.f.srcB).toNat
        let b := c.bankOf t 1 32 x
        let r := t.ringRead b.1 b.2
        if n ≠ 0 ∧ r.free + n ≤ r.slots then some (t.ringWrite b.1 b.2 { r with free := r.free + n }) else none)) (some banked2)).isSome = true) :=
  ⟨meets (by decide +kernel), meets (by decide +kernel), meets (by decide +kernel), meets (by decide +kernel), meets (by decide +kernel), meets (by decide +kernel),
   meets (by decide +kernel), meets (by decide +kernel)⟩

abbrev slotsIn (c : Ctx) (x : Fibre) : List Nat := (List.range 32).filter (fun i => (srcB32 c x).getLsbD i)

/-- A brush image at 0x20000 (R361): FADD of the two inputs. -/
def imaged : State :=
  let s := soloOf { wg0 [(24, 0x20000)] with brushes := [(1, some brush0)] } {}
  { s with mem := pages ++ [(0x20000, 0x61), (0x20001, 1), (0x20041, 1)], pkgBrushes := [(0, some (brush0, 7))] }

/-- The same with no handle free, of the workgroup's and of the package's. -/
def brimming : State :=
  let s := soloOf { wg0 [(24, 0x20000)] with brushes := [(0, some brush0), (1, some brush0)] } {}
  { s with mem := imaged.mem, pkgBrushes := (List.range 64).map (fun n => (n, some (brush0, 7))) }

/-- SlotsAndBrushesComplete: no handle free, and no lane that passes. -/
theorem test_meets_brushes_full : Meets [.brld f0, .brldPkg f0] brimming (fun _ c => c.passing ≠ [] ∧ (∀ k, k < c.kernel.brushes → c.wg.brush? k ≠ none) ∧
      ∀ x ∈ c.passing, (match brimming.readImage c x with | .ok (_, u) => (List.range 64).all (fun k => (Sparse.get none u.pkgBrushes k).isSome) | .error _ => false) = true) ∧
    Meets [.brld (off f0), .brldPkg (off f0)] imaged (fun _ c => c.passing = []) := ⟨meets (by decide +kernel), meets (by decide +kernel)⟩

/-- SlotsAndBrushesComplete. -/
theorem test_meets_slots_brushes : Meets [.sclm f0, .sclmTry { fp with srcB := 32 }] (world [(32, 3)]) (fun _ c => c.passing ≠ [] ∧ ∀ x ∈ c.passing,
      (∀ n ∈ slotsIn c x, n < c.wg.slotFlags.length) ∧ (slotsIn c x).all c.wg.slotFree = true) ∧
    Meets [.srel f0] (worldOf { tiled with fibres := [fibre0 0 [(32, 3)], fibre0 1 []] } {}) (fun _ c => c.passing ≠ [] ∧ ∀ x ∈ c.passing,
      ∀ n ∈ slotsIn c x, c.wg.slotClaimed n = true) ∧
    Meets [.sclm (off f0), .sclmTry (off fp), .srel (off f0), .brdrop (off f0), .brdropPkg (off f0)] (world []) (fun _ c => c.passing = []) ∧
    Meets [.brld f0] imaged (fun _ c => c.passing ≠ [] ∧ 0 < c.kernel.brushes ∧ c.wg.brush? 0 = none ∧ ∀ x ∈ c.passing,
      (match imaged.readImage c x with | .ok _ => true | .error _ => false) = true) ∧
    Meets [.brldPkg f0] imaged (fun _ c => c.passing ≠ [] ∧ ∀ x ∈ c.passing, (match imaged.readImage c x with
      | .ok (_, u) => decide (Sparse.get none u.pkgBrushes 1 = none ∧ Sparse.get none u.pkgBrushes 0 ≠ none)
      | .error _ => false) = true) ∧
    Meets [.brdrop f0] tileWorld (fun _ c => c.passing ≠ [] ∧ ∀ x ∈ c.passing, (srcB32 c x).toNat = 0 ∧ c.wg.brush? 0 ≠ none ∧ tileWorld.brushBusy c.wg 0 = false) ∧
    Meets [.brdropPkg f0] imaged (fun _ c => c.passing ≠ [] ∧ ∀ x ∈ c.passing, (srcB32 c x).toNat = 0 ∧ Sparse.get none imaged.pkgBrushes 0 ≠ none ∧
      imaged.pkgBrushBusy 0 = false) :=
  ⟨meets (by decide +kernel), meets (by decide +kernel), meets (by decide +kernel), meets (by decide +kernel), meets (by decide +kernel), meets (by decide +kernel),
   meets (by decide +kernel)⟩

/-- The Easel's operands: the format word in register 24, the slots in 32, the accumulator offset or front bank in 40; bank 0 is the workgroup's. -/
def easel (word acc : Nat) : State := worldOf { tiled with fibres := [fibre0 0 [(24, BitVec.ofNat 32 word), (40, BitVec.ofNat 32 acc)]] }
  { bank0 := { owner := some 1 } }

def fe (imm : Word) : Fields := { f0 with imm := imm }

abbrev Same (code : BitVec 9) (c : Ctx) : Prop := ∀ x ∈ c.passing, ∀ y ∈ c.passing, src32 c y code = src32 c x code

def loopEntry (c : Ctx) (x : Fibre) (count : Bool) : EaselEntry :=
  { entry := 0, id := 0, kind := if count then .count else .mloop, wg := c.wg.key, issuer := 0, cls := 2, fibre := x.index, pc := c.pc, imm := c.f.imm,
    mods := c.f.mods, a := (src32 c x c.f.srcA).toNat, b := (src32 c x c.f.srcB).toNat, c := (src32 c x c.f.srcC).toNat }

abbrev Loops (s : State) (count : Bool) : Instr → Ctx → Prop := fun _ c => c.passing ≠ [] ∧ c.easelReady s 2 = true ∧ Same c.f.srcA c ∧
  ∀ x ∈ c.passing, c.mloopFault x s count (loopEntry c x count) = none

/-- EaselInstructionsComplete: the loops. -/
theorem test_meets_loops : Meets [.mloop (fe 1)] (easel 0x11 0) (Loops (easel 0x11 0) false) ∧ Meets [.mloopC (fe 1)] (easel 0x77 0) (Loops (easel 0x77 0) true) ∧
    Meets [.mloopG { fe 1 with mods := 2 }] (easel 0x11 0) (Loops (easel 0x11 0) false) ∧
    Meets [.mloopG { fe 1 with mods := 3 }] (easel 0x77 0) (Loops (easel 0x77 0) true) :=
  ⟨meets (by decide +kernel), meets (by decide +kernel), meets (by decide +kernel), meets (by decide +kernel)⟩

/-- EaselInstructionsComplete: the others. -/
theorem test_meets_easel : Meets [.mzero (fe 1)] (easel 0 0) (fun _ c => c.passing ≠ [] ∧ c.easelReady (easel 0 0) 2 = true ∧ ∀ x ∈ c.passing,
      (src32 c x c.f.srcA).toNat % 4096 = 0 ∧ (src32 c x c.f.srcA).toNat + 4096 ≤ c.kernel.accBytes) ∧
    Meets [.mlda (fm 1), .msta (fm 1)] (easel 0 0) (fun _ c => c.passing ≠ [] ∧ c.easelReady (easel 0 0) 2 = true ∧ ∀ x ∈ c.passing,
      (src32 c x c.f.srcA + c.f.imm).toNat % 8 = 0 ∧ (src32 c x c.f.srcA + c.f.imm).toNat + 8 ≤ c.kernel.accBytes) ∧
    Meets [.czero f0, .czeroD f0] (easel 0 0) (fun _ c => c.passing ≠ [] ∧ c.easelReady (easel 0 0) 2 = true ∧ ((easel 0 0).core c.core).bank0.owner = some c.wg.key ∧
      262144 ≤ c.kernel.accBytes ∧ ∀ x ∈ c.passing, (src32 c x c.f.srcA).toNat = 0) ∧
    Meets [.cmrg f0] (easel 0 0) (fun _ c => c.passing ≠ [] ∧ c.easelReady (easel 0 0) 2 = true ∧ ((easel 0 0).core c.core).bank0.owner = some c.wg.key ∧
      262144 ≤ c.kernel.accBytes ∧ ((easel 0 0).core c.core).deep0 + ((easel 0 0).core c.core).bank0.depth < 2 ^ 32 ∧
      ∀ x ∈ c.passing, (src32 c x c.f.srcA).toNat = 0 ∧ (src32 c x c.f.srcB).toNat = 0) ∧
    Meets [.cdrn { fe 0x20 with srcA := 26, srcB := 24 }] (easel 0x77 0) (fun _ c => c.passing ≠ [] ∧ c.easelReady (easel 0x77 0) 2 = true ∧ Same c.f.srcB c ∧
      c.wg.slotClaimed 0 = true ∧ ∀ x ∈ c.passing, (src32 c x c.f.srcA).toNat = 0 ∧ wordLegal drainWord (src32 c x c.f.srcB).toNat = true ∧
        booksOk c.kernel (src32 c x c.f.srcB).toNat = true ∧ (src32 c x c.f.srcC).toNat % 1024 = 0 ∧ (src32 c x c.f.srcC).toNat + 1024 ≤ c.kernel.accBytes) ∧
    Meets [.cdrnI { f0 with srcA := 26, srcB := 24 }] (easel 0xCAA 0) (fun _ c => c.passing ≠ [] ∧ c.easelReady (easel 0xCAA 0) 2 = true ∧ Same c.f.srcB c ∧
      ∀ x ∈ c.passing, (src32 c x c.f.srcA).toNat = 0 ∧ wordLegal drainIntWord (src32 c x c.f.srcB).toNat = true ∧ (src32 c x c.f.srcC).toNat % 1024 = 0 ∧
        (src32 c x c.f.srcC).toNat + 1024 ≤ c.kernel.accBytes) ∧
    Meets [.touter { f0 with srcB := 26 }] (easel 0x10000 0) (fun _ c => c.passing ≠ [] ∧ c.easelReady (easel 0x10000 0) 3 = true ∧ ∀ x ∈ c.passing,
      c.outerFault x { loopEntry c x false with kind := .touter, cls := 3, c := 0, mods := 0 } = none) :=
  ⟨meets (by decide +kernel), meets (by decide +kernel), meets (by decide +kernel), meets (by decide +kernel), meets (by decide +kernel), meets (by decide +kernel),
   meets (by decide +kernel)⟩

/-- TrapsParkTheirWorkgroup: with lanes that pass and `csr.dbg` bit 0 set, clear, and with none. -/
theorem test_meets_traps : Meets [.trap f0, .sysc f0] (world []) (fun _ c => c.passing ≠ []) ∧
    Meets [.brk f0] (let s := world []; { s with dbg := 1 }) (fun _ c => c.passing ≠ []) ∧ (1 : Word).getLsbD 0 = true ∧
    Meets [.brk f0] (world []) (fun _ c => (world []).dbg.getLsbD 0 = false ∧ c.passing ≠ []) ∧
    Meets [.trap (off f0), .brk (off f0), .sysc (off f0)] (world []) (fun _ c => c.passing = []) :=
  ⟨meets (by decide +kernel), meets (by decide +kernel), by decide, meets (by decide +kernel), meets (by decide +kernel)⟩

/-- A record of the workgroup 7:0 parked at address 0x30000 of memory, read by another workgroup of the launch. -/
def recorded : State :=
  let s := worldOf { wg0 [(24, 0x30000)] with wgid := 5 } {}
  let parkedWg : Workgroup := { key := 9, launch := 7, core := 1, wgid := 6, fibres := [fibre0 0 []], parked := some { cls := 20 }, recordAt := some 0x30000 }
  { s with mem := pages ++ [(0x30008, 7), (0x3000C, 6)], wgs := s.wgs ++ [parkedWg] }

abbrev Found (s : State) : Instr → Ctx → Prop := fun _ c => c.passing ≠ [] ∧ ∀ x ∈ c.passing,
  (match s.recordOf c x with | .ok (found, _) => found.isSome | .error _ => false) = true

/-- SystemInstructionsComplete. -/
theorem test_meets_system : Meets [.csrr (fi 0x021), .csrw (fi 0x021), .csrs (fi 0x021), .csrc (fi 0x021)] (world []) (fun _ c => c.passing ≠ [] ∧
      csrListed (c.f.imm.toNat % 2 ^ 12) = true ∧ c.launch.privileged = true ∧ csrReadOnly (c.f.imm.toNat % 2 ^ 12) = false) ∧
    Meets [.frd f0, .fres { f0 with dst := 2 }, .fkill { f0 with dst := 2 }] recorded (Found recorded) ∧
    Meets [.frd f0, .fres { f0 with dst := 2 }, .fkill { f0 with dst := 2 }] (world []) (fun _ c => c.passing ≠ [] ∧ ∀ x ∈ c.passing,
      (match (world []).recordOf c x with | .ok (found, _) => found.isNone | .error _ => false) = true) ∧
    Meets [.csrr (off f0), .csrw (off f0), .csrs (off f0), .csrc (off f0), .frd (off f0), .fres { off f0 with dst := 2 }, .fkill { off f0 with dst := 2 }] (world [])
      (fun _ c => c.passing = []) :=
  ⟨meets (by decide +kernel), meets (by decide +kernel), meets (by decide +kernel), meets (by decide +kernel)⟩

/-- Group 0 is valid, its window 2 MiB; a job card at 0x40000 of one workgroup (R457). -/
def fabric : State :=
  let s := world [(40, 0x40000)]
  { s with groups := [(0, { ctl := 1 })], mem := pages ++ [(0x40010, 1)] }

abbrev CardRead (s : State) (code : Ctx → BitVec 9) : Ctx → Prop := fun c => c.passing ≠ [] ∧ ∀ x ∈ c.passing,
  (match (s.release c.core 4).readCard c x (src64 c x (code c)).toNat (code c) with | .ok _ => true | .error _ => false) = true

/-- CollectiveInstructionsComplete. -/
theorem test_meets_collective : Meets [.mldr (fi 0), .mldrF32 (fi 0), .msto (fi 0)] fabric (fun _ c => c.passing ≠ [] ∧ (fabric.group (c.f.imm.toNat % 256)).ctl.getLsbD 0 = true ∧
      c.collReady fabric = true ∧ ∀ y ∈ c.passing, (src32 c y c.f.srcA).toNat % 4 = 0 ∧ (src32 c y c.f.srcA).toNat + 4 ≤ (fabric.group (c.f.imm.toNat % 256)).len.toNat * 2 ^ 21) ∧
    Meets [.psend f0, .psendT f0] fabric (fun _ c => c.passing ≠ [] ∧ c.reserved ≠ 0 ∧ (fabric.core c.core).copyUsed c.wg.key < c.reserved ∧ c.collReady fabric = true ∧
      ∀ x ∈ c.passing, canonical (src64 c x c.f.srcA).toNat = true ∧ (src64 c x c.f.srcA).toNat % 64 = 0 ∧ canonical (src64 c x c.f.srcB).toNat = true ∧
        (src64 c x c.f.srcB).toNat % 16 = 0) ∧
    Meets [.lcarm f0] fabric (fun _ c => CardRead fabric (fun c => c.f.srcC) c ∧ ∀ x ∈ c.passing, (src32 c x c.f.srcA).toNat < 4096 ∧
      ((fabric.release c.core 4).counter (src32 c x c.f.srcA).toNat).armed = false ∧
      (let v := ((fabric.release c.core 4).counter (src32 c x c.f.srcA).toNat).value + (src32 c x c.f.srcB).toInt; -2 ^ 31 ≤ v ∧ v ≤ 2 ^ 31 - 1)) ∧
    Meets [.lcarmAdd f0] fabric (fun _ c => c.passing ≠ [] ∧ ∀ x ∈ c.passing, (src32 c x c.f.srcA).toNat < 4096 ∧
      (let v := ((fabric.release c.core 4).counter (src32 c x c.f.srcA).toNat).value + (src32 c x c.f.srcB).toInt; -2 ^ 31 ≤ v ∧ v ≤ 2 ^ 31 - 1)) ∧
    Meets [.twait f0, .twaitRel f0, .tread f0] fabric Any ∧
    Meets [.mldr (off f0), .mldrF32 (off f0), .msto (off f0), .psend (off f0), .psendT (off f0), .lcarm (off f0), .lcarmAdd (off f0)] fabric (fun _ c => c.passing = []) :=
  ⟨meets (by decide +kernel), meets (by decide +kernel), meets (by decide +kernel), meets (by decide +kernel), meets (by decide +kernel), meets (by decide +kernel)⟩

def carded : State :=
  let s := world [(24, 0x40000)]
  { s with mem := pages ++ [(0x40010, 1)] }

/-- A launch whose predecessor, launch 3, is not over. -/
def following (done : Bool) : State :=
  let s := world []
  { s with launches := [{ launch0 with predecessor := some 3 }, { lseq := 3, kind := .packet, done := done }] }

/-- LaunchInstructionsComplete. -/
theorem test_meets_launch : Meets [.task f0, .taskT f0] carded (fun _ c => c.passing ≠ [] ∧ ∀ x ∈ c.passing, (match c.taskCard x carded with
      | .ok (b, _) => carded.segmentRoom (cardKey b)
      | .error _ => false) = true) ∧
    Meets [.hints f0] (world []) (fun _ c => c.passing ≠ [] ∧ c.wg.hinted = false) ∧
    Meets [.hints f0] (worldOf { wg0 [] with hinted := true } {}) (fun _ c => c.passing ≠ [] ∧ c.wg.hinted = true) ∧
    Meets [.waitpred f0] (following false) (fun _ c => c.passing ≠ [] ∧ (following false).predIs c.launch (fun p => p.done) = false) ∧
    Meets [.waitpred f0] (following true) (fun _ c => c.passing ≠ [] ∧ (following true).predIs c.launch (fun p => p.done) = true) ∧
    Meets [.task (off f0), .taskT (off f0), .hints (off f0), .waitpred (off f0)] (world []) (fun _ c => c.passing = []) :=
  ⟨meets (by decide +kernel), meets (by decide +kernel), meets (by decide +kernel), meets (by decide +kernel), meets (by decide +kernel), meets (by decide +kernel)⟩

/-- A store-area workgroup of three fibres, the third saved and queued. -/
def queued (k : Core) : State := worldOf { wg0 [] with fibres := [fibre0 0 [], fibre0 1 [], { fibre0 2 [] with resident := false }], queue := [2], storeArea := some 0 } k

/-- A load that has been performed. -/
def performed : Load := { fibre := 0, dst := .regs 16, place := .scratch 0 0 1, width := 4, value := some (List.replicate 4 (7, false)) }

/-- CoreReturnsComplete: a load's data and a dirty line on core 0, a walk that ends in a leaf and one that does not, a line that may be entered and
one that may not; a page that is not installed, a line homed on another package. -/
theorem test_meets_returns :
    (((worldOf (wg0 []) { loads := [{ wg := 1, writes := [(0, 16, 5, false)] }] }).core 0).loads[0]?).any (fun p => decide (p.request = none) && p.loads.isEmpty && p.preds.isEmpty) = true ∧
    (((worldOf (wg0 []) { loads := [{ wg := 1, loads := [performed] }] }).core 0).loads[0]?).any (fun p =>
      decide (p.request = none ∧ p.loads = [performed]) && p.writes.isEmpty && p.preds.isEmpty && performed.value.isSome && decide (performed.dst = .regs 16)) = true ∧
    (let k := (worldOf (wg0 []) { l1 := (List.range 8).map (fun i => { line := 64 * i + 4, prio := 0 }) }).core 0
     (k.l1[7]?).any (fun l => k.l1Victim l.line = some l.line) && (k.l1[0]?).any (fun l => k.l1Victim l.line ≠ some l.line)) = true ∧
    (match (world []).walk 0 0 with | .ok leaf => paInstalled (leafPa leaf 0) | .error _ => false) = true ∧
    (match ({ world [] with mem := pages ++ [(0x12005, 1)] } : State).walk 0 0 with | .ok leaf => !paInstalled (leafPa leaf 0) | .error _ => false) = true ∧
    (let s := farther (world [])
     (s.wg? 1).any (fun w => (w.head slot0).any (fun x => !(s.lacking (.batch w.key x.index) (s.farCode launch0 x.pc).toList).isEmpty))) = true ∧
    ((coded []).wg? 1).any (fun w => (w.head slot0).any (fun x => ((coded []).lacking (.batch w.key x.index) ((coded []).farCode launch0 x.pc).toList).isEmpty)) = true ∧
    (match (world []).walk 1 0 with | .ok _ => false | .error _ => true) = true ∧
    ((coded []).wg? 1).any (fun w => (w.head slot0).any (fun x => match (coded []).fetchLine launch0 x.pc with
      | .ok b => (lineEntryFault w slot0 x (.ok b)).isNone
      | .error _ => false)) = true ∧
    (let s : State := { coded [] with mem := [(2, 2)] ++ pages }
     (s.wg? 1).any (fun w => (w.head slot0).any (fun x => (lineEntryFault w slot0 x (s.fetchLine launch0 x.pc)).isSome))) = true := by decide +kernel

/-- The same with a cap of two resident fibres, so that the third has no free context, and the two as given. -/
def crowded (a b : Fibre) (k : Core) : State :=
  let s := worldOf { wg0 [] with fibres := [a, b, { fibre0 2 [] with resident := false }], queue := [2], storeArea := some 0 } k
  { s with launches := [{ launch0 with kernel := some { kernel0 with cap := 2 } }], tide := 100000 }

/-- RotationAndWaitEventsComplete, EventsTakeEffect: a restore that can start; with no free context a fibre that waits, one that has yielded, and
two that run, longer than the quantum, of which the first is saved; a save and a restore under way; a spinning fibre. -/
theorem test_meets_rotation :
    (let idle := fun (s : State) => (s.wg? 1).any (fun w => decide (s.wg? w.key = some w) && w.parked.isNone && decide (w.preempt = .running) &&
       (s.core w.core).transfer.isNone && decide (w.queue = [2]) && (w.fibre? 2).isSome)
     let free := fun (s : State) => (s.wg? 1).any (fun w => (w.fibre? 2).any (s.freeContext w))
     let here := fun (z : Fibre) => z.resident && !z.leaving && z.pendV.isEmpty && z.pendP.isEmpty
     let s1 := crowded (fibre0 0 []) { fibre0 1 [] with wait := .twait } {}
     let s2 := crowded (fibre0 0 []) { fibre0 1 [] with yielded := true } {}
     let s3 := crowded (fibre0 0 []) (fibre0 1 []) {}
     let resident := fun (s : State) => (s.wg? 1).any (fun w => (w.fibre? 0).any here && (w.fibre? 1).any here && w.fibres.all (fun z => decide (z.index < 2) || !here z))
     idle (queued {}) && free (queued {}) && idle s1 && !free s1 && resident s1 && idle s2 && !free s2 && resident s2 && idle s3 && !free s3 && resident s3 &&
       decide (s3.tide.toNat ≥ 0 + max 16 (min 1024 (s3.core 0).quantum.toNat) * 1000) &&
       (s3.wg? 1).any (fun w => decide (s3.rotation w true = some { wg := 1, fibre := 0, save := true }))) = true ∧
    [true, false].all (fun save => (((queued { transfer := some { wg := 1, fibre := 2, save := save } }).core 0).transfer).any (fun tr =>
      decide (tr.save = save) && ((queued {}).recordLacks tr).isEmpty && ((queued {}).wg? tr.wg).any (fun w => (w.fibre? tr.fibre).any (fun x => x.stored.isNone)))) = true ∧
    (let s := farther (worldOf { wg0 [] with fibres := [{ fibre0 2 [] with resident := false, stored := some (0, List.replicate 16 0) }], storeArea := some 0 } {})
     s.recordLacks { wg := 1, fibre := 2, save := false }) ≠ [] ∧
    ((worldOf { wg0 [] with fibres := [{ fibre0 0 [] with wait := .spinning }] } {}).wg? 1).any (fun w => (w.fibre? 0).any (fun x => x.wait = .spinning)) = true := by
  decide +kernel

/-- One fibre in a wait. -/
def asleep (x : Fibre) (k : Core) : State := worldOf { wg0 [] with fibres := [x] } k

/-- RotationAndWaitEventsComplete, EventsTakeEffect: a `WAITW` whose word has changed, one whose deadline has passed, one that waits on, an `SWWAIT`
at 0 and at 1, a `TWAIT` at its target. -/
theorem test_meets_waits :
    [((5 : Nat), (2 : Nat) ^ 64, false, false), (0, 0, true, true), (0, 2 ^ 64, true, false)].all (fun e =>
      let f := { fp with srcC := 40 }
      let x := { fibre0 0 [] with wait := .waitw, waitFields := some f, waitValue := e.1, deadline := e.2.1 }
      let s := asleep x {}
      (s.wg? 1).any (fun w => let c := Ctx.waiting s w x (if x.deadline = 2 ^ 64 then 0x109 else 0x10A) f
        (c.accessFault s (f.mods.toNat % 4) 4 1 x).isNone &&
          (match s.place w.core w c.kernel (f.mods.toNat % 4) c.launch.space x.waitKey 4 1 with
            | .ok p => !s.needsFar w.core (f.mods.toNat / 4 % 8) 4 p &&
              decide (ofBytes (s.readAt w.core 0 (f.mods.toNat / 4 % 8) p 4).1.1 = x.waitValue) == e.2.2.1
            | .error _ => false) &&
          decide (x.watch.any (fun e => e.2) = true ∨ s.tide.toNat ≥ x.deadline) == e.2.2.2)) = true ∧
    (let s := asleep { fibre0 0 [] with wait := .waitw, waitFields := some fp } {}
     let s : State := { s with mem := pages ++ [(0x12005, 2)] }
     (s.wg? 1).any (fun w => (w.fibre? 0).any (fun x =>
       match s.place w.core w kernel0 0 0 x.waitKey 4 1 with | .ok (.home pa a) => s.needsFar w.core 0 4 (.home pa a) && !x.polled | _ => false))) = true ∧
    ((asleep { fibre0 0 [] with wait := .swwait } {}).syncRead 0 0).count = 0 ∧
    ((asleep { fibre0 0 [] with wait := .swwait } { scratch := [(0, 1)] }).syncRead 0 0).count ≠ 0 ∧
    ((asleep { fibre0 0 [] with wait := .twait } {}).wg? 1).any (fun w => (w.fibre? 0).any (fun x => decide (x.wait = .twait) &&
      decide (x.deadline ≤ (asleep x {}).tide.toNat))) = true := by decide +kernel

/-- RotationAndWaitEventsComplete, EventsTakeEffect: a request at the barrier unit, of a home warp with no held fault and of one with one. -/
theorem test_meets_barrier_unit : (let r : BarrierRequest := { op := .arrive, wg := 1, hwarp := 0, pc := 0, lanes := [(0, 0, 1)], fields := f0, scopeDone := 0 }
    let at' := fun (s : State) (held : Bool) => let s : State := { s with barrierQ := [r] }
      (s.barrierQ[0]?).any (fun r => (s.wg? r.wg).any (fun w => (s.launch? w.launch).isSome && w.parked.isNone && (w.refused? r).isSome == held))
    at' (world []) false && at' holding true) = true := by decide +kernel

def copyEntry0 : CopyEntry := { entry := 3, id := 1, kind := .ld, wg := 1, issuer := 0, cls := 0, fibre := 0, pc := 0, a := 0, b := [0, 0, 0, 0], c := 0, imm := 0 }
def easelEntry0 : EaselEntry := { entry := 2, id := 1, kind := .mzero, wg := 1, issuer := 0, cls := 2, fibre := 0, pc := 0, imm := 1 }
def engines (finished : Bool) : State := worldOf tiled { copyQ := [{ copyEntry0 with finished := finished }], easelQ := [easelEntry0] }

/-- EngineEventsComplete. -/
theorem test_meets_engines :
    (((engines false).core 0).copyQ.find? (fun e => e.entry = 3)).any (fun e => (engines false).entryProceeds 0 e && ((engines false).wg? e.wg).isSome) = true ∧
    (((engines true).core 0).copyQ.find? (fun e => decide (e.entry = 3) && (engines true).copyFinished e)).any (fun e => ((engines true).wg? e.wg).isSome) = true ∧
    ((engines false).core 0).easelUnit = none ∧ ((engines false).easelNext 0).any (fun e => ((engines false).wg? e.wg).any (fun w => (e.nextStep w).isSome)) = true ∧
    (let u : EaselUnit := { entry := 2, step := 0 }
     (((engines false).core 0).easelQ.find? (fun e => e.entry = u.entry)).isSome && u.fault.isNone) = true := by decide +kernel

/-- A workgroup with a record at 0x30000, named by the host's CSRs. -/
def serviced : State :=
  let s := worldOf { wg0 [] with wgid := 6, parked := some { cls := 20 }, recordAt := some 0x30000 } {}
  { s with mem := pages ++ [(0x30008, 7), (0x3000C, 6)], hostCsr := { fres := 0x30000, pwg := 7, pwgid := 6 }, records := [({ cls := 20 }, 7, 6, 0, 1)] }

/-- FaultAndPreemptionServiceCompletes: a record and room in the ring, a stalled workgroup, a parked one and none at `csr.fres`, a CSR write. -/
theorem test_meets_service : serviced.records ≠ [] ∧ serviced.ringEntry.isSome = true ∧ serviced.handlerLacks 1 20 = [] ∧ (Sparse.get 0 serviced.fvec 20).getLsbD 0 = false ∧
    (let s : State := { farther serviced with fvec := [(20, 1)] }
     s.ringEntry.isSome = true ∧ s.handlerLacks 1 20 ≠ [] ∧ (Sparse.get 0 s.fvec 20).getLsbD 0 = true) ∧ (serviced.parkedVa (serviced.agent .host).fres.toNat).isSome = true ∧
    ((world []).parkedVa ((world []).agent .host).fres.toNat) = none ∧
    (let s := world []
     let s : State := { s with tide := 1000000000 }
     (s.wg? 1).any s.stalled) = true ∧
    csrReadOnly 0x021 = false ∧ csrInRange 0x021 1000 = true ∧ csrInRange 0x012 65536 = true ∧ csrInRange 0x012 16 = true := by decide +kernel

/-- FaultAndPreemptionServiceCompletes: targets that run, drain to a save, are saved, and none; the way count at both ends of its range. -/
theorem test_meets_preemption : (serviced.preemptTarget .host).any (fun w => decide (w.preempt = .running) && w.parked.isSome) = true ∧
    (world []).preemptTarget .host = none ∧
    (let s := worldOf { wg0 [] with preempt := .saving } {}
     (s.wg? 1).any (fun w => decide (w.preempt = .saving) && s.saveReady w)) = true ∧
    (let s := worldOf { wg0 [] with preempt := .saved } {}
     let s : State := { s with hostCsr := { pwg := 7 } }
     (s.preemptTarget .host).any (fun w => w.preempt = .saved)) = true ∧
    (1 : Word) ≠ 0 ∧ (8 : Word).toNat ≤ 8 ∧ (0x100 : Word).getLsbD 8 = true ∧ (0x100 : Word).getLsbD 9 = false := by decide +kernel

def packet0 : Packet := { header := 0, payload := [], die := 0, order := 0 }
def segment0 : Segment := { seq := 0, offset := 0, last := true, bytes := [], since := 0, order := 0, entry := [] }
def peer0 : Peer :=
  { entry := List.replicate 8 0, valid := true, up := true, rxKeys := [(List.replicate 32 0, 4)], txKeys := [(List.replicate 32 0, 1)], unacked := [segment0], sinceSack := 1 }
def multi0 : MultiOp :=
  { id := 5, wg := 1, issuer := 0, load := true, width := 4, group := 0, members := [0], lanes := [(0, 0, 0)], dst := 16, statusPred := none, since := 0 }
def connected : State := { world [] with packets := [packet0], peers := [(0, peer0)], tide := 50000000, multi := [multi0] }

/-- FabricEventsComplete, EventsTakeEffect: a packet that goes, an operation silent for 2 microseconds, Cove room, an address served, and a peer whose
timers have run out. -/
theorem test_meets_fabric : (connected.packets[0]?).any connected.packetGoes = true ∧
    (∀ m ∈ connected.multi, m.id = 5 → m.sent = true ∧ connected.tide.toNat ≥ m.since + 2000) ∧
    (connected.multi = [multi0] ∧ multi0.load = true ∧ multi0.sent = true ∧ multi0.answers = none ∧ multi0.members.length = 1 ∧ multi0.lanes ≠ [] ∧
      connected.requests = [] ∧ connected.ownLacks multi0 = []) ∧
    (connected.multi.find? (fun m => m.id = 5)).isSome = true ∧ connected.linksDown = false ∧ (31 : Nat) < 32 ∧
    (let a : BarrierAsk := { op := .query, package := 1, core := 0, wgid := 0, scopeDone := 0, lanes := [], living := [] }
     a.package ≠ Config.package) ∧
    servedHere 0 64 = true ∧ servedHere (Config.hbmBytes - 64) 64 = true ∧
    connected.coveRoom (List.replicate 64 0) = true ∧ (connected.peer 0).sinceSack > 0 ∧ connected.tide.toNat ≥ (connected.peer 0).lastSack + 16000 ∧
    (connected.peer 0).txKeys ≠ [] ∧ (connected.peer 0).up = true ∧ (connected.peer 0).unacked ≠ [] ∧
    connected.tide.toNat ≥ (connected.peer 0).lastAck + 50000000 := by decide +kernel

/-- FabricEventsComplete, EventsTakeEffect: a group whose window, at 0, can be read and written, here and on another package, and an operation of this
package that has been served. -/
theorem test_meets_window : (fabric.windowRead (fabric.group 0) 0 4 1).isSome = true ∧ fabric.linksDown = false ∧ fabric.windowLacks (.member 2) (fabric.group 0) 0 4 1 = [] ∧
    (fabric.windowWrite (fabric.group 0) 0 4 [1, 2, 3, 4] []).any (fun u => (u.openStores.filter (fun n => decide (2 < n))).isEmpty) = true ∧
    (fabric.windowWrite (fabric.group 1) 0 4 [1, 2, 3, 4] []).isNone = true ∧
    (let s : State := { farther fabric with nextKey := 3 }
     s.windowLacks (.member 2) (s.group 0) 0 4 1 ≠ [] ∧ s.serving = [] ∧
     (s.windowWrite (s.group 0) 0 4 [1, 2, 3, 4] []).any (fun u => !(u.openStores.filter (fun n => decide (2 < n))).isEmpty && u.serving.isEmpty) = true) ∧
    (let s : State := { fabric with multi := [{ multi0 with own := [(0, .data 7)] }] }
     ((s.serveMember 5).multi.find? (fun n => n.id = 5)).any (fun n => !n.own.isEmpty && n.acks.isEmpty) = true) := by decide +kernel

/-- FabricEventsComplete, EventsTakeEffect: a frame at the first number expected, and one below it, just above the last packet number. -/
theorem test_meets_frames_in : (let head : StrandHead := { port := 0, mac := List.replicate 6 0, etherType := 0x88B5, peer := 0, association := 0, packetNumber := 5, checkPasses := true }
    let frame : StrandFrame := { head := head, seq := 0, offset := 0, last := false, bytes := [1] }
    let ahead : State := { connected with peers := [(0, { peer0 with expected := 1 })] }
    decide (head.mac = entryMac (connected.peer 0).entry) && connected.frameGood head && connected.frameFits frame && ahead.frameGood head && ahead.frameFits frame &&
      (connected.peer 0).rxKeys[head.association]? == some (List.replicate 32 0, 4) &&
      decide (seqNear (connected.peer 0).expected frame.seq = (connected.peer 0).expected) && (connected.peer 0).received.isEmpty &&
      decide (seqNear (ahead.peer 0).expected frame.seq < (ahead.peer 0).expected)) = true := by
  decide +kernel

/-- A queue table at 0x50000 with queue 0 enabled, of 16 entries, one packet placed. -/
def notified (flags : Byte) : State :=
  let s := world []
  { s with queueBase := 0x50000, queueCount := 1, mem := pages ++ [(0x50008, flags)] }

/-- LaunchEventsComplete, EventsTakeEffect: a queue that accepts and one that is not enabled; a launch with a workgroup to admit; a workgroup over with
and without a deferred fault; a job and a launch over. -/
theorem test_meets_launch_events :
    (let s := notified 0x40
     s.ready && decide (s.lifeCycle = .deployed) && decide (0 < s.queueCount.toNat) && decide (s.queueField 0 24 1 % 2 = 0) &&
       decide (s.queueField 0 8 1 % 16 < 13) && decide (s.queueField 0 8 1 / 64 % 2 = 1) &&
       decide ((1 + 2 ^ 32 - s.queueField 0 16 4) % 2 ^ 32 ≤ 2 ^ (0 + 4))) = true ∧
    ((notified 0).queueField 0 24 1 % 2 = 0 ∧ (notified 0).queueField 0 8 1 / 64 % 2 = 0) ∧
    (let s : State := { world [] with launches := [{ launch0 with gridX := 2, gridY := 1, gridZ := 1 }] }
     s.promote.restorable.isNone && s.promote.chosen.isSome) = true ∧
    (let s := worldOf { wg0 [] with fibres := [] } {}
     (s.wg? 1).any (fun w => s.wgDone w && w.deferred.isEmpty)) = true ∧
    (let s := worldOf { wg0 [] with fibres := [], deferred := [{ issuer := 0, cls := 15, info := { cls := 15 }, entry := none }] } {}
     (s.wg? 1).any (fun w => s.wgDone w && !w.deferred.isEmpty)) = true ∧
    (world []).jobOver { launch0 with kind := .job, ended := 1 } = true ∧ (world []).launchOver { launch0 with ended := 1 } = true := by decide +kernel

/-- LaunchEventsComplete: a core of the card's die takes its chunk. -/
theorem test_meets_chunk : (let s := world []
    let job : Launch := { launch0 with lseq := 9, kind := .job, gridX := 4, rejected := true }
    let s : State := { s with launches := [launch0, job], segments := [(0, [{ lseq := 9, start := 0, next := 0, total := 4 }])] }
    s.mayTake 1 0) = true := by decide +kernel

/-- HostAndManagementComplete: addresses inside and beyond the host's reach, memory active and not, recovery and none, the last peer and the last
port. -/
theorem test_meets_host : hostReaches 0 64 = true ∧ hostReaches (2 ^ 51) 128 = true ∧ hostReaches (3 * 2 ^ 50) 1 = false ∧ (world []).memActive = true ∧ paTier (2 ^ 51) = 2 ∧
    (¬ (({ State.reset with memActive := false } : State).memActive = true ∨ paTier 0 = 2)) ∧ (63 : Byte).toNat < 64 ∧ (1 : Byte).toNat < 2 ∧
    (List.replicate 32 (0 : Byte)).length = 32 ∧ 0 < Config.dies ∧ (world []).recovery = false ∧ ({ State.reset with recovery := true } : State).recovery = true ∧
    (let e : List Byte := [0, 7, 0, 0, 0, 0, 0, 0]
     e.length ≥ 8 ∧ entryPort e ≤ 7) := by decide +kernel

/-- ResetsAndUpkeepComplete, EventsTakeEffect: a reset with a life-cycle step pending and with none, an image that loads and one that is too old, a
wipe under way with the device ready and not, a step to take, and a byte with an error that correction does not mend. -/
theorem test_meets_resets : State.reset.lifeCyclePending = none ∧ State.reset.wiping = false ∧ State.reset.startWipe.lifeCyclePending = none ∧
    State.reset.startWipe.wiping = true ∧ ({ State.reset with lifeCyclePending := some .returned } : State).lifeCyclePending = some .returned ∧
    ({ State.reset with wiping := true, ready := false } : State).wiping = true ∧ State.reset.untimed = false ∧ ({ State.reset with untimed := true, ready := false } : State).untimed = true ∧
    ({ State.reset with lifeCycle := .manufacture, identityKey := false } : State).identityKey = false ∧ State.reset.nextLife = some .returned ∧ State.reset.recovery = false ∧
    State.reset.lifeCycle = .deployed ∧
    (let f := State.reset.firmware
     f.verifies = true ∧ f.version ≥ State.reset.rollback ∧ f.permits.contains LifeCycle.deployed.code = true ∧ f.permits.contains LifeCycle.returned.code = true) ∧
    State.reset.flash.headD State.reset.firmware = State.reset.firmware ∧
    (let s : State := { State.reset with rollback := 1, flash := [{ verifies := true, version := 0, permits := [2] }] }
     ¬ (s.flash.headD s.firmware).version ≥ s.rollback) ∧
    servedHere 0x40000 1 = true ∧ Sparse.get 0 (world []).compCodes (0x40000 / 256) = 0 ∧ (0x40000 / 4 : Nat) / 8 = 0x40000 / 32 := by decide +kernel

/-- SequentialFlow: slots 3 and 4, the last line below the sign bits, and a line whose checks pass. -/
theorem test_meets_flow : pcLegal 3 = true ∧ pcSlot 3 < 4 ∧ pcLegal 4 = true ∧ pcSlot 4 = 4 ∧ pcLegal 0xFFFFFFFFFFFFFFC4 = true ∧
    (lineFault (lineOf 0x058000000000000000000000)).isNone = true := by decide +kernel

/-- NonCanonicalAddressFaults: the first address that is not canonical, and the one below it. -/
theorem test_meets_canonical : canonical (2 ^ 56) = false ∧ canonical (2 ^ 56 - 1) = true ∧ canonical (2 ^ 64 - 1) = true ∧ 2 ^ 64 - 1 < 2 ^ 64 := by decide

/-- LittleEndian, OperandsRead: the last pair of registers, the last constant codes. -/
theorem test_meets_operands : (0x0EE : BitVec 9).toNat % 2 = 0 ∧ (0x0EE : BitVec 9).toNat < 0x0F0 ∧ (fibre0 0 []).early = [] ∧ 0x0F0 ≤ (0x0F0 : BitVec 9).toNat := by decide

/-- IllegalFormsPark: an illegal opcode, an illegal operand, a partition under compat16, a `TZIP` without its brush's registers, and a word after `ORD`. -/
theorem test_meets_illegal : ((Ctx.of? (world []) 0x42 { fp with mods := 6 }).bind (fun c => checkIssue 0x42 (.icmp { fp with mods := 6 } .v) c)).any (fun e => e.cls = 1) = true ∧
    ((Ctx.of? (world []) 0x11 { f0 with srcA := 25 }).bind (fun c => checkIssue 0x11 (.alu64 4) c)).any (fun e => e.cls = 5) = true ∧
    ((Ctx.of? (world []) 0xA0 f0).bind (fun c => checkIssue 0xA0 { Shape.part f0 with badOpcode := true } c)).any (fun e => e.cls = 1) = true ∧
    ((Ctx.of? tileWorld 0x144 { f0 with srcB := 238 }).bind (fun c => checkIssue 0x144 (.tzip { f0 with srcB := 238 } (c.handleBrush.any (fun b => b.arity = 1))) c)).any
      (fun e => e.cls = 5) = true ∧
    (let s := world []
     let s : State := { s with issue := some { core := 0, slot := 0, ord := some (3, 2) } }
     (Ctx.of? s 0x10 f0).any (fun c => c.ord.isSome && !prefixable 0x10)) = true := by decide +kernel

/-- FaultParksItsWorkgroup, KillEndsTheWorkgroup: a workgroup that runs, one that is parked, and their launch. -/
theorem test_meets_park : ((world []).wg? 1).any (fun w => w.parked.isNone && ((world []).launch? w.launch).isSome) = true ∧
    (serviced.wg? 1).any (fun w => w.parked.isSome) = true := by decide +kernel

/-- ResumptionGoesOn: a `SYSC` at slot 0. -/
theorem test_meets_resumption : (let e : FaultInfo := { cls := 20, lanes := [0, 1], parts := [0, 1], dst := 16 }
    let s := worldOf { wg0 [] with parked := some e } {}
    (s.wg? 1).any (fun w => decide (w.parked = some e) && (w.fibre? 0).any (fun x => x.pc = e.pc && x.index = 0) && !e.deferred && e.site.isNone && e.span = 1 &&
      e.retry.isNone && e.reach.isNone && decide (e.cls ≠ 16) && w.deferred.isEmpty && w.fibres.all (fun y => y.wait ≠ .waitc))) = true := by decide +kernel

/-- StepRunsTheDecodedInstruction: after reset, with the word of `NOP` placed, the one act is the issue of its batch. -/
theorem test_meets_step : (let s := State.reset.withFetchWord 96 0x058000000000000000000000
    match s.choose with
    | some (.issue k n) => ((s.core k).slots.find? (fun z => z.id = n)).any (fun sl => (s.wg? sl.wg).any (fun w => (w.head sl).any (fun x =>
        (sl.current x).any (fun line => match planOf line x.pc with
          | .single m => (match decodeWord m.bits with
            | .ok i => (match exec i (((s.issuing k sl).loadsTaken k w.key sl.lanes [m]).readying w.key sl.lanes m) with | .next _ => true | _ => false)
            | .error _ => false)
          | _ => false))))
    | _ => false) = true := by decide +kernel

/-! One step each, with results worked out by hand from the rules. -/

/-- What the workgroup is after an instruction. -/
def leaves (i : Instr) (s : State) (p : Workgroup → Bool) : Bool := match nextOf (exec i s) with | some t => (t.wg? 1).any p | none => false

/-- A register of fibre `n`. -/
def holds (n r : Nat) (v : Word) (w : Workgroup) : Bool := (w.fibre? n).any (fun x => Sparse.get 0 x.regs r = v)

/-- R95, R25: a sum wraps in every lane, and the batch moves to slot 1. -/
theorem test_iadd_wraps : leaves (.iadd f0) (world [(24, 0xFFFFFFFF), (32, 2)]) (fun w => holds 0 16 1 w && holds 1 16 1 w && w.fibres.all (fun x => x.pc = 1)) = true := by
  decide +kernel

/-- R95: the signed sum is capped, the unsigned one with `.U`. -/
theorem test_iaddSat_caps : leaves (.iaddSat f0) (world [(24, 0x7FFFFFFF), (32, 1)]) (holds 0 16 0x7FFFFFFF) = true ∧
    leaves (.iaddSat (fm 1)) (world [(24, 0xFFFFFFFF), (32, 1)]) (holds 0 16 0xFFFFFFFF) = true := by decide +kernel

/-- R96: a borrow goes to the predicate of modifier bits [4:1]. -/
theorem test_isubX_borrows : leaves (.isubX (fm 6)) (world [(32, 1)]) (fun w => holds 0 16 0xFFFFFFFF w && (w.fibre? 0).any (fun x => x.pred 3)) = true := by decide +kernel

/-- R97: the high word of a signed product. -/
theorem test_imulHiS_signs : leaves (.imulHiS f0) (world [(24, 0xFFFFFFFF), (32, 1)]) (holds 0 16 0xFFFFFFFF) = true := by decide +kernel

/-- R99: a shift by the width gives 0, and with `.W` the operand. -/
theorem test_shl_by_width : leaves (.shl f0) (world [(24, 5), (32, 32)]) (holds 0 16 0) = true ∧ leaves (.shl (fm 1)) (world [(24, 5), (32, 32)]) (holds 0 16 5) = true := by
  decide +kernel

/-- R100: the table 0x96 is the exclusive or of three. -/
theorem test_tern_parity : leaves (.tern (fi 0x96)) (world [(24, 0xC), (32, 0xA), (40, 0x9)]) (holds 0 16 0xF) = true := by decide +kernel

/-- R31: a lane whose guard fails is not written and moves on. -/
theorem test_guard_off : leaves (.iadd (off f0)) (world [(16, 7), (24, 1)]) (fun w => holds 0 16 7 w && w.fibres.all (fun x => x.pc = 1)) = true := by decide +kernel

/-- R34: a write to `vz` is discarded. -/
theorem test_vz_discards : leaves (.iadd { f0 with dst := 0x0F0 }) (world [(24, 1)]) (fun w => w.fibres.all (fun x => x.regs = [(24, 1)])) = true := by decide +kernel

/-- R146: 1 + 1 = 2, with no flag; R117: 1 + 2^-24 is inexact and rounds to 1. -/
theorem test_fadd : leaves (.fadd f0) (world [(24, 0x3F800000), (32, 0x3F800000)]) (fun w => holds 0 16 0x40000000 w && decide (w.fflags = 0)) = true ∧
    leaves (.fadd f0) (world [(24, 0x3F800000), (32, 0x33800000)]) (fun w => holds 0 16 0x3F800000 w && decide (w.fflags ≠ 0)) = true := by decide +kernel

/-- R146: one rounding of 2 times 3 plus 1. -/
theorem test_fmac : leaves (.fmac f0) (world [(24, 0x40000000), (32, 0x40400000), (40, 0x3F800000)]) (holds 0 16 0x40E00000) = true := by decide +kernel

/-- R126: 1.0 to FP16. -/
theorem test_cvtDn : leaves (.cvtDn (fi 0x20)) (world [(24, 0x3F800000)]) (holds 0 16 0x3C00) = true := by decide +kernel

/-- R169: each lane reads the lane that its source B names. -/
theorem test_xlnFlip : leaves (.xlnFlip (fi 3)) (worldOf { wg0 [] with fibres := [fibre0 0 [(24, 7), (32, 1)], fibre0 1 [(24, 9), (32, 1)]] } {})
    (fun w => holds 0 16 9 w && holds 1 16 7 w) = true := by decide +kernel

/-- R171: a sum over the batch. -/
theorem test_lred_sums : leaves (.lred (fi 3)) (worldOf { wg0 [] with fibres := [fibre0 0 [(24, 7)], fibre0 1 [(24, 9)]] } {})
    (fun w => holds 0 16 16 w && holds 1 16 16 w) = true := by decide +kernel

/-- R78: a branch to slot 0 of the line. -/
theorem test_bra : leaves (.bra f0) (coded []) (fun w => w.fibres.all (fun x => x.pc = 0)) = true := by decide +kernel

/-- R24, R384: a branch to an unmarked slot parks the workgroup with class 4. -/
theorem test_bra_unmarked : leaves (.bra (fi 1)) (coded []) (fun w => w.parked.any (fun e => e.cls = 4) && w.fibres.all (fun x => x.pc = 0)) = true := by decide +kernel

/-- R205: the bytes of a stored word, low byte first. -/
theorem test_stS_bytes : (match nextOf (exec (.stS (fm 2)) (solo [(32, 0x04030201)])) with | some t => (t.core 0).scratch | none => []) =
    [(0, 1), (1, 2), (2, 3), (3, 4)] := by decide +kernel

/-- R204: a loaded word comes back on LOAD_DATA_RETURN. -/
theorem test_load_returns : leaves (.loadDataReturn 0 0) (worldOf (wg0 []) { loads := [{ wg := 1, writes := [(1, 16, 5, false)] }] }) (holds 1 16 5) = true := by decide +kernel

/-- R203: a misaligned word access parks the workgroup with class 9. -/
theorem test_ldS_misaligned : leaves (.ldS (fm 2)) (world [(24, 2)]) (fun w => w.parked.any (fun e => e.cls = 9)) = true := by decide +kernel

/-- R241: two lanes add 3 and 4 to one word, and the second sees the first. -/
theorem test_atomAdd : (match nextOf (exec (.atomAdd (fm 1)) (worldOf { wg0 [] with fibres := [fibre0 0 [(32, 3)], fibre0 1 [(32, 4)]] } {})) with
    | some t => decide ((t.core 0).scratch = [(0, 7)]) && (t.core 0).loads.any (fun p => p.writes = [(0, 16, 0, false), (1, 16, 3, false)])
    | none => false) = true := by decide +kernel

/-- R404: `TRAP` parks with class 18 and its code in the record's body. -/
theorem test_trap : leaves (.trap (fi 0xBEEF)) (world []) (fun w => w.parked.any (fun e => e.cls = 18 && e.body / 2 ^ 64 % 2 ^ 16 = 0xBEEF)) = true := by decide +kernel

/-- R307: a `SEAL` with nothing to seal answers -1. -/
theorem test_seal_empty : leaves (.seal f0) (world []) (holds 0 16 0xFFFFFFFF) = true := by decide +kernel

/-- R337: `SCLM.TRY` of slots 0 and 1. -/
theorem test_sclmTry : leaves (.sclmTry { fp with srcB := 32 }) (world [(32, 3)])
    (fun w => w.slotFlags.map (fun f => f.claimed) = [true, true, false, false, false, false, false, false] && w.fibres.all (fun x => x.pred 2)) = true := by decide +kernel

/-- R424: a counter raised by 5. -/
theorem test_lcarmAdd : (match nextOf (exec (.lcarmAdd f0) (world [(24, 4095), (32, 5)])) with | some t => (t.counter 4095).value | none => 0) = 5 := by decide +kernel

/-- R405: `CSRW` of `csr.wdog`. -/
theorem test_csrw : (match nextOf (exec (.csrw (fi 0x021)) (world [(32, 250)])) with | some t => t.wdog | none => 0) = 250 := by decide +kernel

/-- R257: the record of fibre 2, saved in a `TWAIT`: PC, predicates, allotment, state and index, then v0. -/
theorem test_record : (let x : Fibre := { fibre0 2 [(0, 0x01020304)] with pc := 0x85, preds := 3, allot := 16, resident := false, wait := .twait }
    let s := worldOf { wg0 [] with fibres := [x], storeArea := some 0 } {}
    let t := ({ s with launches := [{ launch0 with storeArea := 512 }] } : State).storeRecords
    decide ((t.mem.filter (fun e => e.1 < 512)) = [(0, 0x85), (8, 3), (10, 1), (11, 0x28), (16, 4), (17, 3), (18, 2), (19, 1)])) = true := by decide +kernel

/-- R461: `HINTS` counts its workgroup. -/
theorem test_hints : (match nextOf (exec (.hints f0) (world [])) with | some t => (t.launch? 7).any (fun l => l.hinted = 1) | none => false) = true := by decide +kernel

/-- R384, R60: an unassigned modifier parks the workgroup with class 1 and writes nothing. -/
theorem test_illegal_parks : leaves (.iadd (fm 1)) (world [(24, 1)]) (fun w => w.parked.any (fun e => e.cls = 1) && holds 0 16 0 w) = true := by decide +kernel

/-- R18: the Tide never goes back. -/
theorem test_tide : (match nextOf (exec (.tideSynchronisation 5) ({ State.reset with tide := 9 })) with | some t => t.tide | none => 0) = 9 := by decide +kernel

/-- R71, log 5: the first step after reset runs the word placed. -/
theorem test_step_runs : (match nextOf (step (State.reset.withFetchWord 96 0x080000402612000000000000)) with
    | some t => t.wgs.any (fun w => w.fibres.all (fun x => x.pc = 1) && w.fibres.any (fun x => Sparse.get 0 x.regs 8 = 1))
    | none => false) = true := by decide +kernel

end Sys2Proof.Tests

end
end

section
/-! The byte order of R3: a little-endian number of memory by its bytes and by its halves, what a vector register reads as after a register is
written, and the pair that a 64-bit operand names. -/

namespace Sys2Proof.Machine

/-! Numbers in memory. -/

theorem Bytes.readN_lt (m : Bytes) (a n : Nat) : m.readN a n < 256 ^ n := by
  induction n generalizing a with
  | zero => simp [Bytes.readN]
  | succ n ih =>
    have hlow := (Sparse.get 0 m a).isLt
    have hhigh := ih (a + 1)
    rw [Bytes.readN, pow_succ]
    omega

theorem Bytes.readN_add (m : Bytes) (a k n : Nat) : m.readN a (k + n) = m.readN a k + m.readN (a + k) n * 256 ^ k := by
  induction k generalizing a with
  | zero => simp [Bytes.readN]
  | succ k ih =>
    calc m.readN a (k + 1 + n)
        = (Sparse.get 0 m a).toNat + 256 * m.readN (a + 1) (k + n) := by rw [Nat.add_right_comm, Bytes.readN]
      _ = m.readN a (k + 1) + m.readN (a + (k + 1)) n * 256 ^ (k + 1) := by
          rw [ih, Bytes.readN, Nat.add_comm k 1, ← Nat.add_assoc]; ring

/-- Byte `j` of a little-endian number is the byte `j` places up: the bytes below it are less than `256 ^ j`, those above multiples of 256. -/
theorem Bytes.readN_div_mod (m : Bytes) (a : Nat) {j n : Nat} (h : j < n) : m.readN a n / 256 ^ j % 256 = (Sparse.get 0 m (a + j)).toNat := by
  obtain ⟨k, rfl⟩ := Nat.exists_eq_add_of_lt h
  rw [Nat.add_assoc, Bytes.readN_add, Nat.add_mul_div_right _ _ (by positivity), Nat.div_eq_of_lt (m.readN_lt a j), Nat.zero_add, Bytes.readN,
    Nat.add_mul_mod_self_left, Nat.mod_eq_of_lt (Sparse.get 0 m (a + j)).isLt]

theorem Bytes.word_toNat (m : Bytes) (a : Nat) : (m.word a).toNat = m.readN a 4 :=
  Nat.mod_eq_of_lt (m.readN_lt a 4)

theorem Bytes.dword_toNat (m : Bytes) (a : Nat) : (m.dword a).toNat = m.readN a 8 :=
  Nat.mod_eq_of_lt (m.readN_lt a 8)

/-- R3: byte `j` of a word of memory. -/
theorem Bytes.word_byte (m : Bytes) (a : Nat) {j : Nat} (h : j < 4) : (m.word a).toNat / 2 ^ (8 * j) % 256 = (Sparse.get 0 m (a + j)).toNat := by
  rw [Bytes.word_toNat, pow_mul]
  exact m.readN_div_mod a h

/-- R3: the low half of a 64-bit value of memory is the word at the lower address. -/
theorem Bytes.dword_eq_words (m : Bytes) (a : Nat) : (m.dword a).toNat = (m.word a).toNat + (m.word (a + 4)).toNat * 2 ^ 32 := by
  rw [Bytes.dword_toNat, Bytes.word_toNat, Bytes.word_toNat]
  exact m.readN_add a 4 4

/-! Registers. -/

/-- Where no result is on its way (R43), a register reads as it stands. -/
theorem Fibre.reg_of_early_nil {x : Fibre} (h : x.early = []) (n : Nat) : x.reg n = Sparse.get 0 x.regs n := by
  simp [Fibre.reg, h]

theorem Fibre.reg_setReg_same {x : Fibre} (h : x.early = []) (n : Nat) (v : Word) : (x.setReg n v).reg n = v := by
  rw [Fibre.reg_of_early_nil (x := x.setReg n v) h]
  exact Sparse.get_set_same ..

theorem Fibre.reg_setReg_ne {x : Fibre} (h : x.early = []) {n k : Nat} (v : Word) (hk : k ≠ n) : (x.setReg n v).reg k = x.reg k := by
  rw [Fibre.reg_of_early_nil (x := x.setReg n v) h, Fibre.reg_of_early_nil h]
  exact Sparse.get_set_ne _ _ _ hk

theorem Fibre.set64_of_lt (x : Fibre) {code : BitVec 9} (h : code.toNat < 0x0F0) (v : DWord) :
    x.set64 code v = (x.setReg code.toNat (loWord v)).setReg (code.toNat + 1) (hiWord v) := if_pos h

/-- R34: operand codes 0 to 239 name the vector registers. -/
theorem src32_of_lt (c : Ctx) (x : Fibre) {code : BitVec 9} (h : code.toNat < 0x0F0) : src32 c x code = x.reg code.toNat := if_pos h

/-- R35: a pair of vector registers joined, the even register its low half. -/
theorem src64_of_lt (c : Ctx) (x : Fibre) {code : BitVec 9} (h : code.toNat < 0x0F0) :
    src64 c x code = joinWords (src32 c x code) (src32 c x (code + 1)) := by
  have hconst : ¬ (0x100 ≤ code.toNat ∧ code.toNat < 0x140) := by omega
  have hvz : code.toNat ≠ 0x0F0 := by omega
  simp only [src64, src64With, if_neg hconst, if_neg hvz]

theorem operandCode_succ_toNat {code : BitVec 9} (h : code.toNat < 0x0F0) : (code + 1).toNat = code.toNat + 1 := by
  bv_omega

/-- R35: the pair above an even register lies in the register file whole. -/
theorem src32_pair_high (c : Ctx) (x : Fibre) {code : BitVec 9} (heven : code.toNat % 2 = 0) (h : code.toNat < 0x0F0) :
    src32 c x (code + 1) = x.reg (code.toNat + 1) := by
  have hsucc := operandCode_succ_toNat h
  rw [src32_of_lt c x (by omega), hsucc]

/-- R3: of a register pair written, the even register holds the low half. -/
theorem src32_set64_low (c : Ctx) {x : Fibre} (hearly : x.early = []) {code : BitVec 9} (h : code.toNat < 0x0F0) (v : DWord) :
    src32 c (x.set64 code v) code = loWord v := by
  rw [src32_of_lt c _ h, x.set64_of_lt h, Fibre.reg_setReg_ne (by simpa using hearly) _ (by omega), Fibre.reg_setReg_same hearly]

/-- R3: of a register pair written, the odd register holds the high half. -/
theorem src32_set64_high (c : Ctx) {x : Fibre} (hearly : x.early = []) {code : BitVec 9} (heven : code.toNat % 2 = 0) (h : code.toNat < 0x0F0)
    (v : DWord) : src32 c (x.set64 code v) (code + 1) = hiWord v := by
  rw [src32_pair_high c _ heven h, x.set64_of_lt h, Fibre.reg_setReg_same (by simpa using hearly)]

/-- Settles O42: a word and a double word of memory by the bytes of `Bytes.readN`, a register pair by what its two registers read as. -/
theorem littleEndian : Obligations.LittleEndian := by
  unfold Obligations.LittleEndian
  refine ⟨fun m a _ hj => m.word_byte a hj, fun m a => m.dword_eq_words a, ?read, ?written⟩
  case read => exact fun c x _ _ hcode => src64_of_lt c x hcode
  case written => exact fun c _ _ v heven hcode hearly => ⟨src32_set64_low c hearly hcode v, src32_set64_high c hearly heven hcode v⟩

end Sys2Proof.Machine
end

section
/-! Resets, wipes and bring-up (R478 to R482, R484 to R486, R18, R22). A bring-up is a wipe or a recovery of the state that a reset leaves, as the
firmware image loads or not; each reset is that state with what outlives it, then its bring-up. -/

namespace Sys2Proof.Machine

/-! Stores and sorted lists. -/

theorem Sparse.get_keep {β : Type} (d : β) (p : Nat → Bool) (m : Sparse β) (a : Nat) :
    Sparse.get d (Sparse.keep p m) a = if p a then Sparse.get d m a else d := by
  induction m with
  | nil => simp [Sparse.keep]
  | cons e t ih =>
    obtain ⟨k, v⟩ := e
    change Sparse.get d (List.filter _ t) a = _ at ih
    by_cases hk : k = a
    · subst hk
      by_cases hp : p k = true <;> simp [Sparse.keep, Sparse.get, hp, ih]
    · by_cases hp : p k = true <;> simp [Sparse.keep, Sparse.get, hp, ih, hk]

/-- A table whose values a function changes, the default with them. -/
theorem Sparse.get_map_values {β γ : Type} (g : β → γ) (d : β) (m : Sparse β) (a : Nat) :
    Sparse.get (g d) (m.map (fun e => (e.1, g e.2))) a = g (Sparse.get d m a) := by
  induction m with
  | nil => rfl
  | cons e t ih =>
    obtain ⟨k, v⟩ := e
    by_cases hk : k = a <;> simp [Sparse.get_cons, hk, ih]

@[simp] theorem mem_insertNat {a b : Nat} {l : List Nat} : b ∈ insertNat a l ↔ b = a ∨ b ∈ l := by
  induction l with
  | nil => simp [insertNat]
  | cons c t ih =>
    unfold insertNat
    split
    · simp
    · split
      · next h => simp [h]
      · simp only [List.mem_cons, ih]; tauto

theorem mem_foldl_insertNat {b : Nat} {l m : List Nat} (h : b ∈ l ∨ b ∈ m) : b ∈ l.foldl (fun p w => insertNat w p) m := by
  induction l generalizing m with
  | nil => simpa using h
  | cons a t ih =>
    refine ih ?_
    simp only [List.mem_cons, mem_insertNat] at h ⊢
    tauto

/-! The black box and the interrupts. -/

/-- R403: the newest entry of die 0's record is the one just written. -/
theorem State.log_newest (s : State) (kind cls cause wg addr detail : Nat) :
    (Sparse.get [] (s.log kind 0x3FF cls cause wg addr detail).blackBox 0).head? =
      some (blackBoxEntry s.tide.toNat kind 0x3FF cls cause wg addr detail) := by
  unfold State.log
  dsimp only
  split <;> simp

/-- The black box's entry of a reset (R403), written at a Tide. -/
def ResetLogged (now : BitVec 64) (t : State) : Prop :=
  (Sparse.get [] t.blackBox 0).head? = some (blackBoxEntry now.toNat 10 0x3FF 0 0 0 0 0)

theorem State.log_resetLogged (s : State) : ResetLogged s.tide (s.log 10 0x3FF 0 0 0 0 0) := s.log_newest ..

theorem State.resetEnded_logged (s : State) : ResetLogged s.tide s.resetEnded := s.log_newest ..

theorem State.mem_outputs_say (s : State) (o : Output) : o ∈ (s.say o).outputs := List.mem_append_right _ (List.mem_singleton_self o)

theorem State.resetEnded_says (s : State) : Output.msix 3 ∈ s.resetEnded.outputs := State.mem_outputs_say ..

/-! What a wipe leaves. -/

/-- The package's own memory is zero, with no poison and no compression code, and every other byte is as in `m` (R479). -/
def OwnZeroed (m : Bytes) (t : State) : Prop :=
  (∀ a, Sparse.get 0 t.mem a = if ownByte a then 0 else Sparse.get 0 m a) ∧
  (∀ w, ownByte (4 * w) = true → w ∉ t.memPoison) ∧ (∀ b, ownByte (256 * b) = true → Sparse.get 0 t.compCodes b = 0)

theorem State.wiped_ownZeroed (s : State) : OwnZeroed s.mem s.wiped := by
  refine ⟨fun a => ?bytes, fun w hw hmem => ?poison, fun b hb => ?codes⟩
  case bytes =>
    have hkept : Sparse.get 0 s.wiped.mem a = _ := Sparse.get_keep 0 (fun a => !ownByte a) s.mem a
    cases h : ownByte a <;> simpa [h] using hkept
  case poison => simpa [hw] using List.mem_filter.mp hmem
  case codes =>
    have hkept : Sparse.get 0 s.wiped.compCodes b = _ := Sparse.get_keep 0 (fun b => !ownByte (256 * b)) s.compCodes b
    simpa [hb] using hkept

/-- A wipe has begun after a reset: memory inactive, the device not ready. -/
def Wiping (m : Bytes) (t : State) : Prop := OwnZeroed m t ∧ t.memActive = false ∧ t.ready = false ∧ t.wiping = true

theorem State.startWipe_wiping {s : State} (h : s.ready = false) : Wiping s.mem s.startWipe := ⟨s.wiped_ownZeroed, rfl, h, rfl⟩

/-! What a reset leaves. -/

/-- Nothing of the programs is left: no workgroup, launch, core state, translation, counter or packet, and no packet on the links (R478). -/
def Cleared (t : State) : Prop :=
  t.wgs = [] ∧ t.launches = [] ∧ t.cores = [] ∧ t.tlb = [] ∧ t.rdc = [] ∧ t.counters = [] ∧ t.packets = [] ∧
    t.links.all (fun e => e.2.queue.all (fun q => q.1 ≠ 3)) = true

theorem State.afterReset_cleared (s : State) : Cleared s.afterReset := ⟨rfl, rfl, rfl, rfl, rfl, rfl, rfl, rfl⟩

theorem Cleared.wiped {s : State} (h : Cleared s) : Cleared s.wiped := by
  obtain ⟨hwgs, hlaunches, hcores, hrest⟩ := h
  exact ⟨hwgs, hlaunches, by simp [State.wiped, hcores], hrest⟩

theorem Cleared.startWipe {s : State} (h : Cleared s) : Cleared s.startWipe := h.wiped

theorem Cleared.recover {s : State} (h : Cleared s) : Cleared s.recover := h

theorem Cleared.resetEnded {s : State} (h : Cleared s) : Cleared s.resetEnded := by
  simpa [Cleared, State.resetEnded] using h

/-- The tenant reset's links: no packet is left to send. -/
theorem keptLinks_noPackets (l : Sparse Link) : (keptLinks l).all (fun e => e.2.queue.all (fun q => q.1 ≠ 3)) = true := by
  simp [keptLinks]

/-- A tenant reset keeps every peer's entry and keys. -/
theorem peer_keptPeers (s : State) (k : Nat) : Sparse.get {} (keptPeers s.peers) k = { s.peer k with unacked := [], received := [] } :=
  Sparse.get_map_values (fun p : Peer => { p with unacked := [], received := [] }) {} s.peers k

/-! Bring-up. -/

/-- The boot ROM loads an image in a life-cycle state: it verifies, is no older than the fused counter, and the state permits it (R482). -/
def BootLoads (rollback : Nat) (f : Firmware) (c : LifeCycle) : Prop := f.verifies = true ∧ f.version ≥ rollback ∧ f.permits.contains c.code = true

theorem State.imageLoads_iff (s : State) : s.imageLoads = true ↔ BootLoads s.rollback s.firmware s.lifeCycle := by
  simp only [State.imageLoads, BootLoads, Bool.and_eq_true, decide_eq_true_eq, and_assoc]

theorem State.imageLoads_false {s : State} (h : ¬ BootLoads s.rollback s.firmware s.lifeCycle) : s.imageLoads = false :=
  Bool.eq_false_iff.mpr (fun hl => h (s.imageLoads_iff.mp hl))

/-- The hub stands in recovery (R482). -/
def Recovering (t : State) : Prop := t.recovery = true ∧ t.ready = false ∧ t.memActive = false

theorem State.recover_recovering (s : State) : Recovering s.recover := ⟨rfl, rfl, rfl⟩

theorem State.bringUp_of_loads {s : State} (h : BootLoads s.rollback s.firmware s.lifeCycle) :
    s.bringUp = ({ s with ready := false, linksDown := true } : State).startWipe := if_pos (s.imageLoads_iff.mpr h)

theorem State.bringUp_of_fails {s : State} (h : ¬ BootLoads s.rollback s.firmware s.lifeCycle) : s.bringUp = s.recover := by
  rw [State.bringUp, State.imageLoads_false h]; rfl

theorem Cleared.bringUp {s : State} (h : Cleared s) : Cleared s.bringUp := by
  unfold State.bringUp
  split
  · exact Cleared.startWipe h
  · exact h.recover

/-- Bring-up leaves the black box, the peers, the image, the Tide's synchronisation, the life cycle and the management address. -/
theorem State.bringUp_keeps (s : State) : s.bringUp.blackBox = s.blackBox ∧ s.bringUp.peers = s.peers ∧ s.bringUp.firmware = s.firmware ∧
    s.bringUp.untimed = s.untimed ∧ s.bringUp.lifeCycle = s.lifeCycle ∧ s.bringUp.lifeCyclePending = s.lifeCyclePending ∧
    s.bringUp.i3cAddress = s.i3cAddress := by
  unfold State.bringUp
  split <;> exact ⟨rfl, rfl, rfl, rfl, rfl, rfl, rfl⟩

/-! Cold resets (R478, R480, R486). -/

theorem State.coldReset_cleared (s : State) : Cleared s.coldReset := Cleared.bringUp s.afterReset_cleared

theorem State.coldReset_keeps (s : State) : s.coldReset.blackBox = s.blackBox ∧ s.coldReset.peers = [] ∧
    s.coldReset.firmware = s.flash.headD s.firmware ∧ s.coldReset.untimed = true ∧ s.coldReset.lifeCycle = s.lifeCycle ∧
    s.coldReset.lifeCyclePending = s.lifeCyclePending ∧ s.coldReset.i3cAddress = s.i3cAddress := State.bringUp_keeps _

theorem State.coldReset_of_loads {s : State} (h : BootLoads s.rollback (s.flash.headD s.firmware) s.lifeCycle) :
    Wiping s.hostMemory s.coldReset ∧ s.coldReset.recovery = false := by
  rw [State.coldReset, State.bringUp_of_loads h]
  exact ⟨State.startWipe_wiping rfl, rfl⟩

theorem State.coldReset_of_fails {s : State} (h : ¬ BootLoads s.rollback (s.flash.headD s.firmware) s.lifeCycle) : Recovering s.coldReset := by
  rw [State.coldReset, State.bringUp_of_fails h]
  exact State.recover_recovering _

/-- The black box's entries do not touch what the host has. -/
theorem State.log_hostMemory (s : State) (a b d e f g h : Nat) : (s.log a b d e f g h).hostMemory = s.hostMemory := by
  simp [State.hostMemory]

/-- R486: a thermal trip is a cold reset of the state with its entry, which the reset keeps. -/
def State.tripped (s : State) : State := { s.log 10 0x3FF 0 0 0 0 0 with i3cAddress := 0 }

theorem State.tripped_image (s : State) : s.tripped.rollback = s.rollback ∧ s.tripped.flash.headD s.tripped.firmware = s.flash.headD s.firmware ∧
    s.tripped.lifeCycle = s.lifeCycle := by
  simp [State.tripped]

theorem State.tripped_hostMemory (s : State) : s.tripped.hostMemory = s.hostMemory := s.log_hostMemory ..

/-! Warm resets (R478, R481). -/

/-- What a warm reset leaves before its bring-up: the Tide and its synchronisation stay, and a pending life-cycle step takes effect. -/
def State.warmed (s : State) : State :=
  { s.afterReset with tide := s.tide, untimed := s.untimed, lifeCycle := s.lifeCyclePending.getD s.lifeCycle, lifeCyclePending := none }

theorem State.warmReset_eq (s : State) : s.warmReset =
    if !s.warmed.imageLoads then s.warmed.recover
    else if s.lifeCyclePending.isSome then ({ s.warmed with ready := false, linksDown := true } : State).startWipe
    else if s.wiping || s.untimed then { s.warmed with ready := false, memActive := false, wiping := s.wiping, linksDown := s.wiping }
    else s.warmed.resetEnded := rfl

theorem State.warmed_cleared (s : State) : Cleared s.warmed := s.afterReset_cleared

theorem State.warmReset_cleared (s : State) : Cleared s.warmReset := by
  rw [State.warmReset_eq]
  split
  · exact s.warmed_cleared.recover
  split
  · exact Cleared.startWipe s.warmed_cleared
  split
  · exact s.warmed_cleared
  · exact s.warmed_cleared.resetEnded

theorem State.warmReset_keeps (s : State) : s.warmReset.tide = s.tide ∧ s.warmReset.peers = [] ∧
    s.warmReset.lifeCycle = s.lifeCyclePending.getD s.lifeCycle ∧ s.warmReset.lifeCyclePending = none := by
  rw [State.warmReset_eq]
  split
  · exact ⟨rfl, rfl, rfl, rfl⟩
  split
  · exact ⟨rfl, rfl, rfl, rfl⟩
  split
  · exact ⟨rfl, rfl, rfl, rfl⟩
  · simp only [State.resetEnded, State.say_tide, State.log_tide, State.say_peers, State.log_peers, State.say_lifeCycle, State.log_lifeCycle,
      State.say_lifeCyclePending, State.log_lifeCyclePending]
    exact ⟨rfl, rfl, rfl, rfl⟩

section
variable {s : State}

/-- An image that fails leaves the hub in recovery and the memory as it was (log 19). -/
theorem State.warmReset_of_fails (h : ¬ BootLoads s.rollback s.firmware (s.lifeCyclePending.getD s.lifeCycle)) : s.warmReset = s.warmed.recover := by
  rw [State.warmReset_eq, State.imageLoads_false (s := s.warmed) h]; rfl

variable (h : BootLoads s.rollback s.firmware (s.lifeCyclePending.getD s.lifeCycle))
include h

/-- R481: a pending life-cycle step wipes. -/
theorem State.warmReset_of_step (hstep : s.lifeCyclePending.isSome = true) :
    s.warmReset = ({ s.warmed with ready := false, linksDown := true } : State).startWipe := by
  rw [State.warmReset_eq, (s.warmed.imageLoads_iff).mpr h, hstep]; rfl

/-- A wipe or a bring-up under way goes on (log 19). -/
theorem State.warmReset_of_underWay (hstep : s.lifeCyclePending = none) (hway : s.wiping = true ∨ s.untimed = true) :
    s.warmReset = { s.warmed with ready := false, memActive := false, wiping := s.wiping, linksDown := s.wiping } := by
  have hor : (s.wiping || s.untimed) = true := by simpa using hway
  rw [State.warmReset_eq, (s.warmed.imageLoads_iff).mpr h, hstep, hor]; rfl

theorem State.warmReset_of_idle (hstep : s.lifeCyclePending = none) (hwiping : s.wiping = false) (huntimed : s.untimed = false) :
    s.warmReset = s.warmed.resetEnded := by
  rw [State.warmReset_eq, (s.warmed.imageLoads_iff).mpr h, hstep, hwiping, huntimed]; rfl

/-- R478: a warm reset without a life-cycle step keeps the memories, and a wipe or a bring-up under way. -/
theorem State.warmReset_keepsMemory (hstep : s.lifeCyclePending = none) : s.warmReset.mem = s.hostMemory ∧ s.warmReset.memPoison = s.keptPoison ∧
    s.warmReset.wiping = s.wiping ∧ s.warmReset.untimed = s.untimed := by
  by_cases hway : s.wiping = true ∨ s.untimed = true
  · rw [State.warmReset_of_underWay h hstep hway]
    exact ⟨rfl, rfl, rfl, rfl⟩
  · obtain ⟨hwiping, huntimed⟩ : s.wiping = false ∧ s.untimed = false := by simpa using hway
    rw [State.warmReset_of_idle h hstep hwiping huntimed]
    simp only [State.resetEnded, State.say_mem, State.log_mem, State.say_memPoison, State.log_memPoison, State.say_wiping, State.log_wiping,
      State.say_untimed, State.log_untimed]
    exact ⟨rfl, rfl, hwiping.symm, rfl⟩

end

/-- Everything a warm reset does, as its image loads and a life-cycle step, a wipe or a bring-up is under way. -/
theorem State.warmReset_takesEffect (s : State) :
    (BootLoads s.rollback s.firmware (s.lifeCyclePending.getD s.lifeCycle) →
      (s.lifeCyclePending.isSome = true → Wiping s.hostMemory s.warmReset) ∧
      (s.lifeCyclePending = none → s.warmReset.mem = s.hostMemory ∧ s.warmReset.memPoison = s.keptPoison ∧ s.warmReset.wiping = s.wiping ∧
        s.warmReset.untimed = s.untimed) ∧
      (s.lifeCyclePending = none → s.wiping = false → s.untimed = false → s.warmReset.ready = true ∧ s.warmReset.memActive = true ∧
        ResetLogged s.tide s.warmReset) ∧
      (s.lifeCyclePending = none → (s.wiping = true ∨ s.untimed = true) → s.warmReset.memActive = false ∧ s.warmReset.ready = false)) ∧
    (¬ BootLoads s.rollback s.firmware (s.lifeCyclePending.getD s.lifeCycle) → Recovering s.warmReset ∧ s.warmReset.mem = s.hostMemory) := by
  refine ⟨fun h => ⟨fun hstep => ?step, State.warmReset_keepsMemory h, fun hstep hwiping huntimed => ?idle, fun hstep hway => ?underWay⟩, fun h => ?fails⟩
  case step =>
    rw [State.warmReset_of_step h hstep]
    exact State.startWipe_wiping rfl
  case idle =>
    rw [State.warmReset_of_idle h hstep hwiping huntimed]
    exact ⟨by simp only [State.resetEnded, State.say_ready, State.log_ready]; rfl,
      by simp only [State.resetEnded, State.say_memActive, State.log_memActive]; rfl, s.warmed.resetEnded_logged⟩
  case underWay =>
    rw [State.warmReset_of_underWay h hstep hway]
    exact ⟨rfl, rfl⟩
  case fails =>
    rw [State.warmReset_of_fails h]
    exact ⟨s.warmed.recover_recovering, rfl⟩

/-! The tenant reset (R478). -/

theorem State.managed_of_running {s : State} (h : s.recovery = false) (o : Host.Outcome State Fault Refusal) : s.managed o = o := by
  simp [State.managed, h]

/-- What a tenant reset leaves before its wipe: peers and links stay, without what they held. -/
def State.tenantCleared (s : State) : State :=
  { s.afterReset with
    tide := s.tide, peers := keptPeers s.peers, links := keptLinks s.links, untimed := s.untimed, linksDown := s.linksDown, ready := false }

theorem State.tenantCleared_cleared (s : State) : Cleared s.tenantCleared := ⟨rfl, rfl, rfl, rfl, rfl, rfl, rfl, keptLinks_noPackets _⟩

theorem State.exec_tenantReset {s : State} (h : s.recovery = false) : exec .mgmtTenantReset s = .next s.tenantCleared.startWipe :=
  State.managed_of_running h _

/-! The end of a wipe, and of a bring-up (R479, R480, R18). -/

section
variable (s : State)

/-- A bring-up's end makes memory active and the device ready, and leaves the memory, the Tide and what else a bring-up waits for. -/
theorem State.broughtUp_leaves : s.broughtUp.memActive = true ∧ s.broughtUp.ready = true ∧ s.broughtUp.mem = s.mem ∧ s.broughtUp.tide = s.tide ∧
    s.broughtUp.wiping = s.wiping ∧ s.broughtUp.linksDown = s.linksDown ∧ s.broughtUp.untimed = s.untimed := by
  cases hr : s.ready <;> simp [State.broughtUp, State.resetEnded, hr]

/-- R475: the end of a bring-up raises the interrupt of the changed status. -/
theorem State.broughtUp_says : Output.msix 3 ∈ s.broughtUp.outputs := by
  unfold State.broughtUp
  dsimp only
  split
  · exact State.mem_outputs_say ..
  · exact State.resetEnded_says _

end

/-- After a reset the bring-up's end leaves the reset's entry. -/
theorem State.broughtUp_logged {s : State} (h : s.ready = false) : ResetLogged s.tide s.broughtUp := by
  simp only [State.broughtUp, h, Bool.false_eq_true, if_false]
  exact State.resetEnded_logged _

theorem State.exec_wipeDone_untimed {s : State} (h : s.wiping = true) (hu : s.untimed = true) :
    exec .wipeDone s = .next (({ s with wiping := false, linksDown := false } : State).say (.msix 3)) := by
  simp only [show exec .wipeDone s = execWipeDone s from rfl, execWipeDone, h, hu, Bool.not_true, Bool.false_eq_true, if_false, if_true]

theorem State.exec_wipeDone_timed {s : State} (h : s.wiping = true) (hu : s.untimed = false) :
    exec .wipeDone s = .next ({ s with wiping := false, linksDown := false } : State).broughtUp := by
  simp only [show exec .wipeDone s = execWipeDone s from rfl, execWipeDone, h, hu, Bool.not_true, Bool.false_eq_true, if_false]

theorem State.wipeDone_takesEffect {s : State} (h : s.wiping = true) : ∃ t, exec .wipeDone s = .next t ∧ t.wiping = false ∧ t.linksDown = false ∧
    t.mem = s.mem ∧ Output.msix 3 ∈ t.outputs ∧
    (s.untimed = false → t.memActive = true ∧ t.ready = true ∧ (s.ready = false → ResetLogged s.tide t)) ∧
    (s.untimed = true → t.memActive = s.memActive ∧ t.ready = s.ready) := by
  cases hu : s.untimed with
  | true =>
    exact ⟨_, State.exec_wipeDone_untimed h hu, rfl, rfl, rfl, State.mem_outputs_say .., fun hf => by simp at hf, fun _ => ⟨rfl, rfl⟩⟩
  | false =>
    let u : State := { s with wiping := false, linksDown := false }
    obtain ⟨hactive, hready, hmem, -, hwiping, hlinks, -⟩ := u.broughtUp_leaves
    exact ⟨_, State.exec_wipeDone_timed h hu, hwiping, hlinks, hmem, u.broughtUp_says,
      fun _ => ⟨hactive, hready, State.broughtUp_logged (s := u)⟩, fun hf => by simp at hf⟩

/-- R18: the Tide after a synchronisation, which never takes it back. -/
def State.synchronised (s : State) (value : BitVec 64) : BitVec 64 := if s.tide.toNat ≤ value.toNat then value else s.tide

/-- R480: what a synchronisation of the Tide does, with the bring-up that waits for it and without. -/
theorem State.exec_tideSynchronisation (s : State) (value : BitVec 64) : exec (.tideSynchronisation value) s =
    .next (if s.untimed && !s.wiping && !s.recovery && !s.ready then
      ({ s with tide := s.synchronised value, untimed := s.untimed && (s.wiping || s.recovery) } : State).broughtUp
    else { s with tide := s.synchronised value, untimed := s.untimed && (s.wiping || s.recovery) }) := rfl

theorem State.tideSynchronisation_takesEffect (s : State) (value : BitVec 64) : ∃ t, exec (.tideSynchronisation value) s = .next t ∧
    t.tide = s.synchronised value ∧ t.untimed = (s.untimed && (s.wiping || s.recovery)) ∧ t.mem = s.mem ∧
    ((s.untimed = false ∨ s.wiping = true ∨ s.recovery = true) → t = { s with tide := s.synchronised value }) ∧
    (s.untimed = true → s.wiping = false → s.recovery = false → s.ready = false →
      t.ready = true ∧ t.memActive = true ∧ ResetLogged (s.synchronised value) t) := by
  refine ⟨_, s.exec_tideSynchronisation value, ?_⟩
  split
  case isTrue h =>
    obtain ⟨⟨⟨hu, hw⟩, hrec⟩, hr⟩ : ((s.untimed = true ∧ s.wiping = false) ∧ s.recovery = false) ∧ s.ready = false := by simpa using h
    let u : State := { s with tide := s.synchronised value, untimed := s.untimed && (s.wiping || s.recovery) }
    obtain ⟨hactive, hready, hmem, htide, -, -, huntimed⟩ := u.broughtUp_leaves
    refine ⟨htide, huntimed, hmem, fun hor => ?_, fun _ _ _ _ => ⟨hready, hactive, State.broughtUp_logged (s := u) hr⟩⟩
    simp [hu, hw, hrec] at hor
  case isFalse h =>
    refine ⟨rfl, rfl, rfl, fun hor => ?_, fun hu hw hrec hr => ?_⟩
    · have huntimed : (s.untimed && (s.wiping || s.recovery)) = s.untimed := by
        rcases hor with hu | hw | hrec
        · simp [hu]
        · simp [hw]
        · simp [hrec]
      rw [huntimed]
    · simp [hu, hw, hrec, hr] at h

/-! Life-cycle steps (R479, R481). -/

/-- Marking peers down leaves the memory and the life cycle. -/
theorem foldl_peerDown_keeps (l : List Nat) (s : State) : (l.foldl State.peerDown s).mem = s.mem ∧ (l.foldl State.peerDown s).lifeCycle = s.lifeCycle := by
  induction l generalizing s with
  | nil => exact ⟨rfl, rfl⟩
  | cons k t ih => exact ih (s.peerDown k)

theorem State.exec_lifeCycleStep {s : State} {n : LifeCycle} (hrec : s.recovery = false) (hpending : s.lifeCyclePending = none)
    (hnext : s.nextLife = some n) : exec (.mgmtLifeCycleStep []) s =
      .next ({ (List.range 64).foldl State.peerDown s with lifeCyclePending := some n, peers := [] } : State).startWipe := by
  rw [show exec (.mgmtLifeCycleStep []) s = execMgmtLifeCycleStep [] s from rfl, execMgmtLifeCycleStep, State.managed_of_running hrec, hpending, hnext]
  rfl

theorem State.lifeCycleStep_takesEffect {s : State} {n : LifeCycle} (hrec : s.recovery = false) (hpending : s.lifeCyclePending = none)
    (hnext : s.nextLife = some n) : ∃ t, exec (.mgmtLifeCycleStep []) s = .next t ∧ t.lifeCyclePending = some n ∧ t.lifeCycle = s.lifeCycle ∧
      t.peers = [] ∧ OwnZeroed s.mem t ∧ t.memActive = false := by
  obtain ⟨hmem, hlife⟩ := foldl_peerDown_keeps (List.range 64) s
  refine ⟨_, State.exec_lifeCycleStep hrec hpending hnext, ?_⟩
  generalize (List.range 64).foldl State.peerDown s = u at hmem hlife
  refine ⟨rfl, hlife, rfl, ?_, rfl⟩
  rw [← hmem]
  exact State.wiped_ownZeroed _

/-! Limits and errors (R22, R484, R485). -/

theorem State.blockLocalLimit_takesEffect (s : State) (block : Nat) : ∃ t, exec (.blockLocalLimit block) s = .next t ∧ block ∈ t.limited ∧
    t.mem = s.mem ∧ t.wgs = s.wgs ∧ t.cores = s.cores :=
  ⟨_, rfl, by simp, by simp, by simp, by simp⟩

/-- R484: an error beyond correction in a raw block poisons the words of its sector. -/
theorem State.softError_memory {s : State} {pa : Nat} (hserved : servedHere pa 1 = true) (hraw : Sparse.get 0 s.compCodes (pa / 256) = 0) :
    s.softError { place := .memory pa, beyond := true } =
      (State.poisonWords ((List.range 8).map (fun i => pa / 32 * 8 + i)) { s with eccPoisoned := s.eccPoisoned + 1 }).log 6 0x3FF 0 0 0 (pa / 4 * 4) 0 := by
  have hstored : ¬ pa % 256 ≥ storedBytes 0 := by
    have hblock := Nat.mod_lt pa (show 0 < 256 by omega)
    simpa [storedBytes] using hblock
  simp [State.softError, State.eccFound, hserved, hraw, hstored]

theorem mem_sectorWords {pa w : Nat} (h : w / 8 = pa / 32) : w ∈ (List.range 8).map (fun i => pa / 32 * 8 + i) :=
  List.mem_map.mpr ⟨w % 8, List.mem_range.mpr (by omega), by omega⟩

theorem State.patrolScrub_poisons {s : State} {pa w : Nat} (hserved : servedHere pa 1 = true) (hraw : Sparse.get 0 s.compCodes (pa / 256) = 0)
    (hw : w / 8 = pa / 32) : ∃ t, exec (.patrolScrub [{ place := .memory pa, beyond := true }]) s = .next t ∧ w ∈ t.memPoison ∧ t.mem = s.mem ∧
      t.eccPoisoned = s.eccPoisoned + 1 := by
  refine ⟨s.softError { place := .memory pa, beyond := true }, rfl, ?_⟩
  rw [State.softError_memory hserved hraw]
  refine ⟨?_, by simp [State.poisonWords], by simp [State.poisonWords]⟩
  rw [State.log_memPoison]
  exact mem_foldl_insertNat (Or.inl (mem_sectorWords hw))

/-! The obligation. -/

theorem State.coldReset_takesEffect (s : State) : ∃ t, exec .coldReset s = .next t ∧ Cleared t ∧ t.blackBox = [] ∧ t.peers = [] ∧
    t.firmware = s.flash.headD s.firmware ∧ t.untimed = true ∧ t.lifeCycle = s.lifeCycle ∧ t.lifeCyclePending = s.lifeCyclePending ∧
    (BootLoads s.rollback (s.flash.headD s.firmware) s.lifeCycle → Wiping s.hostMemory t ∧ t.recovery = false) ∧
    (¬ BootLoads s.rollback (s.flash.headD s.firmware) s.lifeCycle → Recovering t) := by
  let s0 : State := { s with blackBox := [], blackBoxWp := [], i3cAddress := 0 }
  obtain ⟨hbox, hpeers, himage, huntimed, hlife, hpending, -⟩ := s0.coldReset_keeps
  exact ⟨s0.coldReset, rfl, s0.coldReset_cleared, hbox, hpeers, himage, huntimed, hlife, hpending,
    fun h => State.coldReset_of_loads (s := s0) h, fun h => State.coldReset_of_fails (s := s0) h⟩

theorem State.thermalTrip_takesEffect (s : State) : ∃ t, exec .thermalTrip s = .next t ∧ Cleared t ∧ ResetLogged s.tide t ∧
    t.firmware = s.flash.headD s.firmware ∧ t.untimed = true ∧ t.i3cAddress = 0 ∧
    (BootLoads s.rollback (s.flash.headD s.firmware) s.lifeCycle → Wiping s.hostMemory t) ∧
    (¬ BootLoads s.rollback (s.flash.headD s.firmware) s.lifeCycle → Recovering t) := by
  obtain ⟨hbox, -, himage, huntimed, -, -, haddress⟩ := s.tripped.coldReset_keeps
  obtain ⟨hrollback, hflash, hlife⟩ := s.tripped_image
  refine ⟨s.tripped.coldReset, rfl, s.tripped.coldReset_cleared, ?_, himage.trans hflash, huntimed, haddress, fun h => ?_, fun h => ?_⟩
  · rw [ResetLogged, hbox]
    exact s.log_resetLogged
  · rw [← s.tripped_hostMemory]
    rw [← hrollback, ← hflash, ← hlife] at h
    exact (State.coldReset_of_loads h).1
  · rw [← hrollback, ← hflash, ← hlife] at h
    exact State.coldReset_of_fails h

theorem State.tenantReset_takesEffect {s : State} (h : s.recovery = false) : ∃ t, exec .mgmtTenantReset s = .next t ∧ Cleared t ∧
    Wiping s.hostMemory t ∧ t.tide = s.tide ∧ t.lifeCycle = s.lifeCycle ∧ t.blackBox = s.blackBox ∧
    ∀ k, (t.peer k).entry = (s.peer k).entry ∧ (t.peer k).txKeys = (s.peer k).txKeys ∧ (t.peer k).rxKeys = (s.peer k).rxKeys := by
  refine ⟨_, State.exec_tenantReset h, s.tenantCleared_cleared.startWipe, State.startWipe_wiping rfl, rfl, rfl, rfl, fun k => ?_⟩
  rw [show s.tenantCleared.startWipe.peer k = _ from peer_keptPeers s k]
  exact ⟨rfl, rfl, rfl⟩

theorem State.powerRemoved_takesEffect (s : State) : ∃ t, exec .powerRemoved s = .next t ∧ Cleared t ∧ OwnZeroed s.hostMemory t ∧ t.powered = false ∧
    t.ready = false ∧ t.lifeCycle = s.lifeCycle :=
  ⟨_, rfl, s.afterReset_cleared.wiped, s.afterReset.wiped_ownZeroed, rfl, rfl, rfl⟩

/-- R481: manufacture is not left before the device identity key is fused. -/
theorem State.nextLife_of_unfused {s : State} (hlife : s.lifeCycle = .manufacture) (hkey : s.identityKey = false) : s.nextLife = none := by
  simp [State.nextLife, hlife, hkey]

/-- A warm reset by either of its events. -/
theorem State.warmEvent_takesEffect (s : State) {i : Instr} (h : exec i s = .next s.warmReset) : ∃ t, exec i s = .next t ∧ Cleared t ∧
    t.tide = s.tide ∧ t.peers = [] ∧ t.lifeCycle = s.lifeCyclePending.getD s.lifeCycle ∧ t.lifeCyclePending = none ∧
    (BootLoads s.rollback s.firmware (s.lifeCyclePending.getD s.lifeCycle) →
      (s.lifeCyclePending.isSome = true → Wiping s.hostMemory t) ∧
      (s.lifeCyclePending = none → t.mem = s.hostMemory ∧ t.memPoison = s.keptPoison ∧ t.wiping = s.wiping ∧ t.untimed = s.untimed) ∧
      (s.lifeCyclePending = none → s.wiping = false → s.untimed = false → t.ready = true ∧ t.memActive = true ∧ ResetLogged s.tide t) ∧
      (s.lifeCyclePending = none → (s.wiping = true ∨ s.untimed = true) → t.memActive = false ∧ t.ready = false)) ∧
    (¬ BootLoads s.rollback s.firmware (s.lifeCyclePending.getD s.lifeCycle) → Recovering t ∧ t.mem = s.hostMemory) := by
  obtain ⟨htide, hpeers, hlife, hpending⟩ := s.warmReset_keeps
  exact ⟨_, h, s.warmReset_cleared, htide, hpeers, hlife, hpending, s.warmReset_takesEffect⟩

/-- Settles O40: each event by the lemma of its own effect, the two warm resets by one. -/
theorem resetsAndUpkeepComplete : Obligations.ResetsAndUpkeepComplete := by
  unfold Obligations.ResetsAndUpkeepComplete
  intro s
  exact ⟨s.coldReset_takesEffect, fun h => State.tenantReset_takesEffect h,
    fun h => s.warmEvent_takesEffect (State.managed_of_running (h rfl) _), fun _ => s.warmEvent_takesEffect rfl,
    s.thermalTrip_takesEffect, s.powerRemoved_takesEffect, fun h => State.wipeDone_takesEffect h,
    fun _ hrec hpending hnext => State.lifeCycleStep_takesEffect hrec hpending hnext, fun hlife hkey => State.nextLife_of_unfused hlife hkey,
    s.blockLocalLimit_takesEffect, fun _ => rfl, fun _ hserved hraw _ hw => State.patrolScrub_poisons hserved hraw hw,
    s.tideSynchronisation_takesEffect⟩

end Sys2Proof.Machine
end

section
/-! Fault service and pre-emption (R193, R390, R393 to R395, R397 to R401, R409, R15): what the hub's record write leaves, what accesses to memory
leave of the hub's record queue and of the workgroups there are, and the commands by the workgroup that they select. -/

namespace Sys2Proof.Machine

/-! What accesses to memory leave of the hub's service. -/

/-- The hub's record queue and ring index, and the keys of the workgroups: what no access to memory changes. -/
def State.service (s : State) : List (FaultInfo × Nat × Nat × Nat × Nat) × Word × Bool × List Nat :=
  (s.records, s.frwp, s.frBlocked, s.wgs.map (fun w => w.key))

theorem foldl_service {α : Type} (g : State → α → State) (h : ∀ s a, (g s a).service = s.service) (l : List α) (s : State) :
    (l.foldl g s).service = s.service := by
  induction l generalizing s with
  | nil => rfl
  | cons a t ih => rw [List.foldl_cons, ih, h]

section
variable (s : State)

@[simp] theorem State.updCore_service (k : Nat) (g : Core → Core) : (s.updCore k g).service = s.service := rfl
@[simp] theorem State.updLaunch_service (k : Nat) (g : Launch → Launch) : (s.updLaunch k g).service = s.service := rfl
@[simp] theorem State.drawn_service : s.drawn.service = s.service := rfl
@[simp] theorem State.rdcWrite_service (d : Nat) (cells : List (Nat × Byte)) (bad : Bool) : (s.rdcWrite d cells bad).service = s.service := rfl

/-- A write wakes fibres, and no workgroup comes or goes. -/
@[simp] theorem State.fire_service (only : Option Nat) (l : WatchLine) : (s.fire only l).service = s.service := by
  have hkeys : (s.fire only l).wgs.map (fun w => w.key) = s.wgs.map (fun w => w.key) := by
    simp only [State.fire, List.map_map]
    refine List.map_congr_left fun w _ => ?_
    simp only [Function.comp_apply]
    cases only <;> (dsimp only; split <;> rfl)
  simp only [State.service, State.fire_records, State.fire_frwp, State.fire_frBlocked, hkeys]

@[simp] theorem State.ownWord_service (who : Writer) (w : Nat) : (s.ownWord who w).service = s.service := by
  simp only [State.ownWord]
  split <;> split <;> rfl

@[simp] theorem State.l2Touch_service (l h p : Nat) : (s.l2Touch l h p).service = s.service := by
  unfold State.l2Touch
  (repeat' split) <;> rfl

@[simp] theorem State.noteLines_service (cells : List (Nat × Byte)) : (s.noteLines cells).service = s.service := by
  unfold State.noteLines
  split <;> rfl

@[simp] theorem State.holdHost_service (cells : List (Nat × Byte)) (p : Nat) : (s.holdHost cells p).service = s.service :=
  foldl_service _ (fun t n => by
    dsimp only
    split
    · exact t.l2Touch_service n 0 p
    · exact t.l2Touch_service n 0 p) _ s

@[simp] theorem State.sendStores_service (comp : Nat) (cells : List (Nat × Byte)) (bad : Bool) : (s.sendStores comp cells bad).service = s.service :=
  foldl_service (fun (t : State) n => t.sendRequest _ n 1 _) (fun _ _ => rfl) _ s

@[simp] theorem State.homeWrite_service (who : Writer) (comp : Nat) (cells : List (Nat × Byte)) (bad : Bool) (p : Nat) :
    (s.homeWrite who comp cells bad p).service = s.service := by
  have hown : ((wordsIn cells).foldl (fun t w => t.ownWord who w) (s.holdHost cells p)).service = s.service := by
    rw [foldl_service _ (fun t w => t.ownWord_service who w), State.holdHost_service]
  simp only [State.homeWrite, State.sendStores_service, State.noteLines_service]
  rw [foldl_service (fun (t : State) l => t.fire none ⟨0, 0, l⟩) (fun t l => t.fire_service none _)]
  cases who <;> exact hown

@[simp] theorem State.homePut_service (a : Attr) (pa : Nat) (l : List Byte) : (s.homePut a pa l).service = s.service := s.homeWrite_service ..

@[simp] theorem State.rdcRefresh_service (d l : Nat) (al : Bool) (m : BitVec 128) (h p : Nat) : (s.rdcRefresh d l al m h p).service = s.service := by
  unfold State.rdcRefresh
  (repeat' split) <;> rfl

@[simp] theorem State.l1Upd_service (k l : Nat) (g : L1Line → L1Line) : (s.l1Upd k l g).service = s.service := rfl

@[simp] theorem State.l1Complete_service (k l : Nat) (m : BitVec 128) : (s.l1Complete k l m).service = s.service := by
  unfold State.l1Complete
  split
  · rfl
  · split
    · rfl
    · rw [State.rdcRefresh_service, State.l1Upd_service]

@[simp] theorem State.flushLine_service (k l : Nat) (m : BitVec 128) (r : Bool) : (s.flushLine k l m r).service = s.service := by
  unfold State.flushLine
  split
  · rfl
  · split
    · rfl
    · simp only [State.l1Complete_service, State.homeWrite_service, State.l1Upd_service]

@[simp] theorem State.release_service (k scope : Nat) : (s.release k scope).service = s.service := by
  unfold State.release
  split
  · rfl
  · exact foldl_service _ (fun t _ => t.flushLine_service ..) _ s

@[simp] theorem State.wgRelease_service (w : Workgroup) : (s.wgRelease w).service = s.service := by
  simp only [State.wgRelease, State.updLaunch_service]
  split
  · rfl
  · exact s.release_service ..

end

theorem State.fillArea_service (space n va : Nat) (s : State) : (State.fillArea space n va s).service = s.service := by
  induction n generalizing va s with
  | zero => rfl
  | succ n ih =>
    rw [State.fillArea, ih, State.drawn_service]
    split
    · exact s.homePut_service ..
    · rfl

/-! Lookups. -/

theorem State.exists_wg?_iff (s : State) (k : Nat) : (∃ w, s.wg? k = some w) ↔ k ∈ s.wgs.map (fun w => w.key) := by
  rw [← Option.isSome_iff_exists, State.wg?, List.find?_isSome]
  simp

/-- A workgroup is still there after what keeps the workgroups. -/
theorem State.exists_wg?_of_service {s t : State} (h : t.service = s.service) {k : Nat} {w : Workgroup} (hw : s.wg? k = some w) :
    ∃ v, t.wg? k = some v := by
  have hkeys : t.wgs.map (fun w => w.key) = s.wgs.map (fun w => w.key) := congrArg (fun x => x.2.2.2) h
  rw [State.exists_wg?_iff, hkeys, ← State.exists_wg?_iff]
  exact ⟨w, hw⟩

theorem State.exists_wg?_of_mem {s : State} {w : Workgroup} (h : w ∈ s.wgs) : ∃ v, s.wg? w.key = some v :=
  (s.exists_wg?_iff w.key).mpr (List.mem_map.mpr ⟨w, h, rfl⟩)

/-- An agent's CSRs are all that a write of them changes of a workgroup. -/
theorem State.wg?_updAgent_map {β : Type} (f : Workgroup → β) (hf : ∀ w c, f { w with csr := c } = f w) (s : State) (a : Agent)
    (g : AgentCsr → AgentCsr) (k : Nat) : ((s.updAgent a g).wg? k).map f = (s.wg? k).map f := by
  cases a with
  | host => rfl
  | workgroup key =>
    rw [State.updAgent, State.wg?_updWg s key k (fun w => { w with csr := g w.csr }) (fun _ => rfl), Option.map_map]
    congr 1
    funext w
    rw [Function.comp_apply]
    split
    · exact hf w _
    · rfl

@[simp] theorem State.core_updAgent (s : State) (a : Agent) (g : AgentCsr → AgentCsr) (k : Nat) : (s.updAgent a g).core k = s.core k := by
  cases a <;> rfl

/-! The record write (R386, R390, R391, R409). -/

/-- Byte `j` of a number's bytes. -/
theorem bytesOf_getD {n j : Nat} (x : Nat) (h : j < n) : ((bytesOf n x).getD j 0).toNat = x / 2 ^ (8 * j) % 256 := by
  induction n generalizing x j with
  | zero => omega
  | succ n ih =>
    cases j with
    | zero => simp [bytesOf]
    | succ j =>
      rw [bytesOf, List.getD_cons_succ, ih _ (by omega), Nat.div_div_eq_div_mul, Nat.mul_add, pow_add]
      congr 2
      exact Nat.mul_comm ..

/-- A record goes to a handler of its class, not to the host: its vector is enabled, and the faulting launch is no handler itself (R391, R392). -/
def State.Vectored (s : State) (cls launch : Nat) : Prop :=
  (Sparse.get 0 s.fvec cls).getLsbD 0 = true ∧ ¬ ∃ l, s.launch? launch = some l ∧ l.kind = .handler

/-- The test by which `State.writeRecord` leaves a record to the host. -/
def State.toHost (s : State) (cls launch : Nat) : Bool :=
  (s.launch? launch).any (fun l => l.kind = .handler) || !(Sparse.get 0 s.fvec cls).getLsbD 0

theorem State.toHost_eq_false_iff (s : State) (cls launch : Nat) : s.toHost cls launch = false ↔ s.Vectored cls launch := by
  cases hl : s.launch? launch with
  | none => simp [State.toHost, State.Vectored, hl]
  | some l => simp [State.toHost, State.Vectored, hl, and_comm]

/-- A handler's start leaves the record queue, the ring and the memory. -/
theorem State.startHandler_keeps {s t : State} {cls va : Nat} (h : s.startHandler cls va = some t) : t.service = s.service ∧ t.mem = s.mem := by
  unfold State.startHandler at h
  dsimp only at h
  split at h
  · exact absurd h (by simp)
  · split at h
    · exact absurd h (by simp)
    · rw [← Option.some.inj h]
      exact ⟨rfl, rfl⟩

section
variable {s : State} {info : FaultInfo} {launch wgid core key : Nat} {rest : List (FaultInfo × Nat × Nat × Nat × Nat)} {va pa : Nat} {a : Attr}

/-- The oldest record taken from the queue and written to its entry of the ring, which its workgroup then names. -/
def State.recordPut (s : State) (info : FaultInfo) (launch wgid core key : Nat) (rest : List (FaultInfo × Nat × Nat × Nat × Nat)) (va pa : Nat)
    (a : Attr) : State :=
  ((({ s with records := rest, frwp := s.frwp + 1, frBlocked := false } : State).homePut a pa (bytesOf 64 (recordWord info launch wgid core))).updWg
    key (fun w => { w with recordAt := some va })).readOver (fun r => decide (r = .handler key))

theorem State.recordPut_leavesQueue : (s.recordPut info launch wgid core key rest va pa a).records = rest ∧
    (s.recordPut info launch wgid core key rest va pa a).frwp = s.frwp + 1 ∧
    (s.recordPut info launch wgid core key rest va pa a).frBlocked = false := by
  have h := ({ s with records := rest, frwp := s.frwp + 1, frBlocked := false } : State).homePut_service a pa
    (bytesOf 64 (recordWord info launch wgid core))
  exact ⟨congrArg (fun x => x.1) h, congrArg (fun x => x.2.1) h, congrArg (fun x => x.2.2.1) h⟩

/-- R386: the 64 bytes of the entry are the record's. -/
theorem State.recordPut_byte {j : Nat} (hj : j < 64) :
    (Sparse.get 0 (s.recordPut info launch wgid core key rest va pa a).mem (pa + j)).toNat = recordWord info launch wgid core / 2 ^ (8 * j) % 256 := by
  have hmem : (s.recordPut info launch wgid core key rest va pa a).mem =
    (({ s with records := rest, frwp := s.frwp + 1, frBlocked := false } : State).homeWrite .other a.comp
      (cellsOf pa (bytesOf 64 (recordWord info launch wgid core))) false a.prio).mem := rfl
  rw [hmem, State.homeWrite_run, if_pos (by rw [bytesOf_length]; omega), Nat.add_sub_cancel_left, bytesOf_getD _ hj]

variable (hrec : s.records = (info, launch, wgid, core, key) :: rest) (hring : s.ringEntry = some (va, pa, a))
include hrec hring

/-- What the hub does with the oldest record where the ring has room. -/
theorem State.writeRecord_eq : s.writeRecord =
    let t := s.recordPut info launch wgid core key rest va pa a
    if !s.toHost info.cls launch && !(s.handlerLacks key info.cls).isEmpty then s.askLines (.handler key) (s.handlerLacks key info.cls)
    else if s.toHost info.cls launch then t.say (.msix 0) else (t.startHandler info.cls va).getD (t.say (.msix 0)) := by
  simp only [State.writeRecord, hrec, hring]
  rfl

/-- The descriptor's lines that other packages have still to send are asked for first (log 18). -/
theorem State.writeRecord_asks (hv : s.Vectored info.cls launch) (hl : s.handlerLacks key info.cls ≠ []) :
    s.writeRecord = s.askLines (.handler key) (s.handlerLacks key info.cls) := by
  have hhost := (s.toHost_eq_false_iff info.cls launch).mpr hv
  rw [State.writeRecord_eq hrec hring]
  simp [hhost, hl]

/-- R390: a record written has left the queue and stands in its entry, and the write index has moved on. -/
theorem State.writeRecord_writes (h : ¬ s.Vectored info.cls launch ∨ s.handlerLacks key info.cls = []) :
    s.writeRecord.records = rest ∧ s.writeRecord.frwp = s.frwp + 1 ∧ s.writeRecord.frBlocked = false ∧
      ∀ j, j < 64 → (Sparse.get 0 s.writeRecord.mem (pa + j)).toNat = recordWord info launch wgid core / 2 ^ (8 * j) % 256 := by
  let put := s.recordPut info launch wgid core key rest va pa a
  have hkeeps : s.writeRecord.service = put.service ∧ s.writeRecord.mem = put.mem := by
    have hwrites : (!s.toHost info.cls launch && !(s.handlerLacks key info.cls).isEmpty) = false := by
      rcases h with h | h
      · rw [← s.toHost_eq_false_iff, Bool.not_eq_false] at h
        simp [h]
      · simp [h]
    rw [State.writeRecord_eq hrec hring]
    simp only [hwrites, Bool.false_eq_true, if_false]
    split
    · exact ⟨rfl, rfl⟩
    · cases hstart : put.startHandler info.cls va with
      | none => exact ⟨rfl, rfl⟩
      | some t => exact State.startHandler_keeps hstart
  obtain ⟨hrecords, hindex, hblocked⟩ : put.records = rest ∧ put.frwp = s.frwp + 1 ∧ put.frBlocked = false := State.recordPut_leavesQueue
  obtain ⟨hservice, hmem⟩ := hkeeps
  refine ⟨(congrArg (fun x => x.1) hservice).trans hrecords, (congrArg (fun x => x.2.1) hservice).trans hindex,
    (congrArg (fun x => x.2.2.1) hservice).trans hblocked, fun j hj => ?_⟩
  rw [hmem]
  exact State.recordPut_byte hj

end

/-! The watchdog (R400). -/

theorem State.stalled_running {s : State} {w : Workgroup} (h : s.stalled w = true) : w.parked = none ∧ w.fibres ≠ [] := by
  simp only [State.stalled, Bool.and_eq_true, Bool.not_eq_true', Option.isNone_iff_eq_none, List.isEmpty_eq_false_iff] at h
  obtain ⟨⟨⟨⟨-, hparked⟩, hfibres⟩, -⟩, -⟩ := h
  exact ⟨hparked, hfibres⟩

/-- A fibre is found wherever there is one: the first that waits, else the first. -/
theorem exists_find?_orElse_head? {α : Type} (p : α → Bool) {l : List α} (h : l ≠ []) : ∃ x, (l.find? p).orElse (fun _ => l.head?) = some x := by
  obtain ⟨y, t, rfl⟩ := List.exists_cons_of_ne_nil h
  cases hf : (y :: t).find? p with
  | none => exact ⟨y, rfl⟩
  | some x => exact ⟨x, rfl⟩

theorem State.watchdogExpiry_parks {s : State} {key : Nat} {w : Workgroup} (hw : s.wg? key = some w) (hs : s.stalled w = true) :
    ∃ t v e, exec (.watchdogExpiry key) s = .next t ∧ t.wg? key = some v ∧ v.parked = some e ∧ e.cls = 16 := by
  obtain ⟨hparked, hfibres⟩ := State.stalled_running hs
  obtain ⟨x, hx⟩ := exists_find?_orElse_head? (fun x => decide (waitCode x ≠ 0)) hfibres
  let e : FaultInfo := { cls := 16, pc := x.pc, fibre := x.index, body := s.tide.toNat + waitCode x * 2 ^ 64 + 2 ^ x.lane * 2 ^ 96 }
  let u := s.log 8 w.core 16 0 w.wgid x.pc.toNat 0
  have hexec : exec (.watchdogExpiry key) s = .next (u.park key e) := by
    simp only [show exec (.watchdogExpiry key) s = execWatchdogExpiry key s from rfl, execWatchdogExpiry, hw, hs, hx, Bool.not_true,
      Bool.false_eq_true, if_false, u, e]
  have hu : u.wg? key = some w := (s.wg?_log ..).trans hw
  have hv := u.wg?_park e hu hparked key
  rw [hu, Option.map_some, if_pos rfl] at hv
  exact ⟨_, _, e, hexec, hv, rfl, rfl⟩

/-! Commands of `csr.fcmd` (R393 to R395, R401). -/

/-- A command with no parked workgroup at `csr.fres` leaves bit 31 clear. -/
theorem State.fcmd_none {s : State} {a : Agent} {cmd : Nat} (value : Option Word) (hcmd : cmd ≠ 0)
    (h : s.parkedVa (s.agent a).fres.toNat = none) : s.fcmd a cmd value = s.updAgent a (fun c => { c with fcmd := 0 }) := by
  simp only [State.fcmd, if_neg hcmd, h]
  rfl

/-- The host's CSRs after a command that was performed. -/
def State.hostDone (t : State) : State := { t with hostCsr := { t.hostCsr with fcmd := 0x80000000 } }

section
variable {s : State} {w : Workgroup} (h : s.parkedVa (s.agent .host).fres.toNat = some w)
include h

theorem State.fcmd_host_resumeAt (value : Option Word) : s.fcmd .host 1 value = (s.resume w.key false value).hostDone := by
  simp only [State.fcmd, h]
  rfl

theorem State.fcmd_host_resumePast (value : Option Word) : s.fcmd .host 2 value = (s.resume w.key true value).hostDone := by
  simp only [State.fcmd, h]
  rfl

theorem State.fcmd_host_kill : s.fcmd .host 3 none = (s.kill w.key).hostDone := by
  simp only [State.fcmd, h]
  rfl

end

theorem State.exec_csrWrite {s : State} {num : BitVec 12} {value : Word} (a : Agent) (hw : csrReadOnly num.toNat = false)
    (hr : csrInRange num.toNat value = true) : exec (.csrWrite a num value) s = .next (s.csrStore a num.toNat value) := by
  simp only [show exec (.csrWrite a num value) s = execCsrWrite a num value s from rfl, execCsrWrite, hw, State.csrWrite, hr, Bool.false_eq_true,
    if_false, if_true]

/-! Pre-emption (R397 to R399). -/

section
variable {s : State} {a : Agent}

theorem State.preempt_none (h : s.preemptTarget a = none) : s.preempt a = s.setPstat a 5 := by simp only [State.preempt, h]
theorem State.restore_none (h : s.preemptTarget a = none) : s.restore a = s.setPstat a 5 := by simp only [State.restore, h]
theorem State.killSaved_none (h : s.preemptTarget a = none) : s.killSaved a = s.setPstat a 5 := by simp only [State.killSaved, h]

variable {w : Workgroup} (h : s.preemptTarget a = some w)
include h

theorem State.preemptTarget_mem : w ∈ s.wgs := List.mem_of_find?_eq_some h

theorem State.preempt_notRunning (hp : w.preempt ≠ .running) : s.preempt a = s.setPstat a 6 := by simp only [State.preempt, h, if_pos hp]

theorem State.restore_notSaved (hp : w.preempt ≠ .saved) : s.restore a = s.setPstat a 6 := by simp only [State.restore, h, if_pos hp]

theorem State.restore_saved (hp : w.preempt = .saved) :
    s.restore a = ((s.tryRestore w).getD (s.updWg w.key (fun w => { w with restoring := true }))).setPstat a 0 := by
  simp [State.restore, h, hp]

theorem State.killSaved_some : s.killSaved a =
    if w.preempt = .saved ∨ w.parked.isSome = true then (s.kill w.key).setPstat a 7 else s.setPstat a 6 := by
  simp [State.killSaved, h]

end

/-- A workgroup as a request leaves it that makes it drain or save: its spin records are voided (R266). -/
def Workgroup.asked (a : Agent) (area : Nat) (p : Preempt) (w : Workgroup) : Workgroup :=
  { w with preempt := p, preemptBy := a, saveArea := area, fibres := w.fibres.map Fibre.voidSpin }

/-- The black box's entries of a request: one of kind 2, and one of kind 3 where no method is within the bound (R399, R403). -/
def State.preemptLogged (s : State) (w : Workgroup) (missed : Bool) (detail : Nat) : State :=
  let s1 := s.log 2 w.core 0 0 w.wgid 0 detail
  if missed then s1.log 3 w.core 0 0 w.wgid 0 detail else s1

theorem State.preemptLogged_wgs (s : State) (w : Workgroup) (missed : Bool) (detail : Nat) : (s.preemptLogged w missed detail).wgs = s.wgs := by
  cases missed <;> simp [State.preemptLogged]

/-- A request to a running target by its method: 0 drains, 1 saves, any other flushes (R397, R399). -/
theorem State.preempt_running {s : State} {a : Agent} {w : Workgroup} (h : s.preemptTarget a = some w) (hp : w.preempt = .running) :
    ∃ (u : State) (bits : Nat), u.wgs = s.wgs ∧ s.preempt a = match (chooseMethod (s.methods w) (s.agent a).pbound.toNat).1.1 with
      | 0 => (u.updWg w.key (Workgroup.asked a (s.agent a).psave.toNat .draining)).setPstat a (1 + bits)
      | 1 => (u.updWg w.key (Workgroup.asked a (s.agent a).psave.toNat .saving)).setPstat a (1 + bits)
      | _ => (u.flushWg w).setPstat a (4 + bits) := by
  simp only [State.preempt, h, hp, ne_eq, not_true, if_false]
  obtain ⟨⟨m, num, den⟩, missed⟩ := chooseMethod (s.methods w) (s.agent a).pbound.toNat
  let detail := m + num * 10 / (36 * max 1 den) * 2 ^ 32
  exact ⟨s.preemptLogged w missed detail, (if missed then 8 else 0) + (if w.parked.isSome then 16 else 0), s.preemptLogged_wgs w missed detail, rfl⟩

/-- A workgroup asked to drain or save stands so, whatever its agent is then answered. -/
theorem State.asked_preempt {s u : State} {a : Agent} {w : Workgroup} (hu : u.wgs = s.wgs) (hw : w ∈ s.wgs) (area n : Nat) (p : Preempt) :
    (((u.updWg w.key (Workgroup.asked a area p)).setPstat a n).wg? w.key).map (fun v => v.preempt) = some p := by
  obtain ⟨v, hv⟩ := State.exists_wg?_of_mem (s := u) (hu ▸ hw)
  rw [State.setPstat, State.wg?_updAgent_map _ (fun _ _ => rfl), u.wg?_updWg_same w.key (Workgroup.asked a area p) (fun _ => rfl), hv]
  rfl

/-- A flushed workgroup is gone. -/
theorem State.flushWg_gone (u : State) (w : Workgroup) (a : Agent) (n : Nat) : ((u.flushWg w).setPstat a n).wg? w.key = none := by
  rw [← Option.map_eq_none_iff (f := fun v : Workgroup => v.preempt), State.setPstat, State.wg?_updAgent_map _ (fun _ _ => rfl), Option.map_eq_none_iff]
  simp [State.flushWg, State.wg?, State.dropRecord]

/-- R397: a request of a running target by each method. -/
theorem State.preempt_takesEffect {s : State} {a : Agent} {w : Workgroup} (h : s.preemptTarget a = some w) (hp : w.preempt = .running) :
    let m := (chooseMethod (s.methods w) (s.agent a).pbound.toNat).1.1
    (m = 0 → ((s.preempt a).wg? w.key).map (fun v => v.preempt) = some .draining) ∧
    (m = 1 → ((s.preempt a).wg? w.key).map (fun v => v.preempt) = some .saving) ∧ (1 < m → (s.preempt a).wg? w.key = none) := by
  obtain ⟨u, bits, hu, hpre⟩ := State.preempt_running h hp
  have hmem := State.preemptTarget_mem h
  rw [hpre]
  generalize (chooseMethod (s.methods w) (s.agent a).pbound.toNat).1.1 = m
  refine ⟨fun hm => ?drain, fun hm => ?save, fun hm => ?flush⟩
  case drain =>
    subst hm
    exact State.asked_preempt hu hmem ..
  case save =>
    subst hm
    exact State.asked_preempt hu hmem ..
  case flush =>
    obtain ⟨k, rfl⟩ := Nat.exists_eq_add_of_le' hm
    exact u.flushWg_gone w a _

/-! Saves (R232, R328, R399). -/

theorem State.exec_preemptSaveDone {s : State} {key : Nat} {w : Workgroup} (hw : s.wg? key = some w) (hp : w.preempt = .saving)
    (hr : s.saveReady w = true) : exec (.preemptSaveDone key) s = .next (s.saveDone w) := by
  simp only [show exec (.preemptSaveDone key) s = execPreemptSaveDone key s from rfl, execPreemptSaveDone, hw, hp, hr, decide_true, Bool.and_self, if_true]

@[simp] theorem State.releaseCore_service (s : State) (w : Workgroup) : (s.releaseCore w).service = s.service := rfl

/-- A release of a workgroup's core leaves its warp slots to others. -/
theorem State.releaseCore_slots (s : State) (w : Workgroup) : ∀ sl ∈ ((s.releaseCore w).core w.core).slots, sl.wg ≠ w.key := by
  have hslots : ((s.releaseCore w).core w.core).slots = (s.core w.core).slots.filter (fun sl => sl.wg ≠ w.key) := by
    change (Sparse.get {} (Sparse.set {} s.cores w.core _) w.core).slots = _
    rw [Sparse.get_set_same]
  intro sl hsl
  rw [hslots] at hsl
  simpa using (List.mem_filter.mp hsl).2

/-- The state in which a context is saved: its dirty words home, its area written. -/
def State.saveWritten (s : State) (w : Workgroup) : State := State.fillArea 0 (4096 + s.contextBytes w) w.saveArea (s.wgRelease w)

theorem State.saveWritten_service (s : State) (w : Workgroup) : (s.saveWritten w).service = s.service := by
  rw [State.saveWritten, State.fillArea_service, State.wgRelease_service]

/-- A workgroup whose context has been captured. -/
def Workgroup.savedAs (v : Saved) (w : Workgroup) : Workgroup :=
  { w with preempt := .saved, saved := some v, fibres := w.fibres.map (fun x => { x with yielded := false }) }

/-- A save that is done: the core is released, the workgroup saved, and its agent answered. -/
theorem State.saveDone_eq (s : State) (w : Workgroup) : ∃ n, s.saveDone w =
    ((((s.saveWritten w).updCore w.core (fun c => { c with idleSince := s.tide.toNat })).releaseCore w).updWg w.key
      (Workgroup.savedAs ((s.saveWritten w).capture w))).setPstat w.preemptBy n := ⟨_, rfl⟩

theorem State.saveDone_takesEffect {s : State} {key : Nat} {w : Workgroup} (hw : s.wg? key = some w) (hp : w.preempt = .saving)
    (hr : s.saveReady w = true) : ∃ t v, exec (.preemptSaveDone key) s = .next t ∧ t.wg? key = some v ∧ v.preempt = .saved ∧
      v.saved.isSome = true ∧ ∀ sl ∈ (t.core w.core).slots, sl.wg ≠ key := by
  obtain ⟨n, heq⟩ := s.saveDone_eq w
  let u := ((s.saveWritten w).updCore w.core (fun c => { c with idleSince := s.tide.toNat })).releaseCore w
  have hu : u.service = s.service := by simp only [u, State.releaseCore_service, State.updCore_service, State.saveWritten_service]
  obtain ⟨v, hv⟩ : ∃ v, u.wg? w.key = some v := State.exists_wg?_of_service hu ((State.wg?_key hw).symm ▸ hw)
  have hsaved : ((s.saveDone w).wg? w.key).map (fun v => (v.preempt, v.saved)) = some (.saved, some ((s.saveWritten w).capture w)) := by
    rw [heq, State.setPstat, State.wg?_updAgent_map _ (fun _ _ => rfl), u.wg?_updWg_same w.key (Workgroup.savedAs _) (fun _ => rfl), hv]
    rfl
  have hslots : ∀ sl ∈ ((s.saveDone w).core w.core).slots, sl.wg ≠ w.key := by
    rw [heq, State.setPstat, State.core_updAgent, State.core_updWg]
    exact State.releaseCore_slots _ w
  obtain ⟨y, hy, hstands⟩ := Option.map_eq_some_iff.mp hsaved
  obtain ⟨hpre, hctx⟩ := Prod.mk.inj hstands
  rw [State.wg?_key hw] at hy hslots
  exact ⟨_, y, State.exec_preemptSaveDone hw hp hr, hy, hpre, by rw [hctx]; rfl, hslots⟩

/-! Translations, launch counters and Cove ways (R15, R193, R401). -/

theorem State.tlbInvalidate_takesEffect (s : State) (a : Agent) (v : Word) : ∃ t, exec (.tlbInvalidate a v) s = .next t ∧ ∀ e, e ∈ t.tlb ↔
    e ∈ s.tlb ∧ ¬ ((v.getLsbD 8 = true ∨ e.1 = v.toNat % 256) ∧
      (v.getLsbD 9 = false ∨ e.2.1 / pageBytes (pte e.2.2 5 2) = (s.agent a).tlbva.toNat / pageBytes (pte e.2.2 5 2))) := by
  refine ⟨s.tlbInvalidate a v, rfl, fun e => ?_⟩
  rw [State.tlbInvalidate, List.mem_filter, Bool.not_eq_true', ← Bool.not_eq_true, Bool.and_eq_true, Bool.or_eq_true, Bool.or_eq_true,
    Bool.not_eq_true', decide_eq_true_eq, decide_eq_true_eq]

theorem State.counter_disarm (s : State) (v : Word) (n : Nat) : (s.disarm v).counter n = if n = v.toNat % 4096 then {} else s.counter n :=
  Sparse.get_set {} s.counters (v.toNat % 4096) n {}

theorem State.counterDisarmed_takesEffect (s : State) (v : Word) : ∃ t, exec (.launchCounterDisarm v) s = .next t ∧
    t.counter (v.toNat % 4096) = {} ∧ ∀ n, n ≠ v.toNat % 4096 → t.counter n = s.counter n :=
  ⟨s.disarm v, rfl, by rw [State.counter_disarm, if_pos rfl], fun n hn => by rw [State.counter_disarm, if_neg hn]⟩

theorem State.coveWaysWrite_takesEffect (s : State) (a : Agent) {v : Word} (hv : v ≠ 0) (hle : v.toNat ≤ 8) : ∃ t,
    exec (.coveWaysWrite a v) s = .next t ∧
      let die := (s.agent a).csel.toNat / 192
      if s.staged die = true then Sparse.get 0 t.covePending die = v.toNat ∧ t.coveWays = s.coveWays else Sparse.get 1 t.coveWays die = v.toNat := by
  refine ⟨s.coveWrite a v, rfl, ?_⟩
  have hrange : ¬ (v = 0 ∨ v.toNat > 8) := by
    rintro (h0 | hgt)
    · exact hv h0
    · omega
  cases hstaged : s.staged ((s.agent a).csel.toNat / 192) with
  | true =>
    simp only [State.coveWrite, if_neg hrange, dieOf, hstaged, if_true]
    exact ⟨Sparse.get_set_same .., trivial⟩
  | false =>
    simp only [State.coveWrite, if_neg hrange, dieOf, hstaged, Bool.false_eq_true, if_false]
    exact Sparse.get_set_same ..

/-! The obligation. -/

/-- The record write by the hub's first try and by a later one (R390, R391, R409). -/
theorem State.recordEvents_takeEffect {s : State} {info : FaultInfo} {launch wgid core key : Nat} {rest : List (FaultInfo × Nat × Nat × Nat × Nat)}
    {va pa : Nat} {a : Attr} (hrec : s.records = (info, launch, wgid, core, key) :: rest) (hring : s.ringEntry = some (va, pa, a)) :
    (s.Vectored info.cls launch → s.handlerLacks key info.cls ≠ [] →
      exec .faultRecordWrite s = .next (s.askLines (.handler key) (s.handlerLacks key info.cls)) ∧
      exec .faultRingRetry s = .next (s.askLines (.handler key) (s.handlerLacks key info.cls))) ∧
    (¬ s.Vectored info.cls launch ∨ s.handlerLacks key info.cls = [] →
      ∃ t, exec .faultRecordWrite s = .next t ∧ exec .faultRingRetry s = .next t ∧ t.records = rest ∧ t.frwp = s.frwp + 1 ∧ t.frBlocked = false ∧
        ∀ j, j < 64 → (Sparse.get 0 t.mem (pa + j)).toNat = recordWord info launch wgid core / 2 ^ (8 * j) % 256) := by
  refine ⟨fun hv hl => ?_, fun h => ⟨s.writeRecord, rfl, rfl, State.writeRecord_writes hrec hring h⟩⟩
  rw [← State.writeRecord_asks hrec hring hv hl]
  exact ⟨rfl, rfl⟩

/-- The commands of `csr.fcmd` with no parked workgroup at `csr.fres`. -/
theorem State.fcmdEvents_none {s : State} {a : Agent} (value : Option Word) (h : s.parkedVa (s.agent a).fres.toNat = none) :
    let none' := s.updAgent a (fun c => { c with fcmd := 0 })
    exec (.fcmdResumeAtPc a value) s = .next none' ∧ exec (.fcmdResumePast a value) s = .next none' ∧ exec (.fcmdKill a) s = .next none' :=
  ⟨congrArg _ (State.fcmd_none value Nat.one_ne_zero h), congrArg _ (State.fcmd_none value (Nat.succ_ne_zero 1) h),
    congrArg _ (State.fcmd_none none (Nat.succ_ne_zero 2) h)⟩

/-- The host's commands of `csr.fcmd` for the workgroup parked with the record at `csr.fres`. -/
theorem State.fcmdEvents_host {s : State} {w : Workgroup} (value : Option Word) (h : s.parkedVa (s.agent .host).fres.toNat = some w) :
    exec (.fcmdResumeAtPc .host value) s = .next (s.resume w.key false value).hostDone ∧
      exec (.fcmdResumePast .host value) s = .next (s.resume w.key true value).hostDone ∧ exec (.fcmdKill .host) s = .next (s.kill w.key).hostDone :=
  ⟨congrArg _ (State.fcmd_host_resumeAt h value), congrArg _ (State.fcmd_host_resumePast h value), congrArg _ (State.fcmd_host_kill h)⟩

/-- Settles O36: the record write by `State.writeRecord_writes`, the commands and requests by the workgroup that they select. -/
theorem faultAndPreemptionServiceCompletes : Obligations.FaultAndPreemptionServiceCompletes := by
  unfold Obligations.FaultAndPreemptionServiceCompletes
  refine ⟨fun s => ⟨?records, fun _ => rfl, ?watchdog, ?noRecord, ?host, ?csr⟩, fun s a => ⟨?noTarget, ?target, ?saved, ?tlb, ?counter, ?cove⟩⟩
  case records => exact fun _ _ _ _ _ _ _ _ _ hrec hring => State.recordEvents_takeEffect hrec hring
  case watchdog => exact fun _ _ hw hs => State.watchdogExpiry_parks hw hs
  case noRecord => exact fun _ value h => State.fcmdEvents_none value h
  case host => exact fun value _ h => State.fcmdEvents_host value h
  case csr => exact fun a _ _ hw hr => State.exec_csrWrite a hw hr
  case noTarget =>
    exact fun h => ⟨congrArg _ (State.preempt_none h), congrArg _ (State.restore_none h), congrArg _ (State.killSaved_none h)⟩
  case target =>
    exact fun w h => ⟨rfl, rfl, State.preempt_notRunning h, State.restore_notSaved h, State.preempt_takesEffect h, State.restore_saved h,
      congrArg _ (State.killSaved_some h)⟩
  case saved => exact fun _ _ hw hp hr => State.saveDone_takesEffect hw hp hr
  case tlb => exact s.tlbInvalidate_takesEffect a
  case counter => exact s.counterDisarmed_takesEffect
  case cove => exact fun _ hv hle => s.coveWaysWrite_takesEffect a hv hle

end Sys2Proof.Machine
end

section
/-! The instruction word (R30, R60, R61): its layout is a bijection with opcode and fields, and the opcode map and the encoder's tables number the
instructions alike. -/

namespace Sys2Proof

/-! The layout of the word (R30). -/

theorem append_toNat {m n : Nat} (x : BitVec m) (y : BitVec n) : (x ++ y).toNat = x.toNat * 2 ^ n + y.toNat := by
  rw [BitVec.toNat_append, ← Nat.shiftLeft_add_eq_or_of_lt y.isLt, Nat.shiftLeft_eq]

/-- R30: the word as the sum of its fields, each at its place. -/
theorem wordOf_toNat (op : BitVec 9) (f : Fields) : (wordOf op f).toNat =
    op.toNat * 2 ^ 87 + f.stall.toNat * 2 ^ 82 + f.guardOn.toNat * 2 ^ 81 + f.guardPred.toNat * 2 ^ 77 + f.guardNeg.toNat * 2 ^ 76 +
      f.dst.toNat * 2 ^ 67 + f.srcA.toNat * 2 ^ 58 + f.srcB.toNat * 2 ^ 49 + f.srcC.toNat * 2 ^ 40 + f.immSel.toNat * 2 ^ 39 +
      f.mods.toNat * 2 ^ 32 + f.imm.toNat := by
  refine (append_toNat _ f.imm).trans ?_
  simp only [append_toNat, BitVec.toNat_ofBool]
  omega

theorem extractLsb'_toNat {w : Nat} (x : BitVec w) (a n : Nat) : (x.extractLsb' a n).toNat = x.toNat / 2 ^ a % 2 ^ n := by
  rw [BitVec.extractLsb'_toNat, Nat.shiftRight_eq_div_pow]

theorem getLsbD_toNat {w : Nat} (x : BitVec w) (a : Nat) : (x.getLsbD a).toNat = x.toNat / 2 ^ a % 2 := by
  rw [BitVec.getLsbD, Nat.toNat_testBit]

theorem bool_toNat_inj {a b : Bool} (h : a.toNat = b.toNat) : a = b := by
  cases a <;> cases b <;> simp_all

theorem Fields.ext_toNat {f g : Fields} (hstall : f.stall.toNat = g.stall.toNat) (hon : f.guardOn.toNat = g.guardOn.toNat)
    (hpred : f.guardPred.toNat = g.guardPred.toNat) (hneg : f.guardNeg.toNat = g.guardNeg.toNat) (hdst : f.dst.toNat = g.dst.toNat)
    (ha : f.srcA.toNat = g.srcA.toNat) (hb : f.srcB.toNat = g.srcB.toNat) (hc : f.srcC.toNat = g.srcC.toNat)
    (hsel : f.immSel.toNat = g.immSel.toNat) (hmods : f.mods.toNat = g.mods.toNat) (himm : f.imm.toNat = g.imm.toNat) : f = g := by
  cases f; cases g
  simp only [Fields.mk.injEq]
  exact ⟨BitVec.eq_of_toNat_eq hstall, bool_toNat_inj hon, BitVec.eq_of_toNat_eq hpred, bool_toNat_inj hneg, BitVec.eq_of_toNat_eq hdst,
    BitVec.eq_of_toNat_eq ha, BitVec.eq_of_toNat_eq hb, BitVec.eq_of_toNat_eq hc, bool_toNat_inj hsel, BitVec.eq_of_toNat_eq hmods,
    BitVec.eq_of_toNat_eq himm⟩

theorem opcode_wordOf (op : BitVec 9) (f : Fields) : (wordOf op f).extractLsb' 87 9 = op := by
  refine BitVec.eq_of_toNat_eq ?_
  rw [extractLsb'_toNat, wordOf_toNat]
  have := f.guardOn.toNat_lt; have := f.guardNeg.toNat_lt; have := f.immSel.toNat_lt
  omega

theorem fieldsOf_wordOf (op : BitVec 9) (f : Fields) : fieldsOf (wordOf op f) = f := by
  have := f.guardOn.toNat_lt; have := f.guardNeg.toNat_lt; have := f.immSel.toNat_lt
  apply Fields.ext_toNat <;> simp only [fieldsOf, extractLsb'_toNat, getLsbD_toNat, wordOf_toNat] <;> omega

/-- A number above a place: the field of `b` bits there, and the number above that. -/
theorem div_pow_split (n a b : Nat) : n / 2 ^ a = n / 2 ^ (a + b) * 2 ^ b + n / 2 ^ a % 2 ^ b := by
  rw [pow_add, ← Nat.div_div_eq_div_mul, Nat.div_add_mod']

theorem wordOf_fieldsOf (w : BitVec 96) : wordOf (w.extractLsb' 87 9) (fieldsOf w) = w := by
  refine BitVec.eq_of_toNat_eq ?_
  simp only [wordOf_toNat, fieldsOf, extractLsb'_toNat, getLsbD_toNat]
  have htop : w.toNat / 2 ^ 87 % 2 ^ 9 = w.toNat / 2 ^ 87 := Nat.mod_eq_of_lt (by omega)
  have h0 := div_pow_split w.toNat 0 32
  have h32 := div_pow_split w.toNat 32 7
  have h39 := div_pow_split w.toNat 39 1
  have h40 := div_pow_split w.toNat 40 9
  have h49 := div_pow_split w.toNat 49 9
  have h58 := div_pow_split w.toNat 58 9
  have h67 := div_pow_split w.toNat 67 9
  have h76 := div_pow_split w.toNat 76 1
  have h77 := div_pow_split w.toNat 77 4
  have h81 := div_pow_split w.toNat 81 1
  have h82 := div_pow_split w.toNat 82 5
  simp only [pow_zero, Nat.div_one] at h0 ⊢
  norm_num only at *
  linarith

/-! The tables (R60, R61). -/

/-- The encodings of a list, which has the consecutive opcodes from `n` on, meet a condition on opcode and encoding. -/
def AllFrom (P : Nat → (Fields → Instr) → Prop) : Nat → List (Fields → Instr) → Prop
  | _, [] => True
  | n, c :: t => P n c ∧ AllFrom P (n + 1) t

theorem AllFrom.getElem? {P : Nat → (Fields → Instr) → Prop} {n k : Nat} {l : List (Fields → Instr)} {c : Fields → Instr} (h : AllFrom P n l)
    (hk : l[k]? = some c) : P (n + k) c := by
  induction l generalizing n k with
  | nil => simp at hk
  | cons d t ih =>
    obtain ⟨hd, ht⟩ := h
    cases k with
    | zero =>
      obtain rfl : d = c := by simpa using hk
      exact hd
    | succ k =>
      rw [show n + (k + 1) = n + 1 + k by omega]
      exact ih ht (by simpa using hk)

/-- What every encoding of the opcode map meets at its opcode, the encoding of an instruction found there meets. -/
theorem AllFrom.of_ofOpcode {P : Nat → (Fields → Instr) → Prop} (h : ∀ e ∈ opcodeMap, AllFrom P e.1 e.2) {op : Nat} {f : Fields} {i : Instr}
    (hi : ofOpcode op f = some i) : ∃ c, P op c ∧ c f = i := by
  obtain ⟨e, he, hi⟩ := List.exists_of_findSome?_eq_some hi
  split at hi
  case isFalse => simp at hi
  case isTrue hle =>
    obtain ⟨c, hc, rfl⟩ := Option.map_eq_some_iff.mp hi
    refine ⟨c, ?_, rfl⟩
    have := (h e he).getElem? hc
    rwa [Nat.add_sub_cancel' hle] at this

/-- An encoding has an opcode in the encoder's table, and carries its fields. -/
def Numbered (n : Nat) (c : Fields → Instr) : Prop := ∀ f, (c f).opcode = some (BitVec.ofNat 9 n) ∧ (c f).fields = some f

theorem opcodeMap_numbered : ∀ e ∈ opcodeMap, AllFrom Numbered e.1 e.2 := by
  simp only [opcodeMap, List.forall_mem_cons]
  refine ⟨?_, ?_, ?_, ?_, ?_, ?_, ?_, ?_, ?_, ?_, ?_, ?_, ?_, ?_, by simp⟩
  all_goals
    repeat refine ⟨fun _ => ⟨rfl, rfl⟩, ?_⟩
    exact trivial

/-- The instruction that the opcode map gives has that opcode and those fields. -/
theorem opcode_fields_of_ofOpcode {op : Nat} {f : Fields} {i : Instr} (h : ofOpcode op f = some i) :
    i.opcode = some (BitVec.ofNat 9 op) ∧ i.fields = some f := by
  obtain ⟨c, hc, rfl⟩ := AllFrom.of_ofOpcode opcodeMap_numbered h
  exact hc f

/-- The opcode map has every instruction at its opcode. -/
theorem ofOpcode_of_opcode {i : Instr} {op : BitVec 9} {f : Fields} (ho : i.opcode = some op) (hf : i.fields = some f) :
    ofOpcode op.toNat f = some i := by
  cases i <;> cases ho <;> cases hf <;> rfl

theorem decodeWord_wordOf (op : BitVec 9) (f : Fields) {i : Instr} (h : ofOpcode op.toNat f = some i) : decodeWord (wordOf op f) = .ok i := by
  simp only [decodeWord, opcode_wordOf, fieldsOf_wordOf, h]

theorem encode_of_opcode {i : Instr} {op : BitVec 9} {f : Fields} (ho : i.opcode = some op) (hf : i.fields = some f) :
    encode i = some (wordOf op f) := by
  simp only [encode, ho, hf]

theorem encode_eq_some_iff {i : Instr} {word : BitVec 96} :
    encode i = some word ↔ ∃ op f, i.opcode = some op ∧ i.fields = some f ∧ wordOf op f = word := by
  unfold encode
  cases i.opcode <;> cases i.fields <;> simp

theorem decodeWord_eq_ok_iff {word : BitVec 96} {i : Instr} :
    decodeWord word = .ok i ↔ ofOpcode (word.extractLsb' 87 9).toNat (fieldsOf word) = some i := by
  unfold decodeWord
  cases ofOpcode (word.extractLsb' 87 9).toNat (fieldsOf word) <;> simp

theorem decodeWord_eq_error {word : BitVec 96} {e : DecodeError} (h : decodeWord word = .error e) : e = .illegalOpcode (word.extractLsb' 87 9).toNat := by
  unfold decodeWord at h
  cases hi : ofOpcode (word.extractLsb' 87 9).toNat (fieldsOf word) <;> simp_all

/-- Settles O47: an instruction's word has its opcode and its fields, and the opcode map has the instruction at its opcode. -/
theorem decodeOfEncode : Obligations.DecodeOfEncode := by
  unfold Obligations.DecodeOfEncode
  intro i word h
  obtain ⟨op, f, ho, hf, rfl⟩ := encode_eq_some_iff.mp h
  exact decodeWord_wordOf op f (ofOpcode_of_opcode ho hf)

theorem encode_decodeWord {word : BitVec 96} {i : Instr} (h : decodeWord word = .ok i) : encode i = some word := by
  obtain ⟨ho, hf⟩ := opcode_fields_of_ofOpcode (decodeWord_eq_ok_iff.mp h)
  rw [encode_of_opcode ho hf, BitVec.ofNat_toNat, BitVec.setWidth_eq, wordOf_fieldsOf]

theorem opcode_toNat (word : BitVec 96) : (word.extractLsb' 87 9).toNat = word.toNat / 2 ^ 87 := by
  rw [extractLsb'_toNat, Nat.mod_eq_of_lt (by omega)]

theorem assignedOpcodes_length : ((List.range 512).filter (fun op => (ofOpcode op (fieldsOf 0)).isSome)).length = 288 := by
  decide +kernel

/-- Settles O48: a word that decodes has the opcode and the fields of its instruction. -/
theorem encodeOfDecode : Obligations.EncodeOfDecode := by
  unfold Obligations.EncodeOfDecode
  exact ⟨fun _ _ h => encode_decodeWord h, fun word _ h => opcode_toNat word ▸ decodeWord_eq_error h, assignedOpcodes_length⟩

/-- A word decodes to the encoding that the opcode map has at its top nine bits, with the fields of its other bits. -/
theorem decodeWord_of_ofOpcode {word : BitVec 96} {ctor : Fields → Instr} (h : ofOpcode (word.extractLsb' 87 9).toNat = fun f => some (ctor f)) :
    decodeWord word = .ok (ctor (fieldsOf word)) :=
  decodeWord_eq_ok_iff.mpr (congrFun h _)

/-- Settles O49: each word by the opcode map at its opcode. -/
theorem wordsDecode : Obligations.WordsDecode := by
  unfold Obligations.WordsDecode
  refine ⟨decodeWord_of_ofOpcode rfl, decodeWord_of_ofOpcode rfl, decodeWord_of_ofOpcode rfl, decodeWord_of_ofOpcode rfl, decodeWord_of_ofOpcode rfl,
    decodeWord_of_ofOpcode rfl, decodeWord_of_ofOpcode rfl, decodeWord_of_ofOpcode rfl, decodeWord_of_ofOpcode rfl, ?dst, ?srcA, ?srcB⟩
  all_goals decide

end Sys2Proof
end

section
/-! Sequential flow (R25) and what the operand codes name (R34 to R37, R109). -/

namespace Sys2Proof.Machine

/-! The program counter (R24, R25). -/

/-- A PC by its line and slot, as a number. -/
theorem pcOf_toNat (line : Nat) {k : Nat} (hk : k < 64) : (pcOf line k).toNat =
    line % 2 ^ 57 / 64 * 64 + k + (if line % 2 ^ 57 / 64 * 64 / 2 ^ 56 = 1 then 2 ^ 64 - 2 ^ 57 else 0) := by
  unfold pcOf
  rw [BitVec.toNat_ofNat]
  split <;> omega

theorem pcLine_pcOf (line : Nat) {k : Nat} (hk : k < 64) : pcLine (pcOf line k) = line % 2 ^ 57 / 64 * 64 := by
  rw [pcLine, pcOf_toNat line hk]
  split <;> omega

theorem pcSlot_pcOf (line : Nat) {k : Nat} (hk : k < 8) : pcSlot (pcOf line k) = k := by
  rw [pcSlot, pcOf_toNat line (by omega)]
  split <;> omega

theorem pcLegal_pcOf (line : Nat) {k : Nat} (hk : k < 5) : pcLegal (pcOf line k) = true := by
  rw [pcLegal, pcLine_pcOf line (by omega), pcSlot_pcOf line (by omega)]
  have hline : pcOf (line % 2 ^ 57 / 64 * 64) k = pcOf line k := by
    unfold pcOf
    rw [show line % 2 ^ 57 / 64 * 64 % 2 ^ 57 / 64 * 64 = line % 2 ^ 57 / 64 * 64 by omega]
  simp only [hline, decide_true, Bool.true_and, decide_eq_true_eq]
  omega

theorem seqPc_within {pc : BitVec 64} (h : pcSlot pc < 4) :
    pcLine (seqPc pc) = pcLine pc ∧ pcSlot (seqPc pc) = pcSlot pc + 1 ∧ pcLegal (seqPc pc) = true := by
  rw [seqPc, if_neg (by omega), pcLine_pcOf _ (by omega), pcSlot_pcOf _ (by omega), pcLegal_pcOf _ (by omega)]
  refine ⟨?_, rfl, rfl⟩
  unfold pcLine
  omega

theorem seqPc_nextLine {pc : BitVec 64} (h : pcSlot pc = 4) :
    pcLine (seqPc pc) = (pcLine pc + 64) % 2 ^ 57 ∧ pcSlot (seqPc pc) = 0 ∧ pcLegal (seqPc pc) = true := by
  rw [seqPc, if_pos h, pcLine_pcOf _ (by omega), pcSlot_pcOf _ (by omega), pcLegal_pcOf _ (by omega)]
  refine ⟨?_, rfl, rfl⟩
  unfold pcLine
  omega

/-- R25: a batch of which no fibre stands at its entry PC enters a line that passes checks 1 to 5 without a target bit. -/
theorem lineEntryFault_of_flowing {w : Workgroup} {sl : Slot} {x : Fibre} {b : BitVec 512} (hline : lineFault b = none)
    (hflow : ∀ y ∈ w.fibres, y.index ∈ sl.lanes → y.fresh = false) : lineEntryFault w sl x (.ok b) = none := by
  have hfresh : w.fibres.filter (fun y => sl.lanes.contains y.index && y.fresh) = [] := by
    rw [List.filter_eq_nil_iff]
    intro y hy hboth
    obtain ⟨hlane, hentry⟩ : y.index ∈ sl.lanes ∧ y.fresh = true := by simpa using hboth
    simp [hflow y hy hlane] at hentry
  simp only [lineEntryFault, entryFault, hline, hfresh]

/-- Settles O43: within a line and into the next by the line and slot of the successor, and the entry of a line by its checks. -/
theorem sequentialFlow : Obligations.SequentialFlow := by
  unfold Obligations.SequentialFlow
  exact ⟨fun _ _ h => seqPc_within h, fun _ _ h => seqPc_nextLine h, fun _ _ _ _ hline hflow => lineEntryFault_of_flowing hline hflow⟩

/-! Operand codes (R34 to R37, R109). -/

theorem operandCode_toNat {base n : Nat} (h : base + n < 512) : (BitVec.ofNat 9 (base + n)).toNat = base + n := by
  rw [BitVec.toNat_ofNat, Nat.mod_eq_of_lt h]

theorem ofNat_wrapOf (z : Int) : BitVec.ofNat 32 (wrapOf 32 z) = BitVec.ofInt 32 z := by
  apply BitVec.eq_of_toNat_eq
  rw [BitVec.toNat_ofNat, BitVec.toNat_ofInt, wrapOf]
  omega

section
variable (c : Ctx) (x : Fibre)

/-- R34: codes 0x180 and up name the special registers. -/
theorem src32_special {n : Nat} (h : n < 128) : src32 c x (BitVec.ofNat 9 (0x180 + n)) = srWord c x n := by
  unfold src32 srcWith
  rw [operandCode_toNat (by omega)]
  dsimp only
  rw [if_neg (by omega), if_neg (by omega), if_neg (by omega), if_neg (by omega), Nat.add_sub_cancel_left]

/-- R35: a pair of special registers joined, the even one its low half. -/
theorem src64_special {n : Nat} (h : n + 1 < 128) :
    src64 c x (BitVec.ofNat 9 (0x180 + n)) = joinWords (srWord c x n) (srWord c x (n + 1)) := by
  have hsucc : BitVec.ofNat 9 (0x180 + n) + 1 = BitVec.ofNat 9 (0x180 + (n + 1)) := by
    exact (BitVec.ofNat_add (384 + n) 1).symm
  unfold src64 src64With
  rw [hsucc, operandCode_toNat (by omega), src32_special c x (by omega), src32_special c x h]
  dsimp only
  rw [if_neg (by omega), if_neg (by omega)]

/-- R34: code 0x0F0 is `vz`. -/
theorem src_vz : src32 c x 0x0F0 = 0 ∧ src64 c x 0x0F0 = 0 := ⟨rfl, rfl⟩

/-- R36: codes 0x100 to 0x13F are the constants. -/
theorem src32_const {n : Nat} (h : n < 64) : src32 c x (BitVec.ofNat 9 (0x100 + n)) = BitVec.ofNat 32 (constWord n) := by
  unfold src32 srcWith
  rw [operandCode_toNat (by omega)]
  dsimp only
  rw [if_neg (by omega), if_neg (by omega), if_pos (by omega), Nat.add_sub_cancel_left]

/-- R37: a small constant as a 64-bit source extends its sign. -/
theorem src64_const {n : Nat} (h : n < 40) : src64 c x (BitVec.ofNat 9 (0x100 + n)) = BitVec.ofInt 64 ((n : Int) - 8) := by
  unfold src64 src64With
  rw [operandCode_toNat (by omega)]
  dsimp only
  rw [if_pos (by omega), Nat.add_sub_cancel_left, if_pos h]

/-- R34: codes 0x140 to 0x17F are the scalars of the home warp. -/
theorem src32_scalar {n : Nat} (h : n < 64) : src32 c x (BitVec.ofNat 9 (0x140 + n)) = Sparse.get 0 c.wg.scalars (c.hwarp * 64 + n) := by
  unfold src32 srcWith
  rw [operandCode_toNat (by omega)]
  dsimp only
  rw [if_neg (by omega), if_neg (by omega), if_neg (by omega), if_pos (by omega), Nat.add_sub_cancel_left]

/-- R36: the constants c0 to c39 are -8 to 31. -/
theorem src_smallConst {n : Nat} (h : n < 40) :
    (src32 c x (BitVec.ofNat 9 (0x100 + n))).toInt = (n : Int) - 8 ∧ (src64 c x (BitVec.ofNat 9 (0x100 + n))).toInt = (n : Int) - 8 := by
  rw [src32_const c x (by omega), src64_const c x h, constWord, if_pos h, ofNat_wrapOf, BitVec.toInt_ofInt, BitVec.toInt_ofInt, Int.bmod_def, Int.bmod_def]
  constructor
  · split <;> omega
  · split <;> omega

end

/-- R36: the constants c40 to c55 are powers of two, whose FP32 patterns have no fraction. -/
theorem constWord_power : ∀ k : Fin 16, constWord (40 + k) = (40 + k + 79) * 2 ^ 23 := by
  decide +kernel

theorem src32_powerConst (c : Ctx) (x : Fibre) {n : Nat} (hlow : 40 ≤ n) (hhigh : n < 56) :
    src32 c x (BitVec.ofNat 9 (0x100 + n)) = BitVec.ofNat 32 ((n + 79) * 2 ^ 23) := by
  have hpattern := constWord_power ⟨n - 40, by omega⟩
  simp only [Nat.add_sub_cancel' hlow] at hpattern
  rw [src32_const c x (by omega), hpattern]

/-- R34: no code from `vz` on is a register that is written. -/
theorem Fibre.set_discards (x : Fibre) {code : BitVec 9} (h : 0x0F0 ≤ code.toNat) (v : Word) (w : DWord) : x.set32 code v = x ∧ x.set64 code w = x :=
  ⟨if_neg (by omega), if_neg (by omega)⟩

theorem Fibre.set32_of_lt (x : Fibre) {code : BitVec 9} (h : code.toNat < 0x0F0) (v : Word) : x.set32 code v = x.setReg code.toNat v := if_pos h

/-- R34: a vector register written reads as what was written, and no other changes. -/
theorem src32_set32 (c : Ctx) {x : Fibre} (hearly : x.early = []) {n : Nat} (h : n < 240) (v : Word) :
    src32 c (x.set32 (BitVec.ofNat 9 n) v) (BitVec.ofNat 9 n) = v ∧
      ∀ m, m < 240 → m ≠ n → src32 c (x.set32 (BitVec.ofNat 9 n) v) (BitVec.ofNat 9 m) = src32 c x (BitVec.ofNat 9 m) := by
  have hcode : ∀ {m : Nat}, m < 240 → (BitVec.ofNat 9 m).toNat = m := fun hm => by rw [BitVec.toNat_ofNat, Nat.mod_eq_of_lt (by omega)]
  have hn := hcode h
  rw [Fibre.set32_of_lt x (by omega), hn]
  refine ⟨?same, fun m hm hne => ?other⟩
  case same => rw [src32_of_lt c _ (by omega), hn, Fibre.reg_setReg_same hearly]
  case other =>
    have := hcode hm
    rw [src32_of_lt c _ (by omega), src32_of_lt c _ (by omega), this, Fibre.reg_setReg_ne hearly v hne]

/-- R3: the halves of a double word joined. -/
theorem joinWords_halves (v : DWord) : joinWords (loWord v) (hiWord v) = v := by
  apply BitVec.eq_of_toNat_eq
  rw [joinWords, append_toNat, loWord, hiWord, extractLsb'_toNat, extractLsb'_toNat]
  omega

/-- Flags as a 32-bit source keep their value. -/
theorem zeroExtend_toNat (v : BitVec 5) : (v.zeroExtend 32).toNat = v.toNat := by
  rw [BitVec.toNat_setWidth]
  omega

/-- Settles O46: special registers by their numbers, then each kind of operand code by its own lemma. -/
theorem operandsRead : Obligations.OperandsRead := by
  unfold Obligations.OperandsRead
  refine ⟨fun c x => ?specials, fun c x n => ⟨src_vz c x, fun code v w h => x.set_discards h v w, fun h => src_smallConst c x h,
    fun hlow hhigh => src32_powerConst c x hlow hhigh, fun h => src32_scalar c x h, fun v h hearly => src32_set32 c hearly h v⟩⟩
  case specials =>
    have hflags : (srWord c x 28).toNat = c.wg.fflags.toNat := zeroExtend_toNat ..
    have htraps : (srWord c x 29).toNat = c.launch.traps.toNat := zeroExtend_toNat ..
    exact ⟨src32_special c x (n := 0) (by omega), src32_special c x (n := 1) (by omega), src32_special c x (n := 2) (by omega),
      src32_special c x (n := 13) (by omega), src32_special c x (n := 14) (by omega), src32_special c x (n := 15) (by omega),
      src32_special c x (n := 19) (by omega), src32_special c x (n := 22) (by omega), src32_special c x (n := 26) (by omega),
      (congrArg BitVec.toNat (src32_special c x (n := 28) (by omega))).trans hflags,
      (congrArg BitVec.toNat (src32_special c x (n := 29) (by omega))).trans htraps,
      src32_special c x (n := 30) (by omega), src64_special c x (n := 20) (by omega),
      (src64_special c x (n := 24) (by omega)).trans (joinWords_halves c.cyc)⟩

end Sys2Proof.Machine
end

section
/-! Steps 2 to 6 of R49: every instruction runs through `runWith` under its row, and what fails there parks the workgroup (R32, R49, R60). -/

namespace Sys2Proof.Machine

/-- The ways in which an instruction runs for its batch under its opcode and its row. -/
inductive RunsUnder (f : Fields) (s : State) : Nat → Shape → Host.Outcome State Fault Refusal → Prop
  | batch (op sh body) : RunsUnder f s op sh (runBatch op sh f s body)
  | lanes (op sh g) : RunsUnder f s op sh (runLanes op sh f s g)
  | float (op sh g) : RunsUnder f s op sh (runFloat op sh f s g)
  | once (op sh g) : RunsUnder f s op sh (runOnce op sh f s g)
  | easel (op sh g) : RunsUnder f s op sh (runEasel op sh f s g)
  | unpack (op k) : RunsUnder f s op (.cvt (.unpk k) f) (runUnpack op k f s)
  | quantise (op sh values) : RunsUnder f s op sh (runQuantise op sh f s values)
  | atom (op o sh) : RunsUnder f s op sh (runAtom op o sh f s)
  | red (op o sh) : RunsUnder f s op sh (runRed op o sh f s)
  | load (op space sh width) : RunsUnder f s op sh (runLoad op space sh width f s)
  | store (op space sh width) : RunsUnder f s op sh (runStore op space sh width f s)

/-- An encoding whose row the word decides, so not `PART` or `TZIP`, runs under its opcode and its row. -/
def RunsUnderRow (op : Nat) (ctor : Fields → Instr) : Prop :=
  ∀ f s sh, shapeOf (ctor f) = some sh → (∀ g, ctor f ≠ .part g) → (∀ g, ctor f ≠ .tzip g) → RunsUnder f s op sh (exec (ctor f) s)

theorem controlCtors_run : AllFrom RunsUnderRow 0x001 controlCtors := by
  repeat refine ⟨fun f s sh hs _ _ => by cases hs; dsimp only [exec]; constructor, ?_⟩
  exact trivial

theorem integerCtors_run : AllFrom RunsUnderRow 0x010 integerCtors := by
  repeat refine ⟨fun f s sh hs _ _ => by cases hs; dsimp only [exec]; constructor, ?_⟩
  exact trivial

theorem convertCtors_run : AllFrom RunsUnderRow 0x050 convertCtors := by
  repeat refine ⟨fun f s sh hs _ _ => by cases hs; dsimp only [exec]; constructor, ?_⟩
  exact trivial

theorem floatCtors_run : AllFrom RunsUnderRow 0x070 floatCtors := by
  repeat refine ⟨fun f s sh hs _ _ => by cases hs; dsimp only [exec]; constructor, ?_⟩
  exact trivial

theorem laneCtors_run : AllFrom RunsUnderRow 0x0A0 laneCtors := by
  refine ⟨fun f _ _ _ hpart _ => absurd rfl (hpart f), ?_⟩
  repeat refine ⟨fun f s sh hs _ _ => by cases hs; dsimp only [exec]; constructor, ?_⟩
  exact trivial

theorem memoryCtors_run : AllFrom RunsUnderRow 0x0B0 memoryCtors := by
  iterate 6 refine ⟨fun f s sh hs _ _ => by cases hs; dsimp only [exec]; exact .load .., ?_⟩
  iterate 6 refine ⟨fun f s sh hs _ _ => by cases hs; dsimp only [exec]; exact .store .., ?_⟩
  repeat refine ⟨fun f s sh hs _ _ => by cases hs; dsimp only [exec]; constructor, ?_⟩
  exact trivial

theorem orderingCtors_run : AllFrom RunsUnderRow 0x0D0 orderingCtors := by
  iterate 6 refine ⟨fun f s sh hs _ _ => by cases hs; dsimp only [exec]; exact .batch .., ?_⟩
  iterate 16 refine ⟨fun f s sh hs _ _ => by cases hs; dsimp only [exec]; exact .atom .., ?_⟩
  iterate 12 refine ⟨fun f s sh hs _ _ => by cases hs; dsimp only [exec]; exact .red .., ?_⟩
  exact trivial

theorem residencyCtors_run : AllFrom RunsUnderRow 0x100 residencyCtors := by
  repeat refine ⟨fun f s sh hs _ _ => by cases hs; dsimp only [exec]; constructor, ?_⟩
  exact trivial

theorem asyncCtors_run : AllFrom RunsUnderRow 0x110 asyncCtors := by
  repeat refine ⟨fun f s sh hs _ _ => by cases hs; dsimp only [exec]; constructor, ?_⟩
  exact trivial

theorem matrixCtors_run : AllFrom RunsUnderRow 0x130 matrixCtors := by
  repeat refine ⟨fun f s sh hs _ _ => by cases hs; dsimp only [exec]; constructor, ?_⟩
  exact trivial

theorem tileCtors_run : AllFrom RunsUnderRow 0x140 tileCtors := by
  repeat refine ⟨fun f s sh hs _ _ => by cases hs; dsimp only [exec]; constructor, ?_⟩
  refine ⟨fun f _ _ _ _ htzip => absurd rfl (htzip f), ?_⟩
  repeat refine ⟨fun f s sh hs _ _ => by cases hs; dsimp only [exec]; constructor, ?_⟩
  exact trivial

theorem systemCtors_run : AllFrom RunsUnderRow 0x150 systemCtors := by
  repeat refine ⟨fun f s sh hs _ _ => by cases hs; dsimp only [exec]; constructor, ?_⟩
  exact trivial

theorem collectiveCtors_run : AllFrom RunsUnderRow 0x160 collectiveCtors := by
  repeat refine ⟨fun f s sh hs _ _ => by cases hs; dsimp only [exec]; constructor, ?_⟩
  exact trivial

theorem launchCtors_run : AllFrom RunsUnderRow 0x170 launchCtors := by
  repeat refine ⟨fun f s sh hs _ _ => by cases hs; dsimp only [exec]; constructor, ?_⟩
  exact trivial

theorem opcodeMap_run : ∀ e ∈ opcodeMap, AllFrom RunsUnderRow e.1 e.2 := by
  simp only [opcodeMap, List.forall_mem_cons]
  exact ⟨controlCtors_run, integerCtors_run, convertCtors_run, floatCtors_run, laneCtors_run, memoryCtors_run, orderingCtors_run, residencyCtors_run,
    asyncCtors_run, matrixCtors_run, tileCtors_run, systemCtors_run, collectiveCtors_run, launchCtors_run, by simp⟩

theorem exec_runsUnder {i : Instr} {op : BitVec 9} {f : Fields} {sh : Shape} (ho : i.opcode = some op) (hf : i.fields = some f)
    (hs : shapeOf i = some sh) (hpart : ∀ g, i ≠ .part g) (htzip : ∀ g, i ≠ .tzip g) (s : State) : RunsUnder f s op.toNat sh (exec i s) := by
  obtain ⟨c, hc, rfl⟩ := AllFrom.of_ofOpcode opcodeMap_run (ofOpcode_of_opcode ho hf)
  exact hc f s sh hs hpart htzip

/-- A shape whose illegal-opcode condition may be widened by the batch's `ORD` (R237). -/
def Shape.orBadOpcode (sh : Shape) (b : Bool) : Shape := { sh with badOpcode := sh.badOpcode || b }

theorem Shape.orBadOpcode_false (sh : Shape) : sh.orBadOpcode false = sh := by
  simp [Shape.orBadOpcode]

theorem runBatch_eq_runWith (op : Nat) (sh : Shape) (f : Fields) (s : State) (body : Ctx → State → Except FaultInfo State) :
    runBatch op sh f s body = runWith op (fun _ => sh.orBadOpcode false) f s body := by
  rw [Shape.orBadOpcode_false, runBatch]

theorem badOrderLoad_of_none {c : Ctx} (h : c.ord = none) : badOrderLoad c = false := by simp [badOrderLoad, h]

theorem badOrderWrite_of_none {c : Ctx} (h : c.ord = none) : badOrderWrite c = false := by simp [badOrderWrite, h]

/-- Whatever its way, it is run with its row, which only an `ORD` before it restricts further. -/
theorem RunsUnder.eq_runWith {f : Fields} {s : State} {op : Nat} {sh : Shape} {o : Host.Outcome State Fault Refusal} (h : RunsUnder f s op sh o) :
    ∃ (bad : Ctx → Bool) (body : Ctx → State → Except FaultInfo State), (∀ c, c.ord = none → bad c = false) ∧
      o = runWith op (fun c => sh.orBadOpcode (bad c)) f s body := by
  cases h
  case red => exact ⟨badOrderWrite, _, fun _ hc => badOrderWrite_of_none hc, rfl⟩
  case load => exact ⟨badOrderLoad, _, fun _ hc => badOrderLoad_of_none hc, rfl⟩
  case store => exact ⟨badOrderWrite, _, fun _ hc => badOrderWrite_of_none hc, rfl⟩
  case easel g =>
    unfold runEasel
    exact ⟨fun _ => false, _, fun _ _ => rfl, runBatch_eq_runWith ..⟩
  all_goals exact ⟨fun _ => false, _, fun _ _ => rfl, runBatch_eq_runWith ..⟩

theorem exec_part_eq_runWith (f : Fields) (s : State) :
    exec (.part f) s = runWith 0x0A0 (fun c => { Shape.part f with badOpcode := c.compat16 }) f s (arriveLanes 0xA0) := rfl

theorem exec_tzip_eq_runWith (f : Fields) (s : State) : exec (.tzip f) s =
    runWith 0x144 (fun c => .tzip f (c.handleBrush.any (fun b => b.arity = 1))) f s (tileBody .tzip (fun _ _ _ _ => false)) := rfl

/-- Without an `ORD` before it an instruction is checked by its row alone. -/
theorem checkIssue_of_ord_none {c : Ctx} (h : c.ord = none) (op : Nat) (sh : Shape) : checkIssue op sh c = precheck sh c := by
  simp [checkIssue, h]

/-- R49: an illegal opcode (step 2) comes before all other failures. -/
theorem precheck_of_illegalOpcode {sh : Shape} {c : Ctx} (h : sh.illegalOpcode c.f = true) :
    precheck sh c = some (c.fault 1 (lowestFibre c.lanes) c.wordHigh c.f.imm.toNat (laneMask c.lanes)) := if_pos h

/-- R49: an illegal operand (step 4) comes before the failures of the later steps. -/
theorem precheck_of_illegalOperand {sh : Shape} {c : Ctx} {code : BitVec 9} (hop : sh.illegalOpcode c.f = false)
    (h : sh.illegalOperand c.f = some code) :
    precheck sh c = some (c.fault 5 (lowestFibre c.lanes) c.wordHigh code.toNat (laneMask c.lanes)) := by
  simp [precheck, hop, h]

/-- R207, R237: what may not stand after an `ORD` is an illegal opcode there. -/
theorem checkIssue_of_notPrefixable {c : Ctx} {op : Nat} (hord : c.ord.isSome = true) (hp : prefixable op = false) (sh : Shape) :
    checkIssue op sh c = some (c.fault 1 (lowestFibre c.lanes) c.wordHigh c.f.imm.toNat (laneMask c.lanes)) :=
  precheck_of_illegalOpcode (by simp [Shape.illegalOpcode, hord, hp])

/-- Settles O50: `runWith` parks what fails its check, and the check tests the opcode first and the operands second. -/
theorem illegalFormsPark : Obligations.IllegalFormsPark := by
  unfold Obligations.IllegalFormsPark
  refine ⟨fun i op f sh s c ho hf hs hpart htzip hc => ?_, fun f s c e hc _ he => ?part, fun f s c e hc _ he => ?tzip⟩
  case part => exact (exec_part_eq_runWith f s).trans (runWith_park hc he)
  case tzip => exact (exec_tzip_eq_runWith f s).trans (runWith_park hc he)
  obtain ⟨bad, body, hbad, hexec⟩ := (exec_runsUnder ho hf hs hpart htzip s).eq_runWith
  have hcf : c.f = f := Ctx.of?_fields hc
  refine ⟨fun e hord he => ⟨hexec.trans (runWith_park hc ?park), fun hop => ?opcode, fun code hop hcode => ?operand⟩, fun hord hp => ?prefixed⟩
  case park => rwa [hbad c hord, Shape.orBadOpcode_false]
  case opcode =>
    rw [checkIssue_of_ord_none hord, precheck_of_illegalOpcode (by rwa [hcf])] at he
    rw [← Option.some.inj he]
    rfl
  case operand =>
    rw [checkIssue_of_ord_none hord, precheck_of_illegalOperand (by rwa [hcf]) (by rwa [hcf])] at he
    rw [← Option.some.inj he]
    rfl
  case prefixed => exact ⟨_, rfl, rfl, hexec.trans (runWith_park hc (checkIssue_of_notPrefixable hord hp _))⟩

end Sys2Proof.Machine
end

section
/-! Control transfers, spawns, ends and yields complete (R24, R28, R78 to R83, R85, R87, R88, R266). -/

namespace Sys2Proof.Machine

section
variable {op : Nat} {sh : Shape} {f : Fields} {s : State} {c : Ctx}

/-! Transfers (R75 to R82). -/

/-- Where a lane that passes the guard stands after a transfer: at its destination, or where it has none at its successor. -/
def transferred (tgt : Fibre → Option (BitVec 64)) (g : Fibre → BitVec 64 → Fibre) (stay : Fibre → Fibre) (x : Fibre) : Fibre :=
  match tgt x with
  | some pc => (g x pc).goto pc
  | none => (stay x).next

/-- A control transfer whose destinations pass R24 and check 6 of R28 completes. -/
theorem IssuesAs.transfers {body : Ctx → State → Except FaultInfo State} {tgt : Fibre → Option (BitVec 64)} {g : Fibre → BitVec 64 → Fibre}
    {stay G : Fibre → Fibre} (h : IssuesAs op sh f s c) (htaint : taintsOp op f = false) (hb : body c s = s.transfer c tgt g stay)
    (hgood : ∀ x ∈ c.passing, ∀ pc, tgt x = some pc → s.badTarget c.launch pc = false) (hG : ∀ x, transferred tgt g stay x = G x) :
    runBatch op sh f s body = .next ((s.tainted c op f).updLanes c (fun x => if passes c.f x then G x else x.next)) := by
  obtain rfl : transferred tgt g stay = G := funext hG
  refine h.next ?_
  rw [State.tainted_id htaint, hb, State.transfer_ok hgood]
  rfl

theorem elsewhere_eq_some {pc tgt d : BitVec 64} : elsewhere pc tgt = some d ↔ tgt ≠ seqPc pc ∧ tgt = d := by
  unfold elsewhere
  split <;> simp_all

/-- What a branch leaves of a lane that takes it (R81, R266). -/
def branched (c : Ctx) (now : Nat) (x : Fibre) (pc : BitVec 64) : Fibre :=
  { (if backward c.pc pc then x.spinBranch c.pc now else x) with pc := pc }

end

/-- A transfer to the sequential successor is none (R79). -/
theorem transferred_elsewhere (tgt : Fibre → BitVec 64) (pc : BitVec 64) (g : Fibre → BitVec 64 → Fibre) (x : Fibre) :
    transferred (fun x => elsewhere pc (tgt x)) g id x = if tgt x = seqPc pc then x.next else (g x (tgt x)).goto (tgt x) := by
  by_cases h : tgt x = seqPc pc <;> simp [transferred, elsewhere, h]

/-- A lane that has no destination where a condition fails. -/
theorem transferred_ite (p : Fibre → Prop) [DecidablePred p] (tgt : Fibre → Option (BitVec 64)) (g : Fibre → BitVec 64 → Fibre) (stay : Fibre → Fibre)
    (x : Fibre) : transferred (fun x => if p x then tgt x else none) g stay x = if p x then transferred tgt g stay x else (stay x).next := by
  by_cases h : p x <;> simp [transferred, h]

variable (f : Fields) (s : State) (c : Ctx)

/-- The state after a control instruction that leaves `g` of every passing lane, and the others at their successor. -/
def State.goes (i : Instr) (g : Fibre → Fibre) : State := (s.entered c i).updLanes c (fun x => if passes c.f x then g x else x.next)

section
variable {f s c}

theorem bra_completes (h : Issues (.bra f) s c) (hgood : s.badTarget c.launch (immTarget c.pc c.f.imm) = false) :
    exec (.bra f) s = .next (s.goes c (.bra f) (fun x => branched c s.tide.toNat x (immTarget c.pc c.f.imm))) := by
  change execBra f s = _
  exact IssuesAs.transfers (op := 0x001) (sh := .bra) h rfl rfl (fun _ _ _ ht => Option.some.inj ht ▸ hgood) (fun _ => rfl)

theorem brx_completes (h : Issues (.brx f) s c)
    (hgood : ∀ x ∈ c.passing, src64 c x c.f.srcA ≠ seqPc c.pc → s.badTarget c.launch (src64 c x c.f.srcA) = false) :
    exec (.brx f) s = .next (s.goes c (.brx f)
      (fun x => if src64 c x c.f.srcA = seqPc c.pc then x.next else branched c s.tide.toNat x (src64 c x c.f.srcA))) := by
  change execBrx f s = _
  refine IssuesAs.transfers (op := 0x002) (sh := .brx) h rfl rfl (fun x hx pc ht => ?_) (fun x => transferred_elsewhere ..)
  obtain ⟨hne, rfl⟩ := elsewhere_eq_some.mp ht
  exact hgood x hx hne

/-- The destination of a lane that reads a table of branches (R79). -/
def tableSlot (c : Ctx) (x : Fibre) : BitVec 64 :=
  if pcSlot (immTarget c.pc c.f.imm) > 4 then immTarget c.pc c.f.imm else slotsAfter (immTarget c.pc c.f.imm) (src32 c x c.f.srcA).toNat

theorem brxTbl_completes (h : Issues (.brxTbl f) s c)
    (hgood : ∀ x ∈ c.passing, (src32 c x c.f.srcA).toNat < (src32 c x c.f.srcB).toNat → tableSlot c x ≠ seqPc c.pc →
      s.badTarget c.launch (tableSlot c x) = false) :
    exec (.brxTbl f) s = .next (s.goes c (.brxTbl f) (fun x =>
      if (src32 c x c.f.srcA).toNat < (src32 c x c.f.srcB).toNat ∧ tableSlot c x ≠ seqPc c.pc then branched c s.tide.toNat x (tableSlot c x)
      else x.next)) := by
  change execBrxTbl f s = _
  refine IssuesAs.transfers (op := 0x003) (sh := .brxTbl) h rfl rfl (fun x hx pc ht => ?good) (fun x => ?lane)
  case good =>
    obtain ⟨hin, ht⟩ := Option.ite_none_right_eq_some.mp ht
    obtain ⟨hne, rfl⟩ := elsewhere_eq_some.mp ht
    exact hgood x hx hin hne
  case lane =>
    refine (transferred_ite _ (fun x => elsewhere c.pc (tableSlot c x)) _ _ x).trans ?_
    rw [transferred_elsewhere, ite_and, ite_not]
    rfl

theorem call_completes (h : Issues (.call f) s c) (hgood : s.badTarget c.launch (immTarget c.pc c.f.imm) = false) :
    exec (.call f) s = .next (s.goes c (.call f) (fun x => { x.set64 c.f.dst (seqPc c.pc) with pc := immTarget c.pc c.f.imm })) := by
  change execCall f s = _
  exact IssuesAs.transfers (op := 0x004) (sh := .call) h rfl rfl (fun _ _ _ ht => Option.some.inj ht ▸ hgood) (fun _ => rfl)

theorem callX_completes (h : Issues (.callX f) s c) (hgood : ∀ x ∈ c.passing, s.badTarget c.launch (src64 c x c.f.srcA) = false) :
    exec (.callX f) s = .next (s.goes c (.callX f) (fun x => { x.set64 c.f.dst (seqPc c.pc) with pc := src64 c x c.f.srcA })) := by
  change execCallX f s = _
  exact IssuesAs.transfers (op := 0x005) (sh := .callX) h rfl rfl (fun x hx _ ht => Option.some.inj ht ▸ hgood x hx) (fun _ => rfl)

theorem ret_completes (h : Issues (.ret f) s c) (hgood : ∀ x ∈ c.passing, s.badTarget c.launch (src64 c x c.f.srcA) = false) :
    exec (.ret f) s = .next (s.goes c (.ret f) (fun x => { x with pc := src64 c x c.f.srcA })) := by
  change execRet f s = _
  exact IssuesAs.transfers (op := 0x006) (sh := .brx) h rfl rfl (fun x hx _ ht => Option.some.inj ht ▸ hgood x hx) (fun _ => rfl)

theorem braLoop_completes (h : Issues (.braLoop f) s c) (hgood : s.badTarget c.launch (immTarget c.pc c.f.imm) = false) :
    exec (.braLoop f) s = .next (s.goes c (.braLoop f) (fun x =>
      if src32 c x c.f.srcA - 1 ≠ 0 then { x.set32 c.f.dst (src32 c x c.f.srcA - 1) with pc := immTarget c.pc c.f.imm }
      else (x.set32 c.f.dst (src32 c x c.f.srcA - 1)).next)) := by
  change execBraLoop f s = _
  refine IssuesAs.transfers (op := 0x00C) (sh := .braLoop) h rfl rfl (fun x _ pc ht => ?_) (fun x => transferred_ite ..)
  obtain ⟨-, ht⟩ := Option.ite_none_right_eq_some.mp ht
  exact Option.some.inj ht ▸ hgood

/-! Fibre creation and end (R83, R85). -/

theorem State.lanewise_id (s : State) (c : Ctx) : s.lanewise c id = s.updLanes c Fibre.next := by
  simp [State.lanewise]

/-- A spawn whose target passes its checks in the lowest passing lane creates its fibres lane by lane. -/
theorem spawnBody_ok {t : State} {count : Fibre → Nat} (h : ∀ x l, c.passing = x :: l → t.spawnFault c x (immTarget c.pc c.f.imm) = none) :
    spawnBody c t count = .ok ((State.spawnLanes c (immTarget c.pc c.f.imm) count c.passing t).updLanes c Fibre.next) := by
  unfold spawnBody
  cases hp : c.passing with
  | nil => simp only [State.spawnLanes, State.lanewise_id]
  | cons x l => simp only [h x l hp]

theorem fspawn_completes (h : Issues (.fspawn f) s c)
    (hok : ∀ x l, c.passing = x :: l → (s.entered c (.fspawn f)).spawnFault c x (immTarget c.pc c.f.imm) = none) :
    exec (.fspawn f) s =
      .next ((State.spawnLanes c (immTarget c.pc c.f.imm) (fun _ => 1) c.passing (s.entered c (.fspawn f))).updLanes c Fibre.next) := by
  change execFspawn f s = _
  exact IssuesAs.next (op := 0x007) (sh := .fspawn) h (spawnBody_ok hok)

theorem fspawnN_completes (h : Issues (.fspawnN f) s c)
    (hok : ∀ x l, c.passing = x :: l → (s.entered c (.fspawnN f)).spawnFault c x (immTarget c.pc c.f.imm) = none) :
    exec (.fspawnN f) s = .next ((State.spawnLanes c (immTarget c.pc c.f.imm) (fun x => (src32 c x c.f.srcB).toNat) c.passing
      (s.entered c (.fspawnN f))).updLanes c Fibre.next) := by
  change execFspawnN f s = _
  exact IssuesAs.next (op := 0x008) (sh := .fspawnN) h (spawnBody_ok hok)

/-- The passing fibres of an `FEND` that await no result (R85). -/
def Ctx.ended (c : Ctx) : List Fibre := c.passing.filter (fun x => x.pendV.isEmpty && x.pendP.isEmpty)

/-- The lanes of an `FEND` that do not pass the guard move on. -/
def State.fendMoved (s : State) (c : Ctx) (f : Fields) : State := s.goes c (.fend f) id

theorem fend_ends (h : Issues (.fend f) s c) (hended : c.ended ≠ []) :
    exec (.fend f) s = .next (((((s.fendMoved c f).updWg c.wg.key (fun w =>
      { w with fibres := w.fibres.filter (fun x => !c.ended.any (fun y => y.index = x.index)) })).updCore c.core (fun k =>
        k.noteEnded c.wg.launch c.ended.length (c.ended.foldl (fun m x => m + x.issued + 1) 0))).endedRendezvous c.wg.key c.hwarp).liveRecheck
          c.wg.key) := by
  change execFend f s = _
  exact IssuesAs.next (op := 0x009) (sh := .ctl) h (if_neg (mt List.isEmpty_iff.mp hended))

theorem fend_waits (h : Issues (.fend f) s c) (hended : c.ended = []) : exec (.fend f) s = .next (s.fendMoved c f) := by
  change execFend f s = _
  exact IssuesAs.next (op := 0x009) (sh := .ctl) h (if_pos (List.isEmpty_iff.mpr hended))

/-! Yields and no-operations (R87, R88). -/

theorem yield_completes (h : Issues (.yield f) s c) : Lanes (.yield f) s c (fun x => { x with yielded := true, candidateSince := s.tide.toNat }) := by
  change execYield f s = _
  exact IssuesAs.next (op := 0x00A) (sh := .ctl) h rfl

theorem nop_completes (h : Issues (.nop f) s c) : Lanes (.nop f) s c id := by
  change execNop f s = _
  exact IssuesAs.lanes (op := 0x00B) (sh := .ctl) h rfl

end

/-- Settles O13: each instruction by the lemma of its own completion. -/
theorem controlInstructionsComplete : Obligations.ControlInstructionsComplete := by
  unfold Obligations.ControlInstructionsComplete
  exact ⟨fun _ _ _ => ⟨bra_completes, brx_completes, brxTbl_completes, call_completes, callX_completes, ret_completes, braLoop_completes⟩,
    fun _ _ _ => ⟨fspawn_completes, fspawnN_completes, fend_ends, fend_waits, yield_completes, nop_completes⟩⟩

end Sys2Proof.Machine
end

section
/-! What comes back to a core (R28, R185, R186, R193, R204, R226): results and loads, L1 evictions, walks and lines. -/

namespace Sys2Proof.Machine

/-! Updates that change nothing. -/

theorem State.updWg_of_id {s : State} {key : Nat} {g : Workgroup → Workgroup} (h : ∀ w, g w = w) : s.updWg key g = s := by
  simp [State.updWg, h]

theorem State.readOver_core (s : State) (g : Reader → Bool) (k : Nat) : (s.readOver g).core k = s.core k := rfl

theorem State.noteTlb_core (s : State) (space va k : Nat) : (s.noteTlb space va).core k = s.core k := by
  unfold State.noteTlb
  split
  · rfl
  · split <;> rfl

/-! Loads and results that return (R204). -/

theorem Load.perform_of_value {l : Load} (h : l.value.isSome = true) (k wg : Nat) (s : State) : l.perform k wg s = (l, s) := by
  simp [Load.perform, h]

theorem State.takeFirst_zero (s : State) (k wg : Nat) (p : Load → Bool) : s.takeFirst k wg 0 p = s := rfl

theorem State.loadNow_nil (k wg : Nat) (s : State) : State.loadNow k wg [] s = s := rfl

/-- A load that has taken its value is only written. -/
theorem State.loadNow_of_value {l : Load} (h : l.value.isSome = true) (k wg : Nat) (s : State) : State.loadNow k wg [l] s = Load.landed wg s l := by
  simp [State.loadNow, performWhere, Load.perform_of_value h]

theorem Load.landed_regs {l : Load} {v : List (Byte × Bool)} {n : Nat} (hv : l.value = some v) (hd : l.dst = .regs n) (hn : n < 240) (wg : Nat)
    (s : State) : Load.landed wg s l = s.updWg wg (fun w => w.updFibre l.fibre (fun y => y.land n (l.words v))) := by
  simp only [Load.landed, hv, hd, if_neg (Nat.not_le.mpr hn)]

/-- What is on its way brings a fibre nothing beside its loads. -/
theorem Pending.into_of_nil {p : Pending} (hw : p.writes = []) (hp : p.preds = []) (x : Fibre) : p.into x = x := by
  simp [Pending.into, hw, hp]

theorem Pending.map_into_of_nil {p : Pending} (hw : p.writes = []) (hp : p.preds = []) (l : List Fibre) : l.map p.into = l :=
  List.map_id'' (p.into_of_nil hw hp) l

/-- The return of the first load on its way, which has taken its value. -/
theorem State.returnLoad_first {s : State} {k n : Nat} {p : Pending} {l : Load} {v : List (Byte × Bool)} (hp : (s.core k).loads[0]? = some p)
    (hreq : p.request = none) (hl : p.loads = [l]) (hw : p.writes = []) (hpr : p.preds = []) (hv : l.value = some v) (hd : l.dst = .regs n)
    (hn : n < 240) : s.returnLoad k 0 =
      (s.updWg p.wg (fun w => w.updFibre l.fibre (fun y => y.land n (l.words v)))).updCore k (fun c => { c with loads := listDrop c.loads 0 }) := by
  have hawait : l.awaits = false := by simp [Load.awaits, hv]
  have hvalue : l.value.isSome = true := by simp [hv]
  simp only [State.returnLoad, hp, hreq, hl, List.any_cons, List.any_nil, hawait, Option.isSome_none, Bool.or_false, Bool.false_eq_true, if_false,
    List.foldl_cons, List.foldl_nil, State.takeFirst_zero, State.loadNow_of_value hvalue, Load.landed_regs hv hd hn, Pending.map_into_of_nil hw hpr]
  exact State.updWg_of_id (fun _ => rfl)

/-- The return of results that are known (R41). -/
theorem State.returnLoad_results {s : State} {k i : Nat} {p : Pending} (hp : (s.core k).loads[i]? = some p) (hreq : p.request = none)
    (hl : p.loads = []) : s.returnLoad k i = (s.updCore k (fun c => { c with loads := listDrop c.loads i })).updWg p.wg (fun w =>
      { w with fibres := w.fibres.map p.into }) := by
  simp only [State.returnLoad, hp, hreq, hl, List.any_nil, Option.isSome_none, Bool.or_self, Bool.false_eq_true, if_false, List.foldl_nil,
    State.loadNow_nil]

/-- Results without predicates are written register by register. -/
theorem Pending.into_of_preds_nil {p : Pending} (h : p.preds = []) (x : Fibre) :
    p.into x = (p.writes.filter (fun e => decide (e.1 = x.index) && decide (e.2.1 < 240))).foldl
      (fun y e => { y.setRegP e.2.1 e.2.2.1 e.2.2.2 with pendV := y.pendV.filter (fun r => r ≠ e.2.1) }) x := by
  simp only [Pending.into, h, List.filter_nil, List.foldl_nil]

/-! Evictions (R185, R186). -/

theorem State.l1Evict_l1Line? (s : State) (k line : Nat) : (s.l1Evict k line).l1Line? k line = none := by
  simp [State.l1Evict, State.l1Line?]

theorem exec_homeWritePerformed {s : State} {k i : Nat} {l : L1Line} (h : (s.core k).l1[i]? = some l) :
    exec (.homeWritePerformed k i) s = .next (if (s.core k).l1Victim l.line = some l.line then s.l1Evict k l.line else s) := by
  change execHomeWritePerformed k i s = _
  simp only [execHomeWritePerformed, h]

/-! Walks (R193). -/

theorem State.noteTlb_installed {s : State} {space va : Nat} {leaf : DWord} (h : s.walk space va = .ok leaf)
    (hpa : paInstalled (leafPa leaf va) = true) : ∃ e ∈ (s.noteTlb space va).tlb, e.1 = space ∧ e.2.2 = leaf := by
  unfold State.noteTlb
  simp only [h, hpa, Bool.not_true, Bool.false_or]
  split
  case isTrue hheld =>
    obtain ⟨e, he, hleaf⟩ := List.any_eq_true.mp hheld
    obtain ⟨hmem, hspace⟩ := List.mem_filter.mp he
    simp only [Bool.and_eq_true, decide_eq_true_eq] at hspace hleaf
    exact ⟨e, hmem, hspace.1, hleaf⟩
  case isFalse => exact ⟨(space, va, leaf), List.mem_cons_self, rfl, rfl⟩

theorem State.noteTlb_notInstalled {s : State} {space va : Nat} {leaf : DWord} (h : s.walk space va = .ok leaf)
    (hpa : paInstalled (leafPa leaf va) = false) : s.noteTlb space va = s := by
  simp [State.noteTlb, h, hpa]

theorem State.noteTlb_failed {s : State} {space va cause : Nat} (h : s.walk space va = .error cause) : s.noteTlb space va = s := by
  simp [State.noteTlb, h]

/-! Lines (R28, R76). -/

section
variable {s : State} {k i : Nat} {sl : Slot} {w : Workgroup} {x : Fibre} {b : BitVec 512}

/-- The launch whose code a workgroup's batches fetch. -/
def State.launchOf (s : State) (w : Workgroup) : Launch := (s.launch? w.launch).getD { lseq := w.launch, kind := .packet }

/-- The lines that a batch's fetch still lacks of other packages (R16, log 18). -/
def State.farFetch (s : State) (w : Workgroup) (x : Fibre) : List Nat :=
  s.lacking (.batch w.key x.index) (s.farCode (s.launchOf w) x.pc).toList

theorem exec_lineFetchReturn_asks (hsl : (s.core k).slots.find? (fun z => z.id = i) = some sl) (hw : s.wg? sl.wg = some w) (hx : w.head sl = some x)
    (hfar : s.farFetch w x ≠ []) : exec (.lineFetchReturn k i) s = .next (s.askLines (.batch w.key x.index) (s.farFetch w x)) := by
  change execLineFetchReturn k i s = _
  have hask : (!(s.farFetch w x).isEmpty) = true := by simpa using hfar
  simp only [execLineFetchReturn, hsl, hw, hx]
  exact if_pos hask

theorem exec_lineFetchReturn_parks (hsl : (s.core k).slots.find? (fun z => z.id = i) = some sl) (hw : s.wg? sl.wg = some w) (hx : w.head sl = some x)
    (hfar : s.farFetch w x = []) {e : FaultInfo} (he : lineEntryFault w sl x (s.fetchLine (s.launchOf w) x.pc) = some e) :
    exec (.lineFetchReturn k i) s = .next (s.park w.key { e with lanes := sl.lanes }) := by
  change execLineFetchReturn k i s = _
  unfold State.farFetch at hfar
  unfold State.launchOf at hfar he
  simp only [execLineFetchReturn, hsl, hw, hx, hfar, List.isEmpty_nil, Bool.not_true, Bool.false_eq_true, if_false, he]

/-- A line latched for a slot: its translation is noted, what came for the batch is read, and the slot's fibres stand at their entry PC no more. -/
def State.lineLatched (s : State) (k i : Nat) (sl : Slot) (w : Workgroup) (x : Fibre) (b : BitVec 512) : State :=
  (((s.noteTlb (s.launchOf w).space (pcOf (pcLine x.pc) 0).toNat).readOver (fun r => decide (r = .batch w.key x.index))).updCore k (fun c =>
    { c with slots := c.slots.map (fun z => if z.id = i then { z with line := some (pcLine x.pc, b) } else z) })).updWg w.key (fun w =>
      { w with fibres := w.fibres.map (fun y => if sl.lanes.contains y.index then { y with fresh := false } else y) })

theorem exec_lineFetchReturn_latches (hsl : (s.core k).slots.find? (fun z => z.id = i) = some sl) (hw : s.wg? sl.wg = some w) (hx : w.head sl = some x)
    (hfar : s.farFetch w x = []) (hline : s.fetchLine (s.launchOf w) x.pc = .ok b) (he : lineEntryFault w sl x (.ok b) = none) :
    exec (.lineFetchReturn k i) s = .next (s.lineLatched k i sl w x b) := by
  change execLineFetchReturn k i s = _
  unfold State.farFetch at hfar
  unfold State.launchOf at hfar hline
  simp only [execLineFetchReturn, hsl, hw, hx, hfar, List.isEmpty_nil, Bool.not_true, Bool.false_eq_true, if_false, hline, he]
  rfl

theorem State.lineLatched_slot (hsl : (s.core k).slots.find? (fun z => z.id = i) = some sl) (w : Workgroup) (x : Fibre) (b : BitVec 512) :
    ((s.lineLatched k i sl w x b).core k).slots.find? (fun z => z.id = i) = some { sl with line := some (pcLine x.pc, b) } := by
  rw [State.lineLatched, State.core_updWg, State.core_updCore_same, State.readOver_core, State.noteTlb_core,
    find?_map_key Slot.id i i (fun z => { z with line := some (pcLine x.pc, b) }) (fun _ => rfl), hsl]
  simp

end

/-- Settles O33: each event by the lemma of its effect. -/
theorem coreReturnsComplete : Obligations.CoreReturnsComplete := by
  unfold Obligations.CoreReturnsComplete
  refine fun s k i => ⟨?load, ?results, ?victim, ?kept, fun space va => ⟨rfl, ?installed, ?notInstalled, ?failed⟩, fun sl w x b hsl hw hx => ?line⟩
  case load => exact fun p l v n hp hreq hl hw hpr hv hd hn => congrArg _ (State.returnLoad_first hp hreq hl hw hpr hv hd hn)
  case results =>
    intro p hp hreq hl hpr
    refine congrArg _ ((State.returnLoad_results hp hreq hl).trans ?_)
    rw [show p.into = _ from funext (p.into_of_preds_nil hpr)]
    rfl
  case victim => exact fun l hl hvictim => ⟨_, (exec_homeWritePerformed hl).trans (by rw [if_pos hvictim]), rfl, s.l1Evict_l1Line? k l.line⟩
  case kept => exact fun l hl hvictim => (exec_homeWritePerformed hl).trans (by rw [if_neg hvictim])
  case installed => exact fun leaf hwalk hpa => State.noteTlb_installed hwalk hpa
  case notInstalled => exact fun leaf hwalk hpa => State.noteTlb_notInstalled hwalk hpa
  case failed => exact fun cause hwalk => State.noteTlb_failed hwalk
  case line =>
    exact ⟨exec_lineFetchReturn_asks hsl hw hx,
      fun hfar hline he => ⟨_, exec_lineFetchReturn_latches hsl hw hx hfar hline he, State.lineLatched_slot hsl w x b⟩,
      fun e hfar he => exec_lineFetchReturn_parks hsl hw hx hfar he⟩

end Sys2Proof.Machine
end

section
/-! Scratchpad loads (R41, R135, R175, R203, R204): what a load puts on its way, and what its return writes. -/

namespace Sys2Proof.Machine

/-! Bytes and words of a store. -/

theorem Bytes.read_add (m : Bytes) (a k n : Nat) : m.read a (k + n) = m.read a k ++ m.read (a + k) n := by
  induction k generalizing a with
  | zero => simp [Bytes.read]
  | succ k ih =>
    rw [Nat.add_right_comm, Bytes.read, ih, Bytes.read, Nat.add_assoc, Nat.add_comm 1 k]
    rfl

/-- A part of the bytes read is what is read of it alone. -/
theorem Bytes.read_drop_take (m : Bytes) (a : Nat) {k j n : Nat} (h : k + j ≤ n) : ((m.read a n).drop k).take j = m.read (a + k) j := by
  obtain ⟨r, rfl⟩ := Nat.exists_eq_add_of_le h
  rw [Nat.add_assoc, Bytes.read_add, Bytes.read_add, List.drop_left' (by simp), List.take_left' (by simp)]

theorem Bytes.read_eq_map (m : Bytes) (a n : Nat) : m.read a n = (List.range n).map (fun i => Sparse.get 0 m (a + i)) := by
  induction n generalizing a with
  | zero => rfl
  | succ n ih => simp [Bytes.read, ih, List.range_succ_eq_map, Nat.add_assoc, Nat.add_comm 1]

theorem ofBytes_read (m : Bytes) (a n : Nat) : ofBytes (m.read a n) = m.readN a n := by
  induction n generalizing a with
  | zero => rfl
  | succ n ih => rw [Bytes.read, ofBytes, ih, Bytes.readN]

theorem Bytes.read_write_same (m : Bytes) (a : Nat) (l : List Byte) : (m.write a l).read a l.length = l := by
  rw [Bytes.read_eq_map]
  refine List.ext_getElem (by simp) (fun i hi hil => ?_)
  rw [List.getElem_map, List.getElem_range, Bytes.get_write, if_pos (by omega), Nat.add_sub_cancel_left, List.getD_eq_getElem _ _ hil]

theorem mem_distinct {a : Nat} {l : List Nat} : a ∈ distinct l ↔ a ∈ l := by
  suffices h : ∀ m, a ∈ l.foldl (fun acc b => insertNat b acc) m ↔ a ∈ l ∨ a ∈ m by
    exact (h []).trans (by simp)
  induction l with
  | nil => simp
  | cons b t ih =>
    intro m
    rw [List.foldl_cons, ih, mem_insertNat, List.mem_cons]
    tauto

/-- A run of entries written from `a` up. -/
theorem Sparse.get_foldl_set {β : Type} [DecidableEq β] (d : β) (m : Sparse β) (a : Nat) (g : Nat → β) {n N : Nat} (h : n < N) :
    Sparse.get d ((List.range N).foldl (fun m i => Sparse.set d m (a + i) (g i)) m) (a + n) = g n := by
  induction N with
  | zero => omega
  | succ N ih =>
    rw [List.range_succ, List.foldl_append, List.foldl_cons, List.foldl_nil, Sparse.get_set]
    split
    next heq => rw [Nat.add_left_cancel heq]
    next hne => exact ih (by omega)

/-! The words that a load reads of a scratchpad. -/

/-- The bytes of `n` words of a core's scratchpad, each with the poison of its word. -/
def State.scratchWords (s : State) (j off : Nat) : Nat → List (Byte × Bool)
  | 0 => []
  | n + 1 => ((s.core j).scratch.read off 4).map (fun b => (b, (s.scratchRead j off 4).2)) ++ s.scratchWords j (off + 4) n

theorem State.readWords_scratch (s : State) (k hint scope j off space n : Nat) :
    State.readWords k hint scope 4 n (.scratch j off space) s = (s.scratchWords j off n, s) := by
  induction n generalizing off with
  | zero => rfl
  | succ n ih => simp only [State.readWords, State.readAt, Place.plus, ih]; rfl

@[simp] theorem State.scratchWords_length (s : State) (j off n : Nat) : (s.scratchWords j off n).length = 4 * n := by
  induction n generalizing off with
  | zero => rfl
  | succ n ih => simp [State.scratchWords, ih]; omega

theorem State.scratchWords_add (s : State) (j off a b : Nat) :
    s.scratchWords j off (a + b) = s.scratchWords j off a ++ s.scratchWords j (off + 4 * a) b := by
  induction a generalizing off with
  | zero => simp [State.scratchWords]
  | succ a ih =>
    rw [Nat.add_right_comm, State.scratchWords, ih, State.scratchWords, List.append_assoc, Nat.add_assoc, show 4 + 4 * a = 4 * (a + 1) by omega]

theorem State.scratchWords_bytes (s : State) (j off n : Nat) : (s.scratchWords j off n).map (fun b => b.1) = (s.core j).scratch.read off (4 * n) := by
  induction n generalizing off with
  | zero => rfl
  | succ n ih =>
    rw [State.scratchWords, List.map_append, ih, List.map_map, show 4 * (n + 1) = 4 + 4 * n by omega, Bytes.read_add]
    congr 1

theorem State.scratchWords_word (s : State) (j off : Nat) {n N : Nat} (h : n < N) : ((s.scratchWords j off N).drop (4 * n)).take 4 =
    ((s.core j).scratch.read (off + 4 * n) 4).map (fun b => (b, (s.scratchRead j (off + 4 * n) 4).2)) := by
  obtain ⟨r, rfl⟩ := Nat.exists_eq_add_of_lt h
  rw [Nat.add_assoc, State.scratchWords_add, List.drop_left' (by simp), Nat.add_comm r 1, State.scratchWords_add, List.take_left' (by simp)]
  simp [State.scratchWords]

/-- R204: a word is poisoned where one of its bytes lies in a poisoned word of the scratchpad. -/
theorem State.scratchRead_poison (s : State) (j off : Nat) :
    (s.scratchRead j off 4).2 = true ↔ ∃ b, b < 4 ∧ (off + b) / 4 ∈ (s.core j).scratchPoison := by
  simp [State.scratchRead, mem_distinct]

theorem loadWords_of_words {width : Nat} (hmod : width % 4 = 0) (signed : Bool) (bytes : List Byte) :
    loadWords width signed bytes = wordsOf (width / 4) bytes := by
  rw [loadWords, if_neg (by omega), if_neg (by omega)]

/-- What a load of words reads of a scratchpad, word by word. -/
theorem Load.words_scratch {l : Load} (hmod : l.width % 4 = 0) (s : State) (j off : Nat) :
    l.words (s.scratchWords j off (l.width / 4)) = (List.range (l.width / 4)).map (fun n =>
      ((s.core j).scratch.word (off + 4 * n), (s.scratchRead j (off + 4 * n) 4).2)) := by
  rw [Load.words, loadWords_of_words hmod, State.scratchWords_bytes]
  refine List.ext_getElem (by simp [wordsOf]) (fun n hn hn' => ?_)
  have hlt : n < l.width / 4 := by simpa using hn'
  simp only [List.getElem_map, List.getElem_zipIdx, Nat.zero_add, wordsOf, List.getElem_range, Prod.mk.injEq]
  constructor
  · rw [Bytes.read_drop_take _ _ (by omega), ofBytes_read]
    rfl
  · rw [State.scratchWords_word s j off hlt]
    simp [Bytes.read]

/-! Registers landed (R204). -/

theorem Fibre.land_concat (x : Fibre) (n : Nat) (ws : List (Word × Bool)) (w : Word × Bool) : x.land n (ws ++ [w]) =
    { (x.land n ws).setRegP (n + ws.length) w.1 w.2 with pendV := (x.land n ws).pendV.filter (fun r => r ≠ n + ws.length) } := by
  simp [Fibre.land, List.zipIdx_append]

theorem Fibre.setRegP_regs (x : Fibre) (n m : Nat) (v : Word) (bad : Bool) :
    Sparse.get 0 (x.setRegP n v bad).regs m = if m = n then v else Sparse.get 0 x.regs m := by
  unfold Fibre.setRegP
  cases bad <;> exact Fibre.reg_setReg ..

theorem Fibre.mem_setRegP_poison (x : Fibre) (n m : Nat) (v : Word) (bad : Bool) :
    m ∈ (x.setRegP n v bad).poison ↔ if m = n then bad = true else m ∈ x.poison := by
  unfold Fibre.setRegP
  by_cases h : m = n <;> cases bad <;> simp [Fibre.setReg, h]

/-- A register that words landed in holds its word, awaits nothing, and is poisoned where the word is. -/
theorem Fibre.land_reg (x : Fibre) (n : Nat) (ws : List (Word × Bool)) {m : Nat} (hm : m < ws.length) :
    Sparse.get 0 (x.land n ws).regs (n + m) = ws[m].1 ∧ n + m ∉ (x.land n ws).pendV ∧ (n + m ∈ (x.land n ws).poison ↔ ws[m].2 = true) := by
  induction ws using List.reverseRecOn with
  | nil => simp at hm
  | append_singleton ws w ih =>
    rw [Fibre.land_concat]
    simp only [Fibre.setRegP_regs, Fibre.mem_setRegP_poison, List.mem_filter, Nat.add_left_cancel_iff]
    by_cases hlast : m = ws.length
    · subst hlast
      simp
    · have hlt : m < ws.length := by simp at hm; omega
      obtain ⟨hreg, hpend, hpoison⟩ := ih hlt
      rw [if_neg hlast, if_neg hlast, List.getElem_append_left hlt]
      exact ⟨hreg, fun h => hpend h.1, hpoison⟩

@[simp] theorem Fibre.land_index (x : Fibre) (n : Nat) (ws : List (Word × Bool)) : (x.land n ws).index = x.index := by
  induction ws using List.reverseRecOn with
  | nil => rfl
  | append_singleton ws w ih =>
    rw [Fibre.land_concat, ← ih]
    cases w.2 <;> rfl

@[simp] theorem Fibre.spinLoad_index (x : Fibre) (l : WatchLine) (ws : List Word) : (x.spinLoad l ws).index = x.index := by
  simp only [Fibre.spinLoad]
  rw [apply_ite Fibre.index, ite_self]

/-! The return of a load from a scratchpad. -/

theorem State.updWg_updWg (s : State) (k : Nat) (g h : Workgroup → Workgroup) (hkey : ∀ w, (g w).key = w.key) :
    (s.updWg k g).updWg k h = s.updWg k (fun w => h (g w)) := by
  simp only [State.updWg, List.map_map]
  congr 2
  funext w
  by_cases hw : w.key = k <;> simp [hw, hkey]

/-- What a returned load's bytes make of its workgroup (R135, R175, R204, R265). -/
def Load.filled (l : Load) (v : List (Byte × Bool)) (w : Workgroup) : Workgroup :=
  match l.dst with
  | .regs n =>
    let noted := w.updFibre l.fibre (fun y => y.spinLoad l.place.watchLine ((l.words v).map (fun e => e.1)))
    if n ≥ 240 then noted else noted.updFibre l.fibre (fun y => y.land n (l.words v))
  | .book n => { w with
      books := (List.range 16).foldl (fun m i =>
        Sparse.set 0 m (16 * n + i) (BitVec.ofNat 16 (ofBytes (((v.map (fun b => b.1)).drop (2 * i)).take 2)))) w.books
      bookPoison := w.bookPoison.filter (fun i => i / 16 ≠ n) }
  | .pattern n => { w with
      patterns := Bytes.write w.patterns (64 * n) (v.map (fun b => b.1)), patternPoison := w.patternPoison.filter (fun i => i / 8 ≠ n) }

@[simp] theorem Load.filled_key (l : Load) (v : List (Byte × Bool)) (w : Workgroup) : (l.filled v w).key = w.key := by
  unfold Load.filled
  split
  · dsimp only
    split <;> rfl
  · rfl
  · rfl

theorem Load.landed_spinNote (s : State) (key : Nat) (l : Load) (v : List (Byte × Bool)) :
    Load.landed key (s.spinNote key l v) { l with value := some v } = s.updWg key (l.filled v) := by
  obtain ⟨fibre, dst, place, width⟩ := l
  cases dst with
  | regs n =>
    by_cases h : n ≥ 240
    · simp only [Load.landed, State.spinNote, if_pos h]
      exact congrArg (s.updWg key) (funext fun w => by simp only [Load.filled, if_pos h])
    · simp only [Load.landed, State.spinNote, if_neg h]
      refine (State.updWg_updWg s key (fun w => w.updFibre fibre _) _ (fun _ => rfl)).trans (congrArg (s.updWg key) (funext fun w => ?_))
      simp only [Load.filled, if_neg h]
      rfl
  | book n => rfl
  | pattern n => rfl

section
variable {s : State} {k i j off space key : Nat} {l : Load}

theorem Load.perform_scratch (hplace : l.place = .scratch j off space) (hvalue : l.value = none) (hreq : l.request = none) (hmod : l.width % 4 = 0)
    (hpos : 0 < l.width) : l.perform k key s =
      ({ l with value := some (s.scratchWords j off (l.width / 4)) }, s.spinNote key l (s.scratchWords j off (l.width / 4))) := by
  simp only [Load.perform, hvalue, hreq, hplace, Option.isSome_none, Bool.or_self, Bool.false_eq_true, if_false,
    show min l.width 4 = 4 by omega, State.readWords_scratch]

/-- No load of a list is taken. -/
theorem State.takeFirst_none {n : Nat} {p : Load → Bool} (h : ∀ q ∈ (s.core k).loads.take n, q.wg = key → ∀ m ∈ q.loads, p m = false) :
    s.takeFirst k key n p = s := by
  unfold State.takeFirst
  rw [if_neg]
  intro hany
  obtain ⟨q, hq, hboth⟩ := List.any_eq_true.mp hany
  obtain ⟨hwg, hl⟩ := (Bool.and_eq_true ..).mp hboth
  obtain ⟨m, hm, htaken⟩ := List.any_eq_true.mp hl
  rw [h q hq (of_decide_eq_true hwg) m hm, Bool.and_false] at htaken
  exact Bool.false_ne_true htaken

/-- The return of a load of words from a scratchpad fills its destination. -/
theorem State.returnLoad_scratch (hp : (s.core k).loads[i]? = some { wg := key, loads := [l] }) (hplace : l.place = .scratch j off space)
    (hvalue : l.value = none) (hreq : l.request = none) (hmod : l.width % 4 = 0) (hpos : 0 < l.width)
    (hfirst : ∀ q ∈ (s.core k).loads.take i, q.wg = key → ∀ m ∈ q.loads, m.fibre ≠ l.fibre) :
    s.returnLoad k i =
      (s.updWg key (l.filled (s.scratchWords j off (l.width / 4)))).updCore k (fun c => { c with loads := listDrop c.loads i }) := by
  have hawait : l.awaits = false := by simp [Load.awaits, hreq]
  have htake := State.takeFirst_none (s := s) (k := k) (key := key) (n := i)
    (p := fun e => decide (e.fibre = l.fibre) && e.place.meets e.width l.place l.width)
    (fun q hq hwg m hm => by simp [hfirst q hq hwg m hm])
  have hnow : State.loadNow k key [l] s = s.updWg key (l.filled (s.scratchWords j off (l.width / 4))) := by
    rw [← Load.landed_spinNote]
    simp only [State.loadNow, performWhere, if_true, Load.perform_scratch hplace hvalue hreq hmod hpos, List.foldl_cons, List.foldl_nil]
  simp only [State.returnLoad, hp, List.any_cons, List.any_nil, hawait, Option.isSome_none, Bool.or_false, Bool.false_eq_true, if_false,
    List.foldl_cons, List.foldl_nil, htake, hnow, Pending.map_into_of_nil (p := { wg := key, loads := [l] }) rfl rfl]
  exact State.updWg_of_id (fun _ => rfl)

/-! What the destination holds then. -/

theorem Load.filled_fibre? {w : Workgroup} {x : Fibre} (v : List (Byte × Bool)) (hx : w.fibre? l.fibre = some x) :
    ∃ y, (l.filled v w).fibre? l.fibre = some y ∧ ∀ r, l.dst = .regs r → r < 240 →
      ∃ z, y = Fibre.land z r (l.words v) := by
  have hspin : (w.updFibre l.fibre (fun y => y.spinLoad l.place.watchLine ((l.words v).map (fun e => e.1)))).fibre? l.fibre =
      some (x.spinLoad l.place.watchLine ((l.words v).map (fun e => e.1))) := by
    rw [Workgroup.fibre?_updFibre _ _ _ _ (fun _ => Fibre.spinLoad_index ..), hx]
    simp
  unfold Load.filled
  cases hd : l.dst with
  | regs n =>
    dsimp only
    split
    case isTrue h => exact ⟨_, hspin, fun r hr hlt => by cases hr; omega⟩
    case isFalse h =>
      rw [Workgroup.fibre?_updFibre _ _ _ _ (fun _ => Fibre.land_index ..), hspin]
      refine ⟨_, rfl, fun r hr _ => ?_⟩
      cases hr
      exact ⟨_, if_pos rfl⟩
  | book n => exact ⟨x, hx, fun r hr => by cases hr⟩
  | pattern n => exact ⟨x, hx, fun r hr => by cases hr⟩

/-- R204: the registers of a load of words from a scratchpad. -/
theorem Load.land_scratch (hmod : l.width % 4 = 0) (z : Fibre) (r : Nat) {n : Nat} (hn : n < l.width / 4) :
    let y := z.land r (l.words (s.scratchWords j off (l.width / 4)))
    Sparse.get 0 y.regs (r + n) = (s.core j).scratch.word (off + 4 * n) ∧ r + n ∉ y.pendV ∧
      (r + n ∈ y.poison ↔ ∃ b, b < 4 ∧ (off + 4 * n + b) / 4 ∈ (s.core j).scratchPoison) := by
  have hland := z.land_reg r (l.words (s.scratchWords j off (l.width / 4))) (m := n) (by rw [Load.words_scratch hmod]; simpa using hn)
  simp only [Load.words_scratch hmod, List.getElem_map, List.getElem_range, State.scratchRead_poison] at hland
  rw [Load.words_scratch hmod]
  exact hland

/-- R135: the entries of a codebook table. -/
theorem Load.filled_book {w : Workgroup} {b n : Nat} (hd : l.dst = .book b) (hwidth : l.width = 32) (hn : n < 16) :
    Sparse.get 0 (l.filled (s.scratchWords j off (l.width / 4)) w).books (16 * b + n) =
      BitVec.ofNat 16 ((s.core j).scratch.readN (off + 2 * n) 2) := by
  simp only [Load.filled, hd, State.scratchWords_bytes, hwidth]
  rw [Sparse.get_foldl_set 0 _ _ _ hn, Bytes.read_drop_take _ _ (by omega), ofBytes_read]

/-- R175: the bytes of a pattern. -/
theorem Load.filled_pattern {w : Workgroup} {p : Nat} (hd : l.dst = .pattern p) (hmod : l.width % 4 = 0) :
    Bytes.read (l.filled (s.scratchWords j off (l.width / 4)) w).patterns (64 * p) l.width = Bytes.read (s.core j).scratch off l.width := by
  have hbytes := Bytes.read_write_same w.patterns (64 * p) ((s.core j).scratch.read off (4 * (l.width / 4)))
  rw [Bytes.length_read, show 4 * (l.width / 4) = l.width by omega] at hbytes
  simpa only [Load.filled, hd, State.scratchWords_bytes, show 4 * (l.width / 4) = l.width by omega] using hbytes

end

/-! Loads put on their way (R41, R203). -/

section
variable {f : Fields} {s : State} {c : Ctx}

/-- The offset of a lane's scratchpad access (R181). -/
def Ctx.scratchOff (c : Ctx) (x : Fibre) : Nat := (src32 c x c.f.srcA + c.f.imm).toNat

/-- R203: a scratchpad access inside the scratchpad and aligned goes to the workgroup's own bytes. -/
theorem Ctx.laneAt_scratch {width : Nat} (perms : Nat) {x : Fibre} (halign : c.scratchOff x % width = 0)
    (hin : c.scratchOff x < c.kernel.scratchBytes) : c.laneAt s 1 width perms x = .ok (.scratch c.core (c.wg.scratchBase + c.scratchOff x) 1) := by
  have haddr : addrOf 1 c x = c.scratchOff x := rfl
  simp only [Ctx.laneAt, State.place, haddr, ge_iff_le, if_neg (Nat.not_le.mpr hin), halign, ne_eq, not_true_eq_false, if_false]

/-- The load of a lane from its scratchpad. -/
def Ctx.scratchLoad (c : Ctx) (width : Nat) (x : Fibre) : Load :=
  { fibre := x.index, dst := .regs c.f.dst.toNat, place := .scratch c.core (c.wg.scratchBase + c.scratchOff x) 1, width := width,
    signed := c.f.mods.getLsbD 2, hint := c.f.mods.toNat / 8 % 4, scope := (c.ord.map (fun e => e.2)).getD 0 }

theorem Ctx.scope_eq (c : Ctx) : c.scope = (c.ord.map (fun e => e.2)).getD 0 := by
  unfold Ctx.scope
  cases c.ord <;> rfl

theorem Ctx.loadOf_scratch {width : Nat} {x : Fibre} (halign : c.scratchOff x % width = 0) (hin : c.scratchOff x < c.kernel.scratchBytes) :
    c.loadOf s 1 width x = c.scratchLoad width x := by
  simp only [Ctx.loadOf, Ctx.scratchLoad, Ctx.placeOf, Ctx.laneAt_scratch 1 halign hin, Ctx.scope_eq, Fields.mod, Fields.modBits, bitsOf,
    Nat.shiftRight_eq_div_pow, Nat.reducePow]

theorem askAll_scratch (k key from' : Nat) {ls : List Load} (h : ∀ l ∈ ls, ∃ j off space, l.place = .scratch j off space) (s : State) :
    askAll k key from' ls s = (ls, s) := by
  induction ls with
  | nil => rfl
  | cons l t ih =>
    obtain ⟨j, off, space, hl⟩ := h l List.mem_cons_self
    simp only [askAll, Load.ask, hl, ih (fun m hm => h m (List.mem_cons_of_mem _ hm))]

theorem State.noteLane_scratch (l : List Fibre) : l.foldl (fun u x => State.noteLane u 1 c x) s = s := by
  induction l with
  | nil => rfl
  | cons x t ih => exact ih

/-- Lanes of which every access is to the scratchpad put their loads on their way, and leave memory and scratchpads as they are. -/
theorem State.loadLanes_scratch {width : Nat} (hacq : c.acquires = false) (hdst : c.f.dst.toNat < 240)
    (hpass : ∀ x ∈ c.passing, c.scratchOff x % width = 0 ∧ c.scratchOff x < c.kernel.scratchBytes) :
    (s.loadLanes 1 width c).mem = s.mem ∧ (∀ k, ((s.loadLanes 1 width c).core k).scratch = (s.core k).scratch) ∧
      ((s.loadLanes 1 width c).core c.core).loads =
        (s.core c.core).loads ++ c.passing.map (fun x => { wg := c.wg.key, loads := [c.scratchLoad width x] }) := by
  have hloads : c.passing.map (c.loadOf s 1 width) = c.passing.map (c.scratchLoad width) :=
    List.map_congr_left (fun x hx => Ctx.loadOf_scratch (hpass x hx).1 (hpass x hx).2)
  have hplaces : ∀ l ∈ c.passing.map (c.scratchLoad width), ∃ j off space, l.place = .scratch j off space := by
    intro l hl
    obtain ⟨x, -, rfl⟩ := List.mem_map.mp hl
    exact ⟨_, _, _, rfl⟩
  have hnow : (c.acquires || decide (c.f.dst.toNat ≥ 240)) = false := by simp [hacq, hdst]
  have hsent : s.loadLanes 1 width c = s.sendLoads c.core c.wg.key (c.passing.map (c.scratchLoad width)) := by
    simp only [State.loadLanes, hloads, State.noteLane_scratch, hnow, Bool.false_and, Bool.false_eq_true, if_false]
  rw [hsent, State.sendLoads]
  simp only [askAll_scratch _ _ _ hplaces, List.map_map]
  refine ⟨rfl, fun k => ?_, ?_⟩
  · rw [State.core_updCore]
    split
    next h => rw [h]; rfl
    next => rfl
  · rw [State.core_updCore_same]
    rfl

theorem widthOf_eq (f : Fields) : widthOf f = 2 ^ (f.mods.toNat % 4) := rfl

theorem quadWidth_eq (f : Fields) : quadWidth f = 16 * 2 ^ (f.mods.toNat % 4) := rfl

/-- A scratchpad load, of any width, without an acquire half. -/
theorem scratchLoad_sends {op width : Nat} {sh : Shape} (h : IssuesAs op sh f s c) (htaint : taintsOp op f = false)
    (hord : ∀ o sc, c.ord = some (o, sc) → o = 0) (hdst : c.f.dst.toNat < 240)
    (hpass : ∀ x ∈ c.passing, c.scratchOff x % width = 0 ∧ c.scratchOff x < c.kernel.scratchBytes) :
    ∃ t, runLoad op 1 sh width f s = .next t ∧ t.mem = s.mem ∧ (∀ k, (t.core k).scratch = (s.core k).scratch) ∧
      (t.core c.core).loads = (s.core c.core).loads ++ c.passing.map (fun x => { wg := c.wg.key, loads := [c.scratchLoad width x] }) := by
  obtain ⟨hc, hk⟩ := h
  have horder : badOrderLoad c = false := badOrderLoad_false (fun o sc ho => by rw [hord o sc ho]; omega)
  have hacq : c.acquires = false := by
    unfold Ctx.acquires
    split
    next o sc ho => rw [hord o sc ho]; rfl
    next => rfl
  have hfault : ∀ x ∈ c.passing, c.accessFault s 1 width 1 x = none := fun x hx => by
    rw [Ctx.accessFault, Ctx.laneAt_scratch 1 (hpass x hx).1 (hpass x hx).2]
  have hbody : loadBody 1 width c (s.tainted c op f) = .ok ((s.loadLanes 1 width c).updLanes c Fibre.next) := by
    rw [State.tainted_id htaint, loadBody, Ctx.laneFault_none hfault, State.ordAfter_id (fun o sc ho => by rw [hord o sc ho])]
  obtain ⟨hmem, hscratch, hloads⟩ := State.loadLanes_scratch (s := s) hacq hdst hpass
  refine ⟨_, runWith_ok hc ?_ hbody, hmem, hscratch, hloads⟩
  simpa only [horder, Bool.or_false] using hk

end

/-- Settles O17: the loads put on their way by `State.loadLanes`, and the return by what the load's bytes make of its destination. -/
theorem scratchLoadReadsItsWords : Obligations.ScratchLoadReadsItsWords := by
  unfold Obligations.ScratchLoadReadsItsWords
  refine ⟨fun f s c => ⟨fun h hord hdst hpass => ?word, fun h hord hdst hpass => ?quad⟩,
    fun s k i j off space key l w x hp hplace hvalue hreq hmod hpos hfirst hw hx => ?returns⟩
  case word =>
    obtain rfl : c.f = f := Ctx.of?_fields h.1
    rw [← widthOf_eq] at hpass ⊢
    change ∃ t, runLoad 0x0B0 1 (.ld 1 c.f) (widthOf c.f) c.f s = .next t ∧ _
    exact scratchLoad_sends (op := 0x0B0) (sh := .ld 1 c.f) h rfl hord hdst hpass
  case quad =>
    obtain rfl : c.f = f := Ctx.of?_fields h.1
    rw [← quadWidth_eq] at hpass ⊢
    change ∃ t, runLoad 0x0B3 1 (.ldQ 1 c.f) (quadWidth c.f) c.f s = .next t ∧ _
    exact scratchLoad_sends (op := 0x0B3) (sh := .ldQ 1 c.f) h rfl hord hdst hpass
  case returns =>
    obtain ⟨y, hy, hland⟩ := Load.filled_fibre? (s.scratchWords j off (l.width / 4)) hx
    refine ⟨_, _, y, congrArg Host.Outcome.next (State.returnLoad_scratch hp hplace hvalue hreq hmod hpos hfirst), ?wg, hy, ?loads, rfl, ?scratch, ?regs, ?book,
      ?pattern⟩
    case wg =>
      rw [State.wg?_updCore, State.wg?_updWg_same _ _ _ (fun _ => Load.filled_key ..), hw]
      rfl
    case loads =>
      rw [State.core_updCore_same]
      rfl
    case scratch =>
      intro m
      rw [State.core_updCore]
      split
      next h => rw [h]; rfl
      next => rfl
    case regs =>
      intro r hd hr n hn
      obtain ⟨z, rfl⟩ := hland r hd (by omega)
      exact Load.land_scratch hmod z r hn
    case book => exact fun b hd hwidth n hn => Load.filled_book hd hwidth hn
    case pattern => exact fun p hd => Load.filled_pattern hd hmod

end Sys2Proof.Machine
end

section
/-! `MOVS.I` of a poisoned source (R93, R105, R484): its workgroup is parked, so the frame of the register instructions, which is stated of it without
the condition that its workgroup is not parked, does not hold of it. -/

namespace Sys2Proof.Machine

/-- A fault of a workgroup that was not parked joins the records. -/
theorem State.records_park {s : State} {key : Nat} {w : Workgroup} (hw : s.wg? key = some w) (hp : w.parked = none) (e : FaultInfo) :
    (s.park key e).records = s.records ++ [(e, w.launch, w.wgid, w.core, key)] := by
  simp only [State.park, hw, hp, Option.isSome_none, Bool.false_eq_true, if_false, State.log_records, State.updWg_records]

/-- `MOVS.I` names a passing lane whose source is poisoned. -/
def Ctx.namesPoison (c : Ctx) : Bool :=
  (c.passing.find? (fun y => y.lane = c.f.immBits 0 5)).any (fun x => Role.v.poisoned c x c.f.srcB)

/-- A `MOVS.I` whose lane's source is poisoned parks its workgroup. -/
theorem exec_movsI_of_poisoned {f : Fields} {s : State} {c : Ctx} (h : IssuesAs 0x048 (.movsI f) f s c) (hbad : c.namesPoison = true) :
    ∃ e, exec (.movsI f) s = .next (s.parkBatch c e) := by
  obtain ⟨hc, hk⟩ := h
  obtain ⟨x, hx, hpoison⟩ := (Option.any_eq_true ..).mp hbad
  refine ⟨c.fault 11 x.index (2 ^ 64 - 1) c.f.srcB.toNat (laneMask [x]), ?_⟩
  change execMovsI f s = _
  unfold execMovsI runBatch
  refine runWith_error hc hk ?_
  simp only [hx, hpoison, if_true]

/-- One launch and one workgroup of a fibre on core 0, whose batch is about to issue, and whose register 0 is poisoned. -/
def poisonedWorld : State := { State.reset with
  cores := [(0, { slots := [{ id := 0, wg := 1, lanes := [0], age := 0 }] })]
  wgs := [{ key := 1, launch := 7, core := 0, wgid := 0, fibres := [{ index := 0, pc := 0, allot := 16, poison := [0] }] }]
  launches := [{ lseq := 7, kind := .packet, kernel := some { header := 0x08400F40 } }]
  issue := some { core := 0, slot := 0 } }

/-- The fields of `MOVS.I` from register 0 of lane 0 to scalar register 1. -/
def poisonedMove : Fields :=
  { stall := 0, guardOn := false, guardPred := 0, guardNeg := false, dst := 0x141, srcA := 0, srcB := 0, srcC := 0, immSel := false, mods := 0, imm := 0 }

/-- The move passes steps 2 to 6 of R49 there, for a workgroup that is not parked, and the lane that it names is poisoned. -/
theorem poisonedMove_issues : ∃ c, IssuesAs 0x048 (.movsI poisonedMove) poisonedMove poisonedWorld c ∧ c.wg.parked = none ∧ c.namesPoison = true := by
  have hsome : (Ctx.of? poisonedWorld 0x048 poisonedMove).any (fun c =>
      decide (checkIssue 0x048 (.movsI poisonedMove) c = none) && c.wg.parked.isNone && c.namesPoison) = true := by decide +kernel
  obtain ⟨c, hc, hall⟩ := (Option.any_eq_true ..).mp hsome
  simp only [Bool.and_eq_true, decide_eq_true_eq, Option.isNone_iff_eq_none] at hall
  obtain ⟨⟨hk, hparked⟩, hbad⟩ := hall
  exact ⟨c, ⟨hc, hk⟩, hparked, hbad⟩

/-- Refutes O55: a `MOVS.I` whose source is poisoned in the lane that it names passes steps 2 to 6 of R49 and parks its workgroup at step 7, so a record
joins those that wait. The statement asks that the records stay, and for `MOVS.I` without the condition that the workgroup is not parked. -/
theorem not_registerInstructionsKeepTheRest : ¬ Obligations.RegisterInstructionsKeepTheRest := by
  unfold Obligations.RegisterInstructionsKeepTheRest
  intro h
  obtain ⟨c, hissue, hparked, hbad⟩ := poisonedMove_issues
  obtain ⟨e, hexec⟩ := exec_movsI_of_poisoned hissue hbad
  obtain ⟨-, -, -, -, -, -, -, hscalar, -⟩ := h poisonedMove poisonedWorld _ c (.movsI poisonedMove) hissue hexec
  obtain ⟨-, -, -, -, -, hrecords, -⟩ := hscalar (by simp)
  rw [State.parkBatch, State.records_park (Ctx.of?_wg hissue.1) hparked] at hrecords
  simp at hrecords

end Sys2Proof.Machine
end

section
/-! The age counters of the schedulers (R72). Ranking puts the slots of a core in order whatever their counters were, and every step that acts ends with
the settling of each core that holds anything, whose last act is the ranking of its slots; what follows it keeps every slot's scheduler and age. -/

namespace Sys2Proof.Machine

/-! Ranks. -/

section
variable {α : Type} {r : α → α → Bool} {l : List α}

/-- Of two members in order the upper has more members below it. -/
theorem countBelow_lt (hirrefl : ∀ a, r a a = false) (htrans : ∀ a b c, r a b = true → r b c = true → r a c = true) {a b : α} (ha : a ∈ l)
    (hab : r a b = true) : (l.filter (fun x => r x a)).length < (l.filter (fun x => r x b)).length := by
  have hsub : (l.filter (fun x => r x a)).Sublist (l.filter (fun x => r x b)) := List.monotone_filter_right l fun x hx => htrans x a b hx hab
  refine lt_of_not_ge fun hge => ?_
  have hmem : a ∈ l.filter (fun x => r x a) := hsub.eq_of_length_le hge ▸ List.mem_filter.mpr ⟨ha, hab⟩
  simp [hirrefl] at hmem

/-- In a strict linear order on a list without repetitions, each number below the list's length counts what is below some member. -/
theorem exists_countBelow_eq (hnodup : l.Nodup) (hirrefl : ∀ a, r a a = false) (htrans : ∀ a b c, r a b = true → r b c = true → r a c = true)
    (htotal : ∀ a ∈ l, ∀ b ∈ l, a ≠ b → r a b = true ∨ r b a = true) {k : Nat} (hk : k < l.length) :
    ∃ a ∈ l, (l.filter (fun x => r x a)).length = k := by
  have hinj : (l.map (fun a => (l.filter (fun x => r x a)).length)).Nodup := by
    refine hnodup.map_on fun a ha b hb heq => by_contra fun hne => ?_
    rcases htotal a ha b hb hne with h | h
    · exact (countBelow_lt hirrefl htrans ha h).ne heq
    · exact (countBelow_lt hirrefl htrans hb h).ne' heq
  have hbelow : l.map (fun a => (l.filter (fun x => r x a)).length) ⊆ List.range l.length := by
    intro n hn
    obtain ⟨a, ha, rfl⟩ := List.mem_map.mp hn
    exact List.mem_range.mpr (List.length_filter_lt_length_iff_exists.mpr ⟨a, ha, by simp [hirrefl]⟩)
  have hperm := (List.subperm_of_subset hinj hbelow).perm_of_length_le (by simp)
  exact List.mem_map.mp (hperm.mem_iff.mpr (List.mem_range.mpr hk))

end

/-- A slot stands before another in their scheduler's age order, ties by position in the list (R72). -/
def olderSlot (y z : Slot × Nat) : Bool := decide (y.1.age < z.1.age) || (decide (y.1.age = z.1.age) && decide (y.2 < z.2))

theorem olderSlot_irrefl (z : Slot × Nat) : olderSlot z z = false := by simp [olderSlot]

theorem olderSlot_trans (x y z : Slot × Nat) : olderSlot x y = true → olderSlot y z = true → olderSlot x z = true := by
  simp only [olderSlot, Bool.or_eq_true, Bool.and_eq_true, decide_eq_true_eq]
  omega

/-- The slots of a scheduler with their positions. -/
def Core.schedSlots (c : Core) (sched : Nat) : List (Slot × Nat) := c.slots.zipIdx.filter (fun y => decide (y.1.sched = sched))

theorem Core.place_eq (c : Core) (z : Slot × Nat) : c.place z.1 z.2 = ((c.schedSlots z.1.sched).filter (fun y => olderSlot y z)).length := by
  rw [Core.schedSlots, List.filter_filter, Core.place]
  simp only [olderSlot, Bool.and_comm]

/-- What the counters of a core say depends on its slots' schedulers and ages alone. -/
theorem Core.countersOk_of_map {c d : Core} (h : c.countersOk) (g : Slot → Slot) (hd : d.slots = c.slots.map g)
    (hg : ∀ z, (g z).sched = z.sched ∧ (g z).age = z.age) : d.countersOk := by
  intro sched k hk
  have hocc : d.occupied sched = c.occupied sched := by
    simp [Core.occupied, hd, List.filter_map, Function.comp_def, hg]
  obtain ⟨z, hz, hsched, hage⟩ := h sched k (hocc ▸ hk)
  exact ⟨g z, hd ▸ List.mem_map_of_mem hz, (hg z).1.trans hsched, (hg z).2.trans hage⟩

/-- Ranking puts the counters in order, whatever they were (R72). -/
theorem Core.ranked_countersOk (c : Core) : c.ranked.countersOk := by
  intro sched k hk
  have hlen : c.ranked.occupied sched = (c.schedSlots sched).length := by
    rw [Core.occupied, Core.ranked, List.filter_map, List.length_map]
    rfl
  have hnodup : (c.schedSlots sched).Nodup := (List.Nodup.of_map Prod.snd (by simp [List.zipIdx_map_snd, List.nodup_range'])).filter _
  have htotal : ∀ a ∈ c.schedSlots sched, ∀ b ∈ c.schedSlots sched, a ≠ b → olderSlot a b = true ∨ olderSlot b a = true := by
    intro a ha b hb hne
    have hpos : a.2 ≠ b.2 := fun h => hne (Prod.ext (by
      have ha := List.mem_zipIdx_iff_getElem?.mp (List.mem_filter.mp ha).1
      have hb := List.mem_zipIdx_iff_getElem?.mp (List.mem_filter.mp hb).1
      exact Option.some.inj (ha.symm.trans (h ▸ hb))) h)
    simp only [olderSlot, Bool.or_eq_true, Bool.and_eq_true, decide_eq_true_eq]
    omega
  obtain ⟨z, hz, hcount⟩ := exists_countBelow_eq hnodup olderSlot_irrefl olderSlot_trans htotal (hlen ▸ hk)
  obtain ⟨hmem, hsched⟩ := List.mem_filter.mp hz
  have hsched := of_decide_eq_true hsched
  refine ⟨{ z.1 with age := c.place z.1 z.2 }, List.mem_map_of_mem hmem, hsched, ?_⟩
  rw [← hcount, ← hsched]
  exact c.place_eq z

/-! The slots of one core. -/

/-- A step leaves every core but one as it was. -/
def State.CoresBut (k : Nat) (s t : State) : Prop := ∀ e ∈ t.cores, e.1 ≠ k → e ∈ s.cores

theorem State.CoresBut.of_cores {k : Nat} {s t : State} (h : t.cores = s.cores) : State.CoresBut k s t := fun _ he _ => h ▸ he

theorem State.CoresBut.trans {k : Nat} {s t u : State} (hst : State.CoresBut k s t) (htu : State.CoresBut k t u) : State.CoresBut k s u :=
  fun e he hk => hst e (htu e he hk) hk

theorem State.CoresBut.updCore (k : Nat) (s : State) (g : Core → Core) : State.CoresBut k s (s.updCore k g) :=
  fun _ he hk => (Sparse.mem_set he).resolve_left fun heq => hk (heq ▸ rfl)

theorem State.CoresBut.foldl {α : Type} {k : Nat} {g : State → α → State} (hg : ∀ s a, State.CoresBut k s (g s a)) (l : List α) (s : State) :
    State.CoresBut k s (l.foldl g s) := by
  induction l generalizing s with
  | nil => exact .of_cores rfl
  | cons a t ih => exact (hg s a).trans (ih _)

variable (s : State) (k : Nat)

/-- Fibres put on a slot, or saved where none is free, concern their core alone. -/
theorem State.takeSlot_coresBut (w : Workgroup) (sl : Slot) (hwarp : Nat) (lanes : List Nat) (key : Nat) (l : List Nat) :
    State.CoresBut k s ((s.takeSlot k w sl hwarp lanes).getD (s.saveFibres key l)) := by
  unfold State.takeSlot
  dsimp only
  split
  · exact .of_cores rfl
  · cases (s.core k).lowestSlot (w.scheduler hwarp) with
    | none => exact .of_cores rfl
    | some n => exact State.CoresBut.updCore k s (fun _ => _)

theorem State.splitSlot_coresBut (id : Nat) : State.CoresBut k s (s.splitSlot k id) := by
  unfold State.splitSlot
  split
  case h_1 => exact .of_cores rfl
  case h_2 sl _ =>
    split
    case h_1 => exact .updCore k s _
    case h_2 w _ =>
      dsimp only
      split
      case h_1 => exact .updCore k s _
      case h_2 first rest _ =>
        refine State.CoresBut.trans ?_ (State.CoresBut.foldl (fun t p => t.takeSlot_coresBut k w sl _ _ _ _) rest _)
        split
        · exact .of_cores rfl
        · exact .updCore k s _

theorem State.placeFibre_coresBut (key i : Nat) : State.CoresBut k s (s.placeFibre k key i) := by
  unfold State.placeFibre
  split
  case h_1 => exact .of_cores rfl
  case h_2 w _ =>
    split
    case h_1 => exact .of_cores rfl
    case h_2 x _ =>
      split
      · exact .updCore k s _
      · exact s.takeSlot_coresBut k w _ _ _ _ _

theorem State.mergeSlots_coresBut (n : Nat) : State.CoresBut k s (State.mergeSlots k n s) := by
  induction n generalizing s with
  | zero => exact .of_cores rfl
  | succ n ih =>
    unfold State.mergeSlots
    split
    · exact .of_cores rfl
    · exact (State.CoresBut.updCore k s _).trans (ih _)

/-! A core settled. -/

theorem Sparse.eq_of_mem_set {β : Type} [DecidableEq β] {d v : β} {m : Sparse β} {a : Nat} {e : Nat × β} (h : e ∈ Sparse.set d m a v) (ha : e.1 = a) :
    e = (a, v) := by
  unfold Sparse.set at h
  split at h
  · exact absurd ha (Sparse.not_mem_erase a m e h)
  · exact (Sparse.mem_put h).resolve_right fun he => Sparse.not_mem_erase a m e he ha

/-- The settling of a core's slots ends with their ranking. -/
theorem State.settleSlots_eq : ∃ t, State.CoresBut k s t ∧ s.settleSlots k = t.updCore k Core.ranked := by
  unfold State.settleSlots
  refine ⟨_, ?_, rfl⟩
  refine State.CoresBut.trans ?_ (State.mergeSlots_coresBut _ k 64)
  refine State.CoresBut.trans ?_ (State.CoresBut.foldl (fun t (e : Nat × Nat) => t.placeFibre_coresBut k e.1 e.2) _ _)
  exact State.CoresBut.foldl (fun t id => t.splitSlot_coresBut k id) _ s

/-- A core settled has its counters in order, whatever they were; the other cores stay. -/
theorem State.settleCore_eq : ∃ t g, State.CoresBut k s t ∧ s.settleCore k = t.updCore k g ∧ (g (t.core k)).countersOk := by
  obtain ⟨t, ht, heq⟩ := s.settleSlots_eq k
  unfold State.settleCore
  rw [heq]
  dsimp only
  split
  · exact ⟨t, Core.ranked, ht, rfl, Core.ranked_countersOk _⟩
  · refine ⟨t.updCore k Core.ranked, _, ht.trans (.updCore k t _), rfl, ?_⟩
    rw [State.core_updCore_same]
    exact Core.ranked_countersOk (t.core k)

theorem State.settleCore_countersOk {e : Nat × Core} (he : e ∈ (s.settleCore k).cores) : e.2.countersOk ∨ e.1 ≠ k ∧ e ∈ s.cores := by
  obtain ⟨t, g, ht, heq, hg⟩ := s.settleCore_eq k
  rw [heq] at he
  by_cases hk : e.1 = k
  · exact .inl ((Sparse.eq_of_mem_set he hk).symm ▸ hg)
  · exact .inr ⟨hk, ht.trans (.updCore k t g) e he hk⟩

/-- Cores settled one after another have their counters in order, whatever they were. -/
theorem State.foldl_settleCore_countersOk (l : List Nat) (h : ∀ e ∈ s.cores, e.1 ∈ l ∨ e.2.countersOk) : (l.foldl State.settleCore s).countersOk := by
  induction l generalizing s with
  | nil => exact fun e he => (h e he).resolve_left List.not_mem_nil
  | cons k t ih =>
    rw [List.foldl_cons]
    refine ih (s.settleCore k) fun e he => ?_
    rcases s.settleCore_countersOk k he with hok | ⟨hk, hold⟩
    · exact .inr hok
    · exact (h e hold).imp_left fun hmem => (List.mem_cons.mp hmem).resolve_left hk

theorem State.settleCores_countersOk : (s.busyCores.foldl State.settleCore s).countersOk :=
  s.foldl_settleCore_countersOk _ fun _ he => .inl (mem_distinct.mpr (List.mem_append_left _ (List.mem_map_of_mem he)))

/-! What follows from a step, and the passing of time. -/

variable {s}

theorem State.startSave_countersOk (h : s.countersOk) : (s.startSave k).countersOk := by
  unfold State.startSave
  split
  · exact h
  · split
    · exact h
    · exact State.updCore_countersOk h k fun _ => rfl

theorem State.wgs_countersOk (h : s.countersOk) (wgs : List Workgroup) : ({ s with wgs := wgs } : State).countersOk := h

theorem State.sweepSlots_cores (s : State) (w : Workgroup) : (s.sweepSlots w).cores = s.cores := by
  unfold State.sweepSlots
  dsimp only
  split <;> rfl

theorem State.settleCove_cores (s : State) (die : Nat) : (s.settleCove die).cores = s.cores := by
  unfold State.settleCove
  dsimp only
  split <;> rfl

theorem State.settleBrush_cores (s : State) (h : Nat) : (s.settleBrush h).cores = s.cores := by
  unfold State.settleBrush
  split
  · rfl
  · split <;> rfl

theorem State.requestMembers_countersOk (h : s.countersOk) (m : MultiOp) : (s.requestMembers m).countersOk := by
  unfold State.requestMembers
  refine foldl_countersOk _ (fun t off ht => ?_) _ h
  exact State.countersOk_of_cores ht rfl

theorem State.releaseMulti_countersOk (h : s.countersOk) : s.releaseMulti.countersOk := by
  refine foldl_countersOk _ (fun t m ht => ?_) _ h
  split
  · exact ht
  · split
    · exact ht
    · split
      · exact ht
      · refine State.requestMembers_countersOk ?_ m
        exact ht

theorem State.drainLink_cores (port n : Nat) (s : State) : (State.drainLink port n s).cores = s.cores := by
  induction n generalizing s with
  | zero => rfl
  | succ n ih =>
    rw [State.drainLink, ih, State.sendFlit]
    split <;> rfl

theorem State.settleLinks_countersOk (h : s.countersOk) : s.settleLinks.countersOk := by
  unfold State.settleLinks
  split
  · exact h
  · exact foldl_countersOk _ (fun t e ht => State.countersOk_of_cores ht (State.drainLink_cores ..)) _ h

theorem State.settleLines_cores (s : State) : s.settleLines.cores = s.cores := by
  unfold State.settleLines
  split <;> rfl

/-- What follows from a step leaves the counters of every core in order, whatever they were (R72). -/
theorem State.settle_countersOk (s : State) : s.settle.countersOk := by
  unfold State.settle
  refine State.countersOk_of_cores (State.settleLinks_countersOk (State.releaseMulti_countersOk ?_)) (State.settleLines_cores _)
  refine foldl_countersOk _ (fun _ _ ht => State.countersOk_of_cores ht (State.settleBrush_cores ..)) _ ?_
  refine foldl_countersOk _ (fun _ _ ht => State.countersOk_of_cores ht (State.settleCove_cores ..)) _ (State.storeRecords_countersOk ?_)
  refine foldl_countersOk _ (fun _ _ ht => State.countersOk_of_cores ht (State.sweepSlots_cores ..)) _ ?_
  refine State.wgs_countersOk ?_ _
  refine foldl_countersOk _ (fun _ k ht => State.startSave_countersOk k ht) _ ?_
  exact State.settleCores_countersOk s.settleHolds.settleFences.settleMulti.settleQueues

/-- Stores of cores in which every core has its counters in order. -/
def CoresOk (m : Sparse Core) : Prop := ∀ e ∈ m, e.2.countersOk

theorem CoresOk.set {m : Sparse Core} (h : CoresOk m) (a : Nat) {v : Core} (hv : v.countersOk) : CoresOk (Sparse.set {} m a v) :=
  fun e he => (Sparse.mem_set he).elim (fun heq => heq ▸ hv) (h e)

theorem CoresOk.get {m : Sparse Core} (h : CoresOk m) (a : Nat) : (Sparse.get {} m a).countersOk := by
  rcases Sparse.get_mem {} m a with heq | hmem
  · rw [heq]
    exact Core.countersOk_empty
  · exact h _ hmem

theorem State.foundWork_coresOk {m : Sparse Core} (h : CoresOk m) (s : State) (now : Nat) : CoresOk (s.foundWork now m) := by
  unfold State.foundWork
  split
  · exact h
  · generalize List.range Config.cores = l
    induction l generalizing m with
    | nil => exact h
    | cons k t ih =>
      refine ih ?_
      dsimp only
      split
      · exact h.set k (h.get k)
      · exact h

theorem Core.stalls_countersOk {c : Core} (h : c.countersOk) (draw k : Nat) : (c.stalls draw k).countersOk :=
  Core.countersOk_of_map h _ rfl fun z => by split <;> exact ⟨rfl, rfl⟩

/-- The passing of time keeps the counters. -/
theorem State.elapse_countersOk (h : s.countersOk) : s.elapse.countersOk := by
  refine State.foundWork_coresOk (fun e he => ?_) s _
  obtain ⟨d, hd, rfl⟩ := List.mem_map.mp he
  exact Core.stalls_countersOk (h d hd) s.free d.1

/-- Settles O58: a step that acts ends with the settling of every busy core, which ranks its slots; one that does not lets time pass. -/
theorem stepKeepsTheCounters : Obligations.StepKeepsTheCounters := by
  unfold Obligations.StepKeepsTheCounters step
  intro s t h hstep
  split at hstep
  · cases hstep
    exact State.elapse_countersOk h
  · split at hstep
    · cases hstep
      exact State.elapse_countersOk (State.settle_countersOk _)
    · cases hstep
    · cases hstep

end Sys2Proof.Machine
end

section
/-! A created fibre (R83): the index it takes, where it stands, what it holds, and what the creating lane reads. -/

namespace Sys2Proof.Machine

/-! The lowest free index. -/

/-- Every index below the one found is used. -/
theorem mem_of_lt_lowestFree {used : List Nat} {n k j : Nat} (hk : k ≤ j) (hj : j < lowestFree used n k) : j ∈ used := by
  induction n generalizing k with
  | zero => exact absurd hj (Nat.not_lt.mpr hk)
  | succ n ih =>
    rw [lowestFree] at hj
    split at hj
    case isTrue hused =>
      rcases Nat.eq_or_lt_of_le hk with rfl | hlt
      · exact List.contains_iff_mem.mp hused
      · exact ih hlt hj
    case isFalse => exact absurd hj (Nat.not_lt.mpr hk)

/-- The index found is not used, where none beyond the range searched is. -/
theorem lowestFree_not_mem {used : List Nat} {n k : Nat} (hused : ∀ j ∈ used, j < n + k) : lowestFree used n k ∉ used := by
  induction n generalizing k with
  | zero => exact fun hmem => absurd (hused _ hmem) (by simp [lowestFree])
  | succ n ih =>
    rw [lowestFree]
    split
    case isTrue => exact ih fun j hj => by have := hused j hj; omega
    case isFalse hfree => exact fun hmem => hfree (List.contains_iff_mem.mpr hmem)

/-- A fibre put in its place is found by its index, and the others are found as before. -/
theorem find?_insertFibre {z : Fibre} {l : List Fibre} (hz : ∀ y ∈ l, y.index ≠ z.index) (n : Nat) :
    (insertFibre z l).find? (fun y => decide (y.index = n)) = if n = z.index then some z else l.find? (fun y => decide (y.index = n)) := by
  induction l with
  | nil =>
    rcases eq_or_ne z.index n with rfl | h
    · simp [insertFibre]
    · simp [insertFibre, h, h.symm]
  | cons y t ih =>
    obtain ⟨hy, ht⟩ := List.forall_mem_cons.mp hz
    rw [insertFibre]
    split
    case isTrue =>
      rcases eq_or_ne z.index n with rfl | h
      · simp
      · simp [h, h.symm]
    case isFalse =>
      by_cases h : y.index = n
      · simp [h, show n ≠ z.index from h ▸ hy]
      · simp [h, ih ht]

/-! One fibre created. -/

/-- A workgroup in which a fibre has been created, resident or queued. -/
def Workgroup.spawned (w : Workgroup) (z : Fibre) (here : Bool) : Workgroup :=
  { w with fibres := insertFibre { z with resident := here } w.fibres, queue := if here then w.queue else w.queue ++ [z.index] }

theorem Workgroup.fibre?_spawned {w : Workgroup} {z : Fibre} (hz : ∀ y ∈ w.fibres, y.index ≠ z.index) (here : Bool) (n : Nat) :
    (w.spawned z here).fibre? n = if n = z.index then some { z with resident := here } else w.fibre? n :=
  find?_insertFibre (z := { z with resident := here }) hz n

variable {s : State} {w : Workgroup} {c : Ctx} {x : Fibre} {target : BitVec 64}

theorem State.create_one {key : Nat} (hw : s.wg? key = some w) (allot : Nat) (arg : Word) : State.create key allot target 1 arg s =
    (s.updWg key (fun v => v.spawned (s.newFibre w allot target arg) (s.freeContext w (s.newFibre w allot target arg))),
      some (s.newFibre w allot target arg).index) := by
  rw [State.create, hw]
  rfl

/-- A lane with room for one fibre creates it and reads its index. -/
theorem State.spawnLanes_one (hw : s.wg? c.wg.key = some w) (hlen : w.fibres.length < 4096) (hroom : s.spawnRoom w 1 x.allot target = true) :
    let z := s.newFibre w x.allot target (src32 c x c.f.srcA)
    (State.spawnLanes c target (fun _ => 1) [x] s).wg? c.wg.key =
      some ((w.spawned z (s.freeContext w z)).updFibre x.index (fun y => y.set32 c.f.dst (BitVec.ofNat 32 z.index))) := by
  have hwg : s.wgOf c = w := by rw [State.wgOf, hw, Option.getD_some]
  have hfits : ¬ ((1 : Nat) = 0 ∨ 1 > 4096 - w.fibres.length ∨ (!s.spawnRoom w 1 x.allot target) = true) := by
    rw [hroom]
    simp only [Bool.not_true, Bool.false_eq_true, or_false]
    omega
  intro z
  simp only [State.spawnLanes, hwg, if_neg hfits, State.create_one hw]
  rw [State.wg?_updWg_same _ _ _ (by exact fun _ => rfl), State.wg?_updWg_same _ _ _ (by exact fun _ => rfl), hw]
  rfl

theorem State.newFibre_index_ne (hindex : ∀ y ∈ w.fibres, y.index < 4096) (s : State) (allot : Nat) (target : BitVec 64) (arg : Word) :
    ∀ y ∈ w.fibres, y.index ≠ (s.newFibre w allot target arg).index := by
  intro y hy heq
  have hfree : lowestFree (w.fibres.map (fun x => x.index)) 4096 0 ∉ w.fibres.map (fun x => x.index) :=
    lowestFree_not_mem fun j hj => by
      obtain ⟨v, hv, rfl⟩ := List.mem_map.mp hj
      exact hindex v hv
  exact hfree (List.mem_map.mpr ⟨y, hy, heq⟩)

/-- Settles O15: the workgroup after the lane is `State.spawnLanes_one`, in which the created fibre and its creator are found by their indexes. -/
theorem spawnedFibreStartsAtTarget : Obligations.SpawnedFibreStartsAtTarget := by
  unfold Obligations.SpawnedFibreStartsAtTarget
  intro c s x w target hw hx hlen hindex hroom hdst
  have hv := State.spawnLanes_one (c := c) hw hlen hroom
  set z := s.newFibre w x.allot target (src32 c x c.f.srcA) with hz
  have hne : ∀ y ∈ w.fibres, y.index ≠ z.index := State.newFibre_index_ne hindex s _ _ _
  have hxz : x.index ≠ z.index := hne x (List.mem_of_find?_eq_some hx)
  have hfound (n : Nat) := Workgroup.fibre?_updFibre (w.spawned z (s.freeContext w z)) x.index n
    (fun y => y.set32 c.f.dst (BitVec.ofNat 32 z.index)) (fun y => y.set32_index ..)
  simp only [Workgroup.fibre?_spawned hne] at hfound
  refine ⟨_, { z with resident := s.freeContext w z }, z.index, hv, ?created, hne, fun j hj => ?lowest, rfl, rfl, ?arg, fun n hn => ?rest, ?creator⟩
  case created => rw [hfound, if_pos rfl, Option.map_some, if_neg hxz.symm]
  case lowest => exact List.mem_map.mp (mem_of_lt_lowestFree (Nat.zero_le j) hj)
  case arg => exact Sparse.get_set_same ..
  case rest => exact Sparse.get_set_ne 0 [] _ hn
  case creator =>
    rw [hfound, if_neg hxz, hx, Option.map_some, if_pos rfl, Option.map_some, Fibre.set32, if_pos hdst]
    exact congrArg some (Sparse.get_set_same ..)

end Sys2Proof.Machine
end

section
/-! Traps and service calls (R75, R398, R404, R405): what their record holds, and that a batch none of whose lanes passes only moves on. -/

namespace Sys2Proof.Machine

variable {f : Fields} {s : State} {c : Ctx} {x : Fibre} {l : List Fibre}

section
variable {op : Nat} {sh : Shape} {g : Ctx → Fibre → State → Except FaultInfo State}

/-- What acts once for its batch faults as its lowest passing lane does. -/
theorem IssuesAs.onceParks {e : FaultInfo} (h : IssuesAs op sh f s c) (hp : c.passing = x :: l) (hg : g c x (s.tainted c op f) = .error e) :
    runOnce op sh f s g = .next (s.parkBatch c e) := by
  refine h.parks ?_
  simp only [hp, hg]

/-- What acts once for its batch only moves on where no lane passes. -/
theorem IssuesAs.onceIdle (h : IssuesAs op sh f s c) (hp : c.passing = []) : runOnce op sh f s g = .next ((s.tainted c op f).lanewise c id) :=
  runOnce_none h.1 h.2 hp

end

/-- A record names the lowest passing fibre, the code, and the mask of the passing lanes. -/
def Ctx.TrapRecord (c : Ctx) (x : Fibre) (cls args : Nat) (e : FaultInfo) : Prop :=
  e.cls = cls ∧ e.pc = c.pc ∧ e.fibre = x.index ∧ e.deferred = false ∧ e.parts = c.passing.map (fun y => y.index) ∧ e.dst = c.f.dst.toNat ∧
    e.body = args % 2 ^ 64 + c.f.imm.toNat % 2 ^ 16 * 2 ^ 64 + (laneMask c.passing).toNat * 2 ^ 96

theorem Ctx.trapFault_record (hp : c.passing = x :: l) (cls args : Nat) : c.TrapRecord x cls args (c.trapFault cls args) := by
  have hcode : c.f.immBits 0 16 % 2 ^ 32 = c.f.imm.toNat % 2 ^ 16 := by
    rw [Fields.immBits, bitsOf, Nat.shiftRight_zero]
    omega
  have hbody : (c.trapFault cls args).body = args % 2 ^ 64 + c.f.imm.toNat % 2 ^ 16 * 2 ^ 64 + (laneMask c.passing).toNat * 2 ^ 96 := by
    rw [← hcode]
    rfl
  exact ⟨rfl, rfl, by rw [Ctx.trapFault, hp]; rfl, rfl, rfl, rfl, hbody⟩

theorem trap_parks (h : Issues (.trap f) s c) (hp : c.passing = x :: l) : exec (.trap f) s = .next (s.parkBatch c (c.trapFault 18 0)) := by
  change execTrap f s = _
  exact IssuesAs.onceParks (op := 0x150) (sh := .trap f) h hp rfl

theorem brk_parks (hdbg : s.dbg.getLsbD 0 = true) (h : Issues (.brk f) s c) (hp : c.passing = x :: l) :
    exec (.brk f) s = .next (s.parkBatch c (c.trapFault 19 0)) := by
  change execBrk f s = _
  refine IssuesAs.onceParks (op := 0x156) (sh := .trap f) h hp ?_
  rw [State.tainted_dbg, if_pos hdbg]

theorem sysc_parks (h : Issues (.sysc f) s c) (hp : c.passing = x :: l) : exec (.sysc f) s = .next (((s.entered c (.sysc f)).commits c true).parkBatch c
    (c.trapFault 20 ((src32 c x c.f.srcA).toNat + (src32 c x c.f.srcB).toNat * 2 ^ 32))) := by
  change execSysc f s = _
  exact runOnce_ok (op := 0x151) (sh := .sysc f) h.1 h.2 hp rfl

theorem brk_idle (h : Issues (.brk f) s c) (hp : c.passing = []) : Lanes (.brk f) s c id := by
  change execBrk f s = _
  exact IssuesAs.onceIdle (op := 0x156) (sh := .trap f) h hp

/-- `BRK` has no effect while `csr.dbg` bit 0 is clear (R405). -/
theorem brk_passes (hdbg : s.dbg.getLsbD 0 = false) (h : Issues (.brk f) s c) : Lanes (.brk f) s c id := by
  cases hp : c.passing with
  | nil => exact brk_idle h hp
  | cons x l =>
    change execBrk f s = _
    refine runOnce_ok (op := 0x156) (sh := .trap f) h.1 h.2 hp ?_
    rw [State.tainted_dbg, if_neg (ne_true_of_eq_false hdbg)]
    rfl

theorem trap_idle (h : Issues (.trap f) s c) (hp : c.passing = []) : Lanes (.trap f) s c id := by
  change execTrap f s = _
  exact IssuesAs.onceIdle (op := 0x150) (sh := .trap f) h hp

theorem sysc_idle (h : Issues (.sysc f) s c) (hp : c.passing = []) : Lanes (.sysc f) s c id := by
  change execSysc f s = _
  exact IssuesAs.onceIdle (op := 0x151) (sh := .sysc f) h hp

/-- Settles O29: each instruction by the lemma of its parking, its record by `Ctx.trapFault_record`. -/
theorem trapsParkTheirWorkgroup : Obligations.TrapsParkTheirWorkgroup := by
  unfold Obligations.TrapsParkTheirWorkgroup
  intro f s c x l
  exact ⟨fun h hp => ⟨_, trap_parks h hp, Ctx.trapFault_record hp 18 0⟩,
    fun hdbg h hp => ⟨_, brk_parks hdbg h hp, Ctx.trapFault_record hp 19 0⟩,
    fun h hp => ⟨_, sysc_parks h hp, Ctx.trapFault_record hp 20 _⟩,
    brk_passes, trap_idle, brk_idle, sysc_idle⟩

end Sys2Proof.Machine
end

section
/-! The launch processor's events (R86, R449, R452, R453, R456, R458, R459, R462 to R464): what accesses to memory leave of the launches, the launch that a
packet makes, the workgroup that an admission makes, and what the end of a workgroup leaves. -/

namespace Sys2Proof.Machine

/-! What accesses to memory leave of the launches. -/

/-- A projection of the state that no change of a list touches. -/
theorem foldl_keeps {α β : Type} (p : State → β) (g : State → α → State) (h : ∀ s a, p (g s a) = p s) (l : List α) (s : State) :
    p (l.foldl g s) = p s := by
  induction l generalizing s with
  | nil => rfl
  | cons a t ih => rw [List.foldl_cons, ih, h]

/-- The launches and the next sequence number: what no access to memory changes. -/
def State.accepted (s : State) : List Launch × Nat := (s.launches, s.lseqCounter)

section
variable (s : State)

@[simp] theorem State.l1Upd_accepted (k l : Nat) (g : L1Line → L1Line) : (s.l1Upd k l g).accepted = s.accepted := rfl

@[simp] theorem State.ownWord_accepted (who : Writer) (w : Nat) : (s.ownWord who w).accepted = s.accepted := by
  simp only [State.ownWord]
  split <;> split <;> rfl

@[simp] theorem State.l2Touch_accepted (l h p : Nat) : (s.l2Touch l h p).accepted = s.accepted := by
  unfold State.l2Touch
  (repeat' split) <;> rfl

@[simp] theorem State.noteLines_accepted (cells : List (Nat × Byte)) : (s.noteLines cells).accepted = s.accepted := by
  unfold State.noteLines
  split <;> rfl

@[simp] theorem State.holdHost_accepted (cells : List (Nat × Byte)) (p : Nat) : (s.holdHost cells p).accepted = s.accepted :=
  foldl_keeps State.accepted _ (fun t n => by dsimp only; split <;> exact t.l2Touch_accepted n 0 p) _ s

@[simp] theorem State.sendStores_accepted (comp : Nat) (cells : List (Nat × Byte)) (bad : Bool) :
    (s.sendStores comp cells bad).accepted = s.accepted :=
  foldl_keeps State.accepted (fun (t : State) n => t.sendRequest _ n 1 _) (fun _ _ => rfl) _ s

@[simp] theorem State.homeWrite_accepted (who : Writer) (comp : Nat) (cells : List (Nat × Byte)) (bad : Bool) (p : Nat) :
    (s.homeWrite who comp cells bad p).accepted = s.accepted := by
  have hown : ((wordsIn cells).foldl (fun t w => t.ownWord who w) (s.holdHost cells p)).accepted = s.accepted := by
    rw [foldl_keeps State.accepted _ (fun t w => t.ownWord_accepted who w), State.holdHost_accepted]
  simp only [State.homeWrite, State.sendStores_accepted, State.noteLines_accepted]
  rw [foldl_keeps State.accepted (fun (t : State) l => t.fire none ⟨0, 0, l⟩) (fun _ _ => rfl)]
  cases who <;> exact hown

@[simp] theorem State.hubWrite_accepted (space va : Nat) (bytes : List Byte) : (s.hubWrite space va bytes).accepted = s.accepted := by
  unfold State.hubWrite
  split
  · rfl
  · split
    · rfl
    · exact s.homeWrite_accepted ..

@[simp] theorem State.signalLaunch_accepted (l : Launch) (status : Nat) : (s.signalLaunch l status).accepted = s.accepted := by
  unfold State.signalLaunch
  split
  · rfl
  · exact s.hubWrite_accepted ..

@[simp] theorem State.rdcRefresh_accepted (d l : Nat) (al : Bool) (m : BitVec 128) (h p : Nat) :
    (s.rdcRefresh d l al m h p).accepted = s.accepted := by
  unfold State.rdcRefresh
  (repeat' split) <;> rfl

@[simp] theorem State.l1Complete_accepted (k l : Nat) (m : BitVec 128) : (s.l1Complete k l m).accepted = s.accepted := by
  unfold State.l1Complete
  split
  · rfl
  · split
    · rfl
    · rw [State.rdcRefresh_accepted, State.l1Upd_accepted]

@[simp] theorem State.flushLine_accepted (k l : Nat) (m : BitVec 128) (r : Bool) : (s.flushLine k l m r).accepted = s.accepted := by
  unfold State.flushLine
  split
  · rfl
  · split
    · rfl
    · simp only [State.l1Complete_accepted, State.homeWrite_accepted, State.l1Upd_accepted]

@[simp] theorem State.release_launches (k scope : Nat) : (s.release k scope).launches = s.launches := by
  unfold State.release
  split
  · rfl
  · exact congrArg Prod.fst (foldl_keeps State.accepted _ (fun t _ => t.flushLine_accepted ..) _ s)

@[simp] theorem State.rdcRefresh_wgs (d l : Nat) (al : Bool) (m : BitVec 128) (h p : Nat) : (s.rdcRefresh d l al m h p).wgs = s.wgs := by
  unfold State.rdcRefresh
  (repeat' split) <;> rfl

@[simp] theorem State.acquire_wgs (k scope : Nat) : (s.acquire k scope).wgs = s.wgs := by
  by_cases h : scope = 0
  · subst h
    rfl
  · simp only [State.acquire, if_neg h]
    split <;> exact foldl_keeps State.wgs _ (fun t l => t.rdcRefresh_wgs ..) _ _

end

/-! Queues and packets (R449, R464). -/

section
variable {s u : State} {queue : Nat} {index : Word} {table : Option (BitVec 64 × Word)}

/-- The state in which a notify is looked at: the table's base and count are those that the host has written. -/
def State.tabled (s : State) (table : Option (BitVec 64 × Word)) : State :=
  match table with
  | some (b, n) => { s with queueBase := b, queueCount := n }
  | none => s

/-- Packets that a notify with a producer index asks a queue to accept (R449). -/
def State.notified (u : State) (queue : Nat) (index : Word) : Nat := (index.toNat + 2 ^ 32 - u.queueField queue 16 4) % 2 ^ 32

theorem exec_queueNotify (hu : s.tabled table = u) (hready : u.ready = true) (hlife : u.lifeCycle = .deployed) (hqueue : queue < u.queueCount.toNat)
    (herr : u.queueField queue 24 1 % 2 = 0) : exec (.queueNotify queue index table) s =
      if u.queueField queue 8 1 % 16 ≥ 13 ∨ u.queueField queue 8 1 / 64 % 2 = 0 ∨ u.notified queue index > 2 ^ (u.queueField queue 8 1 % 16 + 4) then
        .next ((u.queueSet queue 20 (bytesOf 4 index.toNat)).queueError queue)
      else .next (State.acceptPackets queue (u.notified queue index) (u.queueSet queue 20 (bytesOf 4 index.toNat))) := by
  subst hu
  have hopen : (!(s.tabled table).ready || decide ((s.tabled table).lifeCycle ≠ .deployed) || decide (queue ≥ (s.tabled table).queueCount.toNat)) = false := by
    simp [hready, hlife, hqueue]
  have hclear : ¬ (s.tabled table).queueField queue 24 1 % 2 = 1 := by omega
  change execQueueNotify queue index table s = _
  exact (if_neg (ne_true_of_eq_false hopen)).trans (if_neg hclear)

end

variable {s : State}

/-- An accepted packet is a launch under the next sequence number (R449, R464). -/
theorem State.acceptPacket_accepted (q : Nat) (bytes : List Byte) : (s.acceptPacket q bytes).lseqCounter = s.lseqCounter + 1 ∧
    ∃ l, (s.acceptPacket q bytes).launches = s.launches ++ [l] ∧ l.lseq = s.lseqCounter ∧ l.kind = .packet ∧ l.queue = some q := by
  have h : ∃ l, (s.acceptPacket q bytes).accepted = (s.launches ++ [l], s.lseqCounter + 1) ∧ l.lseq = s.lseqCounter ∧ l.kind = .packet ∧
      l.queue = some q := by
    simp only [State.acceptPacket, State.signalLaunch_accepted, State.queueSet, State.homeWrite_accepted]
    exact ⟨_, rfl, rfl, rfl, rfl⟩
  obtain ⟨l, haccepted, hl⟩ := h
  obtain ⟨hlaunches, hcounter⟩ := Prod.mk.inj haccepted
  exact ⟨hcounter, l, hlaunches, hl⟩

/-! Admission (R453, R456). -/

theorem exec_workgroupAdmission : exec .workgroupAdmission s = .next (match s.promote.restorable with
    | some t => t
    | none => match s.promote.chosen with | some c => s.promote.admitCandidate c | none => s.promote) := by
  change execWorkgroupAdmission s = _
  unfold execWorkgroupAdmission
  dsimp only
  cases s.promote.restorable with
  | some t => rfl
  | none => cases s.promote.chosen <;> rfl

/-- An admission puts a workgroup of the launch on the core (R456). -/
theorem State.exists_mem_admitOn (l : Launch) (k : Kernel) (i core : Nat) (p : Placement) :
    ∃ w ∈ (s.admitOn l k i core p).wgs, w.launch = l.lseq ∧ w.wgid = i ∧ w.core = core := by
  simp only [State.admitOn]
  split
  · exact ⟨_, List.mem_append_right _ List.mem_cons_self, rfl, rfl, rfl⟩
  · rw [State.acquire_wgs]
    exact ⟨_, List.mem_append_right _ List.mem_cons_self, rfl, rfl, rfl⟩

theorem State.admitCandidate_wgs (c : Candidate) : (s.admitCandidate c).wgs = (s.admitOn c.launch c.kernel c.wgid c.core c.place).wgs := by
  simp only [State.admitCandidate]
  split <;> rfl

theorem State.exists_mem_admitCandidate (c : Candidate) :
    ∃ w ∈ (s.admitCandidate c).wgs, w.launch = c.launch.lseq ∧ w.wgid = c.wgid ∧ w.core = c.core := by
  rw [State.admitCandidate_wgs]
  exact State.exists_mem_admitOn ..

/-! Ends (R86, R459, R462, R463). -/

/-- A workgroup gone from its core, what it has performed released (R86). -/
def State.wgOff (s : State) (w : Workgroup) : State :=
  let s1 := (s.wgRelease w).releaseCore w
  let base := w.scratchBase
  let size := (s.kernelOf w).scratchBytes
  ({ s1 with wgs := s1.wgs.filter (fun x => x.key ≠ w.key) } : State).updCore w.core (fun c => { c with
    ringDone := c.ringDone.filter (fun r => !decide (base ≤ r.1 ∧ r.1 < base + size)), idleSince := s.tide.toNat })

/-- The same, counted by its launch as ended. -/
def State.wgGone (s : State) (w : Workgroup) : State :=
  (s.wgOff w).updLaunch w.launch (fun l => { l with ended := l.ended + 1, hinted := if w.hinted then l.hinted else l.hinted + 1 })

theorem State.endWg_eq {w : Workgroup} (h : w.deferred = []) : s.endWg w = if w.preempt = .running then s.wgGone w
    else (s.wgGone w).setPstat w.preemptBy (2 + ((s.wgGone w).agent w.preemptBy).pstat.toNat / 8 % 2 * 8) := by
  unfold State.endWg
  rw [h]
  rfl

theorem State.wgGone_wg? (w : Workgroup) : (s.wgGone w).wg? w.key = none := by
  simp [State.wgGone, State.wgOff, State.wg?]

theorem State.launch?_updLaunch_same (s : State) (k : Nat) {g : Launch → Launch} (h : ∀ l, (g l).lseq = l.lseq) :
    (s.updLaunch k g).launch? k = (s.launch? k).map g := by
  rw [State.launch?_updLaunch s k k g h]
  simp

theorem State.launch?_of_launches {s t : State} (h : t.launches = s.launches) {n : Nat} : t.launch? n = s.launch? n := by
  rw [State.launch?, h, State.launch?]

/-- What a release leaves of a workgroup's launch: the stores it waits for are added, and its counts stay. -/
theorem State.wgRelease_launch? {w : Workgroup} {l : Launch} (hl : s.launch? w.launch = some l) :
    ∃ m, (s.wgRelease w).launch? w.launch = some m ∧ m.ended = l.ended := by
  have hlaunches : (if w.preempt = .saved then s else s.release w.core 6).launches = s.launches := by
    split
    · rfl
    · exact s.release_launches ..
  simp only [State.wgRelease]
  rw [State.launch?_updLaunch_same _ _ (by exact fun _ => rfl), State.launch?_of_launches hlaunches, hl]
  exact ⟨_, rfl, rfl⟩

theorem State.wgOff_launches (w : Workgroup) : (s.wgOff w).launches = (s.wgRelease w).launches := rfl

theorem State.wgGone_launch? {w : Workgroup} {l : Launch} (hl : s.launch? w.launch = some l) :
    ∃ m, (s.wgGone w).launch? w.launch = some m ∧ m.ended = l.ended + 1 := by
  obtain ⟨m, hm, hended⟩ := State.wgRelease_launch? hl
  simp only [State.wgGone]
  rw [State.launch?_updLaunch_same _ _ (by exact fun _ => rfl), State.launch?_of_launches (s.wgOff_launches w), hm]
  exact ⟨_, rfl, congrArg (· + 1) hended⟩

theorem State.setPstat_launches (a : Agent) (v : Nat) : (s.setPstat a v).launches = s.launches := by
  cases a <;> rfl

theorem State.setPstat_wg?_none {key : Nat} (h : s.wg? key = none) (a : Agent) (v : Nat) : (s.setPstat a v).wg? key = none := by
  rw [← Option.map_eq_none_iff (f := fun v : Workgroup => v.preempt), State.setPstat, State.wg?_updAgent_map _ (fun _ _ => rfl), h]
  rfl

theorem exec_workgroupEnd {key : Nat} {w : Workgroup} (hw : s.wg? key = some w) (hdone : s.wgDone w = true) :
    exec (.workgroupEnd key) s = .next (s.endWg w) := by
  change execWorkgroupEnd key s = _
  rw [execWorkgroupEnd, hw]
  exact if_pos hdone

/-- A workgroup over with no deferred fault is gone, and its launch counts it as ended (R86). -/
theorem State.workgroupEnd_counted {key : Nat} {w : Workgroup} (hw : s.wg? key = some w) (hdone : s.wgDone w = true) (hdef : w.deferred = []) :
    ∃ t, exec (.workgroupEnd key) s = .next t ∧ t.wg? key = none ∧
      ∀ l, s.launch? w.launch = some l → ∃ m, t.launch? w.launch = some m ∧ m.ended = l.ended + 1 := by
  obtain rfl := State.wg?_key hw
  refine ⟨s.endWg w, exec_workgroupEnd hw hdone, ?_⟩
  rw [State.endWg_eq hdef]
  split
  case isTrue => exact ⟨s.wgGone_wg? w, fun _ hl => State.wgGone_launch? hl⟩
  case isFalse =>
    refine ⟨State.setPstat_wg?_none (s.wgGone_wg? w) _ _, fun _ hl => ?_⟩
    rw [State.launch?_of_launches (State.setPstat_launches ..)]
    exact State.wgGone_launch? hl

/-- A workgroup over with a deferred fault is parked with it (R86, R468). -/
theorem exec_workgroupEnd_delivers {key : Nat} {w : Workgroup} {d : Deferred} {ds : List Deferred} (hw : s.wg? key = some w)
    (hdone : s.wgDone w = true) (hdef : w.deferred = d :: ds) : exec (.workgroupEnd key) s = .next (s.deliver w.key d) := by
  rw [exec_workgroupEnd hw hdone, State.endWg, hdef]

theorem exec_jobComplete {n : Nat} {l : Launch} (hl : s.launch? n = some l) (hover : s.jobOver l = true) :
    exec (.jobComplete n) s = .next (s.finishJob l l.failed) := by
  change execJobComplete n s = _
  rw [execJobComplete, hl]
  exact if_pos hover

theorem exec_launchComplete {n : Nat} {l : Launch} (hl : s.launch? n = some l) (hover : s.launchOver l = true) :
    exec (.launchComplete n) s = .next (((s.signalLaunch l (if l.failed then 2 else 1)).updLaunch n (fun m =>
      { m with done := true, active := false })).predDone n) := by
  change execLaunchComplete n s = _
  rw [execLaunchComplete, hl]
  dsimp only
  rw [hover]
  rfl

theorem exec_chunkTake {k slice : Nat} (h : s.mayTake k slice = true) : exec (.chunkTake k slice) s = .next (s.takeChunk k slice) := by
  change execChunkTake k slice s = _
  exact if_pos h

theorem exec_startTimeReached {value : Nat} (h : s.tide.toNat ≥ value) : exec (.startTimeReached value) s = .next s.promote := by
  change execStartTimeReached value s = _
  exact if_pos h

/-- Settles O38: each event by the lemma of its effect. -/
theorem launchEventsComplete : Obligations.LaunchEventsComplete := by
  unfold Obligations.LaunchEventsComplete
  intro s
  refine ⟨fun queue index table => ?notify, exec_workgroupAdmission, State.acceptPacket_accepted, State.exists_mem_admitCandidate,
    fun _ _ => exec_chunkTake, fun _ => exec_startTimeReached, fun _ _ => State.workgroupEnd_counted, fun _ _ _ _ => exec_workgroupEnd_delivers,
    fun _ _ => exec_jobComplete, fun _ _ => exec_launchComplete⟩
  intro u hready hlife hqueue
  refine ⟨fun herr hsize hvalid hroom => ?accepts, fun herr hbad => ?stops⟩
  case accepts =>
    refine (exec_queueNotify rfl hready hlife hqueue herr).trans (if_neg fun hbad => ?_)
    rcases hbad with h | h | h
    · exact absurd hsize (Nat.not_lt.mpr h)
    · exact absurd (hvalid.symm.trans h) Nat.one_ne_zero
    · exact absurd hroom (Nat.not_le.mpr h)
  case stops => exact (exec_queueNotify rfl hready hlife hqueue herr).trans (if_pos hbad)

end Sys2Proof.Machine
end

section
/-! A single issue (R66, R71): a step in which a batch issues one instruction runs what its word decodes to. -/

namespace Sys2Proof.Machine

/-- What issues alone at a PC is the word that stands there (R45, R47, R237). -/
theorem planOf_single {line : BitVec 512} {pc : BitVec 64} {m : Member} (h : planOf line pc = .single m) : m = memberAt line (slotsAfter pc 0) := by
  unfold planOf at h
  dsimp only at h
  split at h
  · cases h
  · split at h
    · cases h
    · split at h
      · cases h
      · split at h
        · split at h
          · cases h
          · exact (Plan.single.inj h).symm
        · exact (Plan.single.inj h).symm

theorem Member.run_of_decodes {m : Member} {i : Instr} (h : decodeWord m.bits = .ok i) (s : State) : m.run s = exec i s := by
  unfold Member.run Member.instr
  rw [h]
  rfl

/-! What reading leaves of a workgroup's fault. -/

theorem State.parkedWg_updWg (s : State) (key k : Nat) {g : Workgroup → Workgroup} (hkey : ∀ w, (g w).key = w.key)
    (hparked : ∀ w, (g w).parked = w.parked) : (s.updWg key g).parkedWg k = s.parkedWg k := by
  rw [State.parkedWg, State.wg?_updWg s key k g hkey, Option.bind_map, State.parkedWg]
  congr 1
  funext w
  simp only [Function.comp_apply]
  split
  · exact hparked w
  · rfl

theorem State.parkedWg_updBatch (s : State) (key : Nat) (lanes : List Nat) (g : Fibre → Fibre) (k : Nat) :
    (s.updBatch key lanes g).parkedWg k = s.parkedWg k := State.parkedWg_updWg s key k (fun _ => rfl) (fun _ => rfl)

theorem State.parkedWg_haveRead (s before : State) (key : Nat) (lanes : List Nat) (ms : List Member) (k : Nat) :
    (s.haveRead before key lanes ms).parkedWg k = s.parkedWg k := by
  unfold State.haveRead
  split
  · rfl
  · exact State.parkedWg_updBatch ..

section
variable {s t : State} {k : Nat} {sl : Slot} {w : Workgroup} {x : Fibre} {line : BitVec 512} {m : Member} {i : Instr}

/-- One member run: the state after its instruction, and where it has not parked its workgroup, after the batch has read. -/
theorem State.runMembers_single {key : Nat} {lanes : List Nat} (hdec : decodeWord m.bits = .ok i) (hexec : exec i (s.readying key lanes m) = .next t) :
    State.runMembers key lanes [m] s =
      .next (if (t.parkedWg key).isSome then t else t.haveRead (s.readying key lanes m) key lanes [m]) := by
  rw [State.runMembers, Member.run_of_decodes hdec, hexec]
  dsimp only
  split <;> rfl

/-- The state in which a slot's batch runs a member that issues alone. -/
def State.loaded (s : State) (k : Nat) (sl : Slot) (w : Workgroup) (m : Member) : State := (s.issuing k sl).loadsTaken k w.key sl.lanes [m]

/-- The issue of a single instruction: its run, then the sums and counts of the issue. -/
theorem State.issueSlot_single (hw : s.wg? sl.wg = some w) (hx : w.head sl = some x) (hline : sl.current x = some line)
    (hplan : planOf line x.pc = .single m) (hdec : decodeWord m.bits = .ok i)
    (hexec : exec i ((s.loaded k sl w m).readying w.key sl.lanes m) = .next t) :
    s.issueSlot k sl = .next (if (t.parkedWg w.key).isSome then (s.loaded k sl w m).issuedParked t k w.key sl [m] m.f.stall.toNat
      else (s.loaded k sl w m).issued (t.haveRead ((s.loaded k sl w m).readying w.key sl.lanes m) w.key sl.lanes [m]) k w.key sl [m] none
        m.f.stall.toNat) := by
  have hrun : (s.loaded k sl w m).runPlan k sl w line (.single m) = _ := State.runMembers_single hdec hexec
  unfold State.loaded at hrun ⊢
  simp only [State.issueSlot, hw, hx, hline, hplan, State.planIssue, State.ordHeld, hrun]
  cases hpark : (t.parkedWg w.key).isSome with
  | true => simp only [if_true, hpark]
  | false => simp only [Bool.false_eq_true, if_false, State.parkedWg_haveRead, hpark]

end

theorem step_of_perform {s t : State} {a : Act} (hact : s.choose = some a) (h : s.perform a = .next t) : step s = .next t.after := by
  rw [step, hact]
  dsimp only
  rw [h]

theorem State.perform_issue {s : State} {k n : Nat} {sl : Slot} (hslot : (s.core k).slots.find? (fun z => z.id = n) = some sl) :
    s.perform (.issue k n) = s.issueSlot k sl := by
  rw [State.perform, hslot]

/-- Settles O60: the act is the issue of the batch's slot, and that issue is `State.issueSlot_single`. -/
theorem stepRunsTheDecodedInstruction : Obligations.StepRunsTheDecodedInstruction := by
  unfold Obligations.StepRunsTheDecodedInstruction
  intro s t k n sl w x line m i hact hslot hw hx hline hplan hdec s0 hexec
  have hstep := step_of_perform hact ((State.perform_issue hslot).trans (State.issueSlot_single hw hx hline hplan hdec hexec))
  refine ⟨planOf_single hplan, fun hparked => ?_, fun hruns => ?_⟩
  · rw [hstep, hparked, if_pos rfl]
    rfl
  · rw [hstep, hruns, if_neg Bool.false_ne_true]
    rfl

end Sys2Proof.Machine
end

section
/-! Integer arithmetic (R95 to R98): what the model's word operations are as numbers, and that each instruction completes with them. -/

namespace Sys2Proof.Machine

/-! Results that a lane-by-lane instruction writes. -/

section
variable {op : Nat} {sh : Shape} {f : Fields} {s : State} {c : Ctx} {g : Ctx → Fibre → Fibre}

/-- A 32-bit result, in any other form of its value. -/
theorem IssuesAs.writes32 {w v : Fibre → Word} (h : IssuesAs op sh f s c) (hv : ∀ x, w x = v x)
    (hg : g c = fun x => x.set32 c.f.dst (w x) := by rfl) :
    runLanes op sh f s g = .next ((s.tainted c op f).lanewise c (fun x => x.set32 c.f.dst (v x))) :=
  h.lanes (hg.trans (by rw [funext hv]))

/-- A 64-bit result, in any other form of its value. -/
theorem IssuesAs.writes64 {w v : Fibre → DWord} (h : IssuesAs op sh f s c) (hv : ∀ x, w x = v x)
    (hg : g c = fun x => x.set64 c.f.dst (w x) := by rfl) :
    runLanes op sh f s g = .next ((s.tainted c op f).lanewise c (fun x => x.set64 c.f.dst (v x))) :=
  h.lanes (hg.trans (by rw [funext hv]))

end

/-! Minima and maxima (R98). -/

section
variable {w : Nat} (a b : BitVec w)

theorem ite_toInt_le_min : (if a.toInt ≤ b.toInt then a else b) = BitVec.ofInt w (min a.toInt b.toInt) := by
  rw [min_def, apply_ite (BitVec.ofInt w), BitVec.ofInt_toInt, BitVec.ofInt_toInt]

theorem ite_toNat_le_min : (if a.toNat ≤ b.toNat then a else b) = BitVec.ofNat w (min a.toNat b.toNat) := by
  rw [min_def, apply_ite (BitVec.ofNat w), BitVec.ofNat_toNat, BitVec.ofNat_toNat, BitVec.setWidth_eq, BitVec.setWidth_eq]

theorem ite_toInt_le_max : (if a.toInt ≤ b.toInt then b else a) = BitVec.ofInt w (max a.toInt b.toInt) := by
  rw [max_def, apply_ite (BitVec.ofInt w), BitVec.ofInt_toInt, BitVec.ofInt_toInt]

theorem ite_toNat_le_max : (if a.toNat ≤ b.toNat then b else a) = BitVec.ofNat w (max a.toNat b.toNat) := by
  rw [max_def, apply_ite (BitVec.ofNat w), BitVec.ofNat_toNat, BitVec.ofNat_toNat, BitVec.setWidth_eq, BitVec.setWidth_eq]

end

/-! Products (R97). -/

theorem signExtend_mul (a b : Word) : a.signExtend 64 * b.signExtend 64 = BitVec.ofInt 64 (a.toInt * b.toInt) :=
  (BitVec.ofInt_mul ..).symm

theorem zeroExtend_mul (a b : Word) : a.zeroExtend 64 * b.zeroExtend 64 = BitVec.ofNat 64 (a.toNat * b.toNat) := by
  rw [BitVec.ofNat_mul, BitVec.ofNat_toNat, BitVec.ofNat_toNat]

theorem hiWord_ofNat (n : Nat) : hiWord (BitVec.ofNat 64 n) = BitVec.ofNat 32 (n / 2 ^ 32) := by
  apply BitVec.eq_of_toNat_eq
  simp only [hiWord, BitVec.extractLsb'_toNat, BitVec.toNat_ofNat, Nat.shiftRight_eq_div_pow]
  omega

theorem hiWord_ofInt (n : Int) : hiWord (BitVec.ofInt 64 n) = BitVec.ofInt 32 (n / 2 ^ 32) := by
  apply BitVec.eq_of_toNat_eq
  simp only [hiWord, BitVec.extractLsb'_toNat, BitVec.toNat_ofInt, Nat.shiftRight_eq_div_pow]
  omega

/-- The high half of a signed product is its floor quotient by 2^32. -/
theorem hiWord_signExtend_mul (a b : Word) : hiWord (a.signExtend 64 * b.signExtend 64) = BitVec.ofInt 32 (a.toInt * b.toInt / 2 ^ 32) := by
  rw [signExtend_mul, hiWord_ofInt]

theorem hiWord_zeroExtend_mul (a b : Word) : hiWord (a.zeroExtend 64 * b.zeroExtend 64) = BitVec.ofNat 32 (a.toNat * b.toNat / 2 ^ 32) := by
  rw [zeroExtend_mul, hiWord_ofNat]

/-! Saturation and carries (R95, R96). -/

theorem clampU_add (a b : Word) : clampU ((a.toNat : Int) + b.toNat) = BitVec.ofNat 32 (min (a.toNat + b.toNat) (2 ^ 32 - 1)) := by
  have hsum : max 0 (min (2 ^ 32 - 1) ((a.toNat : Int) + b.toNat)) = ((min (a.toNat + b.toNat) (2 ^ 32 - 1) : Nat) : Int) := by omega
  rw [clampU, hsum, BitVec.ofInt_natCast]

/-- A difference saturated at zero is the difference of natural numbers. -/
theorem clampU_sub (a b : Word) : clampU ((a.toNat : Int) - b.toNat) = BitVec.ofNat 32 (a.toNat - b.toNat) := by
  have hdiff : max 0 (min (2 ^ 32 - 1) ((a.toNat : Int) - b.toNat)) = ((a.toNat - b.toNat : Nat) : Int) := by omega
  rw [clampU, hdiff, BitVec.ofInt_natCast]

/-- The carry that comes in, as a number. -/
theorem toNat_and_eq_ite (p q : Bool) : (p && q).toNat = if p = true ∧ q = true then 1 else 0 := by
  cases p <;> cases q <;> rfl

/-! Absolute values (R98). -/

theorem absOf_eq {w : Nat} (sat : Bool) (a : BitVec w) : absOf w sat a =
    if sat = true ∧ a.toInt = -2 ^ (w - 1) then BitVec.ofNat w (2 ^ (w - 1) - 1) else BitVec.ofInt w |a.toInt| := by
  unfold absOf
  by_cases hneg : a.toInt < 0
  · have hminus : BitVec.ofInt w |a.toInt| = -a := by rw [abs_of_neg hneg, BitVec.ofInt_neg, BitVec.ofInt_toInt]
    simp only [if_pos hneg, hminus, Bool.and_eq_true, decide_eq_true_eq]
  · have hkept : ¬ (sat = true ∧ a.toInt = -2 ^ (w - 1)) := fun h => hneg (h.2 ▸ by simp)
    rw [if_neg hneg, if_neg hkept, abs_of_nonneg (by omega), BitVec.ofInt_toInt]

/-! The obligation. -/

/-- Settles O1: each instruction by the value that its row's meaning writes, put into numbers. -/
theorem integerArithmeticCompletes : Obligations.IntegerArithmeticCompletes := by
  unfold Obligations.IntegerArithmeticCompletes
  refine ⟨fun f s c => ⟨?iadd, ?iadd64, ?isub, ?isub64, ?imul, ?imulHiS, ?imulHiU, ?imulWideS, ?imulWideU, ?imul64, ?imad, ?imadWideS,
    ?imadWideU, ?imad64, ?iminS, ?iminU, ?iminS64, ?iminU64, ?imaxS, ?imaxU, ?imaxS64, ?imaxU64⟩,
    fun f s c => ⟨?iaddSat, ?isubSat, ?iaddX, ?isubX, ?iabs, ?iabs64⟩⟩
  case iadd | iadd64 | isub | isub64 | imul | imul64 | imad | imad64 => exact fun h => IssuesAs.lanes h rfl
  case imulHiS => exact fun h => IssuesAs.writes32 h (fun x => hiWord_signExtend_mul ..)
  case imulHiU => exact fun h => IssuesAs.writes32 h (fun x => hiWord_zeroExtend_mul ..)
  case imulWideS => exact fun h => IssuesAs.writes64 h (fun x => signExtend_mul ..)
  case imulWideU => exact fun h => IssuesAs.writes64 h (fun x => zeroExtend_mul ..)
  case imadWideS => exact fun h => IssuesAs.writes64 h (fun x => congrArg (· + _) (signExtend_mul ..))
  case imadWideU => exact fun h => IssuesAs.writes64 h (fun x => congrArg (· + _) (zeroExtend_mul ..))
  case iminS => exact fun h => IssuesAs.writes32 h (fun x => ite_toInt_le_min ..)
  case iminU => exact fun h => IssuesAs.writes32 h (fun x => ite_toNat_le_min ..)
  case iminS64 => exact fun h => IssuesAs.writes64 h (fun x => ite_toInt_le_min ..)
  case iminU64 => exact fun h => IssuesAs.writes64 h (fun x => ite_toNat_le_min ..)
  case imaxS => exact fun h => IssuesAs.writes32 h (fun x => ite_toInt_le_max ..)
  case imaxU => exact fun h => IssuesAs.writes32 h (fun x => ite_toNat_le_max ..)
  case imaxS64 => exact fun h => IssuesAs.writes64 h (fun x => ite_toInt_le_max ..)
  case imaxU64 => exact fun h => IssuesAs.writes64 h (fun x => ite_toNat_le_max ..)
  case iaddSat => exact fun h => IssuesAs.writes32 h (fun x => if_congr Iff.rfl (clampU_add ..) rfl)
  case isubSat => exact fun h => IssuesAs.writes32 h (fun x => if_congr Iff.rfl (clampU_sub ..) rfl)
  case iaddX => exact fun h => IssuesAs.lanes h (funext fun x => by rw [addCarry, toNat_and_eq_ite]; rfl)
  case isubX => exact fun h => IssuesAs.lanes h (funext fun x => by rw [subBorrow, toNat_and_eq_ite]; rfl)
  case iabs => exact fun h => IssuesAs.writes32 h (fun x => absOf_eq ..)
  case iabs64 => exact fun h => IssuesAs.writes64 h (fun x => absOf_eq ..)

end Sys2Proof.Machine
end

section
/-! Shifts and rotates, bit by bit (R99). -/

namespace Sys2Proof.Machine

/-- A shift amount, which `.W` takes modulo the width. -/
def Ctx.shiftAmount (c : Ctx) (w : Nat) (x : Fibre) : Nat := if c.f.mod 0 then (srcB32 c x).toNat % w else (srcB32 c x).toNat

/-- The model's shift takes every amount past the width as the width. -/
theorem shiftBy_eq_min {w : Nat} (hw : 0 < w) (c : Ctx) (x : Fibre) : shiftBy w c x = min (c.shiftAmount w x) w := by
  have hmod := Nat.mod_lt (srcB32 c x).toNat hw
  unfold shiftBy Ctx.shiftAmount
  dsimp only
  split <;> omega

section
variable {w i : Nat} (a : BitVec w) (n : Nat)

theorem getLsbD_shiftLeft_min (hi : i < w) : (a <<< min n w).getLsbD i = (decide (n ≤ i) && a.getLsbD (i - n)) := by
  rw [BitVec.getLsbD_shiftLeft]
  by_cases h : n ≤ i
  · simp [hi, h, Nat.min_eq_left (h.trans hi.le)]
  · simp [hi, h, Nat.lt_of_not_le h]

theorem getLsbD_ushiftRight_min : (a >>> min n w).getLsbD i = a.getLsbD (i + n) := by
  rw [BitVec.getLsbD_ushiftRight]
  by_cases h : n ≤ w
  · rw [Nat.min_eq_left h, Nat.add_comm]
  · rw [BitVec.getLsbD_of_ge _ _ (by omega), BitVec.getLsbD_of_ge _ _ (by omega)]

theorem getLsbD_sshiftRight_min (hi : i < w) : (a.sshiftRight (min n w)).getLsbD i = a.getLsbD (min (i + n) (w - 1)) := by
  rw [BitVec.getLsbD_sshiftRight, BitVec.msb_eq_getLsbD_last]
  by_cases h : i + n < w
  · rw [if_pos (by omega), Nat.min_eq_left (show n ≤ w by omega), Nat.min_eq_left (show i + n ≤ w - 1 by omega), Nat.add_comm n i]
    simp [hi]
  · rw [if_neg (by omega), Nat.min_eq_right (show w - 1 ≤ i + n by omega)]
    simp [hi]

end

section
variable {i r : Nat} (a : Word) (hi : i < 32) (hr : r < 32)
include hi hr

/-- A bit rotated up by `r` places, past the top round to the bottom. -/
theorem getLsbD_rotateLeft_mod : (a.rotateLeft r).getLsbD ((i + r) % 32) = a.getLsbD i := by
  rw [BitVec.getLsbD_rotateLeft, Nat.mod_eq_of_lt hr]
  by_cases h : i + r < 32
  · rw [Nat.mod_eq_of_lt h]
    simp [h]
  · rw [show (i + r) % 32 = i + r - 32 by omega, show 32 - r + (i + r - 32) = i by omega]
    simp [show i + r - 32 < r by omega]

theorem getLsbD_rotateRight_mod : (a.rotateRight r).getLsbD i = a.getLsbD ((i + r) % 32) := by
  rw [BitVec.getLsbD_rotateRight, Nat.mod_eq_of_lt hr]
  by_cases h : i + r < 32
  · rw [Nat.mod_eq_of_lt h, Nat.add_comm i r]
    simp [show i < 32 - r by omega]
  · rw [show (i + r) % 32 = i - (32 - r) by omega]
    simp [show ¬ i < 32 - r by omega, hi]

end

/-- Settles O2: the model caps an amount at the width, and a shift by the capped amount has the bits that R99 gives at every amount. -/
theorem shiftsCompleteBitByBit : Obligations.ShiftsCompleteBitByBit := by
  unfold Obligations.ShiftsCompleteBitByBit
  refine fun f s c => ⟨?shl, ?shl64, ?shrU, ?shrU64, ?shrS, ?shrS64, ?rotL, ?rotR⟩
  case shl | shl64 =>
    refine fun h => ⟨_, IssuesAs.lanes h rfl, fun x i hi => ?_⟩
    rw [shiftBy_eq_min (by omega)]
    exact getLsbD_shiftLeft_min _ _ hi
  case shrU | shrU64 =>
    refine fun h => ⟨_, IssuesAs.lanes h rfl, fun x i _ => ?_⟩
    rw [shiftBy_eq_min (by omega)]
    exact getLsbD_ushiftRight_min _ _
  case shrS | shrS64 =>
    refine fun h => ⟨_, IssuesAs.lanes h rfl, fun x i hi => ?_⟩
    rw [shiftBy_eq_min (by omega)]
    exact getLsbD_sshiftRight_min _ _ hi
  case rotL => exact fun h => ⟨_, IssuesAs.lanes h rfl, fun x i hi => getLsbD_rotateLeft_mod _ hi (Nat.mod_lt _ (by omega))⟩
  case rotR => exact fun h => ⟨_, IssuesAs.lanes h rfl, fun x i hi => getLsbD_rotateRight_mod _ hi (Nat.mod_lt _ (by omega))⟩

end Sys2Proof.Machine
end

section
/-! Logic and bit fields, bit by bit (R100 to R102). -/

namespace Sys2Proof.Machine

/-! Numbers given bit by bit. -/

/-- The number below `2 ^ n` with the bits that `p` says. -/
def bitSum (p : Nat → Bool) (n : Nat) : Nat := ((List.range n).map (fun i => if p i then 2 ^ i else 0)).foldl (· + ·) 0

theorem bitSum_succ (p : Nat → Bool) (n : Nat) : bitSum p (n + 1) = bitSum p n + if p n then 2 ^ n else 0 := by
  simp [bitSum, List.range_succ]

theorem bitSum_lt (p : Nat → Bool) (n : Nat) : bitSum p n < 2 ^ n := by
  induction n with
  | zero => simp [bitSum]
  | succ n ih =>
    rw [bitSum_succ, pow_succ]
    split <;> omega

theorem testBit_bitSum (p : Nat → Bool) (n i : Nat) : (bitSum p n).testBit i = (decide (i < n) && p i) := by
  induction n with
  | zero => simp [bitSum]
  | succ n ih =>
    have hadd := Nat.testBit_two_pow_mul_add (p n).toNat (bitSum_lt p n) i
    have hsum : bitSum p (n + 1) = 2 ^ n * (p n).toNat + bitSum p n := by
      rw [bitSum_succ, Nat.add_comm]; cases p n <;> simp
    rw [hsum, hadd, ih]
    rcases Nat.lt_trichotomy i n with h | rfl | h
    · simp [h, Nat.lt_succ_of_lt h]
    · cases p i <;> simp
    · have hhigh : (p n).toNat.testBit (i - n) = false := Nat.testBit_lt_two_pow ((Bool.toNat_lt _).trans_le (Nat.le_pow (by omega)))
      simp [show ¬ i < n by omega, show ¬ i < n + 1 by omega, hhigh]

theorem getLsbD_bitSum (p : Nat → Bool) {i : Nat} (hi : i < 32) : (BitVec.ofNat 32 (bitSum p 32)).getLsbD i = p i := by
  rw [BitVec.getLsbD_ofNat, testBit_bitSum]
  simp [hi]

theorem foldl_add_map_range (g : Nat → Nat) (n : Nat) : ((List.range n).map g).foldl (· + ·) 0 = ∑ i ∈ Finset.range n, g i := by
  rw [← List.sum_eq_foldl]; rfl

/-- A sum of bits taken from the top down is the same number. -/
theorem bitSum_reflect (p : Nat → Bool) (n : Nat) :
    ((List.range n).map (fun i => if p i then 2 ^ (n - 1 - i) else 0)).foldl (· + ·) 0 = bitSum (fun i => p (n - 1 - i)) n := by
  rw [bitSum, foldl_add_map_range, foldl_add_map_range, ← Finset.sum_range_reflect (fun i => if p (n - 1 - i) then 2 ^ i else 0)]
  refine Finset.sum_congr rfl (fun i hi => ?_)
  have hi := Finset.mem_range.mp hi
  rw [show n - 1 - (n - 1 - i) = i by omega]

theorem testBit_bitsOf (x lo n i : Nat) : (bitsOf x lo n).testBit i = (decide (i < n) && x.testBit (lo + i)) := by
  rw [bitsOf, Nat.testBit_mod_two_pow, Nat.testBit_shiftRight]

/-! `TERN` (R100). -/

/-- Bit `i` of `TERN` is the table's entry that the three bits number. -/
theorem getLsbD_ternWord (imm : Word) (a b c : Word) {i : Nat} (hi : i < 32) : (ternWord (bitsOf imm.toNat 0 8) a b c).getLsbD i =
    imm.getLsbD ((if a.getLsbD i then 1 else 0) + 2 * (if b.getLsbD i then 1 else 0) + 4 * (if c.getLsbD i then 1 else 0)) := by
  have hentry : (a.getLsbD i).toNat + 2 * (b.getLsbD i).toNat + 4 * (c.getLsbD i).toNat < 8 := by
    have := (a.getLsbD i).toNat_lt; have := (b.getLsbD i).toNat_lt; have := (c.getLsbD i).toNat_lt
    omega
  refine (getLsbD_bitSum _ hi).trans ?_
  rw [testBit_bitsOf, decide_eq_true hentry, Bool.true_and, Nat.zero_add, BitVec.testBit_toNat]
  simp only [Bool.toNat, Bool.cond_eq_ite]

/-! Bit fields (R101). -/

theorem getLsbD_bfxU (a b : Word) {i : Nat} (hi : i < 32) : (bfxU a b).getLsbD i = (decide (i < fieldLen b) && a.getLsbD (fieldPos b + i)) := by
  rw [bfxU, BitVec.getLsbD_ofNat, testBit_bitsOf, BitVec.testBit_toNat]
  simp [hi]

/-- The signed reading of `n` bits is that of the bit vector of `n` bits. -/
theorem signedOf_eq_toInt {n x : Nat} (hn : 0 < n) (hx : x < 2 ^ n) : signedOf n x = (BitVec.ofNat n x).toInt := by
  obtain ⟨k, rfl⟩ : ∃ k, n = k + 1 := ⟨n - 1, by omega⟩
  have hpow : ((2 ^ k : Nat) : Int) = 2 ^ k := Nat.cast_pow 2 k
  rw [signedOf, BitVec.toInt_eq_toNat_cond, BitVec.toNat_ofNat, Nat.mod_eq_of_lt hx, Nat.add_sub_cancel, pow_succ]
  split <;> split <;> omega

/-- A field of `n` bits sign-extended: the bits past its top are its top bit. -/
theorem getLsbD_ofInt_signedOf {n x i : Nat} (hn : 0 < n) (hx : x < 2 ^ n) (hi : i < 32) :
    (BitVec.ofInt 32 (signedOf n x)).getLsbD i = x.testBit (min i (n - 1)) := by
  rw [signedOf_eq_toInt hn hx]
  change ((BitVec.ofNat n x).signExtend 32).getLsbD i = _
  rw [BitVec.getLsbD_signExtend, BitVec.msb_eq_getLsbD_last, BitVec.getLsbD_ofNat, BitVec.getLsbD_ofNat]
  by_cases h : i < n
  · rw [Nat.min_eq_left (by omega)]; simp [h, hi]
  · rw [Nat.min_eq_right (by omega)]; simp [h, hi, hn]

/-- A word's bits, those above its top read as the top one. -/
theorem testBit_signExtend (a : Word) {k : Nat} (hk : k < 320) : (a.signExtend 320).toNat.testBit k = a.getLsbD (min k 31) := by
  rw [BitVec.testBit_toNat, BitVec.getLsbD_signExtend, BitVec.msb_eq_getLsbD_last]
  by_cases h : k < 32
  · rw [Nat.min_eq_left (by omega)]; simp [h, hk]
  · rw [Nat.min_eq_right (by omega)]; simp [h, hk]

theorem fieldPos_lt (b : Word) : fieldPos b < 256 := Nat.mod_lt _ (by omega)

theorem fieldLen_le (b : Word) : fieldLen b ≤ 32 := Nat.min_le_right ..

theorem getLsbD_bfxS (a b : Word) {i : Nat} (hi : i < 32) : (bfxS a b).getLsbD i =
    (decide (fieldLen b ≠ 0) && a.getLsbD (min (fieldPos b + min i (fieldLen b - 1)) 31)) := by
  unfold bfxS
  by_cases h : fieldLen b = 0
  · simp [h]
  · have hpos := fieldPos_lt b
    have hlen := fieldLen_le b
    rw [if_neg h, getLsbD_ofInt_signedOf (by omega) (Nat.mod_lt _ (by positivity)) hi, Nat.testBit_mod_two_pow, Nat.testBit_shiftRight,
      testBit_signExtend a (by omega)]
    simp [h, show min i (fieldLen b - 1) < fieldLen b by omega]

/-- The bits of `n` places from `p`. -/
theorem testBit_fieldMask (n p i : Nat) : ((2 ^ n - 1) * 2 ^ p).testBit i = decide (p ≤ i ∧ i < p + n) := by
  rw [Nat.testBit_mul_two_pow, Nat.testBit_two_pow_sub_one, ← Bool.decide_and, decide_eq_decide]
  omega

/-- The low `n` bits of a number put at `p`. -/
theorem testBit_fieldPut (x n p i : Nat) : (x % 2 ^ n * 2 ^ p).testBit i = (decide (p ≤ i ∧ i < p + n) && x.testBit (i - p)) := by
  rw [Nat.testBit_mul_two_pow, Nat.testBit_mod_two_pow, ← Bool.and_assoc, ← Bool.decide_and]
  congr 1
  rw [decide_eq_decide]
  omega

theorem getLsbD_bfi (a b base : Word) {i : Nat} (hi : i < 32) : (bfi a b base).getLsbD i =
    if fieldPos b ≤ i ∧ i < fieldPos b + fieldLen b then a.getLsbD (i - fieldPos b) else base.getLsbD i := by
  unfold bfi
  simp only [BitVec.getLsbD_or, BitVec.getLsbD_and, BitVec.getLsbD_not, BitVec.getLsbD_ofNat, testBit_fieldMask, testBit_fieldPut,
    BitVec.testBit_toNat]
  split
  case isTrue h => simp [h, hi]
  case isFalse h => simp [h, hi]

/-! Counts and the reversal (R102). -/

theorem popcount_le (a : Word) : popcount a ≤ 32 := by
  simpa [popcount] using List.length_filter_le (fun i => a.getLsbD i) (List.range 32)

theorem popcount_toNat (a : Word) : (BitVec.ofNat 32 (popcount a)).toNat = ((List.range 32).filter (fun i => a.getLsbD i)).length :=
  Nat.mod_eq_of_lt ((popcount_le a).trans_lt (by omega))

/-- The zeros above the highest one. -/
def leadingZeros (a : Word) : Word := if a = 0 then 32 else BitVec.ofNat 32 (31 - Nat.log2 a.toNat)

theorem leadingZeros_spec (a : Word) : (leadingZeros a).toNat ≤ 32 ∧ (∀ i, 32 - (leadingZeros a).toNat ≤ i → a.getLsbD i = false) ∧
    ((leadingZeros a).toNat < 32 → a.getLsbD (31 - (leadingZeros a).toNat) = true) := by
  by_cases h : a = 0
  · subst h
    simp [leadingZeros]
  · have hne : a.toNat ≠ 0 := fun h0 => h (BitVec.eq_of_toNat_eq h0)
    have hlog : Nat.log2 a.toNat < 32 := (Nat.log2_lt hne).mpr a.isLt
    have hval : (leadingZeros a).toNat = 31 - Nat.log2 a.toNat := by
      rw [leadingZeros, if_neg h, BitVec.toNat_ofNat, Nat.mod_eq_of_lt (by omega)]
    rw [hval]
    refine ⟨by omega, fun i hi => ?above, fun _ => ?top⟩
    case above =>
      rw [← BitVec.testBit_toNat]
      exact Nat.testBit_lt_two_pow (Nat.lt_log2_self.trans_le (Nat.pow_le_pow_right (by omega) (by omega)))
    case top =>
      rw [← BitVec.testBit_toNat, show 31 - (31 - Nat.log2 a.toNat) = Nat.log2 a.toNat by omega]
      exact Nat.testBit_log2 hne

theorem getLsbD_bitReverse (a : Word) {i : Nat} (hi : i < 32) : (bitReverse a).getLsbD i = a.getLsbD (31 - i) := by
  rw [bitReverse, bitSum_reflect (fun i => a.getLsbD i) 32]
  exact getLsbD_bitSum _ hi

/-- Settles O3: each instruction by the bits of the word that its row's meaning writes. -/
theorem logicAndBitFieldsCompleteBitByBit : Obligations.LogicAndBitFieldsCompleteBitByBit := by
  unfold Obligations.LogicAndBitFieldsCompleteBitByBit
  refine fun f s c => ⟨?and, ?or, ?xor, ?not, ?tern, ?bfxU, ?bfxS, ?bfi, ?popc, ?clz, ?brev⟩
  case and => exact fun h => ⟨_, IssuesAs.lanes h rfl, fun x i => BitVec.getLsbD_and⟩
  case or => exact fun h => ⟨_, IssuesAs.lanes h rfl, fun x i => BitVec.getLsbD_or⟩
  case xor => exact fun h => ⟨_, IssuesAs.lanes h rfl, fun x i => BitVec.getLsbD_xor⟩
  case not => exact fun h => ⟨_, IssuesAs.lanes h rfl, fun x i hi => by simp [hi]⟩
  case tern => exact fun h => ⟨_, IssuesAs.lanes h rfl, fun x i hi => getLsbD_ternWord _ _ _ _ hi⟩
  case bfxU => exact fun h => ⟨_, IssuesAs.lanes h rfl, fun x i hi => getLsbD_bfxU _ _ hi⟩
  case bfxS => exact fun h => ⟨_, IssuesAs.lanes h rfl, fun x i hi => getLsbD_bfxS _ _ hi⟩
  case bfi => exact fun h => ⟨_, IssuesAs.lanes h rfl, fun x i hi => getLsbD_bfi _ _ _ hi⟩
  case popc => exact fun h => ⟨_, IssuesAs.lanes h rfl, fun x => popcount_toNat _⟩
  case clz => exact fun h => ⟨_, IssuesAs.lanes h rfl, fun x => leadingZeros_spec _⟩
  case brev => exact fun h => ⟨_, IssuesAs.lanes h rfl, fun x i hi => getLsbD_bitReverse _ hi⟩

end Sys2Proof.Machine
end

section
/-! `MOVS.I` of a poisoned source among the moves: by R105 it would write a scalar with what its lane holds, by R93 it takes no effect. -/

namespace Sys2Proof.Machine

/-- A lane that a `MOVS.I` names and whose source is poisoned passes the guard and is found by the immediate's number. -/
theorem Ctx.namesPoison_named {c : Ctx} (h : c.namesPoison = true) : ∃ x, c.passing.find? (fun y => y.lane = c.f.imm.toNat % 32) = some x := by
  obtain ⟨x, hx, -⟩ := (Option.any_eq_true ..).mp h
  exact ⟨x, hx⟩

theorem State.entered_records (s : State) (c : Ctx) (i : Instr) : (s.entered c i).records = s.records := by
  unfold State.entered
  split
  · exact State.tainted_records ..
  · rfl

/-- Refutes O4: the clause of `MOVS.I` asks that the scalar is written whenever the immediate names a passing lane. Where the source is
poisoned in that lane (`poisonedMove` in `poisonedWorld`), the instruction still passes steps 2 to 6 of R49 and then parks its workgroup at
step 7 (R93), so that a record joins those that wait; the write would leave them as they were. -/
theorem not_comparesAndMovesComplete : ¬ Obligations.ComparesAndMovesComplete := by
  unfold Obligations.ComparesAndMovesComplete
  rintro ⟨-, hmoves⟩
  obtain ⟨c, hissue, hparked, hbad⟩ := poisonedMove_issues
  obtain ⟨x, hx⟩ := Ctx.namesPoison_named hbad
  obtain ⟨-, -, hwrites, -⟩ := hmoves poisonedMove poisonedWorld c
  obtain ⟨e, hparks⟩ := exec_movsI_of_poisoned hissue hbad
  have hsame : poisonedWorld.parkBatch c e = _ := Host.Outcome.next.inj (hparks.symm.trans (hwrites x hissue hx))
  have hrecords := congrArg State.records hsame
  rw [State.parkBatch, State.records_park (Ctx.of?_wg hissue.1) hparked, State.updWg_records, State.lanewise_records, State.entered_records] at hrecords
  simp at hrecords

end Sys2Proof.Machine
end

section
/-! What a completed lane rendezvous writes (R168 to R172, R176). -/

namespace Sys2Proof.Machine

/-! What a participant brings. -/

/-- The words of A and B that the issue of a participant's lane saw. -/
def seenWords (words : List (Nat × Word × Word)) (x : Fibre) : Word × Word := ((words.find? (fun e => e.1 = x.lane)).map (fun e => e.2)).getD (0, 0)

/-- Source A of a participant: of a scalar or special register what its lane's issue saw (R106, R109). -/
def Ctx.laneA (c : Ctx) (words : List (Nat × Word × Word)) (x : Fibre) : Word :=
  if 0x140 ≤ c.f.srcA.toNat then (seenWords words x).1 else src32 c x c.f.srcA

/-- Source B of a participant. -/
def Ctx.laneB (c : Ctx) (words : List (Nat × Word × Word)) (x : Fibre) : Nat :=
  (if 0x140 ≤ c.f.srcB.toNat then (seenWords words x).2 else src32 c x c.f.srcB).toNat

/-- The participant in a lane. -/
def participantAt (parts : List Fibre) (lane : Nat) : Option Fibre := parts.find? (fun y => y.lane = lane)

/-- What an exchange leaves of a participant that takes source A of another, or of none (R169). -/
def Ctx.exchanged (c : Ctx) (words : List (Nat × Word × Word)) (x : Fibre) (from' : Option Fibre) : Fibre :=
  let y := x.set32 c.f.dst (match from' with | some z => c.laneA words z | none => if c.f.mods.getLsbD 5 then 0 else c.laneA words x)
  if c.f.mods.getLsbD 0 then y.setPred (c.f.mods.toNat / 2 % 16) from'.isSome else y

/-- What a vote reads of a participant (R170). -/
def Ctx.voteBit (c : Ctx) (x : Fibre) : Bool := x.pred (c.f.srcA.toNat % 16) != c.f.mods.getLsbD 2

section
variable {c : Ctx} {parts : List Fibre} {base width : Nat} {words : List (Nat × Word × Word)} {pattern : Option (List Byte)} {captor : Nat}
  {bad : List Nat} {r : LaneResult}

theorem LaneResult.fibres_of_ok {l : List (Fibre × Flags)} {p : Option Nat} (h : Except.ok (ε := FaultInfo) { fibres := l, part := p } = .ok r) :
    r.fibres = l := by
  cases h; rfl

/-! Exchanges (R169). -/

/-- An exchange of every participant with the lane that `source` names for it. -/
def Ctx.exchanges (c : Ctx) (parts : List Fibre) (words : List (Nat × Word × Word)) (source : Fibre → Option Nat) : LaneResult :=
  { fibres := parts.map (fun x => (c.exchanged words x ((source x).bind (participantAt parts)), 0)) }

/-- The participants of an exchange after it, `from'` being the one that each takes from. -/
theorem exchange_values {o : Except FaultInfo LaneResult} {source : Fibre → Option Nat} {from' : Fibre → Option Fibre}
    (heq : o = .ok (c.exchanges parts words source)) (hfrom : ∀ x, (source x).bind (participantAt parts) = from' x) (h : o = .ok r) :
    r.fibres = parts.map (fun x => (c.exchanged words x (from' x), 0)) := by
  obtain rfl := Except.ok.inj (heq.symm.trans h)
  simp only [Ctx.exchanges, hfrom]

/-- A lane that is named under a condition is looked up under it. -/
theorem ite_some_bind {α β : Type} {p q : Prop} [Decidable p] [Decidable q] (hpq : p ↔ q) (a : α) (g : α → Option β) :
    (if p then some a else none).bind g = if q then g a else none := by
  by_cases h : p
  · rw [if_pos h, if_pos (hpq.mp h)]; rfl
  · rw [if_neg h, if_neg (mt hpq.mpr h)]; rfl

theorem xlnIdx_values (h : laneOperation 0xA1 c parts base width words pattern captor bad = .ok r) :
    r.fibres = parts.map (fun x => (c.exchanged words x (participantAt parts (base + c.laneB words x % width)), 0)) :=
  exchange_values (source := fun x => some (base + c.laneB words x % width)) rfl (fun _ => rfl) h

theorem xlnSub_values (h : laneOperation 0xA2 c parts base width words pattern captor bad = .ok r) :
    r.fibres = parts.map (fun x => (c.exchanged words x
      (if c.laneB words x < width ∧ base + c.laneB words x ≤ x.lane then participantAt parts (x.lane - c.laneB words x) else none), 0)) :=
  exchange_values (source := fun x => if c.laneB words x < width ∧ base + c.laneB words x ≤ x.lane then some (x.lane - c.laneB words x) else none)
    rfl (fun _ => ite_some_bind Iff.rfl ..) h

theorem xlnAdd_values (h : laneOperation 0xA3 c parts base width words pattern captor bad = .ok r) :
    r.fibres = parts.map (fun x => (c.exchanged words x
      (if c.laneB words x < width ∧ x.lane + c.laneB words x < base + width then participantAt parts (x.lane + c.laneB words x) else none), 0)) :=
  exchange_values
    (source := fun x => if c.laneB words x < width ∧ x.lane + c.laneB words x ≤ base + width - 1 then some (x.lane + c.laneB words x) else none)
    rfl (fun _ => ite_some_bind (by omega) ..) h

theorem xlnFlip_values (h : laneOperation 0xA4 c parts base width words pattern captor bad = .ok r) :
    r.fibres = parts.map (fun x => (c.exchanged words x (participantAt parts (x.lane ^^^ (c.laneB words x % width))), 0)) :=
  exchange_values (source := fun x => some (x.lane ^^^ (c.laneB words x % width))) rfl (fun _ => rfl) h

/-! Partitions (R168). -/

theorem laneOperation_part_nil : laneOperation 0xA0 c [] base width words pattern captor bad = .ok { fibres := [] } := rfl

/-- `PART` completes only where every participant names the lowest one's value, and that is a width. -/
theorem laneOperation_part_cons {x : Fibre} {l : List Fibre} (h : laneOperation 0xA0 c (x :: l) base width words pattern captor bad = .ok r) :
    (∀ y ∈ x :: l, c.laneA words y = c.laneA words x) ∧ (c.laneA words x).toNat ∈ [2, 4, 8, 16, 32] ∧
      r = { fibres := (x :: l).map (fun y => (y, 0)), part := some (c.laneA words x).toNat } := by
  have heq : laneOperation 0xA0 c (x :: l) base width words pattern captor bad =
      match (x :: l).filter (fun y => c.laneA words y ≠ c.laneA words x) with
      | y :: t => .error (c.illegal y c.f.srcA (y :: t))
      | [] => if [2, 4, 8, 16, 32].contains (c.laneA words x).toNat then
          .ok { fibres := (x :: l).map (fun y => (y, 0)), part := some (c.laneA words x).toNat }
        else .error (c.illegal x c.f.srcA (x :: l)) := rfl
  rw [heq] at h
  split at h
  · cases h
  · next hsame =>
    split at h
    · next hwidth =>
      refine ⟨fun y hy => ?_, List.contains_iff_mem.mp hwidth, (Except.ok.inj h).symm⟩
      simpa using List.filter_eq_nil_iff.mp hsame y hy
    · cases h

theorem partition_values (h : laneOperation 0xA0 c parts base width words pattern captor bad = .ok r) : r.fibres = parts.map (fun x => (x, 0)) ∧
    (parts ≠ [] → ∃ v ∈ [2, 4, 8, 16, 32], r.part = some v ∧ ∀ x ∈ parts, (c.laneA words x).toNat = v) := by
  cases parts with
  | nil => exact ⟨LaneResult.fibres_of_ok (laneOperation_part_nil.symm.trans h), fun hne => absurd rfl hne⟩
  | cons x l =>
    obtain ⟨hsame, hwidth, rfl⟩ := laneOperation_part_cons h
    exact ⟨rfl, fun _ => ⟨_, hwidth, rfl, fun y hy => congrArg BitVec.toNat (hsame y hy)⟩⟩

/-! Votes (R170). -/

/-- The number of a ballot: the bit of each participant in its place of the tile. -/
def ballotOf (bits : Fibre → Bool) (base : Nat) (parts : List Fibre) : Nat :=
  parts.foldl (fun m y => if bits y then m ||| 2 ^ (y.lane - base) else m) 0

theorem laneOperation_ballot (hkind : c.f.modBits 0 2 = 3) : laneOperation 0xA5 c parts base width words pattern captor bad = .ok
    { fibres := parts.map (fun x => (x.set32 c.f.dst (BitVec.ofNat 32 (ballotOf c.voteBit base parts)), 0)) } := if_pos hkind

/-- What a vote of a kind combines its bits to. -/
def voteOf (kind : Nat) (bits : Fibre → Bool) (parts : List Fibre) : Bool :=
  match kind with
  | 0 => parts.all bits
  | 1 => parts.any bits
  | _ => parts.all bits || !(parts.any bits)

theorem laneOperation_vote (hkind : c.f.modBits 0 2 ≠ 3) : laneOperation 0xA5 c parts base width words pattern captor bad =
    .ok { fibres := parts.map (fun x => (x.setPred (c.f.dst.toNat % 16) (voteOf (c.f.modBits 0 2) c.voteBit parts), 0)) } :=
  if_neg hkind

/-- A fold that sets a bit for every element that passes. -/
theorem testBit_foldl_or {α : Type} (p : α → Bool) (k : α → Nat) (l : List α) (m i : Nat) :
    (l.foldl (fun m y => if p y then m ||| 2 ^ k y else m) m).testBit i = (m.testBit i || l.any (fun y => decide (k y = i) && p y)) := by
  induction l generalizing m with
  | nil => simp
  | cons y t ih =>
    rw [List.foldl_cons, ih, List.any_cons, ← Bool.or_assoc]
    cases hp : p y <;> simp [Nat.testBit_two_pow]

theorem getLsbD_ballotOf {bits : Fibre → Bool} (hbase : ∀ y ∈ parts, base ≤ y.lane) {i : Nat} (hi : i < 32) :
    (BitVec.ofNat 32 (ballotOf bits base parts)).getLsbD i = decide (∃ y ∈ parts, y.lane = base + i ∧ bits y = true) := by
  rw [BitVec.getLsbD_ofNat, ballotOf, testBit_foldl_or, decide_eq_true hi, Nat.zero_testBit, Bool.true_and, Bool.false_or, Bool.eq_iff_iff,
    List.any_eq_true, decide_eq_true_iff]
  refine exists_congr fun y => and_congr_right fun hy => ?_
  have hplace : y.lane - base = i ↔ y.lane = base + i := by have := hbase y hy; omega
  rw [Bool.and_eq_true, decide_eq_true_iff, hplace]

theorem voteOf_eq (kind : Nat) (bits : Fibre → Bool) (parts : List Fibre) : voteOf kind bits parts =
    match kind with
    | 0 => decide (∀ y ∈ parts, bits y = true)
    | 1 => decide (∃ y ∈ parts, bits y = true)
    | _ => decide ((∀ y ∈ parts, bits y = true) ∨ (∀ y ∈ parts, bits y = false)) := by
  have hall : parts.all bits = decide (∀ y ∈ parts, bits y = true) := by rw [Bool.eq_iff_iff, List.all_eq_true, decide_eq_true_iff]
  have hany : parts.any bits = decide (∃ y ∈ parts, bits y = true) := by rw [Bool.eq_iff_iff, List.any_eq_true, decide_eq_true_iff]
  have hnone : (!parts.any bits) = decide (∀ y ∈ parts, bits y = false) := by
    rw [Bool.eq_iff_iff, Bool.not_eq_true', List.any_eq_false, decide_eq_true_iff]
    simp only [Bool.not_eq_true]
  match kind with
  | 0 => exact hall
  | 1 => exact hany
  | n + 2 => exact (congrArg₂ or hall hnone).trans (Bool.decide_or ..).symm

/-! Reductions and scans (R171, R172). -/

/-- One step of a combination, with the flags of the steps up to it. -/
def accStep (op : Word → Word → Word × Flags) (acc : Word × Flags) (v : Word) : Word × Flags := ((op acc.1 v).1, (op acc.1 v).2 ||| acc.2)

/-- The combination of some values in their order: from what the first one gives, or the identity where there is none. -/
def combinedFrom (op : Word → Word → Word × Flags) (first : Word → Word × Flags) (unit : Word × Flags) : List Word → Word × Flags
  | [] => unit
  | v :: t => t.foldl (accStep op) (first v)

/-- The combinations up to each value. -/
def accsFrom (op : Word → Word → Word × Flags) (first : Word → Word × Flags) : List Word → List (Word × Flags)
  | [] => []
  | v :: t => laneAccs op (first v) t

section
variable {op : Word → Word → Word × Flags} {first : Word → Word × Flags} {unit : Word × Flags}

theorem getElem?_laneAccs {l : List Word} {i : Nat} (hi : i ≤ l.length) (acc : Word × Flags) :
    (laneAccs op acc l)[i]? = some ((l.take i).foldl (accStep op) acc) := by
  induction l generalizing acc i with
  | nil =>
    obtain rfl : i = 0 := Nat.le_zero.mp hi
    rfl
  | cons v t ih =>
    cases i with
    | zero => rfl
    | succ i => exact ih (Nat.le_of_succ_le_succ hi) _

theorem laneAccs_length (l : List Word) (acc : Word × Flags) : (laneAccs op acc l).length = l.length + 1 := by
  induction l generalizing acc with
  | nil => rfl
  | cons v t ih => exact congrArg (· + 1) (ih _)

/-- The combination at a value's place is that of the values up to it. -/
theorem getElem?_accsFrom {l : List Word} {i : Nat} (hi : i < l.length) :
    (accsFrom op first l)[i]? = some (combinedFrom op first unit (l.take (i + 1))) := by
  cases l with
  | nil => exact absurd hi (Nat.not_lt_zero i)
  | cons v t => exact getElem?_laneAccs (Nat.le_of_lt_succ hi) _

theorem accsFrom_length (l : List Word) : (accsFrom op first l).length = l.length := by
  cases l with
  | nil => rfl
  | cons v t => exact laneAccs_length t _

/-- The last combination is that of all values. -/
theorem getLast?_accsFrom {l : List Word} (hl : l ≠ []) : (accsFrom op first l).getLast? = some (combinedFrom op first unit l) := by
  have hpos := List.length_pos_iff.mpr hl
  rw [List.getLast?_eq_getElem?, accsFrom_length, getElem?_accsFrom (unit := unit) (by omega), Nat.sub_add_cancel hpos, List.take_length]

end

/-- What a scan gives the participant in place `i`: the combination up to it, or, excluding, the one before it. -/
theorem scan_eq_combinedFrom {op : Word → Word → Word × Flags} {first : Word → Word × Flags} {unit d : Word × Flags} {l : List Word} {i : Nat}
    (hi : i < l.length) (excl : Bool) :
    (if excl then (if i = 0 then unit else ((accsFrom op first l)[i - 1]?).getD d) else ((accsFrom op first l)[i]?).getD d) =
      combinedFrom op first unit (l.take (if excl then i else i + 1)) := by
  cases excl with
  | false => exact congrArg (fun o => Option.getD o d) (getElem?_accsFrom hi)
  | true =>
    cases i with
    | zero => rfl
    | succ j => exact congrArg (fun o => Option.getD o d) (getElem?_accsFrom (Nat.lt_of_succ_lt hi))

/-! Integer combinations. -/

/-- An integer step, which raises no flag. -/
def intStep (k : Nat) (p q : Word) : Word × Flags := (laneOpInt k p q, 0)

/-- The integer combination of some values in their order. -/
def intTotal (k : Nat) : List Word → Word
  | [] => laneIdInt k
  | v :: t => t.foldl (laneOpInt k) v

theorem foldl_intStep_fst (k : Nat) (l : List Word) (acc : Word × Flags) : (l.foldl (accStep (intStep k)) acc).1 = l.foldl (laneOpInt k) acc.1 := by
  induction l generalizing acc with
  | nil => rfl
  | cons v t ih => exact ih _

theorem combinedFrom_intStep (k : Nat) (l : List Word) : (combinedFrom (intStep k) (fun v => (v, 0)) (laneIdInt k, 0) l).1 = intTotal k l := by
  cases l with
  | nil => rfl
  | cons v t => exact foldl_intStep_fst k t _

/-- The integer combinations up to each participant. -/
def Ctx.intAccs (c : Ctx) (words : List (Nat × Word × Word)) (parts : List Fibre) : List (Word × Flags) :=
  accsFrom (intStep (c.f.modBits 0 3)) (fun v => (v, 0)) (parts.map (c.laneA words))

theorem laneOperation_lred : laneOperation 0xA6 c parts base width words pattern captor bad =
    .ok { fibres := parts.map (fun x => (x.set32 c.f.dst (((c.intAccs words parts).map (fun e => e.1)).getLast?.getD 0), 0)) } := rfl

theorem lred_values (h : laneOperation 0xA6 c parts base width words pattern captor bad = .ok r) :
    r.fibres = parts.map (fun x => (x.set32 c.f.dst (intTotal (c.f.modBits 0 3) (parts.map (c.laneA words))), 0)) := by
  refine (LaneResult.fibres_of_ok (laneOperation_lred.symm.trans h)).trans (List.map_congr_left fun x hx => ?_)
  have hne : parts.map (c.laneA words) ≠ [] := by simpa using List.ne_nil_of_mem hx
  rw [Ctx.intAccs, List.getLast?_map, getLast?_accsFrom (unit := (laneIdInt _, 0)) hne, Option.map_some, Option.getD_some, combinedFrom_intStep]

theorem laneOperation_lscan : laneOperation 0xA8 c parts base width words pattern captor bad =
    .ok { fibres := parts.zipIdx.map (fun e => (e.1.set32 c.f.dst (if c.f.mods.getLsbD 3
      then (if e.2 = 0 then laneIdInt (c.f.modBits 0 3) else (((c.intAccs words parts).map (fun e => e.1))[e.2 - 1]?).getD 0)
      else (((c.intAccs words parts).map (fun e => e.1))[e.2]?).getD 0), 0)) } := rfl

theorem getD_getElem?_map_fst (l : List (Word × Flags)) (i : Nat) : ((l.map (fun e => e.1))[i]?).getD 0 = ((l[i]?).getD (0, 0)).1 := by
  rw [List.getElem?_map]
  cases l[i]? <;> rfl

theorem lscan_values (h : laneOperation 0xA8 c parts base width words pattern captor bad = .ok r) : r.fibres = parts.zipIdx.map (fun e =>
    (e.1.set32 c.f.dst (intTotal (c.f.modBits 0 3) ((parts.take (if c.f.mods.getLsbD 3 then e.2 else e.2 + 1)).map (c.laneA words))), 0)) := by
  refine (LaneResult.fibres_of_ok (laneOperation_lscan.symm.trans h)).trans (List.map_congr_left fun e he => ?_)
  have hplace : e.2 < (parts.map (c.laneA words)).length := by simpa using List.snd_lt_of_mem_zipIdx he
  rw [List.map_take, ← combinedFrom_intStep, ← scan_eq_combinedFrom (d := (0, 0)) hplace, apply_ite Prod.fst, apply_ite Prod.fst,
    getD_getElem?_map_fst, getD_getElem?_map_fst]
  rfl

/-! Float combinations. -/

/-- What the first operand of a float combination counts as: its NaN is the canonical one. -/
def floatFirst (v : Word) : Word × Flags := (if (Fmt.f32.value v.toNat).isNan then BitVec.ofNat 32 Fmt.f32.nanCode else v, 0)

/-- A step of a float combination, with the flags of the steps so far. -/
def floatStep (k : Nat) (mode : Mode) (acc : Word × Flags) (v : Word) : Word × Flags :=
  if k = 0 then
    let q := fAdd .f32 mode (Fmt.f32.value acc.1.toNat) (Fmt.f32.value v.toNat)
    (BitVec.ofNat 32 q.1, q.2 ||| acc.2)
  else (BitVec.ofNat 32 (fMinMax .f32 (decide (k = 2)) false acc.1.toNat v.toNat), acc.2)

/-- The float combination of some values in their order. -/
def floatTotal (k : Nat) (mode : Mode) : List Word → Word × Flags
  | [] => (if k = 1 then 0x7F800000 else if k = 2 then 0xFF800000 else 0, 0)
  | v :: t => t.foldl (floatStep k mode) (floatFirst v)

theorem accStep_laneOpFloat (k : Nat) (mode : Mode) : accStep (laneOpFloat k mode) = floatStep k mode := by
  funext acc v
  by_cases hk : k = 0
  · simp [accStep, laneOpFloat, floatStep, hk]
  · simp [accStep, laneOpFloat, floatStep, hk]

theorem laneIdFloat_eq (k : Nat) : laneIdFloat k = if k = 1 then 0x7F800000 else if k = 2 then 0xFF800000 else 0 := by
  match k with
  | 0 | 1 | 2 | _ + 3 => rfl

theorem combinedFrom_laneOpFloat (k : Nat) (mode : Mode) (l : List Word) :
    combinedFrom (laneOpFloat k mode) floatFirst (laneIdFloat k, 0) l = floatTotal k mode l := by
  cases l with
  | nil => exact congrArg (fun v => (v, 0)) (laneIdFloat_eq k)
  | cons v t => exact congrArg (fun g => t.foldl g (floatFirst v)) (accStep_laneOpFloat k mode)

/-- The float combinations up to each participant. -/
def Ctx.floatAccs (c : Ctx) (words : List (Nat × Word × Word)) (parts : List Fibre) : List (Word × Flags) :=
  accsFrom (laneOpFloat (c.f.modBits 2 2) c.f.mode) floatFirst (parts.map (c.laneA words))

theorem laneOperation_lredF : laneOperation 0xA7 c parts base width words pattern captor bad =
    .ok { fibres := parts.map (fun x =>
      let q := (c.floatAccs words parts).getLast?.getD (0, 0)
      (x.set32 c.f.dst q.1, q.2)) } := rfl

/-- The float combination of some participants by the instruction's operator and rounding mode. -/
def Ctx.floatTotal (c : Ctx) (words : List (Nat × Word × Word)) (l : List Fibre) : Word × Flags :=
  Machine.floatTotal (c.f.modBits 2 2) c.f.mode (l.map (c.laneA words))

theorem lredF_values (h : laneOperation 0xA7 c parts base width words pattern captor bad = .ok r) :
    r.fibres = parts.map (fun x => (x.set32 c.f.dst (c.floatTotal words parts).1, (c.floatTotal words parts).2)) := by
  refine (LaneResult.fibres_of_ok (laneOperation_lredF.symm.trans h)).trans (List.map_congr_left fun x hx => ?_)
  have hne : parts.map (c.laneA words) ≠ [] := by simpa using List.ne_nil_of_mem hx
  rw [Ctx.floatAccs, getLast?_accsFrom (unit := (laneIdFloat _, 0)) hne, Option.getD_some, combinedFrom_laneOpFloat]
  rfl

theorem laneOperation_lscanF : laneOperation 0xA9 c parts base width words pattern captor bad =
    .ok { fibres := parts.zipIdx.map (fun e =>
      let q := if c.f.mods.getLsbD 4
        then (if e.2 = 0 then (laneIdFloat (c.f.modBits 2 2), 0) else ((c.floatAccs words parts)[e.2 - 1]?).getD (0, 0))
        else ((c.floatAccs words parts)[e.2]?).getD (0, 0)
      (e.1.set32 c.f.dst q.1, q.2)) } := rfl

theorem lscanF_values (h : laneOperation 0xA9 c parts base width words pattern captor bad = .ok r) : r.fibres = parts.zipIdx.map (fun e =>
    let q := c.floatTotal words (parts.take (if c.f.mods.getLsbD 4 then e.2 else e.2 + 1))
    (e.1.set32 c.f.dst q.1, q.2)) := by
  refine (LaneResult.fibres_of_ok (laneOperation_lscanF.symm.trans h)).trans (List.map_congr_left fun e he => ?_)
  have hplace : e.2 < (parts.map (c.laneA words)).length := by simpa using List.snd_lt_of_mem_zipIdx he
  simp only [Ctx.floatAccs, scan_eq_combinedFrom hplace, combinedFrom_laneOpFloat, Ctx.floatTotal, List.map_take]

/-! `PERM` (R176). -/

theorem bitsOf_eq (x lo n : Nat) : bitsOf x lo n = x / 2 ^ lo % 2 ^ n := by rw [bitsOf, Nat.shiftRight_eq_div_pow]

/-- The two bytes of a pattern that are a lane's entry. -/
def permEntry (p : List Byte) (lane : Nat) : Nat := (p.getD (2 * lane) 0).toNat + (p.getD (2 * lane + 1) 0).toNat * 256

theorem ofBytes_take_two (l : List Byte) : ofBytes (l.take 2) = (l.getD 0 0).toNat + (l.getD 1 0).toNat * 256 := by
  match l with
  | [] => rfl
  | [a] => simp [ofBytes]
  | a :: b :: _ => simp [ofBytes, Nat.mul_comm]

theorem ofBytes_entry (p : List Byte) (lane : Nat) : ofBytes ((p.drop (2 * lane)).take 2) = permEntry p lane := by
  rw [ofBytes_take_two, permEntry, List.getD_eq_getElem?_getD, List.getD_eq_getElem?_getD, List.getElem?_drop, List.getElem?_drop, Nat.add_zero,
    ← List.getD_eq_getElem?_getD, ← List.getD_eq_getElem?_getD]

/-- The number whose bytes are the first `n` of `g`. -/
def byteSum (g : Nat → Nat) (n : Nat) : Nat := (List.range n).foldl (fun m k => m + g k * 256 ^ k) 0

section
variable {g : Nat → Nat}

theorem byteSum_succ (n : Nat) : byteSum g (n + 1) = byteSum g n + g n * 256 ^ n := by
  rw [byteSum, List.range_succ, List.foldl_append]; rfl

variable (hg : ∀ k, g k < 256)
include hg

theorem byteSum_lt (n : Nat) : byteSum g n < 256 ^ n := by
  induction n with
  | zero => exact Nat.one_pos
  | succ n ih =>
    have hbyte := Nat.mul_le_mul_right (256 ^ n) (Nat.le_of_lt_succ (hg n))
    rw [byteSum_succ, pow_succ]
    omega

/-- Byte `j` of the number: the bytes above it are multiples of 256 of its place, those below it are less than its place. -/
theorem byteSum_byte {n j : Nat} (hj : j < n) : byteSum g n / 256 ^ j % 256 = g j := by
  induction n with
  | zero => exact absurd hj (Nat.not_lt_zero j)
  | succ n ih =>
    rw [byteSum_succ]
    rcases Nat.lt_succ_iff_lt_or_eq.mp hj with hlt | rfl
    · obtain ⟨k, rfl⟩ := Nat.exists_eq_add_of_lt hlt
      have hplace : g (j + k + 1) * 256 ^ (j + k + 1) = g (j + k + 1) * 256 ^ k * 256 * 256 ^ j := by ring
      rw [hplace, Nat.add_mul_div_right _ _ (by positivity), Nat.add_mul_mod_self_right]
      exact ih hlt
    · rw [Nat.add_mul_div_right _ _ (by positivity), Nat.div_eq_of_lt (byteSum_lt hg j), Nat.zero_add, Nat.mod_eq_of_lt (hg j)]

end

/-- The byte of a register that an entry picks for byte `k` of the result. -/
def permByte (e : Nat) (w : Word) (k : Nat) : Nat := bitsOf w.toNat (8 * bitsOf e (8 + 2 * k) 2) 8

/-- The word that `PERM` builds of a register's bytes. -/
def permBytes (e : Nat) (w : Word) : Nat := byteSum (permByte e w) 4

/-- The word that `PERM` builds for a participant with an entry. -/
def Ctx.permWord (c : Ctx) (parts : List Fibre) (x : Fibre) (e : Nat) : Nat :=
  if bitsOf e 7 1 = 1 then 0
  else match participantAt parts (if c.compat16 then x.lane / 16 * 16 + bitsOf e 0 5 % 16 else bitsOf e 0 5) with
    | none => 0
    | some y => permBytes e (y.reg (c.f.srcA.toNat + bitsOf e 5 2 % (c.f.modBits 0 2 + 1)))

theorem laneOperation_perm {p : List Byte} (hp : p ≠ []) : laneOperation 0xAA c parts base width words (some p) captor bad =
    .ok { fibres := parts.map (fun x => ((x.set32 c.f.dst (BitVec.ofNat 32 (c.permWord parts x (ofBytes ((p.drop (2 * x.lane)).take 2))))).tainted
      c.f.dst 0 (bad.contains (x.lane / 4)), 0)) } :=
  if_neg (mt Option.some.inj hp)

theorem permBytes_byte (e : Nat) (w : Word) {j : Nat} (hj : j < 4) :
    permBytes e w % 2 ^ 32 / 256 ^ j % 256 = w.toNat / 256 ^ (e / 2 ^ (8 + 2 * j) % 4) % 256 := by
  have hbyte : ∀ k, permByte e w k < 256 := fun k => Nat.mod_lt _ (by omega)
  have hword : permBytes e w < 2 ^ 32 := byteSum_lt hbyte 4
  rw [Nat.mod_eq_of_lt hword, permBytes, byteSum_byte hbyte hj, permByte, bitsOf_eq, bitsOf_eq, pow_mul]
  rfl

/-- The lane that an entry names: of the participant's half of the home warp under compat16 (R178). -/
def Ctx.permSource (c : Ctx) (x : Fibre) (e : Nat) : Nat := if c.compat16 then x.lane / 16 * 16 + e % 16 else e % 32

theorem Ctx.permSource_eq (c : Ctx) (x : Fibre) (e : Nat) :
    (if c.compat16 then x.lane / 16 * 16 + bitsOf e 0 5 % 16 else bitsOf e 0 5) = c.permSource x e := by
  have hlow : bitsOf e 0 5 = e % 32 := rfl
  rw [hlow, Nat.mod_mod_of_dvd _ (by decide), Ctx.permSource]

theorem Ctx.permWord_byte (c : Ctx) (parts : List Fibre) (x : Fibre) (e : Nat) {j : Nat} (hj : j < 4) :
    (BitVec.ofNat 32 (c.permWord parts x e)).toNat / 256 ^ j % 256 =
      if e / 128 % 2 = 1 then 0
      else match participantAt parts (c.permSource x e) with
        | none => 0
        | some y => (y.reg (c.f.srcA.toNat + e / 32 % 4 % (c.f.mods.toNat % 4 + 1))).toNat / 256 ^ (e / 2 ^ (8 + 2 * j) % 4) % 256 := by
  have hzero : bitsOf e 7 1 = e / 128 % 2 := bitsOf_eq e 7 1
  have hreg : bitsOf e 5 2 = e / 32 % 4 := bitsOf_eq e 5 2
  have hrun : c.f.modBits 0 2 = c.f.mods.toNat % 4 := rfl
  rw [BitVec.toNat_ofNat, Ctx.permWord, hzero, hreg, hrun, Ctx.permSource_eq]
  by_cases he : e / 128 % 2 = 1
  · rw [if_pos he, if_pos he, Nat.zero_mod, Nat.zero_div, Nat.zero_mod]
  · rw [if_neg he, if_neg he]
    cases participantAt parts (c.permSource x e) with
    | none => simp
    | some y => exact permBytes_byte e _ hj

theorem perm_values {p : List Byte} (hp : p ≠ []) (h : laneOperation 0xAA c parts base width words (some p) captor bad = .ok r) :
    r.fibres = parts.map (fun x => ((x.set32 c.f.dst (BitVec.ofNat 32 (c.permWord parts x (permEntry p x.lane)))).tainted
      c.f.dst 0 (bad.contains (x.lane / 4)), 0)) := by
  simp only [← ofBytes_entry]
  exact LaneResult.fibres_of_ok ((laneOperation_perm hp).symm.trans h)

/-! The obligation. -/

/-- The operator and the rounding mode of a float reduction, as fields of the modifiers. -/
theorem Ctx.floatTotal_eq (c : Ctx) (words : List (Nat × Word × Word)) (l : List Fibre) : c.floatTotal words l =
    Machine.floatTotal (c.f.mods.toNat / 4 % 4) (Mode.ofBits c.f.mods.toNat) (l.map (c.laneA words)) := by
  have hop : c.f.modBits 2 2 = c.f.mods.toNat / 4 % 4 := bitsOf_eq ..
  have hmode : c.f.mode = Mode.ofBits c.f.mods.toNat := by
    have hlow : c.f.modBits 0 2 % 4 = c.f.mods.toNat % 4 := Nat.mod_mod ..
    simp only [Fields.mode, Mode.ofBits, hlow]
  rw [Ctx.floatTotal, hop, hmode]

end

/-- Settles O12: each operation by what its completion answers. -/
theorem laneOperationValues : Obligations.LaneOperationValues := by
  unfold Obligations.LaneOperationValues
  intro c parts base width words pattern captor bad r
  refine ⟨?part, ?xlnIdx, ?xlnSub, ?xlnAdd, ?xlnFlip, ?vote, ?ballot, ?lred, ?lredF, ?lscan, ?lscanF, ?perm⟩
  case part => exact partition_values
  case xlnIdx => exact xlnIdx_values
  case xlnSub => exact xlnSub_values
  case xlnAdd => exact xlnAdd_values
  case xlnFlip => exact xlnFlip_values
  case vote =>
    intro h hkind
    refine (LaneResult.fibres_of_ok ((laneOperation_vote (Nat.ne_of_lt hkind)).symm.trans h)).trans ?_
    rw [voteOf_eq]
    rfl
  case ballot =>
    intro h hkind hbase
    exact ⟨_, LaneResult.fibres_of_ok ((laneOperation_ballot hkind).symm.trans h), fun i hi => getLsbD_ballotOf hbase hi⟩
  case lred => exact lred_values
  case lredF =>
    intro h
    refine (lredF_values h).trans ?_
    rw [Ctx.floatTotal_eq]
    rfl
  case lscan => exact lscan_values
  case lscanF =>
    intro h
    refine (lscanF_values h).trans ?_
    simp only [Ctx.floatTotal_eq]
    rfl
  case perm =>
    rintro p h rfl hp
    exact ⟨_, perm_values hp h, fun x _ j hj => c.permWord_byte parts x _ hj⟩

end Sys2Proof.Machine
end

section
/-! Packed registers (R130, R131): the fields of a number by its digits, and the registers of a run. -/

namespace Sys2Proof.Machine

/-! The registers of a run (R132). -/

theorem Fibre.setRun_below (x : Fibre) (l : List Word) {n r : Nat} (h : r < n) : Sparse.get 0 (x.setRun n l).regs r = Sparse.get 0 x.regs r := by
  induction l generalizing x n with
  | nil => rfl
  | cons v t ih => exact (ih (x.setReg n v) (Nat.lt_succ_of_lt h)).trans (Sparse.get_set_ne 0 x.regs v (Nat.ne_of_lt h))

/-- A register of a run has the word written for it. -/
theorem Fibre.setRun_get (x : Fibre) (l : List Word) (n : Nat) {i : Nat} (h : i < l.length) : Sparse.get 0 (x.setRun n l).regs (n + i) = l[i] := by
  induction l generalizing x n i with
  | nil => exact absurd h (Nat.not_lt_zero i)
  | cons v t ih =>
    cases i with
    | zero => exact ((x.setReg n v).setRun_below t (Nat.lt_succ_self n)).trans (Sparse.get_set_same ..)
    | succ i =>
      have hplace : n + (i + 1) = n + 1 + i := by omega
      rw [hplace]
      exact ih (x.setReg n v) (n + 1) (Nat.lt_of_succ_lt_succ h)

@[simp] theorem Fibre.tainted_regs (x : Fibre) (code : BitVec 9) (i : Nat) (bad : Bool) : (x.tainted code i bad).regs = x.regs := by
  unfold Fibre.tainted; split <;> rfl

theorem Fibre.foldl_tainted_regs (l : List Nat) (x : Fibre) (code : BitVec 9) (bad : Nat → Bool) :
    (l.foldl (fun y i => y.tainted code i (bad i)) x).regs = x.regs := by
  induction l generalizing x with
  | nil => rfl
  | cons i t ih => exact (ih _).trans (x.tainted_regs code i (bad i))

/-! Fields of a packed register. -/

/-- The number packed from codes of `w` bits has them as its digits. -/
theorem packed_eq_ofDigits (w : Nat) (l : List (Nat × Flags)) :
    l.foldr (fun e acc => e.1 % 2 ^ w + 2 ^ w * acc) 0 = Nat.ofDigits (2 ^ w) (l.map (fun e => e.1 % 2 ^ w)) := by
  rw [Nat.ofDigits_eq_foldr, List.foldr_map]
  rfl

theorem mem_packed_lt {w d : Nat} {l : List (Nat × Flags)} (h : d ∈ l.map (fun e => e.1 % 2 ^ w)) : d < 2 ^ w := by
  obtain ⟨e, -, rfl⟩ := List.mem_map.mp h
  exact Nat.mod_lt _ (Nat.two_pow_pos w)

theorem packed_lt {w : Nat} (hw : w ≠ 0) (l : List (Nat × Flags)) :
    l.foldr (fun e acc => e.1 % 2 ^ w + 2 ^ w * acc) 0 < 2 ^ (w * l.length) := by
  rw [packed_eq_ofDigits, pow_mul]
  exact (Nat.ofDigits_lt_base_pow_length (Nat.one_lt_two_pow hw) (fun _ => mem_packed_lt)).trans_eq (by rw [List.length_map])

/-- Field `i` of the number is the code packed there: dividing by its place drops the fields below it, the remainder those above it. -/
theorem packed_field (w : Nat) (l : List (Nat × Flags)) {i : Nat} (h : i < l.length) :
    l.foldr (fun e acc => e.1 % 2 ^ w + 2 ^ w * acc) 0 / 2 ^ (w * i) % 2 ^ w = l[i].1 % 2 ^ w := by
  rw [packed_eq_ofDigits, pow_mul, Nat.ofDigits_div_pow_eq_ofDigits_drop i (Nat.two_pow_pos w) _ (fun _ => mem_packed_lt),
    ← List.map_drop, List.drop_eq_getElem_cons h, List.map_cons, Nat.ofDigits_cons, Nat.add_mul_mod_self_left, Nat.mod_mod]

/-! The obligation. -/

theorem packWidth_bits {k : Nat} (h : k = 2 ∨ k = 4 ∨ k = 5 ∨ k = 8) : packWidth k ≠ 0 ∧ packWidth k * k ≤ 32 := by
  rcases h with rfl | rfl | rfl | rfl <;> decide

theorem packWidth_eq {k : Nat} (h : k = 2 ∨ k = 4 ∨ k = 5 ∨ k = 8) :
    packWidth k = if k = 2 then 16 else if k = 4 then 8 else if k = 5 then 6 else 4 := by
  rcases h with rfl | rfl | rfl | rfl <;> rfl

/-- R131: of a floating format, register *i* of `UNPK.k`'s run has the value of field *i*. -/
theorem unpack_get (c : Ctx) (x : Fibre) {k i : Nat} (hi : i < k) (hsrc : c.f.fmtSrc ≤ 7) :
    Sparse.get 0 (unpack k c x).regs (c.f.dst.toNat + i) =
      BitVec.ofNat 32 (widenTo32 (fmtOf c.f.fmtSrc) (bitsOf (src32 c x c.f.srcA).toNat (i * packWidth k) (packWidth k))) := by
  unfold unpack
  dsimp only
  rw [Fibre.foldl_tainted_regs, Fibre.setRun_get x _ _ (by simpa using hi), List.getElem_map, List.getElem_range]
  split
  next h8 => omega
  next h9 => omega
  next h10 => omega
  next => rfl

/-- R130: field *i* of `PACK.k`'s result has the code of register A + *i*. -/
theorem pack_field (c : Ctx) (x : Fibre) {k i : Nat} (hk : k = 2 ∨ k = 4 ∨ k = 5 ∨ k = 8) (hi : i < k) (hdst : c.f.dst.toNat < 240) :
    (Sparse.get 0 (pack k c x).1.regs c.f.dst.toNat).toNat / 2 ^ (packWidth k * i) % 2 ^ packWidth k =
      (packElement c.f (x.reg (c.f.srcA.toNat + i))).1 % 2 ^ packWidth k := by
  obtain ⟨hw, hword⟩ := packWidth_bits hk
  have hlen : ((srcRun x c.f.srcA k).map (packElement c.f)).length = k := by simp [srcRun]
  have hlt := packed_lt hw ((srcRun x c.f.srcA k).map (packElement c.f))
  rw [hlen] at hlt
  have hfits := hlt.trans_le (Nat.pow_le_pow_right (by decide) hword)
  rw [pack, Fibre.set32_of_lt x hdst, Fibre.setReg, Sparse.get_set_same, BitVec.toNat_ofNat, Nat.mod_eq_of_lt hfits, packed_field _ _ (by omega)]
  simp [srcRun]

/-- Settles O6: the run of `UNPK` by the words written for its registers, the register of `PACK` by the digits of its number. -/
theorem packedFieldsAreInOrder : Obligations.PackedFieldsAreInOrder := by
  unfold Obligations.PackedFieldsAreInOrder
  intro c x k i hk hi
  rw [← packWidth_eq hk]
  refine ⟨fun hsrc _ => ?unpk, fun hdst => pack_field c x hk hi hdst⟩
  case unpk =>
    have h := unpack_get c x hi hsrc
    rw [bitsOf_eq, Nat.mul_comm] at h
    exact h

end Sys2Proof.Machine
end

section
/-! Conversions, packing, block scales and codebooks (R126 to R139): each completes with the value that its row's meaning writes. -/

namespace Sys2Proof.Machine

/-! The immediate and the mode as fields of numbers (R32, R125). -/

theorem Fields.fmtSrc_eq (f : Fields) : f.fmtSrc = f.imm.toNat % 16 := rfl

theorem Fields.fmtDst_eq (f : Fields) : f.fmtDst = f.imm.toNat / 16 % 16 := bitsOf_eq ..

theorem Fields.mode_eq (f : Fields) : f.mode = Mode.ofBits f.mods.toNat := by
  have hlow : f.modBits 0 2 % 4 = f.mods.toNat % 4 := Nat.mod_mod ..
  simp only [Fields.mode, Mode.ofBits, hlow]

section
variable {f : Fields} {s : State} {c : Ctx}

/-- R126, R128: a value rounded into the destination format. -/
theorem cvtRound_eq (c : Ctx) (x : Fibre) (v : XReal) : cvtRound c x v =
    let t := fmtOf (c.f.imm.toNat / 16 % 16)
    let r := roundTo t (Mode.ofBits c.f.mods.toNat) (c.f.imm.getLsbD 8) v
    (x.setFmt t c.f.dst r.1, r.2) := by
  rw [cvtRound, Fields.fmtDst_eq, Fields.mode_eq]
  rfl

/-! Tables of the workgroup (R133). -/

theorem badBook_none {number : Fibre → Word} {x : Fibre} (h : (number x).toNat % 64 < c.kernel.books) : badBook c number x = none :=
  if_neg (Nat.not_le.mpr h)

theorem Ctx.laneFault_badBook {number : Fibre → Word} (h : ∀ x ∈ c.passing, (number x).toNat % 64 < c.kernel.books) :
    c.laneFault (badBook c number) = none :=
  Ctx.laneFault_none fun x hx => badBook_none (h x hx)

/-- `UNPK.k` of a format that is no codebook's, or of tables that the workgroup has (R131, R133). -/
theorem IssuesAs.unpacks {op k : Nat} (h : IssuesAs op (.cvt (.unpk k) f) f s c)
    (hbooks : c.f.imm.toNat % 16 = 8 → ∀ x ∈ c.passing, (src32 c x c.f.srcB).toNat % 64 < c.kernel.books) :
    runUnpack op k f s = .next ((s.tainted c op f).lanewise c (unpack k c)) := by
  refine h.next ?_
  have hfault : (if c.f.fmtSrc = 8 then c.laneFault (badBook c (fun x => src32 c x c.f.srcB)) else none) = none := by
    split
    next h8 => exact Ctx.laneFault_badBook (hbooks h8)
    next => rfl
  rw [hfault]

/-- `CBQ` and `CBQ.P` to tables that the workgroup has, raising nothing that is trapped (R137). -/
theorem IssuesAs.quantises {op : Nat} {sh : Shape} {values : Ctx → Fibre → List Word} (h : IssuesAs op sh f s c)
    (hbooks : ∀ x ∈ c.passing, (srcB32 c x).toNat % 64 < c.kernel.books) (htrap : NoTrap c (fun x => quantise c x (values c x))) :
    runQuantise op sh f s values =
      .next (((s.tainted c op f).lanewise c (fun x => (quantise c x (values c x)).1)).updWg c.wg.key
        (fun w => { w with fflags := w.fflags ||| c.raised (fun x => quantise c x (values c x)) })) := by
  refine h.next ?_
  rw [Ctx.laneFault_badBook hbooks]
  exact State.lanewiseF_ok htrap

/-- `CBLD` to tables that the workgroup has (R134). -/
theorem cbld_completes (h : Issues (.cbld f) s c) (hbooks : ∀ x ∈ c.passing, (src32 c x c.f.srcA).toNat % 64 < c.kernel.books) :
    exec (.cbld f) s = .next (((s.entered c (.cbld f)).updWg c.wg.key (fun w => c.passing.foldl (fun w x =>
      w.setBook ((src32 c x c.f.srcA).toNat % 64) (x.lane % 16) ((srcB32 c x).toNat % 2 ^ 16)) w)).lanewise c id) := by
  change execCbld f s = _
  refine IssuesAs.next (op := 0x060) (sh := .cbld f) h ?_
  rw [Ctx.laneFault_badBook hbooks]
  rfl

/-! Whole tables from the scratchpad (R135). -/

theorem State.scratchBad_none {k off n : Nat} (h : ∀ i, i < n → (off + i) / 4 ∉ (s.core k).scratchPoison) : s.scratchBad k off n = none := by
  unfold State.scratchBad
  rw [List.find?_eq_none]
  intro a ha
  obtain ⟨i, hi, rfl⟩ := List.mem_map.mp ha
  rw [Nat.mul_div_cancel _ (by decide)]
  simpa using h i (List.mem_range.mp hi)

theorem State.place_scratch {core : Nat} {w : Workgroup} {kernel : Kernel} {a width : Nat} (space perms : Nat) (hin : a < kernel.scratchBytes)
    (halign : a % width = 0) : s.place core w kernel 1 space a width perms = .ok (.scratch core (w.scratchBase + a) 1) := by
  simp only [State.place, ge_iff_le, if_neg (Nat.not_le.mpr hin), halign, ne_eq, not_true_eq_false, if_false]

theorem State.core_tainted (op : Nat) (f : Fields) (k : Nat) : (s.tainted c op f).core k = s.core k := by
  simp only [State.core, State.tainted_cores]

/-- Where a lane's table stands in the scratchpad. -/
def Ctx.tableOff (c : Ctx) (x : Fibre) : Nat := (src32 c x c.f.srcB + c.f.imm).toNat

/-- The read of a lane's table. -/
def Ctx.tableLoad (c : Ctx) (x : Fibre) : Load :=
  { fibre := x.index, dst := .book ((src32 c x c.f.srcA).toNat % 64), place := .scratch c.core (c.wg.scratchBase + c.tableOff x) 1, width := 32 }

/-- `CBLD.M` of tables that the workgroup has and clean scratchpad bytes sends for them. -/
theorem cbldM_completes (h : Issues (.cbldM f) s c) (hbooks : ∀ x ∈ c.passing, (src32 c x c.f.srcA).toNat % 64 < c.kernel.books)
    (hplace : ∀ x ∈ c.passing, c.tableOff x % 32 = 0 ∧ c.tableOff x < c.kernel.scratchBytes ∧
      ∀ i, i < 32 → (c.wg.scratchBase + c.tableOff x + i) / 4 ∉ (s.core c.core).scratchPoison) :
    exec (.cbldM f) s = .next (((s.entered c (.cbldM f)).sendTables c.core c.wg.key (c.passing.map c.tableLoad)).lanewise c id) := by
  change execCbldM f s = _
  refine IssuesAs.next (op := 0x061) (sh := .cbldM) h ?_
  dsimp only
  rw [Ctx.laneFault_none]
  · rfl
  · intro x hx
    obtain ⟨halign, hin, hclean⟩ := hplace x hx
    rw [← State.core_tainted 0x061 f] at hclean
    rw [badBook_none (hbooks x hx), Option.orElse_none, ← Ctx.tableOff, State.place_scratch _ _ hin halign]
    exact Option.map_eq_none_iff.mpr (State.scratchBad_none hclean)

end

/-- Settles O5: each instruction by the value that its row's meaning writes, the codebook instructions by their tables' checks. -/
theorem conversionsAndCodebooksComplete : Obligations.ConversionsAndCodebooksComplete := by
  unfold Obligations.ConversionsAndCodebooksComplete
  refine ⟨fun f s c => ⟨?cvtDn, ?cvtUp, ?cvtD, ?cvtF2i, ?cvtI2f, ?cvtF2l, ?cvtL2f, ?cvtI2i, ?pack2, ?pack4, ?pack5, ?pack8,
    ?unpk2, ?unpk4, ?unpk5, ?unpk8, ?bsclGet, ?bsclGet32, ?bsclApply, ?bsclInv⟩, fun f s c => ⟨?cbld, ?cbldM, ?cbq, ?cbqP⟩⟩
  case cvtDn | cvtD | cvtI2f | cvtL2f => exact fun h => IssuesAs.floats h (funext fun x => cvtRound_eq ..)
  case cvtUp => exact fun h => IssuesAs.lanes h rfl
  case cvtF2i | cvtF2l => exact fun h => IssuesAs.floats h (funext fun x => by rw [Fields.fmtDst_eq, Fields.mode_eq]; rfl)
  case cvtI2i => exact fun h => IssuesAs.lanes h (funext fun x => by rw [Fields.fmtDst_eq]; rfl)
  case pack2 | pack4 | pack5 | pack8 => exact fun h => IssuesAs.floats h rfl
  case unpk2 | unpk4 | unpk5 => exact fun h hsrc => IssuesAs.unpacks h (fun h8 => absurd h8 hsrc)
  case unpk8 => exact fun h hbooks => IssuesAs.unpacks h hbooks
  case bsclGet | bsclGet32 => exact fun h => IssuesAs.lanes h rfl
  case bsclApply | bsclInv => exact fun h => IssuesAs.floats h (funext fun x => by rw [scaleBy, Fields.mode_eq]; rfl)
  case cbld => exact cbld_completes
  case cbldM => exact cbldM_completes
  case cbq => exact IssuesAs.quantises (values := fun c x => [src32 c x c.f.srcA])
  case cbqP => exact IssuesAs.quantises (values := fun c x => srcRun x c.f.srcA 8)

end Sys2Proof.Machine
end

section
/-! One rounding (R117): what a code of a format stands for, what a rounding to a multiple of a power of two leaves of its operand, and that a code
rounded without overflow stands for the rounded multiple. -/

namespace Sys2Proof.Machine

/-- The sign of an operand as a factor. -/
def signOf (n : Bool) : ℚ := if n then -1 else 1

theorem abs_signOf (n : Bool) : |signOf n| = 1 := by cases n <;> simp [signOf]

theorem signOf_ne_zero (n : Bool) : signOf n ≠ 0 := by cases n <;> simp [signOf]

theorem signOf_eq_or_neg (a b : Bool) : signOf a = signOf b ∨ signOf a = -signOf b := by
  cases a <;> cases b <;> simp [signOf]

/-- The real number that a finite operand stands for. -/
def realOf (n : Bool) (m : Nat) (e : Int) : ℚ := signOf n * m * 2 ^ e

/-! Codes of a format (R114). -/

section
variable (t : Fmt)

/-- The exponent of the least significant bit of the format's subnormal numbers. -/
def Fmt.qmin : Int := 1 - (t.bias : Int) - t.mant

/-- The significand of a magnitude's code, with the leading one of a normal number. -/
def Fmt.sigOf (c : Nat) : Nat := c % 2 ^ t.mant + if c / 2 ^ t.mant = 0 then 0 else 2 ^ t.mant

/-- The exponent of its least significant bit. -/
def Fmt.expOf (c : Nat) : Int := t.qmin + (c / 2 ^ t.mant - 1 : Nat)

theorem Fmt.maxCode_lt : t.maxCode < 2 ^ (t.width - 1) := by cases t <;> decide

theorem Fmt.two_pow_width : 2 ^ t.width = 2 * 2 ^ (t.width - 1) := by cases t <;> rfl

theorem Fmt.sigOf_lt (c : Nat) : t.sigOf c < 2 ^ (t.mant + 1) := by
  have hlow := Nat.mod_lt c (Nat.two_pow_pos t.mant)
  rw [Fmt.sigOf, pow_succ]
  split <;> omega

theorem Fmt.normal_exp {b : Nat} (h : b ≠ 0) : (b : Int) - t.bias - t.mant = t.qmin + (b - 1 : Nat) := by
  rw [Fmt.qmin]
  omega

/-- The finite numbers of a format are the significands of its codes, placed by their exponents. -/
theorem Fmt.value_eq_fin {k m : Nat} {n : Bool} {e : Int} (h : t.value k = .fin n m e) : ∃ c, m = t.sigOf c ∧ e = t.expOf c := by
  refine ⟨k % 2 ^ t.width % 2 ^ (t.width - 1), ?_⟩
  unfold Fmt.value at h
  dsimp only at h
  rw [Fmt.sigOf, Fmt.expOf]
  split at h
  next => split at h <;> cases h
  next =>
    split at h
    next => cases h
    next =>
      split at h
      next hsub =>
        cases h
        rw [if_pos hsub, hsub]
        exact ⟨rfl, by simp [Fmt.qmin]⟩
      next hnorm =>
        cases h
        rw [if_neg hnorm]
        exact ⟨rfl, t.normal_exp hnorm⟩

/-- A code and its sign take apart again. -/
theorem Fmt.signed_parts (neg : Bool) {c : Nat} (hc : c ≤ t.maxCode) :
    t.signed neg c % 2 ^ t.width / 2 ^ (t.width - 1) = neg.toNat ∧ t.signed neg c % 2 ^ t.width % 2 ^ (t.width - 1) = c := by
  have hlt : c < 2 ^ (t.width - 1) := hc.trans_lt t.maxCode_lt
  have hword : t.signed neg c = c + 2 ^ (t.width - 1) * neg.toNat := by cases neg <;> simp [Fmt.signed]
  have hfits : c + 2 ^ (t.width - 1) * neg.toNat < 2 ^ t.width := by
    rw [t.two_pow_width]
    cases neg <;> simp <;> omega
  rw [hword, Nat.mod_eq_of_lt hfits, Nat.add_mul_div_left _ _ (Nat.two_pow_pos _), Nat.div_eq_of_lt hlt, Nat.zero_add,
    Nat.add_mul_mod_self_left, Nat.mod_eq_of_lt hlt]
  exact ⟨rfl, rfl⟩

/-- A magnitude up to the largest finite one, with its sign. -/
theorem Fmt.value_signed (neg : Bool) {c : Nat} (hc : c ≤ t.maxCode) : t.value (t.signed neg c) = .fin neg (t.sigOf c) (t.expOf c) := by
  obtain ⟨hsign, hmag⟩ := t.signed_parts neg hc
  have hneg : decide (neg.toNat = 1) = neg := by cases neg <;> rfl
  have hfinite : ¬ (t.hasInf && decide (c > t.maxCode)) = true := by simp [hc]
  have hnumber : ¬ (decide (t = .e4m3) && decide (c = 0x7F)) = true := by
    simp only [Bool.and_eq_true, decide_eq_true_eq]
    rintro ⟨rfl, rfl⟩
    exact absurd hc (by decide)
  unfold Fmt.value
  dsimp only
  rw [hsign, hmag, if_neg hfinite, if_neg hnumber, hneg, Fmt.sigOf, Fmt.expOf]
  split
  next hsub => rw [hsub, Nat.add_zero]; simp [Fmt.qmin]
  next hnorm => rw [t.normal_exp hnorm]

/-- A significand `k` placed `j` above the subnormal numbers: of a code whose exponent field it may carry into, at most to the next power of two. -/
theorem Fmt.code_real {j k : Nat} (hlow : j = 0 ∨ 2 ^ t.mant ≤ k) (hhigh : k ≤ 2 ^ (t.mant + 1)) :
    (t.sigOf (j * 2 ^ t.mant + k) : ℚ) * 2 ^ t.expOf (j * 2 ^ t.mant + k) = k * 2 ^ (t.qmin + j) := by
  have hpos := Nat.two_pow_pos t.mant
  rw [pow_succ] at hhigh
  have hdiv : (j * 2 ^ t.mant + k) / 2 ^ t.mant = j + k / 2 ^ t.mant := by rw [Nat.add_comm, Nat.add_mul_div_right _ _ hpos, Nat.add_comm]
  have hmod : (j * 2 ^ t.mant + k) % 2 ^ t.mant = k % 2 ^ t.mant := by rw [Nat.add_comm, Nat.add_mul_mod_self_right]
  rw [Fmt.sigOf, Fmt.expOf, hdiv, hmod]
  rcases Nat.lt_or_ge k (2 ^ t.mant) with hsub | hnorm
  · have hj : j = 0 := hlow.resolve_right (Nat.not_le.mpr hsub)
    rw [hj, Nat.div_eq_of_lt hsub, Nat.mod_eq_of_lt hsub]
    simp
  · rcases Nat.lt_or_ge k (2 ^ t.mant * 2) with hone | htwo
    · have hq : k / 2 ^ t.mant = 1 := Nat.div_eq_of_lt_le (by omega) (by omega)
      have hr : k % 2 ^ t.mant = k - 2 ^ t.mant := by rw [Nat.mod_eq_sub_div_mul, hq, Nat.one_mul]
      rw [hq, hr, if_neg (Nat.succ_ne_zero j), Nat.sub_add_cancel hnorm]
      rfl
    · obtain rfl : k = 2 ^ t.mant * 2 := le_antisymm hhigh htwo
      rw [Nat.mul_div_cancel_left _ hpos, Nat.mul_mod_right, if_neg (Nat.succ_ne_zero _), Nat.zero_add]
      have hexp : t.qmin + (j + 2 - 1 : Nat) = t.qmin + j + 1 := by omega
      rw [hexp, zpow_add_one₀ two_ne_zero]
      push_cast
      ring

end

/-! Rounding to a multiple (step 3 of R117). -/

/-- What rounding the magnitude `y` of a sign in a mode to a whole number `k` promises, `lost` telling whether they differ. -/
structure RoundsTo (mode : Mode) (neg : Bool) (y : ℚ) (k : Nat) (lost : Bool) : Prop where
  close : |(k : ℚ) - y| < 1
  exact_iff : lost = false ↔ (k : ℚ) = y
  toZero : mode = .rz → (k : ℚ) ≤ y
  down : mode = .rm → signOf neg * k ≤ signOf neg * y
  up : mode = .rp → signOf neg * y ≤ signOf neg * k
  nearest : mode = .rn → |(k : ℚ) - y| ≤ 1 / 2

section
variable {mode : Mode} {neg lost : Bool} {n : Nat} {f : ℚ}

/-- The whole part of `n + f`, where the mode does not ask for more. -/
theorem RoundsTo.floor (h0 : 0 ≤ f) (h1 : f < 1) (hlost : lost = false ↔ f = 0) (hrn : mode = .rn → f ≤ 1 / 2) (hrm : mode = .rm → neg = true → f = 0)
    (hrp : mode = .rp → neg = false → f = 0) : RoundsTo mode neg (n + f) n lost := by
  have hdist : |(n : ℚ) - (n + f)| = f := by rw [sub_add_cancel_left, abs_neg, abs_of_nonneg h0]
  refine ⟨hdist.trans_lt h1, hlost.trans (by simp), fun _ => by linarith, fun h => ?down, fun h => ?up, fun h => hdist.trans_le (hrn h)⟩
  case down =>
    cases neg
    · simpa [signOf] using h0
    · simp [hrm h rfl]
  case up =>
    cases neg
    · simp [hrp h rfl]
    · simpa [signOf] using h0

/-- The whole number above `n + f`, where the mode asks for it. -/
theorem RoundsTo.ceil (h0 : 0 < f) (h1 : f < 1) (hrz : mode ≠ .rz) (hrn : mode = .rn → 1 / 2 ≤ f) (hrm : mode = .rm → neg = true)
    (hrp : mode = .rp → neg = false) : RoundsTo mode neg (n + f) (n + 1) true := by
  have hdist : |((n + 1 : Nat) : ℚ) - (n + f)| = 1 - f := by
    rw [Nat.cast_succ, add_sub_add_left_eq_sub, abs_of_pos (sub_pos.mpr h1)]
  refine ⟨hdist.trans_lt (by linarith), ?exact_iff, fun h => absurd h hrz, fun h => ?down, fun h => ?up,
    fun h => hdist.trans_le (by linarith [hrn h])⟩
  case exact_iff => simpa using h1.ne'
  case down =>
    rw [hrm h]
    simpa [signOf] using h1.le
  case up =>
    rw [hrp h]
    simpa [signOf] using h1.le

end

/-- A multiple stays as it is. -/
theorem roundAt_of_le (mode : Mode) (neg : Bool) (m : Nat) {e q : Int} (h : q ≤ e) :
    ((roundAt mode neg m e q).1 : ℚ) = m * 2 ^ (e - q) ∧ (roundAt mode neg m e q).2 = false := by
  obtain ⟨d, hd⟩ := Int.eq_ofNat_of_zero_le (sub_nonneg.mpr h)
  rw [roundAt, if_pos h, hd, Int.toNat_natCast, Nat.shiftLeft_eq, zpow_natCast]
  exact ⟨by push_cast; rfl, rfl⟩

/-- The part that a rounding drops, of the place it rounds to: its order to one half is that of the dropped bits to the bit above them. -/
theorem dropped_le_half {r h : Nat} (hh : 0 < h) : (r : ℚ) / (2 * h : Nat) ≤ 1 / 2 ↔ r ≤ h := by
  have hpos : (0 : ℚ) < h := Nat.cast_pos.mpr hh
  rw [Nat.cast_mul, div_le_iff₀ (by positivity), ← Nat.cast_le (α := ℚ)]
  constructor <;> intro <;> linarith

theorem half_le_dropped {r h : Nat} (hh : 0 < h) : 1 / 2 ≤ (r : ℚ) / (2 * h : Nat) ↔ h ≤ r := by
  have hpos : (0 : ℚ) < h := Nat.cast_pos.mpr hh
  rw [Nat.cast_mul, le_div_iff₀ (by positivity), ← Nat.cast_le (α := ℚ)]
  constructor <;> intro <;> linarith

/-- A mode rounds away from zero a magnitude of whole part `n` whose bits below it, of which `h` is the highest, make `r`. -/
def Mode.carries (mode : Mode) (neg : Bool) (n r h : Nat) : Bool :=
  match mode with
  | .rn => decide (h < r) || (decide (r = h) && decide (n % 2 = 1))
  | .rz => false
  | .rm => neg && decide (r ≠ 0)
  | .rp => !neg && decide (r ≠ 0)

/-- Rounding at a place above the lowest drops the bits below it. -/
theorem roundAt_of_lt (mode : Mode) (neg : Bool) (m : Nat) {e q : Int} {d : Nat} (h : q - e = d + 1) :
    roundAt mode neg m e q = (if mode.carries neg (m / 2 ^ (d + 1)) (m % 2 ^ (d + 1)) (2 ^ d) then m / 2 ^ (d + 1) + 1 else m / 2 ^ (d + 1),
      decide (m % 2 ^ (d + 1) ≠ 0)) := by
  have hlt : ¬ q ≤ e := by omega
  have hd : (q - e).toNat = d + 1 := by omega
  unfold roundAt
  rw [if_neg hlt, hd, ← Nat.shiftRight_eq_div_pow]
  cases mode <;> rfl

section
variable {mode : Mode} {neg : Bool} {n r h : Nat}

theorem Mode.of_carries (hr : r < 2 * h) (hc : mode.carries neg n r h = true) :
    0 < r ∧ mode ≠ .rz ∧ (mode = .rn → h ≤ r) ∧ (mode = .rm → neg = true) ∧ (mode = .rp → neg = false) := by
  cases mode with
  | rn =>
    have hhigh : h < r ∨ r = h ∧ n % 2 = 1 := by simpa [Mode.carries] using hc
    exact ⟨by omega, nofun, fun _ => by omega, nofun, nofun⟩
  | rz => cases hc
  | rm =>
    obtain ⟨hneg, hr0⟩ : neg = true ∧ r ≠ 0 := by simpa [Mode.carries] using hc
    exact ⟨Nat.pos_of_ne_zero hr0, nofun, nofun, fun _ => hneg, nofun⟩
  | rp =>
    obtain ⟨hneg, hr0⟩ : neg = false ∧ r ≠ 0 := by simpa [Mode.carries] using hc
    exact ⟨Nat.pos_of_ne_zero hr0, nofun, nofun, nofun, fun _ => hneg⟩

theorem Mode.of_not_carries (hc : mode.carries neg n r h = false) :
    (mode = .rn → r ≤ h) ∧ (mode = .rm → neg = true → r = 0) ∧ (mode = .rp → neg = false → r = 0) := by
  cases mode with
  | rn =>
    obtain ⟨hlow, -⟩ : r ≤ h ∧ (r = h → n % 2 = 0) := by simpa [Mode.carries] using hc
    exact ⟨fun _ => hlow, nofun, nofun⟩
  | rz => exact ⟨nofun, nofun, nofun⟩
  | rm => exact ⟨nofun, fun _ hneg => by simpa [Mode.carries, hneg] using hc, nofun⟩
  | rp => exact ⟨nofun, nofun, fun _ hneg => by simpa [Mode.carries, hneg] using hc⟩

/-- A whole part and dropped bits, rounded by what the mode carries. -/
theorem RoundsTo.of_dropped (mode : Mode) (neg : Bool) (n : Nat) (hr : r < 2 * h) :
    RoundsTo mode neg (n + r / (2 * h : Nat)) (if mode.carries neg n r h then n + 1 else n) (decide (r ≠ 0)) := by
  have hh : 0 < h := by omega
  have hwhole : (0 : ℚ) < (2 * h : Nat) := Nat.cast_pos.mpr (by omega)
  have hlt : (r : ℚ) / (2 * h : Nat) < 1 := (div_lt_one hwhole).mpr (Nat.cast_lt.mpr hr)
  have hzero : (r : ℚ) / (2 * h : Nat) = 0 ↔ r = 0 := by rw [div_eq_zero_iff, Nat.cast_eq_zero, or_iff_left hwhole.ne']
  cases hc : mode.carries neg n r h with
  | true =>
    obtain ⟨hpos, hrz, hrn, hrm, hrp⟩ := Mode.of_carries hr hc
    rw [decide_eq_true hpos.ne']
    exact RoundsTo.ceil (div_pos (Nat.cast_pos.mpr hpos) hwhole) hlt hrz (fun hm => (half_le_dropped hh).mpr (hrn hm)) hrm hrp
  | false =>
    obtain ⟨hrn, hrm, hrp⟩ := Mode.of_not_carries hc
    exact RoundsTo.floor (div_nonneg (Nat.cast_nonneg r) hwhole.le) hlt (by rw [hzero]; simp) (fun hm => (dropped_le_half hh).mpr (hrn hm))
      (fun hm hneg => hzero.mpr (hrm hm hneg)) (fun hm hneg => hzero.mpr (hrp hm hneg))

end

theorem cast_div_eq_add (m : Nat) {b : Nat} (h : 0 < b) : (m : ℚ) / b = (m / b : Nat) + (m % b : Nat) / (b : ℚ) := by
  have hb : (b : ℚ) ≠ 0 := Nat.cast_ne_zero.mpr h.ne'
  rw [div_eq_iff hb, add_mul, div_mul_cancel₀ _ hb, ← Nat.cast_mul, ← Nat.cast_add, Nat.div_add_mod']

/-- R117: `roundAt` rounds the operand's magnitude in units of 2^q. -/
theorem roundAt_roundsTo (mode : Mode) (neg : Bool) (m : Nat) (e q : Int) :
    RoundsTo mode neg (m * 2 ^ (e - q)) (roundAt mode neg m e q).1 (roundAt mode neg m e q).2 := by
  by_cases hqe : q ≤ e
  · obtain ⟨hk, hlost⟩ := roundAt_of_le mode neg m hqe
    have hround := RoundsTo.floor (mode := mode) (neg := neg) (n := (roundAt mode neg m e q).1) (f := 0) (lost := false) le_rfl one_pos (by simp)
      (fun _ => by norm_num) (fun _ _ => rfl) (fun _ _ => rfl)
    rwa [add_zero, ← hlost, hk] at hround
  · obtain ⟨d, hd⟩ : ∃ d : Nat, q - e = d + 1 := ⟨(q - e).toNat - 1, by omega⟩
    have hplace : (2 : Nat) ^ (d + 1) = 2 * 2 ^ d := pow_succ' 2 d
    have hmag : (m : ℚ) * 2 ^ (e - q) = (m / 2 ^ (d + 1) : Nat) + (m % 2 ^ (d + 1) : Nat) / (2 ^ (d + 1) : Nat) := by
      have hneg : e - q = -((d + 1 : Nat) : Int) := by omega
      rw [hneg, zpow_neg, zpow_natCast, ← div_eq_mul_inv, ← cast_div_eq_add m (Nat.two_pow_pos _), Nat.cast_pow, Nat.cast_ofNat]
    have hdropped : m % 2 ^ (d + 1) < 2 * 2 ^ d := hplace ▸ Nat.mod_lt _ (Nat.two_pow_pos _)
    have hround := RoundsTo.of_dropped mode neg (m / 2 ^ (d + 1)) hdropped
    rw [← hplace] at hround
    rw [hmag, roundAt_of_lt mode neg m hd]
    exact hround


/-! The place of a rounding (R117). -/

section
variable {t : Fmt} {mode : Mode} {neg lost : Bool} {m k : Nat} {e : Int}

/-- The exponent of the place to which a format rounds an operand: of the last of its significand's bits, or of its subnormal numbers'. -/
def Fmt.place (t : Fmt) (m : Nat) (e : Int) : Int := max ((Nat.log2 m : Int) + e - t.mant) t.qmin

theorem Fmt.qmin_le_place (t : Fmt) (m : Nat) (e : Int) : t.qmin ≤ t.place m e := le_max_right ..

/-- The operand's magnitude in units of that place. -/
def Fmt.scaled (t : Fmt) (m : Nat) (e : Int) : ℚ := m * 2 ^ (e - t.place m e)

theorem Fmt.scaled_nonneg (t : Fmt) (m : Nat) (e : Int) : 0 ≤ t.scaled m e := by
  rw [Fmt.scaled]
  positivity

theorem Fmt.scaled_mul (t : Fmt) (m : Nat) (e : Int) : t.scaled m e * 2 ^ t.place m e = m * 2 ^ e := by
  rw [Fmt.scaled, mul_assoc, ← zpow_add₀ two_ne_zero, sub_add_cancel]

theorem cast_log2_bounds (hm : m ≠ 0) : (2 : ℚ) ^ (m.log2 : Int) ≤ m ∧ (m : ℚ) < 2 ^ ((m.log2 : Int) + 1) := by
  have hlow := Nat.log2_self_le hm
  have hhigh := Nat.lt_log2_self (n := m)
  exact ⟨by rw [zpow_natCast]; exact_mod_cast hlow, by rw [zpow_add_one₀ two_ne_zero, zpow_natCast, ← pow_succ]; exact_mod_cast hhigh⟩

/-- In units of its place an operand has no bit above the significand's. -/
theorem Fmt.scaled_lt (t : Fmt) (hm : m ≠ 0) (e : Int) : t.scaled m e < 2 ^ (t.mant + 1) := by
  have hexp : (m.log2 : Int) + 1 + (e - t.place m e) ≤ (t.mant + 1 : Nat) := by
    have := le_max_left ((m.log2 : Int) + e - t.mant) t.qmin
    rw [Fmt.place]
    omega
  calc t.scaled m e < 2 ^ ((m.log2 : Int) + 1) * 2 ^ (e - t.place m e) := mul_lt_mul_of_pos_right (cast_log2_bounds hm).2 (by positivity)
    _ = 2 ^ ((m.log2 : Int) + 1 + (e - t.place m e)) := (zpow_add₀ two_ne_zero ..).symm
    _ ≤ 2 ^ ((t.mant + 1 : Nat) : Int) := zpow_le_zpow_right₀ one_le_two hexp
    _ = 2 ^ (t.mant + 1) := zpow_natCast ..

/-- Above the place of the subnormal numbers it has the significand's highest bit. -/
theorem Fmt.le_scaled (hm : m ≠ 0) (h : t.qmin < t.place m e) : 2 ^ t.mant ≤ t.scaled m e := by
  have hexp : (t.mant : Int) = m.log2 + (e - t.place m e) := by
    rw [Fmt.place] at h ⊢
    omega
  calc (2 : ℚ) ^ t.mant = 2 ^ ((m.log2 : Int) + (e - t.place m e)) := by rw [← hexp, zpow_natCast]
    _ = 2 ^ (m.log2 : Int) * 2 ^ (e - t.place m e) := zpow_add₀ two_ne_zero ..
    _ ≤ t.scaled m e := mul_le_mul_of_nonneg_right (cast_log2_bounds hm).1 (by positivity)

/-- The rounded magnitude has a code: it may carry into the next power of two, and stays normal above the subnormal numbers' place. -/
theorem RoundsTo.significand (hm : m ≠ 0) (h : RoundsTo mode neg (t.scaled m e) k lost) :
    k ≤ 2 ^ (t.mant + 1) ∧ ((t.place m e - t.qmin).toNat = 0 ∨ 2 ^ t.mant ≤ k) := by
  obtain ⟨hbelow, habove⟩ := abs_sub_lt_iff.mp h.close
  constructor
  · have hlt : (k : ℚ) < (2 ^ (t.mant + 1) + 1 : Nat) := by
      have := t.scaled_lt hm e
      push_cast
      linarith
    exact Nat.lt_succ_iff.mp (Nat.cast_lt.mp hlt)
  · by_cases hplace : t.qmin < t.place m e
    · right
      have hlt : ((2 ^ t.mant : Nat) : ℚ) < (k + 1 : Nat) := by
        have := Fmt.le_scaled hm hplace
        push_cast
        linarith
      exact Nat.lt_succ_iff.mp (Nat.cast_lt.mp hlt)
    · left
      omega

/-- The flags of a rounding that loses something (R120): inexact, and underflow if the magnitude, rounded with no lower exponent limit, is below the
format's least normal number. -/
def Fmt.lossFlags (t : Fmt) (mode : Mode) (neg : Bool) (m : Nat) (e : Int) : Flags :=
  let q := (Nat.log2 m : Int) + e - t.mant
  if decide ((Nat.log2 (roundAt mode neg m e q).1 : Int) + q < 1 - (t.bias : Int)) then Flags.underflow ||| Flags.inexact else Flags.inexact

theorem Fmt.lossFlags_ne_zero : t.lossFlags mode neg m e ≠ 0 := by
  unfold Fmt.lossFlags
  dsimp only
  split <;> decide

/-- The magnitude's code of a rounding. -/
def Fmt.magCode (t : Fmt) (mode : Mode) (neg : Bool) (m : Nat) (e : Int) : Nat :=
  (t.place m e - t.qmin).toNat * 2 ^ t.mant + (roundAt mode neg m e (t.place m e)).1

/-- `roundTo` of a nonzero finite operand: its magnitude's code, or the overflow's result above the largest finite one. -/
theorem roundTo_fin (hm : m ≠ 0) (satf : Bool) : roundTo t mode satf (.fin neg m e) =
    if t.magCode mode neg m e > t.maxCode then (t.overflowCode mode satf neg, Flags.overflow ||| Flags.inexact)
    else (t.signed neg (t.magCode mode neg m e),
      if (roundAt mode neg m e (t.place m e)).2 then t.lossFlags mode neg m e else .none) := by
  obtain ⟨m, rfl⟩ := Nat.exists_eq_succ_of_ne_zero hm
  rw [Fmt.magCode, ← Nat.shiftLeft_eq]
  rfl

/-- A rounding that does not overflow has its magnitude's code, and raises no flag just if it loses nothing. -/
theorem roundTo_code {code : Nat} {fl : Flags} (hm : m ≠ 0) (h : roundTo t mode false (.fin neg m e) = (code, fl)) (hov : fl &&& Flags.overflow = 0) :
    t.magCode mode neg m e ≤ t.maxCode ∧ code = t.signed neg (t.magCode mode neg m e) ∧ (fl = 0 ↔ (roundAt mode neg m e (t.place m e)).2 = false) := by
  rw [roundTo_fin hm] at h
  split at h
  next hover =>
    obtain ⟨-, rfl⟩ := Prod.mk.inj h
    exact absurd hov (by decide)
  next hfits =>
    obtain ⟨rfl, rfl⟩ := Prod.mk.inj h
    refine ⟨Nat.le_of_not_lt hfits, rfl, ?_⟩
    cases (roundAt mode neg m e (t.place m e)).2 with
    | false => exact iff_of_true rfl rfl
    | true => exact iff_of_false Fmt.lossFlags_ne_zero nofun

/-- The code stands for the rounded magnitude. -/
theorem roundTo_value {code : Nat} {fl : Flags} (hm : m ≠ 0) (h : roundTo t mode false (.fin neg m e) = (code, fl)) (hov : fl &&& Flags.overflow = 0) :
    ∃ k lost, RoundsTo mode neg (t.scaled m e) k lost ∧ (fl = 0 ↔ lost = false) ∧
      ∃ m' e', t.value code = .fin neg m' e' ∧ realOf neg m' e' = realOf neg k (t.place m e) := by
  obtain ⟨hfits, rfl, hfl⟩ := roundTo_code hm h hov
  have hround : RoundsTo mode neg (t.scaled m e) _ _ := roundAt_roundsTo mode neg m e (t.place m e)
  obtain ⟨hhigh, hlow⟩ := hround.significand hm
  refine ⟨_, _, hround, hfl, _, _, t.value_signed neg hfits, ?_⟩
  have hplace : t.qmin + ((t.place m e - t.qmin).toNat : Int) = t.place m e := by
    rw [Int.toNat_of_nonneg (sub_nonneg.mpr (t.qmin_le_place m e)), add_sub_cancel]
  rw [Fmt.magCode, realOf, mul_assoc, t.code_real hlow hhigh, hplace, ← mul_assoc, realOf]

/-! Nearest codes. -/

/-- A whole number within one half is as near as any other. -/
theorem abs_sub_le_of_half {y : ℚ} {k z : Int} (h : |(k : ℚ) - y| ≤ 1 / 2) : |(k : ℚ) - y| ≤ |(z : ℚ) - y| := by
  by_cases hz : z = k
  · rw [hz]
  · have hone : (1 : ℚ) ≤ |(k : ℚ) - z| := by exact_mod_cast Int.one_le_abs (sub_ne_zero.mpr (Ne.symm hz))
    have htri := abs_sub_le (k : ℚ) y z
    rw [abs_sub_comm y] at htri
    linarith

theorem abs_signed (neg : Bool) (y : ℚ) (q : Int) : |signOf neg * y * 2 ^ q| = |y| * 2 ^ q := by
  have hpos : (0 : ℚ) < 2 ^ q := by positivity
  rw [abs_mul, abs_mul, abs_signOf, one_mul, abs_of_pos hpos]

theorem abs_signed_sub (neg : Bool) (y z : ℚ) (q : Int) : |signOf neg * y * 2 ^ q - signOf neg * z * 2 ^ q| = |y - z| * 2 ^ q := by
  rw [← sub_mul, ← mul_sub, abs_signed]

theorem realOf_eq_scaled (t : Fmt) (neg : Bool) (m : Nat) (e : Int) : realOf neg m e = signOf neg * t.scaled m e * 2 ^ t.place m e := by
  rw [mul_assoc, t.scaled_mul, realOf, mul_assoc]

/-- A number whose least place is no lower is a multiple of the place, of either sign. -/
theorem realOf_multiple (neg n : Bool) (m : Nat) {e q : Int} (h : q ≤ e) : ∃ z : Int, realOf n m e = signOf neg * z * 2 ^ q := by
  obtain ⟨d, hd⟩ := Int.eq_ofNat_of_zero_le (sub_nonneg.mpr h)
  have hplace : (2 : ℚ) ^ e = 2 ^ d * 2 ^ q := by rw [← zpow_natCast, ← zpow_add₀ two_ne_zero, ← hd, sub_add_cancel]
  rw [realOf, hplace]
  rcases signOf_eq_or_neg n neg with hs | hs
  · exact ⟨m * 2 ^ d, by rw [hs]; push_cast; ring⟩
  · exact ⟨-(m * 2 ^ d), by rw [hs]; push_cast; ring⟩

/-- A code's number with a place below it is less than the place's normal significands. -/
theorem Fmt.abs_realOf_lt {i m2 : Nat} {n2 : Bool} {e2 q : Int} (hv : t.value i = .fin n2 m2 e2) (h : e2 < q) : |realOf n2 m2 e2| < 2 ^ t.mant * 2 ^ q := by
  obtain ⟨c, rfl, rfl⟩ := t.value_eq_fin hv
  have hsig : (t.sigOf c : ℚ) < 2 ^ (t.mant + 1) := by exact_mod_cast t.sigOf_lt c
  have hexp : (2 : ℚ) ^ (t.expOf c) ≤ 2 ^ (q - 1) := zpow_le_zpow_right₀ one_le_two (by omega)
  calc |realOf n2 (t.sigOf c) (t.expOf c)| = t.sigOf c * 2 ^ t.expOf c := by rw [realOf, abs_signed, Nat.abs_cast]
    _ < 2 ^ (t.mant + 1) * 2 ^ (q - 1) := mul_lt_mul hsig hexp (by positivity) (by positivity)
    _ = 2 ^ t.mant * 2 ^ q := by rw [pow_succ, zpow_sub_one₀ two_ne_zero]; ring

theorem Fmt.qmin_le_of_value {i m2 : Nat} {n2 : Bool} {e2 : Int} (hv : t.value i = .fin n2 m2 e2) : t.qmin ≤ e2 := by
  obtain ⟨c, -, rfl⟩ := t.value_eq_fin hv
  exact Int.le_add_of_nonneg_right (Int.natCast_nonneg _)

/-- R117: to nearest, no code of the format is nearer. One with a place no lower is a multiple, as far at least as the nearest; one with a lower place
is below the operand's power of two, itself a multiple. -/
theorem RoundsTo.nearest_code {i m2 : Nat} {n2 : Bool} {e2 : Int} (hm : m ≠ 0) (h : RoundsTo .rn neg (t.scaled m e) k lost)
    (hv : t.value i = .fin n2 m2 e2) : |realOf neg k (t.place m e) - realOf neg m e| ≤ |realOf n2 m2 e2 - realOf neg m e| := by
  have hpos : (0 : ℚ) < 2 ^ t.place m e := by positivity
  have hmultiple : ∀ z : Int, |realOf neg k (t.place m e) - realOf neg m e| ≤ |(z : ℚ) - t.scaled m e| * 2 ^ t.place m e := by
    intro z
    rw [realOf_eq_scaled t neg m e, realOf, abs_signed_sub]
    exact mul_le_mul_of_nonneg_right (abs_sub_le_of_half (k := k) (h.nearest rfl)) hpos.le
  rcases le_or_gt (t.place m e) e2 with hgrid | hbelow
  · obtain ⟨z, hz⟩ := realOf_multiple neg n2 m2 hgrid
    rw [hz, realOf_eq_scaled t neg m e, abs_signed_sub, ← realOf_eq_scaled]
    exact hmultiple z
  · have hnormal : 2 ^ t.mant ≤ t.scaled m e := Fmt.le_scaled hm ((Fmt.qmin_le_of_value hv).trans_lt hbelow)
    have hsmall := Fmt.abs_realOf_lt hv hbelow
    have habs : |realOf neg m e| = t.scaled m e * 2 ^ t.place m e := by
      rw [realOf_eq_scaled t, abs_signed, abs_of_nonneg (t.scaled_nonneg m e)]
    calc |realOf neg k (t.place m e) - realOf neg m e| ≤ |((2 ^ t.mant : Int) : ℚ) - t.scaled m e| * 2 ^ t.place m e := hmultiple _
      _ = t.scaled m e * 2 ^ t.place m e - 2 ^ t.mant * 2 ^ t.place m e := by
        rw [abs_sub_comm, abs_of_nonneg (by push_cast; linarith), sub_mul]
        push_cast
        rfl
      _ ≤ |realOf neg m e| - |realOf n2 m2 e2| := by rw [habs]; linarith
      _ ≤ |realOf n2 m2 e2 - realOf neg m e| := by rw [abs_sub_comm]; exact abs_sub_abs_le_abs_sub ..

/-- R117: a rounding of the real number `x` to the format's number `r`, raising the flags `fl`, goes where its mode says. -/
def FollowsMode (t : Fmt) (mode : Mode) (fl : Flags) (r x : ℚ) : Prop :=
  (fl = 0 ↔ r = x) ∧ (mode = .rz → |r| ≤ |x|) ∧ (mode = .rm → r ≤ x) ∧ (mode = .rp → x ≤ r) ∧
    (mode = .rn → ∀ k n m e, t.value k = .fin n m e → |r - x| ≤ |realOf n m e - x|)

/-- A rounding to the place of the operand, whose flags say whether it loses anything, follows its mode. -/
theorem RoundsTo.followsMode {fl : Flags} (hm : m ≠ 0) (h : RoundsTo mode neg (t.scaled m e) k lost) (hfl : fl = 0 ↔ lost = false) :
    FollowsMode t mode fl (realOf neg k (t.place m e)) (realOf neg m e) := by
  have hpos : (0 : ℚ) < 2 ^ t.place m e := by positivity
  refine ⟨?exact, ?toZero, ?down, ?up, ?nearest⟩
  case nearest =>
    rintro rfl i n2 m2 e2 hv
    exact h.nearest_code hm hv
  all_goals rw [realOf_eq_scaled t neg m e, realOf]
  case exact => rw [hfl, h.exact_iff, mul_left_inj' hpos.ne', mul_right_inj' (signOf_ne_zero neg)]
  case toZero =>
    intro hmode
    rw [abs_signed, abs_signed, Nat.abs_cast, abs_of_nonneg (t.scaled_nonneg m e)]
    exact mul_le_mul_of_nonneg_right (h.toZero hmode) hpos.le
  case down => exact fun hmode => mul_le_mul_of_nonneg_right (h.down hmode) hpos.le
  case up => exact fun hmode => mul_le_mul_of_nonneg_right (h.up hmode) hpos.le

end

/-- Settles O9: the code stands for the operand rounded to the place of the format, which follows the mode. -/
theorem roundingFollowsItsMode : Obligations.RoundingFollowsItsMode := by
  unfold Obligations.RoundingFollowsItsMode
  intro t mode n m e code fl hm hround hov
  obtain ⟨k, lost, hk, hfl, m', e', hvalue, hreal⟩ := roundTo_value hm hround hov
  have hfollows : FollowsMode t mode fl (realOf n m' e') (realOf n m e) := hreal ▸ hk.followsMode hm hfl
  exact ⟨n, m', e', hvalue, hfollows⟩

end Sys2Proof.Machine
end

section
/-! Minima and maxima of two codes (R148): the order of exact operands, and the choice that it makes. -/

namespace Sys2Proof.Machine

/-! The order of numbers. -/

theorem XReal.cmp_self (a : XReal) : XReal.cmp a a = 0 := by
  cases a <;> simp [XReal.cmp]

theorem XReal.neg_cmp (a b : XReal) : -XReal.cmp a b = XReal.cmp b a := by
  have hfin : ∀ p q : Int, -(p - q).sign = (q - p).sign := fun p q => by rw [← Int.sign_neg, Int.neg_sub]
  cases a with
  | nan => cases b with
    | inf n => cases n <;> rfl
    | nan | fin => simp only [XReal.cmp, hfin, min_comm]
  | inf n => cases b with
    | inf k => cases n <;> cases k <;> rfl
    | nan | fin => cases n <;> rfl
  | fin => cases b with
    | inf n => cases n <;> rfl
    | nan | fin => simp only [XReal.cmp, hfin, min_comm]

theorem XReal.eq_fin_of_isZero {a : XReal} (h : a.isZero = true) : ∃ n e, a = .fin n 0 e := by
  unfold XReal.isZero at h
  split at h
  next n e => exact ⟨n, e, rfl⟩
  next => cases h

/-- Zeros of both signs compare equal. -/
theorem XReal.cmp_zeros {a b : XReal} (ha : a.isZero = true) (hb : b.isZero = true) : XReal.cmp a b = 0 := by
  obtain ⟨n, e, rfl⟩ := XReal.eq_fin_of_isZero ha
  obtain ⟨k, d, rfl⟩ := XReal.eq_fin_of_isZero hb
  simp [XReal.cmp, XReal.coeff]

/-! The order of minima and maxima, in which -0 is below +0. -/

theorem cmp_nonpos_of_minOrder {a b : XReal} (h : minOrder a b = true) : XReal.cmp a b ≤ 0 := by
  simp only [minOrder, Bool.or_eq_true, Bool.and_eq_true, decide_eq_true_eq] at h
  omega

theorem cmp_nonneg_of_not_minOrder {a b : XReal} (h : ¬ minOrder a b = true) : 0 ≤ XReal.cmp a b := by
  simp only [minOrder, Bool.or_eq_true, decide_eq_true_eq, not_or, not_lt] at h
  exact h.1

theorem minOrder_zeros {a b : XReal} (ha : a.isZero = true) (hb : b.isZero = true) : minOrder a b = (a.isNeg && !b.isNeg) := by
  simp [minOrder, XReal.cmp_zeros ha hb]

/-! The choice. -/

section
variable {t : Fmt} {a b : Nat} (num : Bool) (ha : ¬ (t.value a).isNan = true) (hb : ¬ (t.value b).isNan = true)
include ha hb

theorem fMinMax_max_numbers : fMinMax t true num a b = if minOrder (t.value a) (t.value b) then b else a := by
  simp [fMinMax, ha, hb]

theorem fMinMax_min_numbers : fMinMax t false num a b = if minOrder (t.value b) (t.value a) then b else a := by
  simp [fMinMax, ha, hb]

theorem fMinMax_eq_or (isMax : Bool) : fMinMax t isMax num a b = a ∨ fMinMax t isMax num a b = b := by
  cases isMax
  case false => rw [fMinMax_min_numbers num ha hb]; split <;> simp
  case true => rw [fMinMax_max_numbers num ha hb]; split <;> simp

/-- The maximum is below neither number. -/
theorem fMinMax_max_bounds : 0 ≤ XReal.cmp (t.value (fMinMax t true num a b)) (t.value a) ∧
    0 ≤ XReal.cmp (t.value (fMinMax t true num a b)) (t.value b) := by
  rw [fMinMax_max_numbers num ha hb]
  split
  case isTrue h =>
    have hle := cmp_nonpos_of_minOrder h
    rw [← XReal.neg_cmp (t.value a), XReal.cmp_self]
    omega
  case isFalse h => exact ⟨(XReal.cmp_self _).ge, cmp_nonneg_of_not_minOrder h⟩

/-- The minimum is above neither number. -/
theorem fMinMax_min_bounds : XReal.cmp (t.value (fMinMax t false num a b)) (t.value a) ≤ 0 ∧
    XReal.cmp (t.value (fMinMax t false num a b)) (t.value b) ≤ 0 := by
  rw [fMinMax_min_numbers num ha hb]
  split
  case isTrue h => exact ⟨cmp_nonpos_of_minOrder h, (XReal.cmp_self _).le⟩
  case isFalse h =>
    have hge := cmp_nonneg_of_not_minOrder h
    rw [← XReal.neg_cmp (t.value b), XReal.cmp_self]
    omega

/-- Of zeros of both signs the maximum is +0 and the minimum -0. -/
theorem fMinMax_zeros_isNeg (isMax : Bool) (hza : (t.value a).isZero = true) (hzb : (t.value b).isZero = true)
    (hsign : (t.value a).isNeg ≠ (t.value b).isNeg) : (t.value (fMinMax t isMax num a b)).isNeg = !isMax := by
  have hother : (t.value b).isNeg = !(t.value a).isNeg := Bool.eq_not.mpr hsign.symm
  cases isMax
  case false =>
    rw [fMinMax_min_numbers num ha hb, minOrder_zeros hzb hza, hother]
    cases hneg : (t.value a).isNeg <;> simp [hneg, hother]
  case true =>
    rw [fMinMax_max_numbers num ha hb, minOrder_zeros hza hzb, hother]
    cases hneg : (t.value a).isNeg <;> simp [hneg, hother]

end

/-- Settles O10: the NaN cases by the order in which they are tested, two numbers by the choice that their order makes. -/
theorem minMaxTreatNanAndZero : Obligations.MinMaxTreatNanAndZero := by
  unfold Obligations.MinMaxTreatNanAndZero
  intro t isMax num a b
  refine ⟨?bothNan, ?aNan, ?bNan, fun ⟨ha, hb⟩ => ⟨fMinMax_eq_or num ha hb isMax, ?bounds, ?zeros⟩⟩
  case bothNan | aNan | bNan =>
    rintro ⟨ha, hb⟩
    simp [fMinMax, ha, hb]
  case bounds =>
    cases isMax
    case false => exact fMinMax_min_bounds num ha hb
    case true => exact fMinMax_max_bounds num ha hb
  case zeros => exact fun ⟨hza, hzb, hsign⟩ => fMinMax_zeros_isNeg num ha hb isMax hza hzb hsign

end Sys2Proof.Machine
end

section
/-! A trapped flag (R121, R144): the lowest passing lane that raises one, whose fault parks the workgroup before any lane is written. -/

namespace Sys2Proof.Machine

variable {c : Ctx}

/-- What R144 makes of a trapped flag: a fault of class 12 that names the lowest passing lane that raises one, and its flags. -/
def Ctx.FlagFault (c : Ctx) (g : Fibre → Fibre × Flags) (x : Fibre) (e : FaultInfo) : Prop :=
  (g x).2 &&& c.launch.traps ≠ 0 ∧ (∀ y ∈ c.passing.takeWhile (fun y => y ≠ x), (g y).2 &&& c.launch.traps = 0) ∧
    e.cls = 12 ∧ e.fibre = x.index ∧ e.flags = (g x).2 ∧ e.pc = c.pc

/-- Where a filter's first member stands: what comes before it fails the test. -/
theorem before_filter_head {α : Type} [DecidableEq α] {p : α → Bool} {l t : List α} {x : α} (h : l.filter p = x :: t) :
    x ∈ l ∧ p x = true ∧ ∀ y ∈ l.takeWhile (fun y => y ≠ x), ¬ p y = true := by
  obtain ⟨before, after, rfl, hbefore, hx, -⟩ := List.filter_eq_cons_iff.mp h
  refine ⟨by simp, hx, fun y hy => hbefore y ?_⟩
  have hne : ∀ z ∈ before, decide (z ≠ x) = true := fun z hz => decide_eq_true fun hzx => hbefore z hz (hzx ▸ hx)
  rw [List.takeWhile_append_of_pos hne, List.takeWhile_cons_of_neg (by simp), List.append_nil] at hy
  exact hy

/-- Lanes that raise a trapped flag write nothing. -/
theorem State.lanewiseF_error {g : Fibre → Fibre × Flags} (h : ¬ NoTrap c g) :
    ∃ x ∈ c.passing, ∃ e, c.FlagFault g x e ∧ ∀ s : State, s.lanewiseF c g = .error e := by
  cases hbad : c.passing.filter (fun x => (g x).2 &&& c.launch.traps ≠ 0) with
  | nil => exact absurd (fun x hx => by simpa using List.filter_eq_nil_iff.mp hbad x hx) h
  | cons x t =>
    obtain ⟨hx, htrap, hbefore⟩ := before_filter_head hbad
    have hfault : c.FlagFault g x (c.fault 12 x.index c.wordHigh 0 (laneMask (x :: t)) 0 (g x).2) :=
      ⟨by simpa using htrap, fun y hy => by simpa using hbefore y hy, rfl, rfl, rfl, rfl⟩
    exact ⟨x, hx, _, hfault, fun s => by simp only [State.lanewiseF, hbad]⟩

/-- A floating instruction that issues and raises a trapped flag parks its workgroup. -/
theorem IssuesAs.floatsPark {op : Nat} {sh : Shape} {f : Fields} {s : State} {g : Ctx → Fibre → Fibre × Flags} (h : IssuesAs op sh f s c)
    (htrap : ¬ NoTrap c (g c)) : ∃ x ∈ c.passing, ∃ e, c.FlagFault (g c) x e ∧ runFloat op sh f s g = .next (s.parkBatch c e) := by
  obtain ⟨x, hx, e, he, herror⟩ := State.lanewiseF_error htrap
  exact ⟨x, hx, e, he, h.parks (herror _)⟩

/-- Settles O8: each of the forms runs lane by lane with flags, and parks by `IssuesAs.floatsPark`. -/
theorem trappedFlagWritesNoLane : Obligations.TrappedFlagWritesNoLane := by
  unfold Obligations.TrappedFlagWritesNoLane
  intro f s c i g hform hissue htrap
  have hparks : ∃ x ∈ c.passing, ∃ e, c.FlagFault g x e ∧ exec i s = .next (s.parkBatch c e) := by
    simp only [List.mem_cons, Prod.mk.injEq, List.not_mem_nil, or_false] at hform
    rcases hform with ⟨rfl, rfl⟩ | ⟨rfl, rfl⟩ | ⟨rfl, rfl⟩ | ⟨rfl, rfl⟩ | ⟨rfl, rfl⟩ | ⟨rfl, rfl⟩ | ⟨rfl, rfl⟩ | ⟨rfl, rfl⟩ |
      ⟨rfl, rfl⟩ | ⟨rfl, rfl⟩ | ⟨rfl, rfl⟩ | ⟨rfl, rfl⟩
    all_goals exact IssuesAs.floatsPark hissue htrap
  obtain ⟨x, hx, e, ⟨hflag, hlowest, hcls, hfibre, hflags, hpc⟩, hexec⟩ := hparks
  exact ⟨x, hx, e, hflag, hlowest, hcls, hfibre, hflags, hpc, hexec⟩

end Sys2Proof.Machine
end

section
/-! The floating instructions (R146 to R157): each completes with the value that its row's meaning writes, put over the fields of the word. -/

namespace Sys2Proof.Machine

/-! Fields of the word as numbers (R32, R149). -/

theorem Fields.modBits_eq (f : Fields) (lo n : Nat) : f.modBits lo n = f.mods.toNat / 2 ^ lo % 2 ^ n := bitsOf_eq ..

theorem Fields.modBits_zero (f : Fields) (n : Nat) : f.modBits 0 n = f.mods.toNat % 2 ^ n := rfl

/-! The operations of one element. -/

/-- R146, R147: one element's arithmetic in the mode of modifier bits [1:0]. -/
theorem arith_eq (k : Arith) (t : Fmt) (f : Fields) : arith k t f =
    let mode := Mode.ofBits f.mods.toNat
    let neg := fun (i : Nat) (v : XReal) => if f.mods.getLsbD i then v.neg else v
    fun a b d => match k with
      | .add => fAdd t mode (neg 2 (t.value a)) (neg 3 (t.value b))
      | .mul => fMul t mode (neg 2 (t.value a)) (neg 3 (t.value b))
      | .mac => fMac t mode (neg 2 (t.value a)) (neg 3 (t.value b)) (neg 4 (t.value d)) := by
  rw [← Fields.mode_eq]
  rfl

/-- R151: one element rounded to an integral value in the mode of modifier bits [1:0]. -/
theorem integralOf_eq (t : Fmt) (f : Fields) : integralOf t f = fun a _ _ => (fRound t (Mode.ofBits f.mods.toNat) a, 0) := by
  rw [← Fields.mode_eq]
  rfl

/-- R149: a condition on two elements, joined with the old predicate. -/
theorem combined_compareFp_eq (t : Fmt) (c : Ctx) (x : Fibre) (a b : Nat) : combined c x (compareFp t c.f a b) =
    combine (c.f.mods.toNat / 8 % 4) (fCompare t (c.f.mods.toNat % 8) (c.f.mods.getLsbD 5) a b) (x.pred (c.f.srcC.toNat % 16)) := by
  rw [combined, compareFp, Fields.modBits_zero, Fields.modBits_eq]
  rfl

/-! The obligation. -/

/-- Settles O7: each instruction by the value that its row's meaning writes, its operation by the lemma of one element. -/
theorem floatInstructionsComplete : Obligations.FloatInstructionsComplete := by
  unfold Obligations.FloatInstructionsComplete
  refine ⟨fun f s c => ⟨?fadd, ?faddF16x2, ?faddBf16x2, ?dadd, ?fmul, ?fmulF16x2, ?fmulBf16x2, ?dmul, ?fmac, ?fmacF16x2, ?fmacBf16x2, ?dmac,
    ?fmin, ?fminF16x2, ?fminBf16x2, ?fminF64, ?fmax, ?fmaxF16x2, ?fmaxBf16x2, ?fmaxF64, ?frnd, ?frndF16x2, ?frndBf16x2, ?frndF64⟩,
    fun f s c => ⟨?fcmp, ?fcmpF64, ?fcmpF16x2, ?fcmpBf16x2, ?fcls, ?fclsF64, ?fclsF16x2, ?fclsBf16x2, ?rcp, ?rcpF64, ?rsq, ?rsqF64,
      ?sqrt, ?sqrtF64, ?ex2, ?lg2, ?sin, ?cos, ?tanh, ?xpr⟩⟩
  case fadd | fmul | fmac => exact fun h => IssuesAs.floats h (funext fun x => by rw [fp32, arith_eq])
  case faddF16x2 | faddBf16x2 | fmulF16x2 | fmulBf16x2 | fmacF16x2 | fmacBf16x2 =>
    exact fun h => IssuesAs.floats h (funext fun x => by rw [fpPacked, arith_eq]; rfl)
  case dadd | dmul | dmac => exact fun h => IssuesAs.floats h (funext fun x => by rw [fp64, arith_eq])
  case fmin | fminF16x2 | fminBf16x2 | fminF64 | fmax | fmaxF16x2 | fmaxBf16x2 | fmaxF64 => exact fun h => IssuesAs.floats h rfl
  case frnd => exact fun h => IssuesAs.floats h (funext fun x => by rw [fp32, integralOf_eq])
  case frndF16x2 | frndBf16x2 => exact fun h => IssuesAs.floats h (funext fun x => by rw [fpPacked, integralOf_eq]; rfl)
  case frndF64 => exact fun h => IssuesAs.floats h (funext fun x => by rw [fp64, integralOf_eq])
  case fcmp | fcmpF64 => exact fun h => IssuesAs.lanes h (funext fun x => congrArg (x.setPred _) (combined_compareFp_eq ..))
  case fcmpF16x2 | fcmpBf16x2 =>
    exact fun h => IssuesAs.lanes h (funext fun x => by rw [comparePacked, combined_compareFp_eq, combined_compareFp_eq]; rfl)
  case fcls | fclsF64 | fclsF16x2 | fclsBf16x2 => exact fun h => IssuesAs.lanes h rfl
  case rcp | rsq | ex2 | lg2 | sin | cos | tanh | rsqF64 => exact fun h => IssuesAs.floats h rfl
  case rcpF64 | sqrtF64 => exact fun h => IssuesAs.floats h (funext fun x => by rw [fpUn64, Fields.mode_eq])
  case sqrt => exact fun h => IssuesAs.floats h (funext fun x => by rw [fpUn32, Fields.mode_eq])
  case xpr => exact fun h => IssuesAs.floats h (funext fun x => by rw [Fields.mode_eq])

end Sys2Proof.Machine
end

section
/-! The lane and Palette instructions (R163, R166, R168, R175): an arrival always answers a state, and `PLD` passes the checks of each lane's number, place
and words. -/

namespace Sys2Proof.Machine

section
variable {f : Fields} {s : State} {c : Ctx}

/-! Arrivals at a rendezvous (R163). -/

/-- A lane instruction that issues has its lanes arrive, reach by reach, and then the reaches that they lie in are looked at for a deadlock. -/
theorem IssuesAs.arrives {op : Nat} {sh : Shape} (kind : Nat) (h : IssuesAs op sh f s c) : runBatch op sh f s (arriveLanes kind) =
    .next (((reachesOf kind c).foldl (State.arriveReach kind c) (s.tainted c op f)).deadlocks c.wg.key c.hwarp (laneMask c.lanes)) :=
  h.next rfl

/-- Outside compat16 `PART` is checked by its word's row alone (R168). -/
theorem Shape.part_of_not_compat16 (hc : c.compat16 = false) : { Shape.part f with badOpcode := c.compat16 } = Shape.part f := by
  rw [hc]
  rfl

theorem part_completes (h : Issues (.part f) s c) (hc : c.compat16 = false) : exec (.part f) s =
    .next (((reachesOf 0xA0 c).foldl (State.arriveReach 0xA0 c) (s.entered c (.part f))).deadlocks c.wg.key c.hwarp (laneMask c.lanes)) := by
  obtain ⟨hbatch, hcheck⟩ := h
  rw [exec_part_eq_runWith]
  refine runWith_ok hbatch ?_ rfl
  rw [Shape.part_of_not_compat16 hc]
  exact hcheck

/-! Patterns from the scratchpad (R175). -/

/-- The pattern that a lane of `PLD` names. -/
def Ctx.patternNumber (c : Ctx) (x : Fibre) : Nat := (src32 c x c.f.srcA).toNat % 64

/-- The read of a lane's pattern. -/
def Ctx.patternLoad (c : Ctx) (x : Fibre) : Load :=
  { fibre := x.index, dst := .pattern (c.patternNumber x), place := .scratch c.core (c.wg.scratchBase + c.tableOff x) 1, width := 64 }

/-- `PLD` of patterns that the workgroup has and clean scratchpad bytes sends for them. -/
theorem pld_completes (h : Issues (.pld f) s c)
    (hpass : ∀ x ∈ c.passing, c.patternNumber x < c.kernel.palette / 64 ∧ c.tableOff x % 64 = 0 ∧ c.tableOff x < c.kernel.scratchBytes ∧
      ∀ i, i < 64 → (c.wg.scratchBase + c.tableOff x + i) / 4 ∉ (s.core c.core).scratchPoison) :
    exec (.pld f) s = .next (((s.entered c (.pld f)).sendTables c.core c.wg.key (c.passing.map c.patternLoad)).lanewise c id) := by
  change execPld f s = _
  refine IssuesAs.next (op := 0x0AB) (sh := .pld) h ?_
  dsimp only
  rw [Ctx.laneFault_none]
  · rfl
  · intro x hx
    obtain ⟨hnumber, halign, hin, hclean⟩ := hpass x hx
    rw [← State.core_tainted (c := c) 0x0AB f] at hclean
    rw [if_neg (by exact Nat.not_le.mpr hnumber), ← Ctx.tableOff, State.place_scratch _ _ hin halign]
    exact Option.map_eq_none_iff.mpr (State.scratchBad_none hclean)

end

/-- Settles O11: the arrivals by what `arriveLanes` answers, `PLD` by the checks of its lanes. -/
theorem laneAndPaletteInstructionsComplete : Obligations.LaneAndPaletteInstructionsComplete := by
  unfold Obligations.LaneAndPaletteInstructionsComplete
  exact ⟨fun f s c => ⟨part_completes, IssuesAs.arrives 0xA1, IssuesAs.arrives 0xA2, IssuesAs.arrives 0xA3, IssuesAs.arrives 0xA4, IssuesAs.arrives 0xA5,
    IssuesAs.arrives 0xA6, IssuesAs.arrives 0xA7, IssuesAs.arrives 0xA8, IssuesAs.arrives 0xA9, IssuesAs.arrives 0xAA⟩, fun f s c => pld_completes⟩

end Sys2Proof.Machine
end

section
/-! Canonical addresses (R184). -/

namespace Sys2Proof.Machine

/-- A byte whose bits are one is all zeros or all ones. -/
theorem byte_bits_alike {b : Nat} (h : b < 2 ^ 8) : (b = 0 ∨ b = 255) ↔ ∀ j < 8, b.testBit j = b.testBit 0 := by
  constructor
  · rintro (rfl | rfl) <;> decide
  · intro hall
    have hhigh : ∀ j, ¬ j < 8 → b.testBit j = false := fun j hj =>
      Nat.testBit_lt_two_pow (Nat.lt_of_lt_of_le h (Nat.pow_le_pow_right (by omega) (by omega)))
    have hones : 255 = 2 ^ 8 - 1 := rfl
    cases hlow : b.testBit 0 with
    | false =>
      refine .inl (Nat.eq_of_testBit_eq fun j => ?_)
      by_cases hj : j < 8
      · rw [hall j hj, hlow, Nat.zero_testBit]
      · rw [hhigh j hj, Nat.zero_testBit]
    | true =>
      refine .inr (Nat.eq_of_testBit_eq fun j => ?_)
      by_cases hj : j < 8
      · rw [hall j hj, hlow, hones, Nat.testBit_two_pow_sub_one, decide_eq_true hj]
      · rw [hhigh j hj, hones, Nat.testBit_two_pow_sub_one, decide_eq_false hj]

/-- R184: the byte above bit 55 of a canonical address is all zeros or all ones. -/
theorem canonical_iff {va : Nat} (h : va < 2 ^ 64) : canonical va = true ↔ ∀ i, 57 ≤ i → i < 64 → va.testBit i = va.testBit 56 := by
  have hbyte : va / 2 ^ 56 < 2 ^ 8 := Nat.div_lt_of_lt_mul (by omega)
  have hbit : ∀ j, (va / 2 ^ 56).testBit j = va.testBit (56 + j) := fun j => by rw [Nat.testBit_div_two_pow, Nat.add_comm]
  rw [canonical, Bool.or_eq_true, decide_eq_true_eq, decide_eq_true_eq, byte_bits_alike hbyte]
  simp only [hbit, Nat.add_zero]
  constructor
  · intro hall i hlo hhi
    rw [← Nat.add_sub_cancel' (show 56 ≤ i by omega)]
    exact hall (i - 56) (by omega)
  · intro hall j hj
    rcases Nat.eq_zero_or_pos j with rfl | hpos
    · rfl
    · exact hall (56 + j) (by omega) (by omega)

theorem State.translate_of_not_canonical (s : State) (space : Nat) {va : Nat} (h : canonical va = false) : s.translate space va = .error 6 := by
  simp [State.translate, h]

theorem State.place_of_not_canonical (s : State) (core : Nat) (w : Workgroup) (kernel : Kernel) (space width perms : Nat) {va : Nat}
    (h : canonical va = false) : s.place core w kernel 0 space va width perms = .error ⟨10, 6⟩ := by
  simp [State.place, h]

/-- Settles O44: the check of R184 comes before everything that tables, TLBs and memory decide. -/
theorem nonCanonicalAddressFaults : Obligations.NonCanonicalAddressFaults := by
  unfold Obligations.NonCanonicalAddressFaults
  exact fun s space va h => ⟨canonical_iff h, fun hc =>
    ⟨s.translate_of_not_canonical space hc, fun core w kernel width perms => s.place_of_not_canonical core w kernel space width perms hc⟩⟩

end Sys2Proof.Machine
end

section
/-! Loads and stores complete (R203 to R205, R238, R398): the order that R238 allows, the checks of the lanes, and the body of the access. -/

namespace Sys2Proof.Machine

section
variable {f : Fields} {s : State} {c : Ctx} {space : Nat} (op : Nat) (sh : Shape) (width : Fields → Nat)

/-- A load that may not release, whose lanes pass (R203, R204, R238). -/
theorem IssuesAs.load (htaint : taintsOp op f = false) (h : IssuesAs op sh f s c) (hord : ∀ o sc, c.ord = some (o, sc) → o < 2)
    (hpass : ∀ x ∈ c.passing, c.accessFault s space (width c.f) 1 x = none) :
    runLoad op space sh (width f) f s = .next (((s.loadLanes space (width c.f) c).ordAfter c).updLanes c Fibre.next) := by
  rw [h.fields] at hpass ⊢
  refine runWith_ok h.1 ?_ ?_
  · simpa only [badOrderLoad_false hord, Bool.or_false] using h.2
  · rw [State.tainted_id htaint, loadBody, Ctx.laneFault_none hpass]

/-- A store that may not acquire, whose lanes pass with data that is not poisoned (R203, R205, R238). -/
theorem IssuesAs.store (h : IssuesAs op sh f s c) (hord : ∀ o sc, c.ord = some (o, sc) → o % 2 = 0)
    (hpass : ∀ x ∈ c.passing, c.accessFault (s.tainted c op f) space (width c.f) 2 x = none)
    (hdata : ∀ sh', some sh = some sh' → ∀ x ∈ c.passing, sh'.b.poisoned c x c.f.srcB = false) :
    runStore op space sh (width f) f s =
      .next ((((s.tainted c op f).storeLanes space (width c.f) c c.passing ((s.tainted c op f).ordBefore c)).commits c
        (decide (space ≠ 1) && !c.passing.isEmpty)).updLanes c Fibre.next) := by
  rw [h.fields] at hpass ⊢
  refine runWith_ok h.1 ?_ ?_
  · simpa only [badOrderWrite_false hord, Bool.or_false] using h.2
  · rw [storeBody_ok hpass (hdata sh rfl), State.ordAfter_id hord]

end

/-- Settles O16: each access by its checks and its body. -/
theorem loadsAndStoresComplete : Obligations.LoadsAndStoresComplete := by
  unfold Obligations.LoadsAndStoresComplete
  exact ⟨fun f s c => ⟨IssuesAs.load 0x0B0 (.ld 1 f) widthOf rfl, IssuesAs.load 0x0B1 (.ld 2 f) widthOf rfl, IssuesAs.load 0x0B2 (.ld 0 f) widthOf rfl,
      IssuesAs.load 0x0B3 (.ldQ 1 f) quadWidth rfl, IssuesAs.load 0x0B4 (.ldQ 2 f) quadWidth rfl, IssuesAs.load 0x0B5 (.ldQ 0 f) quadWidth rfl⟩,
    fun f s c => ⟨IssuesAs.store 0x0B6 (.st 1 f) widthOf, IssuesAs.store 0x0B7 (.st 2 f) widthOf, IssuesAs.store 0x0B8 (.st 0 f) widthOf,
      IssuesAs.store 0x0B9 (.stQ 1 f) quadWidth, IssuesAs.store 0x0BA (.stQ 2 f) quadWidth, IssuesAs.store 0x0BB (.stQ 0 f) quadWidth⟩⟩

end Sys2Proof.Machine
end

section
/-! Prefetches, cache control, address queries, boundaries and `ORD` (R208 to R213, R226, R227, R229, R235 to R237, R246). -/

namespace Sys2Proof.Machine

section
variable {f : Fields} {s : State} {c : Ctx}

theorem State.releaseBy_eq (s : State) (k key : Nat) (lanes : List Fibre) (scope : Nat) (acq : Bool) : s.releaseBy k key lanes scope acq =
    if (s.release k scope).openStores ≠ [] then
      (s.release k scope).holdFor key lanes (s.release k scope).openStores (if acq then some scope else none)
    else if acq then (s.release k scope).acquire k scope else s.release k scope := by
  simp [State.releaseBy]

theorem State.acquireBy_eq (s : State) (k key : Nat) (lanes : List Fibre) (scope : Nat) : s.acquireBy k key lanes scope =
    if s.openAtomics key lanes = [] then s.acquire k scope else s.holdFor key lanes (s.openAtomics key lanes) (some scope) := by
  simp [State.acquireBy]

theorem State.holdStores_eq (s : State) (c : Ctx) :
    s.holdStores c = if s.openStores = [] then s else s.holdFor c.wg.key c.lanes s.openStores none := by
  simp [State.holdStores]

/-- A prefetch or cache control acts lane by lane (R208 to R211). -/
theorem IssuesAs.each (op : Nat) (sh : Shape) (g : Ctx → State → Fibre → State) (h : IssuesAs op sh f s c) :
    runBatch op sh f s (fun c t => .ok ((c.passing.foldl (g c) t).updLanes c Fibre.next)) =
      .next ((c.passing.foldl (g c) (s.tainted c op f)).updLanes c Fibre.next) :=
  h.next rfl

/-- The dirty words of the L1 lines of a lane's range sent home (R209). -/
def State.writeBackRange (c : Ctx) (u : State) (x : Fibre) : State :=
  ((u.core c.core).l1.filter (fun l => inRange (c.rangeLines u x) l.line)).foldl (fun v l => v.flushLine c.core l.line (BitVec.allOnes 128) false) u

/-- The L1 lines of a lane's range evicted, and by modifier bit 0 the RDC's copies dropped (R209). -/
def State.evictRange (c : Ctx) (u : State) (x : Fibre) : State :=
  let v := ((u.core c.core).l1.filter (fun l => inRange (c.rangeLines u x) l.line)).foldl (fun v l => v.l1Evict c.core l.line) u
  if c.f.mod 0 then v.rdcDrop (dieOf c.core) (c.rangeLines u x) else v

/-- R212, R213: a query of scratchpad addresses notes no translation. -/
theorem aqry_scratch (h : Issues (.aqry f) s c) (hs : c.f.mod 0 = true) : exec (.aqry f) s = .next (s.lanewise c (fun x => x.set32 c.f.dst
    (if addrOf 1 c x < c.kernel.scratchBytes then BitVec.ofNat 32 (c.core % 48 * 2 ^ 18 + c.wg.scratchBase + addrOf 1 c x) else 0xFFFFFFFF))) := by
  change execAqry f s = _
  refine IssuesAs.next (op := 0x0C2) (sh := .aqry f) h ?_
  simp only [hs, if_true]
  rfl

theorem aqry_global (h : Issues (.aqry f) s c) (hg : c.f.mod 0 = false) : exec (.aqry f) s = .next ((c.passing.foldl (fun u x => u.noteLane 0 c x) s).lanewise c
    (fun x => x.set32 c.f.dst (aqryWord s c.launch.space (addrOf 0 c x)))) := by
  change execAqry f s = _
  refine IssuesAs.next (op := 0x0C2) (sh := .aqry f) h ?_
  simp only [hg, Bool.false_eq_true, if_false]
  rfl

theorem pte_bit (e : DWord) (n : Nat) : pte e n 1 = 1 ↔ e.getLsbD n = true := by
  rw [pte, bitsOf_eq, pow_one, BitVec.getLsbD, Nat.testBit_eq_decide_div_mod_eq, decide_eq_true_eq]

/-- What `AQRY.H` answers for a translation (R213). -/
def aqryHWord : Except Nat (Nat × DWord) → DWord
  | .ok (pa, leaf) => if leaf.getLsbD 2 then BitVec.ofNat 64 pa else BitVec.allOnes 64
  | .error _ => BitVec.allOnes 64

theorem aqryH_completes (h : Issues (.aqryH f) s c) : exec (.aqryH f) s = .next ((c.passing.foldl (fun u x => u.noteLane 0 c x) s).lanewise c
    (fun x => x.set64 c.f.dst (aqryHWord (s.translate c.launch.space (addrOf 0 c x))))) := by
  change execAqryH f s = _
  refine IssuesAs.next (op := 0x0C3) (sh := .aqryH) h ?_
  simp only [pte_bit]
  rfl

/-- A boundary that issues takes its effect, or delivers the fault held for its home warp (R246, R501). -/
theorem IssuesAs.boundary (op : Nat) (sh : Shape) (g : Ctx → State → State) {g' : State → State} (hg : g c = g') :
    (IssuesAs op sh f s c → c.heldFault = none →
      runBatch op sh f s (fun c t => Machine.boundary c t (g c)) = .next ((g' (s.tainted c op f)).updLanes c Fibre.next)) ∧
    (∀ d, IssuesAs op sh f s c → c.heldFault = some d →
      runBatch op sh f s (fun c t => Machine.boundary c t (g c)) = .next ((s.tainted c op f).deliver c.wg.key d)) := by
  subst hg
  exact ⟨fun h hnone => h.next (boundary_none hnone), fun d h hsome => h.next (boundary_some hsome)⟩

end

/-- The release half of a boundary at the scope of its word, with the acquire to follow or not (R226, R229). -/
def Ctx.releases (acq : Bool) (c : Ctx) (u : State) : State := u.releaseBy c.core c.wg.key c.lanes (c.f.modBits 0 3) acq

/-- The acquire at the scope of its word (R227). -/
def Ctx.acquiresAt (c : Ctx) (u : State) : State := u.acquireBy c.core c.wg.key c.lanes (c.f.modBits 0 3)

theorem Workgroup.fence_eq (w : Workgroup) (issuer : Nat) (acks : List Nat) : w.fence issuer acks = { w with
    fenceEpoch := Sparse.set 0 w.fenceEpoch issuer (Sparse.get 0 w.fenceEpoch issuer + 1)
    fenceAcks := if acks = [] then w.fenceAcks else w.fenceAcks ++ [(issuer, Sparse.get 0 w.fenceEpoch issuer + 1, acks)] } := by
  simp [Workgroup.fence]

theorem fenceE_completes (h : Issues (.fenceE f) s c) : exec (.fenceE f) s = .next (((s.release c.core (c.f.modBits 0 3)).updWg c.wg.key (fun w =>
    w.fence (issuerOf c.compat16 (lowestFibre c.lanes)) (s.release c.core (c.f.modBits 0 3)).openStores)).updLanes c Fibre.next) := by
  change execFenceE f s = _
  exact IssuesAs.next (op := 0x0D4) (sh := .phase f) h rfl

theorem ord_completes {i : Issue} (hissue : s.issue = some i) (h : Issues (.ord f) s c) : exec (.ord f) s = .next (State.updLanes { s with
    issue := some { core := i.core, slot := i.slot, ord := some (c.f.mods.toNat % 4, c.f.mods.toNat / 4 % 8) } } c Fibre.next) := by
  change execOrd f s = _
  refine IssuesAs.next (op := 0x0D5) (sh := .ord f) h ?_
  rw [State.tainted_id (show taintsOp 0x0D5 f = false from rfl), hissue]
  rw [show c.f.mods.toNat / 4 % 8 = c.f.modBits 2 3 from (Fields.modBits_eq c.f 2 3).symm]
  rfl

/-- Settles O19: what acts lane by lane by its row; a boundary, a fence and `ORD` by what they do to the state. -/
theorem cacheControlAndBoundariesComplete : Obligations.CacheControlAndBoundariesComplete := by
  unfold Obligations.CacheControlAndBoundariesComplete
  refine ⟨fun f s c => ⟨IssuesAs.each 0x0BC (.prf f) State.prefetchL1, IssuesAs.each 0x0BD (.prf f) State.prefetchL2,
      IssuesAs.each 0x0BE (.cctl true) State.invalidateRange, IssuesAs.each 0x0C1 .cctlPri State.prioritise,
      IssuesAs.each 0x0BF (.cctl false) State.writeBackRange, IssuesAs.each 0x0C0 (.cctl true) State.evictRange, aqry_scratch, aqry_global,
      aqryH_completes⟩,
    fun f s c => ⟨?rel, ?acq, ?ar, ?fence, ?fenceE, fun i => ord_completes⟩⟩
  case rel => exact IssuesAs.boundary 0x0D0 (.phase f) (Ctx.releases false) (funext fun u => State.releaseBy_eq ..)
  case ar => exact IssuesAs.boundary 0x0D2 (.phase f) (Ctx.releases true) (funext fun u => State.releaseBy_eq ..)
  case acq => exact IssuesAs.boundary 0x0D1 (.phase f) Ctx.acquiresAt (funext fun u => State.acquireBy_eq ..)
  case fenceE =>
    intro h
    rw [fenceE_completes h]
    simp only [Workgroup.fence_eq]
    rfl
  case fence => exact IssuesAs.boundary 0x0D3 (.fence f) (fun c u => u.holdStores c) (funext fun u => State.holdStores_eq ..)

end Sys2Proof.Machine
end

section
/-! Atomics complete (R241 to R246): the words that old values are returned in, and what the body of an atomic answers when its lanes pass. -/

namespace Sys2Proof.Machine

/-! The words of a number (R3). -/

theorem bytesOf_take {n k : Nat} (x : Nat) (h : k ≤ n) : (bytesOf n x).take k = bytesOf k x := by
  induction k generalizing n x with
  | zero => rfl
  | succ k ih =>
    obtain ⟨m, rfl⟩ : ∃ m, n = m + 1 := ⟨n - 1, by omega⟩
    rw [bytesOf, List.take_succ_cons, ih _ (by omega), bytesOf]

theorem bytesOf_drop {n k : Nat} (x : Nat) (h : k ≤ n) : (bytesOf n x).drop k = bytesOf (n - k) (x / 256 ^ k) := by
  induction k generalizing n x with
  | zero => simp
  | succ k ih =>
    obtain ⟨m, rfl⟩ : ∃ m, n = m + 1 := ⟨n - 1, by omega⟩
    rw [bytesOf, List.drop_succ_cons, ih _ (by omega), Nat.div_div_eq_div_mul, ← Nat.pow_succ', Nat.add_sub_add_right]

theorem wordsOf_bytesOf {n m : Nat} (x : Nat) (h : 4 * m ≤ n) :
    wordsOf m (bytesOf n x) = (List.range m).map (fun k => BitVec.ofNat 32 (x / 2 ^ (32 * k) % 2 ^ 32)) := by
  refine List.map_congr_left fun k hk => ?_
  have hlt : k < m := List.mem_range.mp hk
  rw [bytesOf_drop x (by omega), bytesOf_take _ (by omega), ofBytes_bytesOf, show 256 = 2 ^ 8 from rfl, ← Nat.pow_mul, ← Nat.pow_mul, ← Nat.mul_assoc]

theorem zipIdx_map_range {α : Type} (m : Nat) (g : Nat → α) : ((List.range m).map g).zipIdx = (List.range m).map (fun k => (g k, k)) :=
  List.ext_getElem (by simp) (fun k _ _ => by simp)

section
variable {f : Fields} {s : State} {c : Ctx}

/-- What an atomic's old values write, word by word (R241). -/
def Ctx.oldWrites (c : Ctx) (width : Nat) (olds : List (Fibre × Nat × Bool)) : List (Nat × Nat × Word × Bool) :=
  if c.f.dst.toNat ≥ 240 then [] else olds.flatMap (fun e =>
    (List.range (width / 4)).map (fun k => (e.1.index, c.f.dst.toNat + k, BitVec.ofNat 32 (e.2.1 / 2 ^ (32 * k) % 2 ^ 32), e.2.2)))

/-- Results written at once where the order acquires, else put on their way (R240). -/
def State.giveResults (s : State) (c : Ctx) (ws : List (Nat × Nat × Word × Bool)) : State :=
  if c.acquires then s.updWg c.wg.key (fun w => { w with fibres := w.fibres.map ({ wg := c.wg.key, writes := ws } : Pending).into }) else s.sendResults c ws

/-- The end of an atomic: its acquire, the commit of its workgroup, and the next PC. -/
def State.atomDone (s : State) (c : Ctx) : State :=
  ((s.ordAfter c).commits c (decide (c.f.modBits 0 2 ≠ 1) && !c.passing.isEmpty)).updLanes c Fibre.next

/-- The requests of an atomic, address by address. -/
def Ctx.atomRequests (c : Ctx) (o : AtomOp) (returns : Bool) (s : State) : State × List (Fibre × Nat × Bool) :=
  s.atomGroups o (c.f.modBits 0 2) returns c (c.passing.map (addrOf (c.f.modBits 0 2) c)).eraseDups (s.ordBefore c) []

theorem oldWrites_eq (c : Ctx) (width : Nat) (olds : List (Fibre × Nat × Bool)) : c.oldWrites width olds = if c.f.dst.toNat ≥ 240 then [] else
    olds.flatMap (fun e => (wordsOf (width / 4) (bytesOf width e.2.1)).zipIdx.map (fun w => (e.1.index, c.f.dst.toNat + w.2, w.1, e.2.2))) := by
  have hwords : ∀ x, wordsOf (width / 4) (bytesOf width x) = _ := fun x => wordsOf_bytesOf x (Nat.mul_div_le width 4)
  simp only [Ctx.oldWrites, hwords, zipIdx_map_range, List.map_map]
  rfl

/-- What the body of an atomic answers when its lanes pass. -/
theorem atomBody_ok {o : AtomOp} {sh : Shape} {returns : Bool} (hpass : ∀ x ∈ c.passing, c.accessFault s (c.f.modBits 0 2) o.width 3 x = none)
    (hdata : ∀ x ∈ c.passing, sh.b.poisoned c x c.f.srcB = false ∧ sh.c.poisoned c x c.f.srcC = false) : atomBody o sh returns c s =
      .ok (((c.atomRequests o returns s).1.giveResults c (if returns then c.oldWrites o.width (c.atomRequests o returns s).2 else [])).atomDone c) := by
  have hcheck : c.laneFault (atomCheck o sh c s) = none := Ctx.laneFault_none fun x hx => by
    simp [atomCheck, hpass x hx, hdata x hx]
  cases returns with
  | true =>
    simp only [atomBody, hcheck, oldWrites_eq, Bool.not_true, Bool.false_or, decide_eq_true_eq, if_true]
    rfl
  | false => simp only [atomBody, hcheck]; rfl

/-- The checks of an atomic's lanes (R203, R242). -/
def AtomOp.passes (o : AtomOp) (sh : Shape) (c : Ctx) (t : State) : Prop :=
  (∀ x ∈ c.passing, c.accessFault t (c.f.modBits 0 2) o.width 3 x = none) ∧
    ∀ sh', some sh = some sh' → ∀ x ∈ c.passing, sh'.b.poisoned c x c.f.srcB = false ∧ sh'.c.poisoned c x c.f.srcC = false

/-- An atomic whose lanes pass returns the old values of its requests (R241, R242). -/
theorem IssuesAs.atom (op : Nat) (o : AtomOp) (sh : Shape) (h : IssuesAs op sh f s c ∧ o.passes sh c (s.tainted c op f)) :
    ∃ u olds, c.atomRequests o true (s.tainted c op f) = (u, olds) ∧
      runAtom op o sh f s = .next ((u.giveResults c (c.oldWrites o.width olds)).atomDone c) :=
  ⟨_, _, rfl, h.1.next (atomBody_ok h.2.1 (h.2.2 sh rfl))⟩

/-- A reduction that may not acquire returns nothing (R238, R241). -/
theorem IssuesAs.red (op : Nat) (o : AtomOp) (sh : Shape) (h : IssuesAs op sh f s c ∧ o.passes sh c (s.tainted c op f))
    (hord : ∀ q sc, c.ord = some (q, sc) → q % 2 = 0) :
    runRed op o sh f s = .next ((c.atomRequests o false (s.tainted c op f)).1.atomDone c) := by
  obtain ⟨⟨hc, hk⟩, hpass, hdata⟩ := h
  have hacq : c.acquires = false := by
    unfold Ctx.acquires
    split
    next q sc hq => simp [hord q sc hq]
    next => rfl
  refine runWith_ok hc ?_ ((atomBody_ok hpass (hdata sh rfl)).trans ?_)
  · simpa only [badOrderWrite_false hord, Bool.or_false] using hk
  · rw [State.giveResults, hacq]
    rfl

end

/-- Settles O20: each atomic by its checks and its requests. -/
theorem atomicsComplete : Obligations.AtomicsComplete := by
  unfold Obligations.AtomicsComplete
  exact fun f s c => ⟨IssuesAs.atom 0x0D6 .add32 (.atom f .v .v false), IssuesAs.atom 0x0D7 .add64 (.atom f .pair .pair false),
    IssuesAs.atom 0x0D8 .addF32 (.atom f .v .v false), IssuesAs.atom 0x0D9 .addBf16x2 (.atom f .v .v false),
    IssuesAs.atom 0x0DA .minS (.atom f .v .v false), IssuesAs.atom 0x0DB .minU (.atom f .v .v false),
    IssuesAs.atom 0x0DC .maxS (.atom f .v .v false), IssuesAs.atom 0x0DD .maxU (.atom f .v .v false),
    IssuesAs.atom 0x0DE .and (.atom f .v .v false), IssuesAs.atom 0x0DF .or (.atom f .v .v false),
    IssuesAs.atom 0x0E0 .xor (.atom f .v .v false), IssuesAs.atom 0x0E1 (.exch 4) (.atom f .v .v false),
    IssuesAs.atom 0x0E2 (.exch 8) (.atom f .pair .pair false), IssuesAs.atom 0x0E3 (.cas 4) (.atom f .v .v true),
    IssuesAs.atom 0x0E4 (.cas 8) (.atom f .pair .pair true), IssuesAs.atom 0x0E5 .inc (.atom f .v .v false),
    IssuesAs.red 0x0E6 .add32 (.atom f .no .v false), IssuesAs.red 0x0E7 .add64 (.atom f .no .pair false),
    IssuesAs.red 0x0E8 .addF32 (.atom f .no .v false), IssuesAs.red 0x0E9 .addBf16x2 (.atom f .no .v false),
    IssuesAs.red 0x0EA .minS (.atom f .no .v false), IssuesAs.red 0x0EB .minU (.atom f .no .v false),
    IssuesAs.red 0x0EC .maxS (.atom f .no .v false), IssuesAs.red 0x0ED .maxU (.atom f .no .v false),
    IssuesAs.red 0x0EE .and (.atom f .no .v false), IssuesAs.red 0x0EF .or (.atom f .no .v false),
    IssuesAs.red 0x0F0 .xor (.atom f .no .v false), IssuesAs.red 0x0F1 .inc (.atom f .no .v false)⟩

end Sys2Proof.Machine
end

section
/-! What accesses leave of registers, scratchpads and memory (R185, R203 to R205, R226, R240 to R242): the frame of each operation of the caches, of the
loads that an access performs first, and of the requests of an atomic. -/

namespace Sys2Proof.Machine

/-! The relation. -/

/-- No line of a core's L1 holds the byte at an address dirty. -/
def Core.cleanAt (q : Core) (a : Nat) : Prop := ∀ l ∈ q.l1, l.line = a / 128 → l.dirty.getLsbD (a % 128) = false

/-- What the fibres of a workgroup hold in registers and predicates. -/
def Workgroup.registers (w : Workgroup) : Nat × List (Nat × Sparse Word × BitVec 16) := (w.key, w.fibres.map (fun x => (x.index, x.regs, x.preds)))

theorem Workgroup.registers_eq {v w : Workgroup} {g : Fibre → Fibre} (hkey : v.key = w.key) (hfibres : v.fibres = w.fibres.map g)
    (hg : ∀ x, (g x).index = x.index ∧ (g x).regs = x.regs ∧ (g x).preds = x.preds) : v.registers = w.registers := by
  simp only [Workgroup.registers, hkey, hfibres, List.map_map]
  refine congrArg (Prod.mk w.key) (List.map_congr_left fun x _ => ?_)
  obtain ⟨hindex, hregs, hpreds⟩ := hg x
  simp only [Function.comp_apply, hindex, hregs, hpreds]

def State.registers (s : State) : List (Nat × List (Nat × Sparse Word × BitVec 16)) := s.wgs.map Workgroup.registers

/-- `s` has the registers and scratchpads of `u` and, of the bytes of `A`, the memory, and core `k`'s L1 holds none of these bytes dirty. -/
structure State.Untouched (k : Nat) (A : Nat → Prop) (u s : State) : Prop where
  registers : s.registers = u.registers
  scratch : ∀ j, (s.core j).scratch = (u.core j).scratch
  clean : ∀ a, A a → (s.core k).cleanAt a
  mem : ∀ a, A a → Sparse.get 0 s.mem a = Sparse.get 0 u.mem a

/-- What is neither the cores, the workgroups nor the memory may change. -/
def State.machine (s : State) : Sparse Core × List Workgroup × Bytes := (s.cores, s.wgs, s.mem)

theorem State.machine_eq {s t : State} (h : t.machine = s.machine) : t.registers = s.registers ∧ t.mem = s.mem ∧ ∀ j, t.core j = s.core j := by
  obtain ⟨hcores, hwgs, hmem⟩ : t.cores = s.cores ∧ t.wgs = s.wgs ∧ t.mem = s.mem := by simpa [State.machine] using h
  exact ⟨by rw [State.registers, hwgs, State.registers], hmem, fun j => by rw [State.core, hcores, State.core]⟩

namespace State.Untouched

variable {k : Nat} {A : Nat → Prop} {u s t : State}

theorem refl (h : ∀ a, A a → (s.core k).cleanAt a) : Untouched k A s s := ⟨rfl, fun _ => rfl, h, fun _ _ => rfl⟩

theorem of_machine (h : Untouched k A u s) (ht : t.machine = s.machine) : Untouched k A u t := by
  obtain ⟨hregisters, hmem, hcore⟩ := State.machine_eq ht
  exact ⟨hregisters.trans h.registers, fun j => by rw [hcore]; exact h.scratch j, fun a ha => by rw [hcore]; exact h.clean a ha,
    fun a ha => by rw [hmem]; exact h.mem a ha⟩

theorem ite {p : Prop} [Decidable p] (hs : Untouched k A u s) (ht : Untouched k A u t) : Untouched k A u (if p then s else t) := by
  split
  · exact hs
  · exact ht

theorem foldl {α : Type} {g : State → α → State} {l : List α} (hg : ∀ s, ∀ x ∈ l, Untouched k A u s → Untouched k A u (g s x)) (h : Untouched k A u s) :
    Untouched k A u (l.foldl g s) := by
  induction l generalizing s with
  | nil => exact h
  | cons x l ih => exact ih (fun s y hy => hg s y (List.mem_cons_of_mem _ hy)) (hg s x List.mem_cons_self h)

theorem updWg (h : Untouched k A u s) (key : Nat) {g : Workgroup → Workgroup} (hg : ∀ w, (g w).registers = w.registers) : Untouched k A u (s.updWg key g) := by
  refine ⟨Eq.trans ?_ h.registers, h.scratch, h.clean, h.mem⟩
  simp only [State.registers, State.updWg, List.map_map]
  refine List.map_congr_left fun w _ => ?_
  simp only [Function.comp_apply]
  split
  · exact hg w
  · rfl

theorem updCore (h : Untouched k A u s) (j : Nat) {g : Core → Core} (hscratch : (g (s.core j)).scratch = (s.core j).scratch)
    (hclean : ∀ a, A a → (s.core j).cleanAt a → (g (s.core j)).cleanAt a) : Untouched k A u (s.updCore j g) := by
  refine ⟨h.registers, fun i => ?_, fun a ha => ?_, h.mem⟩
  · rw [State.core_updCore]
    split
    next hi => subst hi; exact hscratch.trans (h.scratch i)
    next => exact h.scratch i
  · rw [State.core_updCore]
    split
    next hi => subst hi; exact hclean a ha (h.clean a ha)
    next => exact h.clean a ha

end State.Untouched

/-! Dirty bytes of lines. -/

theorem Core.cleanAt_map {q : Core} {a : Nat} (h : q.cleanAt a) {g : L1Line → L1Line}
    (hg : ∀ l ∈ q.l1, (g l).line = l.line ∧ (l.line = a / 128 → l.dirty.getLsbD (a % 128) = false → (g l).dirty.getLsbD (a % 128) = false)) :
    Core.cleanAt { q with l1 := q.l1.map g } a := by
  intro l' hl' hline
  obtain ⟨l, hl, rfl⟩ := List.mem_map.mp hl'
  obtain ⟨hsame, hdirty⟩ := hg l hl
  exact hdirty (hsame ▸ hline) (h l hl (hsame ▸ hline))

theorem Core.cleanAt_of_subset {q r : Core} {a : Nat} (h : q.cleanAt a) (hsub : ∀ l ∈ r.l1, l ∈ q.l1) : r.cleanAt a := fun l hl => h l (hsub l hl)

/-- R226: what a flush sends home of a line is what it holds dirty. -/
theorem L1Line.mem_dirtyCells {l : L1Line} {mask : BitVec 128} {e : Nat × Byte} (h : e ∈ l.dirtyCells mask) :
    l.line = e.1 / 128 ∧ l.dirty.getLsbD (e.1 % 128) = true := by
  obtain ⟨i, hi, rfl⟩ := List.mem_map.mp h
  obtain ⟨hlt, hbit⟩ := List.mem_filter.mp hi
  rw [List.mem_range] at hlt
  rw [BitVec.getLsbD_and, Bool.and_eq_true] at hbit
  dsimp only
  rw [show (l.line * 128 + i) / 128 = l.line by omega, show (l.line * 128 + i) % 128 = i by omega]
  exact ⟨rfl, hbit.1⟩

theorem lineMask_getLsbD {pa n i : Nat} (h : (lineMask pa n).getLsbD i = true) : pa % 128 ≤ i ∧ i < pa % 128 + n := by
  have hbit : ((2 ^ n - 1) * 2 ^ (pa % 128)).testBit i = true := by
    simpa [lineMask, setBits, BitVec.getLsbD_ofNat] using And.right (by simpa [lineMask, setBits, BitVec.getLsbD_ofNat] using h)
  rw [Nat.testBit_mul_two_pow, Nat.testBit_two_pow_sub_one, Bool.and_eq_true, decide_eq_true_eq, decide_eq_true_eq] at hbit
  omega

theorem Fibre.spinLoad_regs (x : Fibre) (l : WatchLine) (ws : List Word) : (x.spinLoad l ws).regs = x.regs := by
  simp only [Fibre.spinLoad]
  rw [apply_ite Fibre.regs, ite_self]

theorem Fibre.spinLoad_preds (x : Fibre) (l : WatchLine) (ws : List Word) : (x.spinLoad l ws).preds = x.preds := by
  simp only [Fibre.spinLoad]
  rw [apply_ite Fibre.preds, ite_self]

namespace State.Untouched

variable {k : Nat} {A : Nat → Prop} {u s : State}

/-! Writes at the home. -/

theorem l1Upd (h : Untouched k A u s) (j line : Nat) {g : L1Line → L1Line} (hg : ∀ l, (g l).line = l.line ∧
    ∀ a, A a → l.line = a / 128 → l.line = line → l.dirty.getLsbD (a % 128) = false → (g l).dirty.getLsbD (a % 128) = false) :
    Untouched k A u (s.l1Upd j line g) := by
  refine h.updCore j (g := fun c => { c with l1 := c.l1.map (fun l => if l.line = line then g l else l) }) rfl fun a ha hc => Core.cleanAt_map hc fun l _ => ?_
  split
  next heq => exact ⟨(hg l).1, fun hline hbit => (hg l).2 a ha hline heq hbit⟩
  next => exact ⟨rfl, fun _ hbit => hbit⟩

/-- An update of a line that changes nothing of what is dirty. -/
theorem l1Upd_dirty (h : Untouched k A u s) (j line : Nat) {g : L1Line → L1Line} (hg : ∀ l, (g l).line = l.line ∧ (g l).dirty = l.dirty) :
    Untouched k A u (s.l1Upd j line g) :=
  h.l1Upd j line fun l => ⟨(hg l).1, fun _ _ _ _ hbit => by rw [(hg l).2]; exact hbit⟩

theorem l2Touch (h : Untouched k A u s) (line hint prio : Nat) : Untouched k A u (s.l2Touch line hint prio) := by
  refine h.of_machine ?_
  unfold State.l2Touch
  (repeat' split) <;> rfl

theorem rdcRefresh (h : Untouched k A u s) (die line : Nat) (alloc : Bool) (mask : BitVec 128) (hint prio : Nat) :
    Untouched k A u (s.rdcRefresh die line alloc mask hint prio) := by
  refine h.of_machine ?_
  unfold State.rdcRefresh
  (repeat' split) <;> rfl

theorem holdHost (h : Untouched k A u s) (cells : List (Nat × Byte)) (prio : Nat) : Untouched k A u (s.holdHost cells prio) := by
  refine foldl (fun t n _ ht => ?_) h
  dsimp only
  split
  · exact ht.l2Touch n 0 prio
  · exact (ht.l2Touch n 0 prio).of_machine rfl

theorem revoke (h : Untouched k A u s) (j word : Nat) : Untouched k A u (s.revoke j word) :=
  h.l1Upd_dirty j (word / 32) (g := fun l => { l with owned := clearBits 32 l.owned (word % 32) 1 }) fun _ => ⟨rfl, rfl⟩

theorem ownWord (h : Untouched k A u s) (who : Writer) (word : Nat) : Untouched k A u (s.ownWord who word) := by
  unfold State.ownWord
  dsimp only
  exact of_machine (ite (h.revoke (Sparse.get 0 s.owners word - 1) word) h) rfl

theorem fire (h : Untouched k A u s) (only : Option Nat) (l : WatchLine) : Untouched k A u (s.fire only l) := by
  refine ⟨Eq.trans ?_ h.registers, h.scratch, h.clean, h.mem⟩
  have hfire : ∀ w : Workgroup, (w.fire s.tide.toNat l).registers = w.registers := fun w => by
    simp only [Workgroup.fire, Workgroup.wake, Workgroup.registers, List.map_map]
    refine congrArg (Prod.mk w.key) (List.map_congr_left fun x _ => ?_)
    simp only [Function.comp_apply]
    (repeat' split) <;> rfl
  simp only [State.registers, State.fire, List.map_map]
  refine List.map_congr_left fun w _ => ?_
  simp only [Function.comp_apply]
  cases only with
  | none =>
    dsimp only
    split
    · rfl
    · exact hfire w
  | some j =>
    dsimp only
    split
    · exact hfire w
    · rfl

theorem noteLines (h : Untouched k A u s) (cells : List (Nat × Byte)) : Untouched k A u (s.noteLines cells) := by
  refine h.of_machine ?_
  unfold State.noteLines
  split <;> rfl

theorem sendRequest (h : Untouched k A u s) (kind : RequestKind) (line channel : Nat) (f : Nat → Flit) : Untouched k A u (s.sendRequest kind line channel f) :=
  h.of_machine rfl

theorem sendStores (h : Untouched k A u s) (comp : Nat) (cells : List (Nat × Byte)) (bad : Bool) : Untouched k A u (s.sendStores comp cells bad) := by
  exact foldl (fun t n _ ht => ht.sendRequest ..) h

theorem setMem (h : Untouched k A u s) {m : Bytes} (hm : ∀ a, A a → Sparse.get 0 m a = Sparse.get 0 s.mem a) : Untouched k A u { s with mem := m } :=
  ⟨h.registers, h.scratch, h.clean, fun a ha => (hm a ha).trans (h.mem a ha)⟩

/-- A write at the home of cells outside `A`. -/
theorem homeWrite (h : Untouched k A u s) (who : Writer) (comp : Nat) {cells : List (Nat × Byte)} (bad : Bool) (p : Nat) (hcells : ∀ e ∈ cells, ¬ A e.1) :
    Untouched k A u (s.homeWrite who comp cells bad p) := by
  have howned : Untouched k A u ((wordsIn cells).foldl (fun t w => t.ownWord who w) (s.holdHost cells p)) :=
    foldl (fun t w _ ht => ht.ownWord who w) (h.holdHost cells p)
  have hbytes : ∀ a, A a → ∀ m : Bytes, Sparse.get 0 (cells.foldl (fun m e => Sparse.set 0 m e.1 e.2) m) a = Sparse.get 0 m a :=
    fun a ha m => get_cells_ne cells m a fun e he heq => hcells e he (heq ▸ ha)
  have hwritten := howned.setMem fun a ha => hbytes a ha _
  simp only [State.homeWrite]
  refine sendStores (noteLines (foldl (fun t l _ ht => ht.fire none _) (hwritten.of_machine ?_)) _) ..
  cases who <;> rfl

/-! The L1. -/

theorem l1Complete (h : Untouched k A u s) (j line : Nat) (mask : BitVec 128) : Untouched k A u (s.l1Complete j line mask) := by
  unfold State.l1Complete
  split
  · exact h
  · split
    · exact h
    · exact rdcRefresh (h.l1Upd_dirty j line (g := fun l => l.fill ..) fun _ => ⟨rfl, rfl⟩) ..

/-- What goes home of a line is dirty in it, so none of `A`'s bytes. -/
theorem flushLine (h : Untouched k A u s) (line : Nat) (mask : BitVec 128) (record : Bool) : Untouched k A u (s.flushLine k line mask record) := by
  unfold State.flushLine
  split
  · exact h
  next l hl =>
    have hcells : ∀ e ∈ l.dirtyCells mask, ¬ A e.1 := fun e he ha => by
      obtain ⟨hline, hbit⟩ := L1Line.mem_dirtyCells he
      exact Bool.false_ne_true ((h.clean _ ha l (List.mem_of_find?_eq_some hl) hline).symm.trans hbit)
    split
    · exact h
    · have hcleaned : Untouched k A u (s.l1Upd k line (fun x => x.cleaned mask record)) :=
        h.l1Upd k line fun x => ⟨rfl, fun a _ _ _ hbit => by simp [L1Line.cleaned, hbit]⟩
      exact ((hcleaned.homeWrite _ _ _ _ fun e he => hcells e (List.mem_of_mem_filter he)).homeWrite _ _ _ _ fun e he =>
        hcells e (List.mem_of_mem_filter he)).l1Complete ..

theorem release (h : Untouched k A u s) (scope : Nat) : Untouched k A u (s.release k scope) := by
  unfold State.release
  split
  · exact h
  · exact foldl (fun t l _ ht => ht.flushLine ..) h

theorem l1Evict (h : Untouched k A u s) (line : Nat) : Untouched k A u (s.l1Evict k line) := by
  unfold State.l1Evict
  dsimp only
  refine updCore (foldl (fun t w _ ht => ?_) (h.flushLine ..)) k rfl fun a _ hc => Core.cleanAt_of_subset hc fun l hl => List.mem_of_mem_filter hl
  split
  · exact ht.of_machine rfl
  · exact ht

theorem l1Touch (h : Untouched k A u s) (line : Nat) : Untouched k A u (s.l1Touch k line) := by
  refine h.updCore k rfl fun a _ hc => Core.cleanAt_of_subset hc fun l hl => ?_
  rcases List.mem_append.mp hl with hl | hl <;> exact List.mem_of_mem_filter hl

theorem l1Alloc (h : Untouched k A u s) (line prio : Nat) (a : Attr) : Untouched k A u (s.l1Alloc k line prio a) := by
  unfold State.l1Alloc
  split
  · exact h.l1Touch line
  · have hroom : Untouched k A u (match (s.core k).l1Victim line with | some v => s.l1Evict k v | none => s) := by
      split
      · exact h.l1Evict _
      · exact h
    refine hroom.updCore k rfl fun b hb hc l hl hline => ?_
    rcases List.mem_cons.mp hl with rfl | hl
    · exact BitVec.getLsbD_zero
    · exact hc l hl hline

theorem l1Drop (h : Untouched k A u s) (line : Nat) (mask : BitVec 128) : Untouched k A u (s.l1Drop k line mask) := by
  unfold State.l1Drop
  refine of_machine (h.l1Upd k line (g := fun l => _) fun l => ⟨?_, fun a _ _ _ hbit => ?_⟩) rfl
  · rfl
  · simp [hbit]

theorem serve (h : Untouched k A u s) (a : Attr) (useRdc : Bool) (hint line : Nat) (mask : BitVec 128) :
    Untouched k A u (s.serve k a useRdc hint line mask).2 := by
  have hheld : Untouched k A u (if a.cache = 3 then s else s.l2Touch line hint a.prio) := h.ite (h.l2Touch ..)
  unfold State.serve
  dsimp only
  split
  · exact hheld
  · split
    · split
      · exact h.of_machine rfl
      · exact hheld.rdcRefresh ..
    · exact hheld.rdcRefresh ..

/-! Reads. -/

theorem l1Fill (h : Untouched k A u s) (a : Attr) (hint line : Nat) (mask : BitVec 128) : Untouched k A u (s.l1Fill k a hint line mask) := by
  unfold State.l1Fill
  have hpresent := (h.l1Alloc line (hintPrio hint a.prio) a).l1Upd_dirty k line (g := fun l => { l with prio := hintPrio hint l.prio }) fun _ => ⟨rfl, rfl⟩
  dsimp only
  split
  · exact hpresent
  · split
    · exact hpresent
    · exact (hpresent.serve ..).l1Upd_dirty k line (g := fun l => l.fill ..) fun _ => ⟨rfl, rfl⟩

theorem l1Other (h : Untouched k A u s) (a : Attr) (hint pa : Nat) : Untouched k A u (s.l1Other k a hint pa) := by
  unfold State.l1Other
  split
  · exact h.l1Fill ..
  · exact h

theorem readBeyond (h : Untouched k A u s) (a : Attr) (rdc : Bool) (hint pa n : Nat) : Untouched k A u (s.readBeyond k a rdc hint pa n).2 :=
  ((h.flushLine ..).serve a rdc hint (pa / 128) _).l1Upd_dirty k (pa / 128) fun _ => ⟨rfl, rfl⟩

/-- A `.G` read sends home only what is dirty (R185, R222). -/
theorem readG (h : Untouched k A u s) (a : Attr) (hint scope pa n : Nat) : Untouched k A u (s.readG k a hint scope pa n).2 := by
  unfold State.readG
  dsimp only
  split
  · exact h.readBeyond ..
  · split
    · exact h.readBeyond ..
    · split
      · split
        · exact h.serve ..
        · exact (h.l1Other ..).l1Fill ..
      · have htouched := (h.l1Touch (pa / 128)).l1Upd_dirty k (pa / 128)
          (g := fun x => { x with prio := if hint = 3 then x.prio else hintPrio hint x.prio }) fun _ => ⟨rfl, rfl⟩
        split
        · exact htouched
        · exact (htouched.ite (htouched.l1Other ..)).l1Fill ..

theorem readAt (h : Untouched k A u s) (hint scope : Nat) (p : Place) (n : Nat) : Untouched k A u (s.readAt k hint scope p n).2 := by
  cases p with
  | scratch => exact h
  | home => exact h.readG ..

theorem readWords (h : Untouched k A u s) (hint scope width n : Nat) (p : Place) : Untouched k A u (State.readWords k hint scope width n p s).2 := by
  induction n generalizing p s with
  | zero => exact h
  | succ n ih => exact ih (h.readAt ..) _

/-! Writes. -/

theorem l1Store (h : Untouched k A u s) (a : Attr) (hint pa : Nat) (bytes : List Byte) (dirty : Bool)
    (hbytes : ∀ b, A b → ¬ (pa ≤ b ∧ b < pa + bytes.length)) : Untouched k A u (s.l1Store k a hint pa bytes dirty) := by
  unfold State.l1Store
  have hstored := (h.l1Alloc (pa / 128) (hintPrio hint a.prio) a).l1Upd k (pa / 128) (g := fun l => { l with
    prio := if (s.l1Line? k (pa / 128)).isSome then hintPrio hint l.prio else l.prio, comp := a.comp, page := a.page
    valid := l.valid ||| lineMask pa bytes.length
    dirty := if dirty then l.dirty ||| lineMask pa bytes.length else l.dirty &&& ~~~lineMask pa bytes.length
    data := (cellsOf (pa % 128) bytes).foldl (fun d e => Sparse.set 0 d e.1 e.2) l.data
    poison := poisonAfter l.poison (cellsOf (pa % 128) bytes) false }) fun l => ⟨rfl, fun b hb hline heq hbit => by
      cases dirty with
      | false => simp [hbit]
      | true =>
        have hout : (lineMask pa bytes.length).getLsbD (b % 128) = false := Bool.eq_false_iff.mpr fun hin => by
          have := lineMask_getLsbD hin
          exact hbytes b hb (by omega)
        simp [hbit, hout]⟩
  dsimp only
  exact (hstored.ite (hstored.l1Complete ..)).fire ..

theorem writeHome (h : Untouched k A u s) (a : Attr) (hint pa : Nat) {bytes : List Byte} (hbytes : ∀ b, A b → ¬ (pa ≤ b ∧ b < pa + bytes.length)) :
    Untouched k A u (s.writeHome k a hint pa bytes) := by
  unfold State.writeHome
  have hflushed : Untouched k A u (s.flushLine k (pa / 128) (wordsMask (lineMask pa bytes.length)) false) := h.flushLine ..
  exact (hflushed.ite (hflushed.l2Touch ..)).homeWrite _ _ _ _ fun e he ha => hbytes _ ha (cellsOf_mem he)

/-- A `.G` write of bytes outside `A` (R185, R192, R222). -/
theorem writeG (h : Untouched k A u s) (a : Attr) (hint scope pa : Nat) {bytes : List Byte} (hbytes : ∀ b, A b → ¬ (pa ≤ b ∧ b < pa + bytes.length)) :
    Untouched k A u (s.writeG k a hint scope pa bytes) := by
  unfold State.writeG
  dsimp only
  split
  · exact (h.writeHome a hint pa hbytes).l1Drop ..
  · split
    · exact (h.writeHome a hint pa hbytes).l1Store _ _ _ _ _ hbytes
    · exact h.l1Store _ _ _ _ _ hbytes

theorem homePut (h : Untouched k A u s) (a : Attr) (pa : Nat) {bytes : List Byte} (hbytes : ∀ b, A b → ¬ (pa ≤ b ∧ b < pa + bytes.length)) :
    Untouched k A u (s.homePut a pa bytes) :=
  h.homeWrite _ _ _ _ fun _ he ha => hbytes _ ha (cellsOf_mem he)

theorem beforeAtomic (h : Untouched k A u s) (pa n : Nat) : Untouched k A u (s.beforeAtomic k pa n) :=
  of_machine ((h.flushLine ..).l1Drop (pa / 128) (lineMask pa n)) rfl

/-! Loads that take their values. -/

theorem updFibres (h : Untouched k A u s) (key : Nat) {g : Fibre → Fibre} (hg : ∀ x, (g x).index = x.index ∧ (g x).regs = x.regs ∧ (g x).preds = x.preds) :
    Untouched k A u (s.updWg key (fun w => { w with fibres := w.fibres.map g })) :=
  h.updWg key fun _ => Workgroup.registers_eq rfl rfl hg

theorem updLanes (h : Untouched k A u s) (c : Ctx) {g : Fibre → Fibre} (hg : ∀ x, (g x).index = x.index ∧ (g x).regs = x.regs ∧ (g x).preds = x.preds) :
    Untouched k A u (s.updLanes c g) := by
  refine h.updFibres c.wg.key fun x => ?_
  split
  · exact hg x
  · exact ⟨rfl, rfl, rfl⟩

theorem spinNote (h : Untouched k A u s) (key : Nat) (l : Load) (v : List (Byte × Bool)) : Untouched k A u (s.spinNote key l v) := by
  unfold State.spinNote
  split
  · refine h.updFibres key (g := fun x => if x.index = l.fibre then _ else x) fun x => ?_
    split
    · exact ⟨x.spinLoad_index _ _, x.spinLoad_regs _ _, x.spinLoad_preds _ _⟩
    · exact ⟨rfl, rfl, rfl⟩
  · exact h

theorem perform (h : Untouched k A u s) (key : Nat) (l : Load) : Untouched k A u (l.perform k key s).2 := by
  unfold Load.perform
  split
  · exact h
  · exact (h.readWords ..).spinNote ..

theorem performWhere (h : Untouched k A u s) (key : Nat) (p : Load → Bool) (ls : List Load) : Untouched k A u (performWhere k key p ls s).2 := by
  induction ls generalizing s with
  | nil => exact h
  | cons l t ih =>
    simp only [Machine.performWhere]
    split
    · exact ih (h.perform key l)
    · exact ih h

theorem takeWhere (h : Untouched k A u s) (key : Nat) (p : Load → Bool) (qs : List Pending) : Untouched k A u (takeWhere k key p qs s).2 := by
  induction qs generalizing s with
  | nil => exact h
  | cons q t ih =>
    simp only [Machine.takeWhere]
    split
    · exact ih (h.performWhere key p q.loads)
    · exact ih h

theorem updLoads (h : Untouched k A u s) (j : Nat) (g : Core → List Pending) : Untouched k A u (s.updCore j (fun c => { c with loads := g c })) :=
  h.updCore j rfl fun _ _ hc => hc

theorem takeOwn (h : Untouched k A u s) (key fibre : Nat) (p : Place) (n : Nat) : Untouched k A u (s.takeOwn k key fibre p n) := by
  unfold State.takeOwn State.takeLoads State.takeFirst
  dsimp only
  split
  · exact (h.takeWhere ..).updLoads ..
  · exact h

theorem noteLane (h : Untouched k A u s) (space : Nat) (c : Ctx) (x : Fibre) : Untouched k A u (s.noteLane space c x) := by
  refine h.of_machine ?_
  unfold State.noteLane State.noteTlb
  (repeat' split) <;> rfl

theorem ordBefore (h : Untouched c.core A u s) : Untouched c.core A u (s.ordBefore c) := by
  unfold State.ordBefore
  split
  · split
    · exact h.release ..
    · exact h
  · exact h

theorem tainted (h : Untouched k A u s) (c : Ctx) (op : Nat) (f : Fields) : Untouched k A u (s.tainted c op f) := by
  unfold State.tainted
  split
  · exact h.updLanes c fun _ => ⟨rfl, rfl, rfl⟩
  · exact h

end State.Untouched
end Sys2Proof.Machine
end

section
/-! Scratchpad stores (R181 to R183, R203, R205). -/

namespace Sys2Proof.Machine

section
variable {s t u : State} {c : Ctx}

/-! Loads of scratchpads that take their values. -/

theorem State.readWords_scratch_state (s : State) (k hint scope width j off space n : Nat) :
    (State.readWords k hint scope width n (.scratch j off space) s).2 = s := by
  induction n generalizing off with
  | zero => rfl
  | succ n ih => exact ih (off + width)

theorem State.spinNote_mem (s : State) (key : Nat) (l : Load) (v : List (Byte × Bool)) : (s.spinNote key l v).mem = s.mem := by
  unfold State.spinNote
  split <;> rfl

theorem Load.perform_mem_of_meets {l : Load} {width j off space n : Nat} (h : l.place.meets width (.scratch j off space) n = true) (k key : Nat) (s : State) :
    (l.perform k key s).2.mem = s.mem := by
  unfold Load.perform
  split
  · rfl
  · dsimp only
    rw [State.spinNote_mem]
    cases hp : l.place with
    | scratch => rw [State.readWords_scratch_state]
    | home => rw [hp] at h; exact absurd h Bool.false_ne_true

theorem performWhere_mem {k key : Nat} {p : Load → Bool} (hp : ∀ l s, p l = true → (l.perform k key s).2.mem = s.mem) (ls : List Load) (s : State) :
    (performWhere k key p ls s).2.mem = s.mem := by
  induction ls generalizing s with
  | nil => rfl
  | cons l t ih =>
    simp only [performWhere]
    split
    next h => exact (ih _).trans (hp l s h)
    next => exact ih _

theorem takeWhere_mem {k key : Nat} {p : Load → Bool} (hp : ∀ l s, p l = true → (l.perform k key s).2.mem = s.mem) (qs : List Pending) (s : State) :
    (takeWhere k key p qs s).2.mem = s.mem := by
  induction qs generalizing s with
  | nil => rfl
  | cons q t ih =>
    simp only [takeWhere]
    split
    · exact (ih _).trans (performWhere_mem hp q.loads s)
    · exact ih _

/-- A fibre's earlier loads of scratchpad words read no memory (R223). -/
theorem State.takeOwn_scratch_mem (s : State) (k key fibre j off space n : Nat) : (s.takeOwn k key fibre (.scratch j off space) n).mem = s.mem := by
  unfold State.takeOwn State.takeLoads State.takeFirst
  dsimp only
  split
  · exact takeWhere_mem (fun l s hl => Load.perform_mem_of_meets ((Bool.and_eq_true ..).mp hl).2 k key s) _ s
  · rfl

/-! A write to a scratchpad. -/

theorem State.scratchWrite_eq_foldl (s : State) (k off : Nat) (bytes : List Byte) (bad : Bool) : ∃ lines : List WatchLine,
    s.scratchWrite k off bytes bad = lines.foldl (fun t l => t.fire none l) (s.updCore k (fun c => { c with
      scratch := Bytes.write c.scratch off bytes, scratchPoison := poisonAfter c.scratchPoison (cellsOf off bytes) bad })) :=
  ⟨(distinct ((cellsOf off bytes).map (fun e => e.1 / 64))).map (fun l => ⟨1, k, l⟩), by rw [List.foldl_map]; rfl⟩

theorem State.scratchWrite_mem (s : State) (k off : Nat) (bytes : List Byte) (bad : Bool) : (s.scratchWrite k off bytes bad).mem = s.mem := by
  obtain ⟨lines, h⟩ := s.scratchWrite_eq_foldl k off bytes bad
  rw [h]
  exact foldl_keeps State.mem (fun t l => t.fire none l) (fun _ _ => rfl) lines _

theorem State.scratchWrite_scratch (s : State) (k off : Nat) (bytes : List Byte) (bad : Bool) (j : Nat) :
    ((s.scratchWrite k off bytes bad).core j).scratch = if j = k then Bytes.write (s.core k).scratch off bytes else (s.core j).scratch := by
  obtain ⟨lines, h⟩ := s.scratchWrite_eq_foldl k off bytes bad
  rw [h, State.core, foldl_keeps State.cores (fun t l => t.fire none l) (fun _ _ => rfl) lines _, ← State.core, State.core_updCore, apply_ite Core.scratch]

theorem State.scratchWrite_registers (s : State) (k off : Nat) (bytes : List Byte) (bad : Bool) : (s.scratchWrite k off bytes bad).registers = s.registers := by
  obtain ⟨lines, h⟩ := s.scratchWrite_eq_foldl k off bytes bad
  rw [h]
  exact (State.Untouched.foldl (k := k) (A := fun _ => False) (fun t l _ ht => ht.fire none l) (.refl fun _ hf => hf.elim)).registers

/-! One lane of a store. -/

/-- The store of one lane, at the place that its checks found in `s0` (R205, R223). -/
def State.storeLane (s0 : State) (space width : Nat) (c : Ctx) (s : State) (x : Fibre) : State :=
  ((s.takeOwn c.core c.wg.key x.index (c.placeOf s0 space width 2 x) width).writeAt c.core (c.f.modBits 3 2) c.scope (c.placeOf s0 space width 2 x)
    (storeBytes width c x)).noteLane space c x

theorem State.storeLanes_eq_foldl (s0 : State) (space width : Nat) (c : Ctx) (l : List Fibre) (s : State) :
    s0.storeLanes space width c l s = l.foldl (s0.storeLane space width c) s := by
  induction l generalizing s with
  | nil => rfl
  | cons x t ih => exact ih _

theorem Ctx.placeOf_ok {space width perms : Nat} {x : Fibre} {p : Place} (h : c.laneAt s space width perms x = .ok p) :
    c.placeOf s space width perms x = p := by
  rw [Ctx.placeOf, h]

theorem State.noteLane_machine (s : State) (space : Nat) (c : Ctx) (x : Fibre) : (s.noteLane space c x).machine = s.machine := by
  unfold State.noteLane State.noteTlb
  (repeat' split) <;> rfl

variable {s0 : State} {space width : Nat} {x : Fibre} {k a o sp : Nat}

theorem State.storeLane_scratch (h : c.laneAt s0 space width 2 x = .ok (.scratch k o sp)) :
    (s0.storeLane space width c s x).registers = s.registers ∧ (s0.storeLane space width c s x).mem = s.mem ∧
      ∀ j, ((s0.storeLane space width c s x).core j).scratch =
        if j = k then Bytes.write (s.core k).scratch o (storeBytes width c x) else (s.core j).scratch := by
  have htaken := State.Untouched.takeOwn (k := c.core) (A := fun _ => False) (.refl (s := s) fun _ hf => hf.elim) c.wg.key x.index (.scratch k o sp) width
  obtain ⟨hregisters, hmem, hcore⟩ := State.machine_eq (((s.takeOwn c.core c.wg.key x.index (.scratch k o sp) width).scratchWrite k o
    (storeBytes width c x)).noteLane_machine space c x)
  rw [State.storeLane, Ctx.placeOf_ok h]
  refine ⟨?_, ?_, fun j => ?_⟩
  · exact hregisters.trans ((State.scratchWrite_registers ..).trans htaken.registers)
  · exact hmem.trans ((State.scratchWrite_mem ..).trans (State.takeOwn_scratch_mem ..))
  · refine (congrArg Core.scratch (hcore j)).trans ?_
    rw [State.scratchWrite_scratch, htaken.scratch, htaken.scratch]

/-- The access of a lane reaches an address of a core's scratchpad. -/
def Ctx.reaches (c : Ctx) (s0 : State) (space width perms : Nat) (x : Fibre) (k a : Nat) : Prop :=
  ∃ o sp, c.laneAt s0 space width perms x = .ok (.scratch k o sp) ∧ o ≤ a ∧ a < o + width

variable (hlen : ∀ x, (storeBytes width c x).length = width)
include hlen

theorem State.storeLane_byte (h : c.laneAt s0 space width 2 x = .ok (.scratch k o sp)) (hlo : o ≤ a) (hhi : a < o + width) :
    Sparse.get 0 ((s0.storeLane space width c s x).core k).scratch a = (storeBytes width c x).getD (a - o) 0 := by
  obtain ⟨-, -, hscratch⟩ := State.storeLane_scratch (s := s) h
  rw [hscratch, if_pos rfl, Bytes.get_write, if_pos ⟨hlo, by rw [hlen]; exact hhi⟩]

theorem State.storeLane_byte_ne {j : Nat} (h : c.laneAt s0 space width 2 x = .ok (.scratch j o sp))
    (hne : ¬ c.reaches s0 space width 2 x k a) :
    Sparse.get 0 ((s0.storeLane space width c s x).core k).scratch a = Sparse.get 0 (s.core k).scratch a := by
  obtain ⟨-, -, hscratch⟩ := State.storeLane_scratch (s := s) h
  rw [hscratch]
  split
  next hk =>
    subst hk
    rw [Bytes.get_write, if_neg fun hin => hne ⟨_, _, h, hin.1, by rw [hlen] at hin; exact hin.2⟩]
  next => rfl

/-- The lanes of a scratchpad store in ascending order: registers and memory stay, a byte that no lane names stays, and where lanes meet the
highest one's byte stands (R205). -/
theorem State.storeLanes_scratch {l : List Fibre} (h : ∀ x ∈ l, ∃ k o sp, c.laneAt s0 space width 2 x = .ok (.scratch k o sp)) :
    (l.foldl (s0.storeLane space width c) s).registers = s.registers ∧ (l.foldl (s0.storeLane space width c) s).mem = s.mem ∧ ∀ k a,
      ((∀ x ∈ l, ¬ c.reaches s0 space width 2 x k a) →
        Sparse.get 0 ((l.foldl (s0.storeLane space width c) s).core k).scratch a = Sparse.get 0 (s.core k).scratch a) ∧
      (∀ x ∈ l, ∀ o sp, c.laneAt s0 space width 2 x = .ok (.scratch k o sp) → o ≤ a → a < o + width →
        (∀ y ∈ l.reverse.takeWhile (fun z => z ≠ x), ¬ c.reaches s0 space width 2 y k a) →
        Sparse.get 0 ((l.foldl (s0.storeLane space width c) s).core k).scratch a = (storeBytes width c x).getD (a - o) 0) := by
  induction l using List.reverseRecOn with
  | nil => exact ⟨rfl, rfl, fun k a => ⟨fun _ => rfl, fun x hx => absurd hx List.not_mem_nil⟩⟩
  | append_singleton l y ih =>
    obtain ⟨hregisters, hmem, hbytes⟩ := ih fun x hx => h x (List.mem_append_left _ hx)
    obtain ⟨_, _, _, hy⟩ := h y (List.mem_append_right _ List.mem_cons_self)
    obtain ⟨hregisters', hmem', -⟩ := State.storeLane_scratch (s := l.foldl (s0.storeLane space width c) s) hy
    simp only [List.foldl_append, List.foldl_cons, List.foldl_nil]
    refine ⟨hregisters'.trans hregisters, hmem'.trans hmem, fun k a => ⟨fun hnone => ?_, fun x hx o sp hplace hlo hhi habove => ?_⟩⟩
    · rw [State.storeLane_byte_ne hlen hy (hnone y (List.mem_append_right _ List.mem_cons_self))]
      exact (hbytes k a).1 fun x hx => hnone x (List.mem_append_left _ hx)
    · rw [List.reverse_append, List.reverse_singleton, List.singleton_append, List.takeWhile_cons] at habove
      by_cases hxy : y = x
      · subst hxy
        exact State.storeLane_byte hlen hplace hlo hhi
      · rw [if_pos (decide_eq_true hxy)] at habove
        have hxl : x ∈ l := (List.mem_append.mp hx).resolve_right fun hlast => hxy (List.mem_singleton.mp hlast).symm
        rw [State.storeLane_byte_ne hlen hy (habove y List.mem_cons_self)]
        exact (hbytes k a).2 x hxl o sp hplace hlo hhi fun z hz => habove z (List.mem_cons_of_mem _ hz)

end

/-! What a lane stores (R204, R205). -/

/-- The bytes of words, one after the other. -/
theorem flatMap_bytesOf_getD (ws : List Word) (j : Nat) :
    ((ws.flatMap (fun w => bytesOf 4 w.toNat)).getD j 0).toNat = (ws.getD (j / 4) 0).toNat / 2 ^ (8 * (j % 4)) % 256 := by
  induction ws generalizing j with
  | nil => simp
  | cons w t ih =>
    rw [List.flatMap_cons]
    by_cases hj : j < 4
    · rw [List.getD_append _ _ _ _ (by simpa using hj), bytesOf_getD _ hj, Nat.div_eq_of_lt hj, Nat.mod_eq_of_lt hj, List.getD_cons_zero]
    · rw [List.getD_append_right _ _ _ _ (by simpa using hj), bytesOf_length, ih, show j / 4 = (j - 4) / 4 + 1 by omega, List.getD_cons_succ,
        show (j - 4) % 4 = j % 4 by omega]

theorem storeBytes_length {width : Nat} (h : width ≤ 4 ∨ width % 4 = 0) (c : Ctx) (x : Fibre) : (storeBytes width c x).length = width := by
  unfold storeBytes
  split
  · exact bytesOf_length ..
  · split
    next h8 => rw [h8]; exact bytesOf_length ..
    next =>
      simp only [List.length_flatMap, bytesOf_length, srcRun, List.map_const', List.length_map, List.length_range, List.sum_replicate, smul_eq_mul]
      omega

/-- The byte `j` of what a lane stores (R204). -/
def Ctx.storedByte (c : Ctx) (width : Nat) (x : Fibre) (j : Nat) : Nat :=
  if width ≤ 4 then (src32 c x c.f.srcB).toNat / 2 ^ (8 * j) % 256
  else if width = 8 then (src64 c x c.f.srcB).toNat / 2 ^ (8 * j) % 256
  else ((srcRun x c.f.srcB (width / 4)).getD (j / 4) 0).toNat / 2 ^ (8 * (j % 4)) % 256

theorem storeBytes_getD {width j : Nat} (c : Ctx) (x : Fibre) (hj : j < width) : ((storeBytes width c x).getD j 0).toNat = c.storedByte width x j := by
  unfold storeBytes Ctx.storedByte
  split
  · exact bytesOf_getD _ hj
  · split
    next h8 => exact bytesOf_getD _ (h8 ▸ hj)
    next => exact flatMap_bytesOf_getD ..

/-! The end of an instruction, and its outcomes. -/

theorem State.rdcRefresh_core (s : State) (die line : Nat) (alloc : Bool) (mask : BitVec 128) (hint prio j : Nat) :
    (s.rdcRefresh die line alloc mask hint prio).core j = s.core j := by
  unfold State.rdcRefresh
  (repeat' split) <;> rfl

/-- Registers, memory and scratchpads are as they were. -/
structure State.Quiet (s t : State) : Prop where
  registers : t.registers = s.registers
  mem : t.mem = s.mem
  scratch : ∀ j, (t.core j).scratch = (s.core j).scratch

namespace State.Quiet

variable {s t u : State}

theorem trans (h : Quiet s t) (h' : Quiet t u) : Quiet s u :=
  ⟨h'.registers.trans h.registers, h'.mem.trans h.mem, fun j => (h'.scratch j).trans (h.scratch j)⟩

/-- What leaves every byte of no byte untouched and the memory as it was. -/
theorem of_untouched {k : Nat} (h : State.Untouched k (fun _ => False) s s → State.Untouched k (fun _ => False) s t) (hmem : t.mem = s.mem) : Quiet s t :=
  have hs := h (.refl fun _ hf => hf.elim)
  ⟨hs.registers, hmem, hs.scratch⟩

theorem tainted (s : State) (c : Ctx) (op : Nat) (f : Fields) : Quiet s (s.tainted c op f) := of_untouched (k := 0) (fun h => h.tainted c op f) (by simp)

theorem commits (s : State) (c : Ctx) (b : Bool) : Quiet s (s.commits c b) := by
  cases b
  · exact ⟨rfl, rfl, fun _ => rfl⟩
  · exact of_untouched (k := 0) (fun h => h.updWg c.wg.key fun _ => rfl) rfl

theorem next (s : State) (c : Ctx) : Quiet s (s.updLanes c Fibre.next) := of_untouched (k := 0) (fun h => h.updLanes c fun _ => ⟨rfl, rfl, rfl⟩) rfl

theorem holdFor (s : State) (key : Nat) (lanes : List Fibre) (stores : List Nat) (acquire : Option Nat) : Quiet s (s.holdFor key lanes stores acquire) := by
  refine of_untouched (k := 0) (fun h => (h.of_machine (t := { s with nextKey := s.nextKey + 1 }) rfl).updWg key fun w => ?_) rfl
  refine Workgroup.registers_eq (g := fun x => if lanes.any (fun y => y.index = x.index) then _ else x) rfl rfl fun x => ?_
  split
  · exact ⟨rfl, rfl, rfl⟩
  · exact ⟨rfl, rfl, rfl⟩

theorem acquire (s : State) (k scope : Nat) : Quiet s (s.acquire k scope) := by
  refine ⟨by rw [State.registers, State.acquire_wgs, State.registers], State.acquire_mem .., fun j => ?_⟩
  have hlines : ∀ t : State, ∀ ls : List L1Line,
      ((ls.foldl (fun t l => t.rdcRefresh (dieOf k) l.line false (l.mine &&& ~~~l.dirty) 0 0) t).core j).scratch = (t.core j).scratch :=
    fun t ls => foldl_keeps (fun t : State => (t.core j).scratch) _ (fun t l => by rw [State.rdcRefresh_core]) ls t
  have hcore : ∀ g : Core → List L1Line, ((s.updCore k (fun c => { c with l1 := g c })).core j).scratch = (s.core j).scratch := fun g => by
    rw [State.core_updCore]
    split
    next hj => rw [hj]
    next => rfl
  by_cases h : scope = 0
  · subst h
    rfl
  · simp only [State.acquire, if_neg h]
    split <;> exact (hlines _ _).trans (hcore _)

theorem ordAfter (s : State) (c : Ctx) : Quiet s (s.ordAfter c) := by
  unfold State.ordAfter
  split
  · split
    · split
      · exact holdFor ..
      · exact acquire ..
    · exact ⟨rfl, rfl, fun _ => rfl⟩
  · exact ⟨rfl, rfl, fun _ => rfl⟩

end State.Quiet

section
variable {s t : State} {c : Ctx} {op : Nat} {f : Fields} {shape : Ctx → Shape} {body : Ctx → State → Except FaultInfo State}

/-- An instruction that issues parks its workgroup or takes its own effect. -/
theorem runWith_cases (hc : Ctx.of? s op f = some c) (h : runWith op shape f s body = .next t) :
    (∃ e, t = s.parkBatch c e) ∨ body c (s.tainted c op f) = .ok t := by
  rcases runWith_spec op shape f s body with ⟨hnone, -⟩ | ⟨d, e, hd, -, hrun⟩ | ⟨d, e, hd, -, -, hrun⟩ | ⟨d, v, hd, -, hbody, hrun⟩
  · cases hnone.symm.trans hc
  · cases hd.symm.trans hc
    exact .inl ⟨e, Host.Outcome.next.inj (h.symm.trans hrun)⟩
  · cases hd.symm.trans hc
    exact .inl ⟨e, Host.Outcome.next.inj (h.symm.trans hrun)⟩
  · cases hd.symm.trans hc
    cases Host.Outcome.next.inj (h.symm.trans hrun)
    exact .inr hbody

theorem State.parkBatch_isParked {w : Workgroup} (hw : s.wg? c.wg.key = some w) (e : FaultInfo) :
    ∃ v, (s.parkBatch c e).wg? c.wg.key = some v ∧ v.parked ≠ none := by
  unfold State.parkBatch
  cases hp : w.parked with
  | none => exact ⟨_, by rw [State.wg?_park _ hw hp, hw, Option.map_some, if_pos rfl], by simp⟩
  | some d => exact ⟨w, by rw [State.park_parked _ hw (by simp [hp])]; exact hw, by simp [hp]⟩

/-- One that leaves its workgroup unparked has taken its effect. -/
theorem runWith_effect (hc : Ctx.of? s op f = some c) (h : runWith op shape f s body = .next t)
    (hunparked : ∀ w, t.wg? c.wg.key = some w → w.parked = none) : body c (s.tainted c op f) = .ok t := by
  refine (runWith_cases hc h).resolve_left ?_
  rintro ⟨e, rfl⟩
  obtain ⟨v, hv, hparked⟩ := State.parkBatch_isParked (Ctx.of?_wg hc) e
  exact hparked (hunparked v hv)

/-- A store that has taken its effect. -/
theorem storeBody_cases {role : Role} {space width : Nat} (h : storeBody role space width c s = .ok t) :
    (∀ x ∈ c.passing, c.accessFault s space width 2 x = none) ∧ t = (((s.storeLanes space width c c.passing (s.ordBefore c)).ordAfter c).commits c
      (decide (space ≠ 1) && !c.passing.isEmpty)).updLanes c Fibre.next := by
  unfold storeBody at h
  dsimp only at h
  split at h
  · cases h
  next hnone =>
    refine ⟨fun x hx => ?_, (Except.ok.inj h).symm⟩
    have hlane := Ctx.laneFault_eq_none.mp hnone x hx
    split at hlane
    · cases hlane
    next hpass => exact hpass

/-! Places. -/

theorem Except.ite_error_eq_ok {ε α : Type} {p : Prop} [Decidable p] {e : ε} {m : Except ε α} {a : α} :
    ((if p then .error e else m) = .ok a) ↔ ¬ p ∧ m = .ok a := by
  by_cases hp : p <;> simp [hp]

theorem Ctx.laneAt_of_accessFault {space width perms : Nat} {x : Fibre} (h : c.accessFault s space width perms x = none) :
    ∃ p, c.laneAt s space width perms x = .ok p := by
  unfold Ctx.accessFault at h
  split at h
  · cases h
  next p hp => exact ⟨p, hp⟩

/-- R182, R183: the space decides the kind of place. -/
theorem State.place_kind {core : Nat} {w : Workgroup} {kernel : Kernel} {space ptSpace a width perms : Nat} {p : Place}
    (h : s.place core w kernel space ptSpace a width perms = .ok p) :
    ((space = 1 ∨ space = 2) ∧ ∃ k o sp, p = .scratch k o sp) ∨ ((space ≠ 1 ∧ space ≠ 2) ∧ ∃ pa at', p = .home pa at') := by
  unfold State.place at h
  split at h
  · simp only [Except.ite_error_eq_ok] at h
    exact .inl ⟨.inl rfl, _, _, _, (Except.ok.inj h.2.2).symm⟩
  · simp only [Except.ite_error_eq_ok] at h
    exact .inl ⟨.inr rfl, _, _, _, (Except.ok.inj h.2.2.2).symm⟩
  next hone htwo =>
    refine .inr ⟨⟨hone, htwo⟩, ?_⟩
    simp only [Except.ite_error_eq_ok] at h
    obtain ⟨-, -, h⟩ := h
    split at h
    · cases h
    · simp only [Except.ite_error_eq_ok] at h
      exact ⟨_, _, (Except.ok.inj h.2.2).symm⟩

/-- Places of lanes that have passed their checks in the space of the homes. -/
theorem Ctx.home_of_passes {space width perms : Nat} {x : Fibre} (hspace : space ≠ 1 ∧ space ≠ 2) (h : c.accessFault s space width perms x = none) :
    ∃ pa at', c.laneAt s space width perms x = .ok (.home pa at') := by
  obtain ⟨p, hp⟩ := Ctx.laneAt_of_accessFault h
  rcases State.place_kind hp with ⟨hkind, -⟩ | ⟨-, pa, at', rfl⟩
  · exact absurd hkind (by simp [hspace])
  · exact ⟨pa, at', hp⟩

/-- Places of lanes that have passed their checks in the scratchpads' spaces. -/
theorem Ctx.scratch_of_passes {space width perms : Nat} {x : Fibre} (hspace : space = 1 ∨ space = 2) (h : c.accessFault s space width perms x = none) :
    ∃ k o sp, c.laneAt s space width perms x = .ok (.scratch k o sp) := by
  obtain ⟨p, hp⟩ := Ctx.laneAt_of_accessFault h
  rcases State.place_kind hp with ⟨-, k, o, sp, rfl⟩ | ⟨⟨hone, htwo⟩, -⟩
  · exact ⟨k, o, sp, hp⟩
  · exact absurd hspace (by simp [hone, htwo])

theorem State.translate_tainted (space va : Nat) : (s.tainted c op f).translate space va = s.translate space va := by
  simp only [State.translate, State.leafFor, State.walk, State.tlbOf, State.tainted_ptroot, State.tainted_mem, State.tainted_tlb, State.tainted_free]

theorem State.inLaunchRange_tainted (launch k off : Nat) : (s.tainted c op f).inLaunchRange launch k off = s.inLaunchRange launch k off := by
  unfold State.tainted
  split
  · simp only [State.inLaunchRange, State.updLanes, State.updWg, List.any_map]
    refine List.any_congr rfl fun w => ?_
    simp only [Function.comp_apply]
    split <;> rfl
  · rfl

theorem Ctx.laneAt_tainted (space width perms : Nat) (x : Fibre) : c.laneAt (s.tainted c op f) space width perms x = c.laneAt s space width perms x := by
  simp only [Ctx.laneAt, State.place, State.translate_tainted, State.inLaunchRange_tainted]

end

/-! Registers found again. -/

theorem State.wg?_registers (s : State) (key : Nat) : (s.wg? key).map Workgroup.registers = s.registers.find? (fun e => e.1 = key) := by
  rw [State.registers, List.find?_map]
  rfl

theorem Workgroup.fibre?_registers (w : Workgroup) (i : Nat) :
    (w.fibre? i).map (fun x => (x.index, x.regs, x.preds)) = w.registers.2.find? (fun e => e.1 = i) := by
  rw [Workgroup.registers, List.find?_map]
  rfl

/-- Where the registers are as they were, each fibre finds its own. -/
theorem State.fibre?_of_registers {s t : State} (h : t.registers = s.registers) {key i : Nat} {w v : Workgroup} {y : Fibre} (hw : s.wg? key = some w)
    (hv : t.wg? key = some v) (hy : w.fibre? i = some y) : ∃ z, v.fibre? i = some z ∧ z.regs = y.regs ∧ z.preds = y.preds := by
  have hwv : v.registers = w.registers := by
    have := (t.wg?_registers key).trans ((congrArg _ h).trans (s.wg?_registers key).symm)
    rw [hw, hv] at this
    exact Option.some.inj this
  have hfibre := v.fibre?_registers i
  rw [hwv, ← w.fibre?_registers i, hy] at hfibre
  obtain ⟨z, hz, heq⟩ := Option.map_eq_some_iff.mp hfibre
  simp only [Prod.mk.injEq] at heq
  exact ⟨z, hz, heq.2⟩

/-! The obligation. -/

section
variable {f : Fields} {s t : State} {c : Ctx} {space : Nat} (op : Nat) (sh : Shape) (width : Fields → Nat)

/-- A store to scratchpads that has taken its effect. -/
theorem IssuesAs.scratchStore (hspace : space = 1 ∨ space = 2) (hwidth : width c.f ≤ 4 ∨ width c.f % 4 = 0) (h : IssuesAs op sh f s c)
    (hexec : runStore op space sh (width f) f s = .next t) (hunparked : ∀ w, t.wg? c.wg.key = some w → w.parked = none) :
    (∀ k a x o sp, x ∈ c.passing → c.laneAt s space (width c.f) 2 x = .ok (.scratch k o sp) → o ≤ a → a < o + width c.f →
      (∀ y ∈ c.passing.reverse.takeWhile (fun z => z ≠ x), ¬ c.reaches s space (width c.f) 2 y k a) →
      (Sparse.get 0 (t.core k).scratch a).toNat = c.storedByte (width c.f) x (a - o)) ∧
    (∀ k a, (∀ x ∈ c.passing, ¬ c.reaches s space (width c.f) 2 x k a) → Sparse.get 0 (t.core k).scratch a = Sparse.get 0 (s.core k).scratch a) ∧
    (c.ord = none → t.mem = s.mem) ∧
    ∀ w v i y, s.wg? c.wg.key = some w → t.wg? c.wg.key = some v → w.fibre? i = some y → ∃ z, v.fibre? i = some z ∧ z.regs = y.regs ∧ z.preds = y.preds := by
  obtain rfl : c.f = f := h.fields
  obtain ⟨hpass, rfl⟩ := storeBody_cases (runWith_effect h.1 hexec hunparked)
  generalize hs0 : s.tainted c op c.f = s0 at hpass ⊢
  have hentered : State.Quiet s s0 := hs0 ▸ State.Quiet.tainted ..
  have hlane : ∀ x, c.laneAt s0 space (width c.f) 2 x = c.laneAt s space (width c.f) 2 x := fun x => by rw [← hs0, Ctx.laneAt_tainted]
  have hat : ∀ x k a, c.reaches s0 space (width c.f) 2 x k a ↔ c.reaches s space (width c.f) 2 x k a := fun x k a => by simp only [Ctx.reaches, hlane]
  have hplace : ∀ x ∈ c.passing, ∃ k o sp, c.laneAt s0 space (width c.f) 2 x = .ok (.scratch k o sp) := fun x hx =>
    Ctx.scratch_of_passes hspace (hpass x hx)
  have hreleased := State.Untouched.ordBefore (c := c) (A := fun _ => False) (.refl (s := s0) fun _ hf => hf.elim)
  obtain ⟨hregisters, hmem, hbytes⟩ := State.storeLanes_scratch (s := s0.ordBefore c) (storeBytes_length hwidth c) hplace
  rw [State.storeLanes_eq_foldl]
  have hend := ((State.Quiet.ordAfter (c.passing.foldl (s0.storeLane space (width c.f) c) (s0.ordBefore c)) c).trans (.commits _ c
    (decide (space ≠ 1) && !c.passing.isEmpty))).trans (.next _ c)
  refine ⟨fun k a x o sp hx hp hlo hhi habove => ?_, fun k a hnone => ?_, fun hord => ?_, fun w v i y hw hv hy => ?_⟩
  · rw [hend.scratch, (hbytes k a).2 x hx o sp ((hlane x).trans hp) hlo hhi fun y hy => mt (hat y k a).mp (habove y hy)]
    exact storeBytes_getD c x (by omega)
  · rw [hend.scratch, (hbytes k a).1 fun x hx => mt (hat x k a).mp (hnone x hx), hreleased.scratch, hentered.scratch]
  · rw [hend.mem, hmem, State.ordBefore_id fun o sc ho => (by rw [hord] at ho; cases ho), hentered.mem]
  · refine State.fibre?_of_registers ?_ hw hv hy
    rw [hend.registers, hregisters, hreleased.registers, hentered.registers]

end

theorem widthOf_words (f : Fields) : widthOf f ≤ 4 ∨ widthOf f % 4 = 0 := by
  rw [widthOf_eq]
  have hlt : f.mods.toNat % 4 < 4 := Nat.mod_lt _ (by omega)
  interval_cases f.mods.toNat % 4 <;> decide

theorem quadWidth_words (f : Fields) : quadWidth f ≤ 4 ∨ quadWidth f % 4 = 0 := by
  rw [quadWidth_eq]
  omega

/-- Settles O18: the lanes of a store in ascending order. -/
theorem scratchStoreWritesItsBytes : Obligations.ScratchStoreWritesItsBytes := by
  unfold Obligations.ScratchStoreWritesItsBytes
  exact fun f s t c => ⟨IssuesAs.scratchStore 0x0B6 (.st 1 f) widthOf (.inl rfl) (widthOf_words c.f),
    IssuesAs.scratchStore 0x0B7 (.st 2 f) widthOf (.inr rfl) (widthOf_words c.f),
    IssuesAs.scratchStore 0x0B9 (.stQ 1 f) quadWidth (.inl rfl) (quadWidth_words c.f),
    IssuesAs.scratchStore 0x0BA (.stQ 2 f) quadWidth (.inr rfl) (quadWidth_words c.f)⟩

end Sys2Proof.Machine
end

section
/-! Frame of global loads and stores and of all atomics (R185, R203 to R205, R226, R241, R242). -/

namespace Sys2Proof.Machine

namespace State.Untouched

variable {A : Nat → Prop} {u s s0 : State} {c : Ctx}

/-! Loads (R203, R204). -/

theorem ask {k : Nat} (h : Untouched k A u s) (key tag : Nat) (l : Load) : Untouched k A u (l.ask k key tag s).2 := by
  unfold Load.ask
  split
  · exact h
  next pa a hplace =>
    split
    · exact h
    · split
      · exact h.perform key l
      · have hflushed : Untouched k A u (if beyondL1 l.scope a then s.flushLine k (pa / 128) (wordsMask (lineMask pa l.width)) false else s) :=
          (h.flushLine ..).ite h
        dsimp only
        split
        · exact hflushed
        · exact hflushed.of_machine rfl

theorem askAll {k : Nat} (h : Untouched k A u s) (key tag : Nat) (ls : List Load) : Untouched k A u (askAll k key tag ls s).2 := by
  induction ls generalizing s with
  | nil => exact h
  | cons l t ih => exact ih (h.ask key tag l)

theorem noteLanes (h : Untouched c.core A u s) (space : Nat) : Untouched c.core A u (c.passing.foldl (fun t x => t.noteLane space c x) s) :=
  foldl (fun _ x _ ht => ht.noteLane space c x) h

theorem pend {k : Nat} (h : Untouched k A u s) (key : Nat) (p : Fibre → List Nat) :
    Untouched k A u (s.updWg key (fun w => { w with fibres := w.fibres.map (fun x => { x with pendV := p x }) })) :=
  h.updFibres key fun _ => ⟨rfl, rfl, rfl⟩

theorem pendLanes {k : Nat} (h : Untouched k A u s) (c : Ctx) (p : Fibre → List Nat) :
    Untouched k A u (s.updLanes c (fun x => { x with pendV := p x })) :=
  h.updLanes c fun _ => ⟨rfl, rfl, rfl⟩

theorem sendLoads {k : Nat} (h : Untouched k A u s) (key : Nat) (ls : List Load) : Untouched k A u (s.sendLoads k key ls) := by
  unfold State.sendLoads
  dsimp only
  exact updLoads (askAll (h.pend key _) ..) k _

end State.Untouched

theorem Load.landed_mem (wg : Nat) (s : State) (l : Load) : (Load.landed wg s l).mem = s.mem := by
  unfold Load.landed
  split
  · rfl
  · dsimp only
    split
    · split <;> rfl
    · rfl
    · rfl

theorem State.loadNow_mem {s : State} {k a : Nat} (h : (s.core k).cleanAt a) (key : Nat) (ls : List Load) :
    Sparse.get 0 (State.loadNow k key ls s).mem a = Sparse.get 0 s.mem a := by
  have hperformed := State.Untouched.performWhere (A := (· = a)) (.refl (s := s) fun b hb => hb ▸ h) key (fun _ => true) ls
  rw [State.loadNow, foldl_mem (Load.landed key) (Load.landed_mem key)]
  exact hperformed.mem a rfl

/-- A load leaves what no line of the L1 holds dirty (R185, R222). -/
theorem State.loadLanes_mem {s : State} {c : Ctx} {a : Nat} (h : (s.core c.core).cleanAt a) (space width : Nat) :
    Sparse.get 0 (s.loadLanes space width c).mem a = Sparse.get 0 s.mem a := by
  have hnoted := State.Untouched.noteLanes (A := (· = a)) (.refl (s := s) fun b hb => hb ▸ h) space
  unfold State.loadLanes
  dsimp only
  split
  · exact (State.loadNow_mem (hnoted.clean a rfl) ..).trans (hnoted.mem a rfl)
  · exact (hnoted.sendLoads ..).mem a rfl

section
variable {f : Fields} {s t : State} {c : Ctx} {a : Nat} (op : Nat) (sh : Shape) (width : Fields → Nat)

theorem loadBody_cases {space width : Nat} (h : loadBody space width c s = .ok t) : t = ((s.loadLanes space width c).ordAfter c).updLanes c Fibre.next := by
  rcases loadBody_spec (s := s) (c := c) space width with ⟨e, -, he⟩ | ⟨-, hok⟩
  · cases he.symm.trans h
  · exact Except.ok.inj (h.symm.trans hok)

/-- A load that issues, of any space and width, keeps the clean bytes of memory. -/
theorem IssuesAs.loadKeeps {space : Nat} (hclean : (s.core c.core).cleanAt a) (h : IssuesAs op sh f s c)
    (hexec : runLoad op space sh (width f) f s = .next t) : Sparse.get 0 t.mem a = Sparse.get 0 s.mem a := by
  rcases runWith_cases h.1 hexec with ⟨e, rfl⟩ | hbody
  · rw [State.parkBatch_mem]
  · rw [loadBody_cases hbody, ((State.Quiet.ordAfter _ c).trans (.next _ c)).mem, State.loadLanes_mem (by rwa [State.core_tainted]), State.tainted_mem]

end

/-! Stores (R205). -/

/-- The access of a passing lane reaches an address at its home, as the meaning places it. -/
def Ctx.reachesHome (c : Ctx) (s : State) (space width perms a : Nat) : Prop :=
  ∃ x ∈ c.passing, ∃ pa at', c.laneAt s space width perms x = .ok (.home pa at') ∧ pa ≤ a ∧ a < pa + width

section
variable {A : Nat → Prop} {u s s0 : State} {c : Ctx} {space width perms : Nat}

theorem State.Untouched.storeLanes (h : Untouched c.core A u s) (hspace : space ≠ 1 ∧ space ≠ 2) (hlen : ∀ x, (storeBytes width c x).length = width)
    (hpass : ∀ x ∈ c.passing, c.accessFault s0 space width 2 x = none) (hout : ∀ a, A a → ¬ c.reachesHome s0 space width 2 a) :
    Untouched c.core A u (s0.storeLanes space width c c.passing s) := by
  rw [State.storeLanes_eq_foldl]
  refine foldl (fun t x hx ht => ?_) h
  obtain ⟨pa, at', hplace⟩ := Ctx.home_of_passes hspace (hpass x hx)
  rw [State.storeLane, Ctx.placeOf_ok hplace]
  exact (writeG (ht.takeOwn ..) _ _ _ _ fun a ha hin => hout a ha ⟨x, hx, pa, at', hplace, hlen x ▸ hin⟩).noteLane ..

end

section
variable {f : Fields} {s t : State} {c : Ctx} {a : Nat} (op : Nat) (sh : Shape) (width : Fields → Nat)

/-- A `.G` store that issues keeps the clean bytes of memory that it does not store (R185, R205). -/
theorem IssuesAs.storeKeeps (hwords : width c.f ≤ 4 ∨ width c.f % 4 = 0) (hclean : (s.core c.core).cleanAt a) (h : IssuesAs op sh f s c)
    (hexec : runStore op 0 sh (width f) f s = .next t) (hout : ¬ c.reachesHome s 0 (width c.f) 2 a) : Sparse.get 0 t.mem a = Sparse.get 0 s.mem a := by
  obtain rfl : c.f = f := h.fields
  rcases runWith_cases h.1 hexec with ⟨e, rfl⟩ | hbody
  · rw [State.parkBatch_mem]
  · obtain ⟨hpass, rfl⟩ := storeBody_cases hbody
    have hreleased := State.Untouched.ordBefore (c := c) (A := (· = a))
      (.refl (s := s.tainted c op c.f) fun b hb => by rw [hb, State.core_tainted]; exact hclean)
    have hstored := hreleased.storeLanes ⟨by omega, by omega⟩ (storeBytes_length hwords c) hpass fun b hb hat => hout (by
      simpa only [Ctx.reachesHome, Ctx.laneAt_tainted, hb] using hat)
    rw [(((State.Quiet.ordAfter _ c).trans (.commits _ c _)).trans (.next _ c)).mem, hstored.mem a rfl, State.tainted_mem]

end

/-! Atomics (R241 to R246). -/

/-- A property of states that what the requests of an atomic do keeps: each lane at the place that its checks found in `s0`. -/
structure AtomOp.Keeps (o : AtomOp) (s0 : State) (space : Nat) (c : Ctx) (P : State → Prop) : Prop where
  take : ∀ x ∈ c.passing, ∀ s fibre, P s → P (s.takeOwn c.core c.wg.key fibre (c.placeOf s0 space o.width 3 x) o.width)
  before : ∀ x ∈ c.passing, ∀ s pa a, c.placeOf s0 space o.width 3 x = .home pa a → P s → P (s.beforeAtomic c.core pa o.width)
  ask : ∀ s returns pa comp lanes, P s → P (s.askAtomic o returns c pa comp lanes)
  defer : ∀ s d, P s → P (s.updWg c.wg.key (fun w => { w with deferred := w.deferred ++ [d] }))
  write : ∀ x ∈ c.passing, ∀ s v, P s → P (s.atomWrite (c.placeOf s0 space o.width 3 x) o.width v)
  note : ∀ s x, P s → P (s.noteLane space c x)

theorem foldl_preserves {α : Type} {P : State → Prop} {g : State → α → State} {l : List α} (hg : ∀ s, ∀ x ∈ l, P s → P (g s x)) {s : State} (h : P s) :
    P (l.foldl g s) := by
  induction l generalizing s with
  | nil => exact h
  | cons x t ih => exact ih (fun s y hy => hg s y (List.mem_cons_of_mem _ hy)) (hg s x List.mem_cons_self h)

/-- The state in which the lanes of one address are performed, at the place of the lowest: their fibres' loads of its words have taken their
values, and what the caches hold of them is gone (R223, R245). -/
def State.beforeGroup (s0 : State) (o : AtomOp) (space : Nat) (c : Ctx) (x : Fibre) (lanes : List Fibre) (s : State) : State :=
  let taken := lanes.foldl (fun t y => t.takeOwn c.core c.wg.key y.index (c.placeOf s0 space o.width 3 x) o.width) s
  match c.placeOf s0 space o.width 3 x with
  | .home pa _ => taken.beforeAtomic c.core pa o.width
  | .scratch .. => taken

namespace AtomOp.Keeps

variable {o : AtomOp} {s0 s : State} {space : Nat} {c : Ctx} {P : State → Prop}

theorem beforeGroup (h : o.Keeps s0 space c P) {x : Fibre} (hx : x ∈ c.passing) (lanes : List Fibre) (hs : P s) :
    P (s0.beforeGroup o space c x lanes s) := by
  have htaken := foldl_preserves (l := lanes) (fun s y _ hs => h.take x hx s y.index hs) hs
  unfold State.beforeGroup
  split
  next pa at' hp => exact h.before x hx _ pa at' hp htaken
  next => exact htaken

/-- R243, R245, R246: address by address, a group of lanes is asked of its home's package, found poisoned, or performed. -/
theorem atomGroups (h : o.Keeps s0 space c P) (returns : Bool) (l : List Nat) (acc : List (Fibre × Nat × Bool)) (hs : P s) :
    P (s0.atomGroups o space returns c l s acc).1 := by
  induction l generalizing s acc with
  | nil => exact hs
  | cons a t ih =>
    simp only [State.atomGroups]
    split
    · exact ih _ hs
    next x rest hlanes =>
      have hx : x ∈ c.passing := List.mem_of_mem_filter (hlanes ▸ List.mem_cons_self : x ∈ c.passing.filter (fun x => addrOf space c x = a))
      have hready := h.beforeGroup hx (c.passing.filter (fun x => addrOf space c x = a)) hs
      split
      · exact ih _ (h.note _ _ (h.ask _ _ _ _ _ hready))
      · split
        · refine ih _ ?_
          split
          · exact hready
          · exact h.defer _ _ hready
        · exact ih _ (h.note _ _ (h.write x hx _ _ hready))

end AtomOp.Keeps

section
variable {s s0 u : State} {o : AtomOp} {space : Nat} {c : Ctx}

theorem State.Untouched.askAtomic {k : Nat} {A : Nat → Prop} (h : Untouched k A u s) (o : AtomOp) (returns : Bool) (c : Ctx) (pa comp : Nat)
    (lanes : List Fibre) : Untouched k A u (s.askAtomic o returns c pa comp lanes) := by
  unfold State.askAtomic
  refine foldl (fun t g _ ht => ?_) h
  dsimp only
  split
  · exact ht.sendRequest ..
  · exact updLoads ((ht.sendRequest ..).pendLanes c _) c.core _

theorem State.askAtomic_mem (s : State) (o : AtomOp) (returns : Bool) (c : Ctx) (pa comp : Nat) (lanes : List Fibre) :
    (s.askAtomic o returns c pa comp lanes).mem = s.mem := by
  unfold State.askAtomic
  refine foldl_mem _ (fun t g => ?_) _ s
  dsimp only
  split <;> rfl

/-- An atomic on memory keeps what its lanes do not reach. -/
theorem AtomOp.keeps_untouched {A : Nat → Prop} (hspace : space ≠ 1 ∧ space ≠ 2) (hpass : ∀ x ∈ c.passing, c.accessFault s0 space o.width 3 x = none)
    (hout : ∀ a, A a → ¬ c.reachesHome s0 space o.width 3 a) : o.Keeps s0 space c (State.Untouched c.core A u) where
  take _ _ _ _ hs := hs.takeOwn ..
  before _ _ _ _ _ _ hs := hs.beforeAtomic ..
  ask _ _ _ _ _ hs := hs.askAtomic ..
  defer _ _ hs := hs.updWg _ fun _ => rfl
  write x hx s v hs := by
    obtain ⟨pa, at', hplace⟩ := Ctx.home_of_passes hspace (hpass x hx)
    rw [Ctx.placeOf_ok hplace]
    exact hs.homePut _ _ fun a ha hin => hout a ha ⟨x, hx, pa, at', hplace, by rwa [bytesOf_length] at hin⟩
  note _ _ hs := hs.noteLane ..

/-- Memory, and the bytes of scratchpads that no lane of an atomic reaches, are as in `u`. -/
def State.ScratchKept (s0 : State) (o : AtomOp) (space : Nat) (c : Ctx) (u s : State) : Prop :=
  s.mem = u.mem ∧ ∀ k a, (∀ x ∈ c.passing, ¬ c.reaches s0 space o.width 3 x k a) →
    Sparse.get 0 (s.core k).scratch a = Sparse.get 0 (u.core k).scratch a

theorem State.ScratchKept.quiet {t : State} (h : State.ScratchKept s0 o space c u s) (ht : State.Quiet s t) : State.ScratchKept s0 o space c u t :=
  ⟨ht.mem.trans h.1, fun k a hnone => by rw [ht.scratch]; exact h.2 k a hnone⟩

/-- An atomic on scratchpads keeps memory and what its lanes do not reach. -/
theorem AtomOp.keeps_scratch (hspace : space = 1 ∨ space = 2) (hpass : ∀ x ∈ c.passing, c.accessFault s0 space o.width 3 x = none) :
    o.Keeps s0 space c (State.ScratchKept s0 o space c u) where
  take x hx s fibre hs := by
    obtain ⟨k, off, sp, hplace⟩ := Ctx.scratch_of_passes hspace (hpass x hx)
    rw [Ctx.placeOf_ok hplace]
    exact hs.quiet (.of_untouched (fun h => h.takeOwn ..) (State.takeOwn_scratch_mem ..))
  before x hx s pa at' hp hs := by
    obtain ⟨k, off, sp, hplace⟩ := Ctx.scratch_of_passes hspace (hpass x hx)
    cases (Ctx.placeOf_ok hplace).symm.trans hp
  ask s returns pa comp lanes hs := hs.quiet (.of_untouched (k := 0) (fun h => h.askAtomic ..) (State.askAtomic_mem ..))
  defer s d hs := hs.quiet (.of_untouched (k := 0) (fun h => h.updWg _ fun _ => rfl) rfl)
  write x hx s v hs := by
    obtain ⟨k, off, sp, hplace⟩ := Ctx.scratch_of_passes hspace (hpass x hx)
    rw [Ctx.placeOf_ok hplace]
    refine ⟨(State.scratchWrite_mem ..).trans hs.1, fun j a hnone => Eq.trans ?_ (hs.2 j a hnone)⟩
    change Sparse.get 0 ((s.scratchWrite k off (bytesOf o.width v)).core j).scratch a = _
    rw [State.scratchWrite_scratch]
    split
    next hj =>
      subst hj
      rw [Bytes.get_write, if_neg fun hin => hnone x hx ⟨off, sp, hplace, hin.1, by rw [bytesOf_length] at hin; exact hin.2⟩]
    next => rfl
  note s x hs := hs.quiet (.of_untouched (k := 0) (fun h => h.noteLane ..) (State.machine_eq (s.noteLane_machine space c x)).2.1)

/-! What an atomic does with its results and after them. -/

theorem State.giveResults_mem (s : State) (c : Ctx) (ws : List (Nat × Nat × Word × Bool)) : (s.giveResults c ws).mem = s.mem := by
  unfold State.giveResults State.sendResults
  split
  · rfl
  · split <;> rfl

theorem State.giveResults_scratch (s : State) (c : Ctx) (ws : List (Nat × Nat × Word × Bool)) (j : Nat) :
    ((s.giveResults c ws).core j).scratch = (s.core j).scratch := by
  unfold State.giveResults State.sendResults
  split
  · rfl
  · split
    · rfl
    · dsimp only
      rw [State.core_updCore]
      split
      next hj => rw [hj]; rfl
      next => rfl

theorem State.Quiet.atomDone (s : State) (c : Ctx) : State.Quiet s (s.atomDone c) := ((State.Quiet.ordAfter s c).trans (.commits _ c _)).trans (.next _ c)

theorem atomCheck_pass {sh : Shape} {x : Fibre} (h : atomCheck o sh c s x = none) : c.accessFault s (c.f.modBits 0 2) o.width 3 x = none := by
  unfold atomCheck at h
  split at h
  · cases h
  next hpass => exact hpass

/-- An atomic that has taken its effect. -/
theorem atomBody_cases {t : State} {sh : Shape} {returns : Bool} (h : atomBody o sh returns c s = .ok t) :
    (∀ x ∈ c.passing, c.accessFault s (c.f.modBits 0 2) o.width 3 x = none) ∧
      t.mem = (c.atomRequests o returns s).1.mem ∧ ∀ j, (t.core j).scratch = ((c.atomRequests o returns s).1.core j).scratch := by
  unfold atomBody at h
  dsimp only at h
  split at h
  · cases h
  next hnone =>
    obtain ⟨ws, rfl⟩ : ∃ ws, t = ((c.atomRequests o returns s).1.giveResults c ws).atomDone c := ⟨_, (Except.ok.inj h).symm⟩
    have hdone := State.Quiet.atomDone ((c.atomRequests o returns s).1.giveResults c ws) c
    exact ⟨fun x hx => atomCheck_pass (Ctx.laneFault_eq_none.mp hnone x hx), hdone.mem.trans (State.giveResults_mem ..),
      fun j => (hdone.scratch j).trans (State.giveResults_scratch ..)⟩

/-- What an atomic on memory leaves untouched, its release first. -/
theorem Ctx.atomRequests_untouched {A : Nat → Prop} (returns : Bool) (hspace : c.f.modBits 0 2 ≠ 1 ∧ c.f.modBits 0 2 ≠ 2)
    (hpass : ∀ x ∈ c.passing, c.accessFault s (c.f.modBits 0 2) o.width 3 x = none) (hclean : ∀ a, A a → (s.core c.core).cleanAt a)
    (hout : ∀ a, A a → ¬ c.reachesHome s (c.f.modBits 0 2) o.width 3 a) : State.Untouched c.core A s (c.atomRequests o returns s).1 :=
  (AtomOp.keeps_untouched hspace hpass hout).atomGroups returns _ [] (State.Untouched.ordBefore (.refl hclean))

/-- What an atomic on scratchpads keeps, after its release. -/
theorem Ctx.atomRequests_scratchKept (returns : Bool) (hspace : c.f.modBits 0 2 = 1 ∨ c.f.modBits 0 2 = 2)
    (hpass : ∀ x ∈ c.passing, c.accessFault s (c.f.modBits 0 2) o.width 3 x = none) :
    State.ScratchKept s o (c.f.modBits 0 2) c (s.ordBefore c) (c.atomRequests o returns s).1 :=
  (AtomOp.keeps_scratch hspace hpass).atomGroups returns _ [] ⟨rfl, fun _ _ _ => rfl⟩

theorem State.ordBefore_scratch (s : State) (c : Ctx) (j : Nat) : ((s.ordBefore c).core j).scratch = (s.core j).scratch :=
  (State.Untouched.ordBefore (A := fun _ => False) (.refl fun _ hf => hf.elim)).scratch j

end

section
variable {f : Fields} {s t : State} {c : Ctx}

/-- An instruction that issues is not of an illegal opcode (step 2 of R49). -/
theorem IssuesAs.badOpcode_false {op : Nat} {sh : Shape} (h : IssuesAs op sh f s c) : sh.badOpcode = false := by
  by_contra hbad
  rw [Bool.not_eq_false] at hbad
  have hill : ({ sh with badOpcode := sh.badOpcode || (c.ord.isSome && !prefixable op) } : Shape).illegalOpcode c.f = true := by
    simp [Shape.illegalOpcode, hbad]
  cases (precheck_of_illegalOpcode hill).symm.trans h.2

/-- What the obligation says of an atomic of a width. -/
def Ctx.atomFrame (c : Ctx) (s t : State) (width : Nat) : Prop :=
  (∀ a, c.f.modBits 0 2 = 0 → (s.core c.core).cleanAt a → ¬ c.reachesHome s 0 width 3 a → Sparse.get 0 t.mem a = Sparse.get 0 s.mem a) ∧
    (c.f.modBits 0 2 ≠ 0 → c.ord = none → t.mem = s.mem) ∧
    ∀ k a, (¬ ∃ x ∈ c.passing, c.reaches s (c.f.modBits 0 2) width 3 x k a) → Sparse.get 0 (t.core k).scratch a = Sparse.get 0 (s.core k).scratch a

/-- Parked, a batch has changed neither memory nor scratchpads. -/
theorem Ctx.atomFrame_park (width : Nat) (e : FaultInfo) : c.atomFrame s (s.parkBatch c e) width := by
  refine ⟨fun a _ _ _ => by rw [State.parkBatch_mem], fun _ _ => State.parkBatch_mem .., fun k a _ => ?_⟩
  rw [State.core, State.parkBatch_cores, ← State.core]

/-- An atomic on memory. -/
theorem Ctx.atomFrame_home {o : AtomOp} {sh : Shape} {returns : Bool} (hspace : c.f.modBits 0 2 = 0) (h : atomBody o sh returns c s = .ok t) :
    c.atomFrame s t o.width := by
  obtain ⟨hpass, hmem, hscratch⟩ := atomBody_cases h
  have hother : c.f.modBits 0 2 ≠ 1 ∧ c.f.modBits 0 2 ≠ 2 := by omega
  refine ⟨fun a _ hclean hout => ?_, fun hne => absurd hspace hne, fun k a _ => ?_⟩
  · have hkept := Ctx.atomRequests_untouched (A := (· = a)) returns hother hpass (fun b hb => hb ▸ hclean) fun b hb => by rw [hb, hspace]; exact hout
    rw [hmem, hkept.mem a rfl]
  · have hkept := Ctx.atomRequests_untouched (A := fun _ => False) returns hother hpass (fun _ hf => hf.elim) fun _ hf => hf.elim
    rw [hscratch, hkept.scratch]

/-- An atomic on scratchpads. -/
theorem Ctx.atomFrame_scratch {o : AtomOp} {sh : Shape} {returns : Bool} (hspace : c.f.modBits 0 2 = 1 ∨ c.f.modBits 0 2 = 2)
    (h : atomBody o sh returns c s = .ok t) : c.atomFrame s t o.width := by
  obtain ⟨hpass, hmem, hscratch⟩ := atomBody_cases h
  obtain ⟨hsame, hbytes⟩ := Ctx.atomRequests_scratchKept returns hspace hpass
  refine ⟨fun a hzero => by omega, fun _ hord => ?_, fun k a hnone => ?_⟩
  · rw [hmem, hsame, State.ordBefore_id fun o sc ho => by cases hord.symm.trans ho]
  · rw [hscratch, hbytes k a fun x hx hat => hnone ⟨x, hx, hat⟩, State.ordBefore_scratch]

theorem Ctx.atomFrame_tainted {op width : Nat} (h : c.atomFrame (s.tainted c op f) t width) : c.atomFrame s t width := by
  simpa only [Ctx.atomFrame, Ctx.reachesHome, Ctx.reaches, Ctx.laneAt_tainted, State.core_tainted, State.tainted_mem] using h

/-- An atomic or reduction that issues, with the checks of its row and of what stands before it. -/
theorem runWith_atomFrame {op : Nat} {o : AtomOp} {sh : Shape} {shape : Ctx → Shape} {returns : Bool} (hissues : IssuesAs op sh f s c)
    (hsh : sh.badOpcode = decide (c.f.modBits 0 2 = 3)) (hexec : runWith op shape f s (atomBody o sh returns) = .next t) : c.atomFrame s t o.width := by
  rcases runWith_cases hissues.1 hexec with ⟨e, rfl⟩ | hbody
  · exact Ctx.atomFrame_park ..
  · have hlegal : c.f.modBits 0 2 ≠ 3 := of_decide_eq_false (hsh ▸ hissues.badOpcode_false)
    have hlt : c.f.modBits 0 2 < 4 := Nat.mod_lt _ (by omega)
    by_cases hzero : c.f.modBits 0 2 = 0
    · exact Ctx.atomFrame_tainted (Ctx.atomFrame_home hzero hbody)
    · exact Ctx.atomFrame_tainted (Ctx.atomFrame_scratch (by omega) hbody)

theorem IssuesAs.atomFrame (op : Nat) (o : AtomOp) (dst r : Role) (cas : Bool) (h : IssuesAs op (.atom f dst r cas) f s c)
    (hexec : runAtom op o (.atom f dst r cas) f s = .next t) : c.atomFrame s t o.width :=
  runWith_atomFrame h (by rw [h.fields]; rfl) hexec

theorem IssuesAs.redFrame (op : Nat) (o : AtomOp) (dst r : Role) (cas : Bool) (h : IssuesAs op (.atom f dst r cas) f s c)
    (hexec : runRed op o (.atom f dst r cas) f s = .next t) : c.atomFrame s t o.width :=
  runWith_atomFrame h (by rw [h.fields]; rfl) hexec

end

/-- Settles O56: what parks changes no byte; else atomics group by group, stores lane by lane. -/
theorem globalAccessesKeepOtherBytes : Obligations.GlobalAccessesKeepOtherBytes := by
  unfold Obligations.GlobalAccessesKeepOtherBytes
  intro f s t c
  simp only [List.forall_mem_cons, List.not_mem_nil, false_imp_iff, implies_true, and_true]
  exact ⟨⟨IssuesAs.atomFrame 0x0D6 .add32 .v .v false, IssuesAs.atomFrame 0x0D8 .addF32 .v .v false, IssuesAs.atomFrame 0x0D9 .addBf16x2 .v .v false,
      IssuesAs.atomFrame 0x0DA .minS .v .v false, IssuesAs.atomFrame 0x0DB .minU .v .v false, IssuesAs.atomFrame 0x0DC .maxS .v .v false,
      IssuesAs.atomFrame 0x0DD .maxU .v .v false, IssuesAs.atomFrame 0x0DE .and .v .v false, IssuesAs.atomFrame 0x0DF .or .v .v false,
      IssuesAs.atomFrame 0x0E0 .xor .v .v false, IssuesAs.atomFrame 0x0E1 (.exch 4) .v .v false, IssuesAs.atomFrame 0x0E3 (.cas 4) .v .v true,
      IssuesAs.atomFrame 0x0E5 .inc .v .v false,
      IssuesAs.redFrame 0x0E6 .add32 .no .v false, IssuesAs.redFrame 0x0E8 .addF32 .no .v false, IssuesAs.redFrame 0x0E9 .addBf16x2 .no .v false,
      IssuesAs.redFrame 0x0EA .minS .no .v false, IssuesAs.redFrame 0x0EB .minU .no .v false, IssuesAs.redFrame 0x0EC .maxS .no .v false,
      IssuesAs.redFrame 0x0ED .maxU .no .v false, IssuesAs.redFrame 0x0EE .and .no .v false, IssuesAs.redFrame 0x0EF .or .no .v false,
      IssuesAs.redFrame 0x0F0 .xor .no .v false, IssuesAs.redFrame 0x0F1 .inc .no .v false⟩,
    ⟨IssuesAs.atomFrame 0x0D7 .add64 .pair .pair false, IssuesAs.atomFrame 0x0E2 (.exch 8) .pair .pair false,
      IssuesAs.atomFrame 0x0E4 (.cas 8) .pair .pair true, IssuesAs.redFrame 0x0E7 .add64 .no .pair false⟩,
    fun a hclean => ⟨IssuesAs.loadKeeps 0x0B2 (.ld 0 f) widthOf hclean, IssuesAs.loadKeeps 0x0B5 (.ldQ 0 f) quadWidth hclean,
      IssuesAs.storeKeeps 0x0B8 (.st 0 f) widthOf (widthOf_words c.f) hclean, IssuesAs.storeKeeps 0x0BB (.stQ 0 f) quadWidth (quadWidth_words c.f) hclean⟩⟩

end Sys2Proof.Machine
end

section
/-! `PHASE.AR` as `PHASE.REL` and then `PHASE.ACQ` (R226, R227, R229). -/

namespace Sys2Proof.Machine

section
variable {f : Fields} {s : State} {c d : Ctx}

/-- Two opcodes issue for the same batch: their contexts differ in the word alone. -/
theorem Ctx.of?_word {op op' : Nat} (hc : Ctx.of? s op f = some c) (hd : Ctx.of? s op' f = some d) : d = { c with word := wordOf op' f } := by
  simp only [Ctx.of?, Option.bind_eq_some_iff] at hc hd
  obtain ⟨i, hi, sl, hsl, w, hw, hc⟩ := hc
  obtain ⟨i', hi', sl', hsl', w', hw', hd⟩ := hd
  cases hi.symm.trans hi'
  cases hsl.symm.trans hsl'
  cases hw.symm.trans hw'
  split at hc
  next => cases hc
  next x t hlanes =>
    rw [hlanes] at hd
    cases hc
    cases hd
    rfl

/-- The release, said of any context of its batch. -/
theorem phaseRel_completes {op : Nat} (hc : Ctx.of? s op f = some c) (h : Issues (.phaseRel f) s d) (hheld : c.heldFault = none) :
    exec (.phaseRel f) s = .next ((c.releases false s).updLanes c Fibre.next) := by
  obtain rfl := Ctx.of?_word hc h.1
  have hdone := (IssuesAs.boundary 0x0D0 (.phase f) (Ctx.releases false) rfl).1 h hheld
  exact hdone

/-- The acquire, said of any context of its batch. -/
theorem phaseAcq_completes {op : Nat} (hc : Ctx.of? s op f = some c) (h : Issues (.phaseAcq f) s d) (hheld : c.heldFault = none) :
    exec (.phaseAcq f) s = .next ((c.acquiresAt s).updLanes c Fibre.next) := by
  obtain rfl := Ctx.of?_word hc h.1
  have hdone := (IssuesAs.boundary 0x0D1 (.phase f) Ctx.acquiresAt rfl).1 h hheld
  exact hdone

theorem phaseAr_completes (h : Issues (.phaseAr f) s c) (hheld : c.heldFault = none) : exec (.phaseAr f) s = .next ((c.releases true s).updLanes c Fibre.next) :=
  (IssuesAs.boundary 0x0D2 (.phase f) (Ctx.releases true) rfl).1 h hheld

end

/-- Settles O45: the three boundaries issue for one batch, and each leaves what its halves leave at the scope. -/
theorem phaseArIsReleaseThenAcquire : Obligations.PhaseArIsReleaseThenAcquire := by
  unfold Obligations.PhaseArIsReleaseThenAcquire
  intro f s c har hheld scope r
  have hscope : c.f.modBits 0 3 = scope := by
    rw [Fields.modBits_eq, pow_zero, Nat.div_one]
    rfl
  have hreleases (acq : Bool) : c.releases acq s =
      if r.openStores ≠ [] then r.holdFor c.wg.key c.lanes r.openStores (if acq then some scope else none) else if acq then r.acquire c.core scope else r := by
    rw [Ctx.releases, State.releaseBy_eq, hscope]
  refine ⟨fun hnone => ⟨?_, fun d hd => ?_, fun d hd hatomics => ?_⟩, fun hout => ⟨?_, fun d hd => ?_⟩⟩
  · rw [phaseAr_completes har hheld, hreleases, if_neg (not_not.mpr hnone), if_pos rfl]
  · rw [phaseRel_completes har.1 hd hheld, hreleases, if_neg (not_not.mpr hnone), if_neg Bool.false_ne_true]
  · rw [phaseAcq_completes har.1 hd hheld, Ctx.acquiresAt, State.acquireBy_eq, if_pos hatomics, hscope]
  · rw [phaseAr_completes har hheld, hreleases, if_pos hout, if_pos rfl]
  · rw [phaseRel_completes har.1 hd hheld, hreleases, if_pos hout, if_neg Bool.false_ne_true]

end Sys2Proof.Machine
end

section
/-! The requests of one address (R241, R243, R244): a lane's answer is what the lanes before it leave. -/

namespace Sys2Proof.Machine

/-! Folds that keep every value on their way. -/

/-- A fold that writes down its value before each step. -/
theorem foldl_snoc_eq {α β : Type} (step : β → α → β) (l : List α) (m : β) :
    l.foldl (fun (acc : List β × β) x => (acc.1 ++ [acc.2], step acc.2 x)) ([], m) =
      ((List.range l.length).map (fun k => (l.take k).foldl step m), l.foldl step m) := by
  induction l using List.reverseRecOn with
  | nil => rfl
  | append_singleton l x ih =>
    have hprefix : ∀ k ∈ List.range l.length, ((l ++ [x]).take k).foldl step m = (l.take k).foldl step m := fun k hk => by
      rw [List.take_append_of_le_length (List.mem_range.mp hk).le]
    rw [List.foldl_concat, List.foldl_concat, ih, List.length_append, List.length_singleton, List.range_succ, List.map_append, List.map_congr_left hprefix,
      List.map_singleton, List.take_left']
    rfl

/-- Two folds whose steps agree where a property holds that the steps keep. -/
theorem foldl_congr_of_keeps {α β : Type} (P : β → Prop) {step step' : β → α → β} {l : List α} {m : β} (hm : P m)
    (h : ∀ a, P a → ∀ x ∈ l, step a x = step' a x ∧ P (step' a x)) : l.foldl step m = l.foldl step' m := by
  induction l generalizing m with
  | nil => rfl
  | cons x t ih =>
    obtain ⟨heq, hkept⟩ := h m hm x List.mem_cons_self
    rw [List.foldl_cons, List.foldl_cons, heq]
    exact ih hkept fun a ha y hy => h a ha y (List.mem_cons_of_mem x hy)

/-- A fold over pairs whose parts are combined apart, as far as a first part keeps a property. -/
theorem foldl_of_pairs {α β γ : Type} (P : β → Prop) {pair : β → β → γ} {plus : γ → γ → γ} {add : β → β → β} {u v : α → β}
    (hplus : ∀ a b c d, P a → P c → plus (pair a b) (pair c d) = pair (add a c) (add b d)) (hadd : ∀ a c, P (add a c)) (hu : ∀ x, P (u x))
    (l : List α) {a : β} (ha : P a) (b : β) :
    (l.map (fun x => pair (u x) (v x))).foldl plus (pair a b) = pair ((l.map u).foldl add a) ((l.map v).foldl add b) := by
  induction l generalizing a b with
  | nil => rfl
  | cons x t ih =>
    simp only [List.map_cons, List.foldl_cons, hplus a b _ _ ha (hu x)]
    exact ih (hadd a (u x)) (add b (v x))

/-- The operands of lanes summed in their order, the first as it stands. -/
def sumOf (plus : Nat → Nat → Nat) : List Nat → Nat
  | [] => 0
  | a :: t => t.foldl plus a

/-- A group of requests leaves and answers what a fold over the lanes gives, lane by lane. -/
def AtomOp.Serial (o : AtomOp) (m : Nat) (lanes : List (Nat × Nat)) (step : Nat → Nat × Nat → Nat) : Prop :=
  (o.group m lanes).2 = lanes.foldl step m ∧ ∀ k, k < lanes.length → (o.group m lanes).1[k]? = some ((lanes.take k).foldl step m)

/-- A group of requests leaves and answers what the lanes' operands give together; the first lane's answer is the old word. -/
def AtomOp.Summed (o : AtomOp) (m : Nat) (lanes : List (Nat × Nat)) (after : List (Nat × Nat) → Nat) : Prop :=
  (o.group m lanes).2 = after lanes ∧ ∀ k, k < lanes.length → (o.group m lanes).1[k]? = some (if k = 0 then m else after (lanes.take k))

section
variable {o : AtomOp} {m : Nat} {lanes : List (Nat × Nat)}

theorem AtomOp.group_of_serial {new : Nat → Nat → Nat → Nat} (h : o.serial = some new) (m : Nat) (lanes : List (Nat × Nat)) :
    o.group m lanes = ((List.range lanes.length).map (fun k => (lanes.take k).foldl (fun a l => new a l.1 l.2) m), lanes.foldl (fun a l => new a l.1 l.2) m) := by
  rw [AtomOp.group, h]
  exact foldl_snoc_eq (fun a (l : Nat × Nat) => new a l.1 l.2) lanes m

theorem AtomOp.group_of_sum (h : o.serial = none) (m : Nat) (x : Nat × Nat) (t : List (Nat × Nat)) :
    o.group m (x :: t) = (m :: (List.range t.length).map (fun k => o.apply m (sumOf o.plus (((x :: t).take (k + 1)).map (fun e => o.lift e.1)))),
      o.apply m (sumOf o.plus ((x :: t).map (fun e => o.lift e.1)))) := by
  rw [AtomOp.group, h, List.map_cons]
  dsimp only
  rw [foldl_snoc_eq, List.map_map, List.length_map]
  simp only [← List.map_take]
  rfl

/-- An operation performed lane by lane. -/
theorem AtomOp.serial_of_new {new : Nat → Nat → Nat → Nat} (h : o.serial = some new) : o.Serial m lanes (fun a l => new a l.1 l.2) := by
  rw [AtomOp.Serial, AtomOp.group_of_serial h]
  exact ⟨rfl, fun k hk => by rw [List.getElem?_map, List.getElem?_range hk]; rfl⟩

/-- An operation whose operands are combined first. -/
theorem AtomOp.summed (h : o.serial = none) (hne : lanes ≠ []) : o.Summed m lanes (fun l => o.apply m (sumOf o.plus (l.map (fun e => o.lift e.1)))) := by
  obtain ⟨x, t, rfl⟩ := List.exists_cons_of_ne_nil hne
  rw [AtomOp.Summed, AtomOp.group_of_sum h]
  refine ⟨rfl, fun k hk => ?_⟩
  cases k with
  | zero => rfl
  | succ k => rw [List.getElem?_cons_succ, List.getElem?_map, List.getElem?_range (Nat.succ_lt_succ_iff.mp hk), if_neg k.succ_ne_zero]; rfl

theorem AtomOp.Summed.congr {after after' : List (Nat × Nat) → Nat} (h : o.Summed m lanes after) (heq : ∀ l, l ⊆ lanes → after l = after' l) :
    o.Summed m lanes after' :=
  ⟨h.1.trans (heq lanes fun _ hx => hx), fun k hk => by rw [h.2 k hk, heq _ (List.take_subset k lanes)]⟩

theorem AtomOp.Serial.congr {step step' : Nat → Nat × Nat → Nat} (P : Nat → Prop) (h : o.Serial m lanes step) (hm : P m)
    (heq : ∀ a, P a → ∀ x ∈ lanes, step a x = step' a x ∧ P (step' a x)) : o.Serial m lanes step' :=
  ⟨h.1.trans (foldl_congr_of_keeps P hm heq), fun k hk => by
    rw [h.2 k hk, foldl_congr_of_keeps P hm fun a ha x hx => heq a ha x (List.mem_of_mem_take hx)]⟩

/-- An integer operation that combines its operands first acts lane by lane, since it is associative (R243). -/
theorem AtomOp.int_serial (width : Nat) {op : Nat → Nat → Nat} (hassoc : ∀ a b c, op (op a b) c = op a (op b c)) :
    (AtomOp.int width op).Serial m lanes (fun a l => op a l.1) := by
  cases lanes with
  | nil => exact ⟨rfl, fun k hk => absurd hk k.not_lt_zero⟩
  | cons x t =>
    have hafter : ∀ y (l : List (Nat × Nat)), op m (sumOf op ((y :: l).map (fun e => e.1))) = (y :: l).foldl (fun a e => op a e.1) m := fun y l => by
      have : Std.Associative op := ⟨hassoc⟩
      rw [List.map_cons, sumOf, ← List.foldl_assoc (op := op), List.foldl_map, List.foldl_cons]
    obtain ⟨hlast, hanswers⟩ := AtomOp.summed (o := .int width op) (m := m) (lanes := x :: t) rfl (List.cons_ne_nil x t)
    refine ⟨hlast.trans (hafter x t), fun k hk => (hanswers k hk).trans ?_⟩
    cases k with
    | zero => rfl
    | succ k => exact congrArg some (hafter x (t.take k))

end

/-! The BF16 halves (R244). -/

theorem Fmt.signed_lt (t : Fmt) (neg : Bool) {c : Nat} (hc : c < 2 ^ (t.width - 1)) : t.signed neg c < 2 ^ t.width := by
  rw [Fmt.signed, Fmt.two_pow_width]
  split <;> omega

theorem Fmt.nanCode_lt (t : Fmt) : t.nanCode < 2 ^ t.width := by cases t <;> decide

theorem Fmt.infCode_lt {t : Fmt} (h : t.hasInf = true) (neg : Bool) : t.infCode neg < 2 ^ t.width :=
  t.signed_lt neg (by revert h; cases t <;> decide)

theorem Fmt.overflowCode_lt (t : Fmt) (mode : Mode) (satf neg : Bool) : t.overflowCode mode satf neg < 2 ^ t.width := by
  unfold Fmt.overflowCode
  dsimp only
  split
  · exact t.signed_lt neg t.maxCode_lt
  · split
    next hinf => exact Fmt.infCode_lt hinf neg
    next => exact t.nanCode_lt

/-- The code that a rounding gives lies within its format's width. -/
theorem roundTo_lt (t : Fmt) (mode : Mode) (satf : Bool) (x : XReal) : (roundTo t mode satf x).1 < 2 ^ t.width := by
  cases x with
  | nan =>
    simp only [roundTo]
    split
    · exact t.nanCode_lt
    · positivity
  | inf neg =>
    have hmax := t.signed_lt neg t.maxCode_lt
    simp only [roundTo]
    split
    next hinf =>
      split
      · exact hmax
      · exact Fmt.infCode_lt hinf neg
    next =>
      split
      · exact t.nanCode_lt
      · exact hmax
  | fin neg m e =>
    by_cases hm : m = 0
    · subst hm
      exact t.signed_lt neg (by positivity)
    · rw [roundTo_fin hm]
      split
      next => exact t.overflowCode_lt mode satf neg
      next hle => exact t.signed_lt neg ((not_lt.mp hle).trans_lt t.maxCode_lt)

theorem add32_lt (a b : Nat) : add32 a b < 2 ^ 32 := roundTo_lt .f32 .rn false (addX .rn (Fmt.f32.value a) (Fmt.f32.value b)).1

theorem widenTo32_lt (t : Fmt) (c : Nat) : widenTo32 t c < 2 ^ 32 := roundTo_lt .f32 .rn false (t.value c)

/-- Two FP32 codes in one number, as a lifted operand holds them. -/
def codePair (a b : Nat) : Nat := a + b * 2 ^ 32

theorem codePair_low {a : Nat} (ha : a < 2 ^ 32) (b : Nat) : codePair a b % 2 ^ 32 = a := by rw [codePair]; omega

theorem codePair_high {a : Nat} (ha : a < 2 ^ 32) (b : Nat) : codePair a b / 2 ^ 32 = b := by rw [codePair]; omega

theorem foldl_add32_lt (l : List Nat) {a : Nat} (ha : a < 2 ^ 32) : l.foldl add32 a < 2 ^ 32 := by
  cases l using List.reverseRecOn with
  | nil => exact ha
  | append_singleton l x => rw [List.foldl_concat]; exact add32_lt ..

theorem addBf16x2_plus (a b : Nat) : AtomOp.addBf16x2.plus a b = codePair (add32 (a % 2 ^ 32) (b % 2 ^ 32)) (add32 (a / 2 ^ 32) (b / 2 ^ 32)) := rfl

theorem addBf16x2_apply (m t : Nat) :
    AtomOp.addBf16x2.apply m t = addHalf (m % 2 ^ 16) (t % 2 ^ 32) + addHalf (m / 2 ^ 16) (t / 2 ^ 32) * 2 ^ 16 := rfl

theorem addBf16x2_lift : AtomOp.addBf16x2.lift = fun b => codePair (widenTo32 .bf16 (b % 2 ^ 16)) (widenTo32 .bf16 (b / 2 ^ 16)) := rfl

theorem addBf16x2_plus_codePair (b d : Nat) {a c : Nat} (ha : a < 2 ^ 32) (hc : c < 2 ^ 32) :
    AtomOp.addBf16x2.plus (codePair a b) (codePair c d) = codePair (add32 a c) (add32 b d) := by
  rw [addBf16x2_plus, codePair_low ha, codePair_low hc, codePair_high ha, codePair_high hc]

/-- The halves are summed apart. -/
theorem sumOf_codePair {α : Type} {u v : α → Nat} (hu : ∀ x, u x < 2 ^ 32) (l : List α) :
    sumOf AtomOp.addBf16x2.plus (l.map (fun x => codePair (u x) (v x))) = codePair (sumOf add32 (l.map u)) (sumOf add32 (l.map v)) ∧
      sumOf add32 (l.map u) < 2 ^ 32 := by
  cases l with
  | nil => exact ⟨by simp only [List.map_nil, sumOf, codePair, Nat.zero_mul], Nat.two_pow_pos 32⟩
  | cons x t =>
    exact ⟨foldl_of_pairs (fun a => a < 2 ^ 32) (fun a b c d => addBf16x2_plus_codePair b d) add32_lt hu t (hu x) (v x), foldl_add32_lt _ (hu x)⟩

/-- `ADD.BF16X2` adds to each half of a word the FP32 sum of the lanes' halves (R244). -/
theorem addBf16x2_apply_sum (m : Nat) (l : List Nat) : AtomOp.addBf16x2.apply m (sumOf AtomOp.addBf16x2.plus (l.map AtomOp.addBf16x2.lift)) =
    addHalf (m % 2 ^ 16) (sumOf add32 (l.map (fun b => widenTo32 .bf16 (b % 2 ^ 16)))) +
      addHalf (m / 2 ^ 16) (sumOf add32 (l.map (fun b => widenTo32 .bf16 (b / 2 ^ 16)))) * 2 ^ 16 := by
  obtain ⟨hsum, hlow⟩ := sumOf_codePair (v := fun b => widenTo32 .bf16 (b / 2 ^ 16)) (fun b => widenTo32_lt .bf16 (b % 2 ^ 16)) l
  rw [addBf16x2_lift, hsum, addBf16x2_apply, codePair_low hlow, codePair_high hlow]

/-- The halves of a word. -/
theorem half_zero (x : Nat) : x / 2 ^ (16 * 0) % 2 ^ 16 = x % 2 ^ 16 := by rw [Nat.mul_zero, pow_zero, Nat.div_one]

theorem half_one {x : Nat} (hx : x < 2 ^ 32) : x / 2 ^ (16 * 1) % 2 ^ 16 = x / 2 ^ 16 := Nat.mod_eq_of_lt (Nat.div_lt_of_lt_mul hx)

/-! Signed minima and maxima. -/

/-- The one of two numbers with the smaller key, the first where the keys are equal. -/
def leastBy (key : Nat → Int) (a b : Nat) : Nat := if key b < key a then b else a

theorem leastBy_assoc (key : Nat → Int) (a b c : Nat) : leastBy key (leastBy key a b) c = leastBy key a (leastBy key b c) := by
  unfold leastBy
  split_ifs <;> omega

theorem leastBy_lt {key : Nat → Int} {a b n : Nat} (ha : a < n) (hb : b < n) : leastBy key a b < n := by
  unfold leastBy
  split <;> assumption

/-- A minimum by a key acts lane by lane, by any key with the same order on words. -/
theorem AtomOp.leastBy_serial {m : Nat} {lanes : List (Nat × Nat)} {key key' : Nat → Int} (hkey : ∀ x < 2 ^ 32, key x = key' x) (hm : m < 2 ^ 32)
    (hlanes : ∀ l ∈ lanes, l.1 < 2 ^ 32 ∧ l.2 < 2 ^ 32) : (AtomOp.int 4 (leastBy key)).Serial m lanes (fun a l => leastBy key' a l.1) :=
  (AtomOp.int_serial 4 (leastBy_assoc key)).congr (· < 2 ^ 32) hm fun a ha x hx => by
    have hx := (hlanes x hx).1
    exact ⟨by rw [leastBy, leastBy, hkey a ha, hkey x.1 hx], leastBy_lt ha hx⟩

/-- The larger of two numbers is the one with the smaller negated key. -/
theorem leastBy_neg (key : Nat → Int) (a b : Nat) : leastBy (fun x => -key x) a b = if key a < key b then b else a := by
  simp only [leastBy, neg_lt_neg_iff]

theorem maxS_eq_leastBy : AtomOp.maxS = .int 4 (leastBy (fun x => -signedOf 32 x)) :=
  congrArg (AtomOp.int 4) (funext fun a => funext fun b => (leastBy_neg (signedOf 32) a b).symm)

/-- Settles O21: what combines its operands first acts lane by lane where it is associative; the float sums add up before they meet the word. -/
theorem atomicsActLaneByLane : Obligations.AtomicsActLaneByLane := by
  unfold Obligations.AtomicsActLaneByLane
  intro m lanes serial summed s32 plus sum half wide halfAfter
  refine ⟨fun hm hl => ⟨?add, ?minS, ?minU, ?maxS, ?maxU, ?and, ?or, ?xor, ?exch, ?cas, ?inc, ?addF32, ?addBf16x2⟩, fun _ _ => ⟨?add64, ?exch64, ?cas64⟩⟩
  case add => exact AtomOp.int_serial 4 fun a b c => by rw [Nat.mod_add_mod, Nat.add_mod_mod, Nat.add_assoc]
  case add64 => exact AtomOp.int_serial 8 fun a b c => by rw [Nat.mod_add_mod, Nat.add_mod_mod, Nat.add_assoc]
  case minU => exact AtomOp.int_serial 4 Nat.min_assoc
  case maxU => exact AtomOp.int_serial 4 Nat.max_assoc
  case and => exact AtomOp.int_serial 4 Nat.and_assoc
  case or => exact AtomOp.int_serial 4 Nat.or_assoc
  case xor => exact AtomOp.int_serial 4 Nat.xor_assoc
  case exch => exact AtomOp.serial_of_new (new := fun _ b _ => b) rfl
  case exch64 => exact AtomOp.serial_of_new (new := fun _ b _ => b) rfl
  case cas => exact AtomOp.serial_of_new (new := fun m b c => if m = b then c else m) rfl
  case cas64 => exact AtomOp.serial_of_new (new := fun m b c => if m = b then c else m) rfl
  case inc => exact AtomOp.serial_of_new (new := fun m b _ => if m ≥ b then 0 else m + 1) rfl
  case addF32 => exact AtomOp.summed rfl
  case minS => exact AtomOp.leastBy_serial (key := signedOf 32) (key' := s32) (fun x hx => signedOf_eq_toInt (by decide) hx) hm hl
  case maxS =>
    have hmax := AtomOp.leastBy_serial (key := fun x => -signedOf 32 x) (key' := fun x => -s32 x)
      (fun x hx => congrArg Neg.neg (signedOf_eq_toInt (by decide) hx)) hm hl
    rw [maxS_eq_leastBy]
    simp only [leastBy_neg s32] at hmax
    exact hmax
  case addBf16x2 =>
    intro hne
    refine AtomOp.Summed.congr (after' := fun l => halfAfter l 0 + halfAfter l 1 * 2 ^ 16) (AtomOp.summed (o := .addBf16x2) rfl hne) fun l hsub => ?_
    have hhalf (i : Nat) : halfAfter l i =
        addHalf (m / 2 ^ (16 * i) % 2 ^ 16) (sumOf Machine.add32 (l.map (fun e => widenTo32 .bf16 (e.1 / 2 ^ (16 * i) % 2 ^ 16)))) := rfl
    have hhigh : l.map (fun e => widenTo32 .bf16 (e.1 / 2 ^ (16 * 1) % 2 ^ 16)) = l.map (fun e => widenTo32 .bf16 (e.1 / 2 ^ 16)) :=
      List.map_congr_left fun e he => by rw [half_one (hl e (hsub he)).1]
    have hsum := addBf16x2_apply_sum m (l.map (fun e => e.1))
    simp only [List.map_map, Function.comp_def] at hsum
    rw [hhalf, hhalf, hhigh, half_one hm]
    simp only [half_zero]
    exact hsum

end Sys2Proof.Machine
end

section
/-! A request to this package's barrier unit of which a lane has no header: the port drops it (R19, R286; log 18). -/

namespace Sys2Proof.Machine

/-- A good flit at a port that has trained is taken. -/
theorem exec_goodFlit {s : State} {port : Nat} (hport : port < 32) (hup : s.linksDown = false) (item : ColnalItem) :
    exec (.colnalFlitReceive port true item) s = .next (s.takeItem port item) := by
  have hdown : ¬ (port ≥ 32 ∨ s.linksDown = true) := by simp [hport, hup]
  change execColnalFlitReceive port true item s = _
  rw [execColnalFlitReceive, if_neg hdown, if_neg (by decide)]

/-- A barrier request of another package with a lane whose header the unit does not reach changes nothing. -/
theorem State.takeItem_barrier_headerless (s : State) (port tag : Nat) {a : BarrierAsk} {x : BarrierLane} (hx : x ∈ a.lanes) (hnone : headerOf x.entries = none) :
    s.takeItem port (.barrier tag a) = s := by
  have hlanes : a.lanes.all (fun x => (headerOf x.entries).any (fun p => servedHere p.pa 64)) = false :=
    List.all_eq_false.mpr ⟨x, hx, by simp [hnone]⟩
  simp only [State.takeItem, hlanes, Bool.not_false, Bool.or_true, if_true]

/-- Another package asks for the scope of an object that has no entries. -/
def headerlessAsk : BarrierAsk := { op := .scope, package := Config.package + 1, core := 0, wgid := 0, lanes := [{ fibre := 0, entries := [] }] }

/-- Refutes O37: its clause of barrier requests asks only that the headers that a request's lanes have are served here, and then for an answer and a
grant of the port. A lane without a header meets that (`headerlessAsk` at the reset state), but the port answers only requests whose every lane
has one: nothing is said, where the clause has the grant. -/
theorem not_fabricEventsComplete : ¬ Obligations.FabricEventsComplete := by
  unfold Obligations.FabricEventsComplete
  rintro ⟨hevents, -⟩
  obtain ⟨-, -, -, -, hflits, -⟩ := hevents State.reset
  obtain ⟨-, -, -, -, -, -, -, hbarrier, -⟩ := hflits 0 .part (by decide) rfl
  have hserved : ∀ x ∈ headerlessAsk.lanes, ∀ p, headerOf x.entries = some p → servedHere p.pa 64 = true := by
    rintro x hx p hp
    obtain rfl := List.mem_singleton.mp hx
    cases hp
  have hdropped : exec (.colnalFlitReceive 0 true (.barrier 0 headerlessAsk)) State.reset = .next State.reset := by
    rw [exec_goodFlit (by decide) rfl, State.takeItem_barrier_headerless _ 0 0 (List.mem_singleton_self _) rfl]
  have hanswered := hbarrier 0 headerlessAsk (Nat.succ_ne_self _) hserved
  have hsaid : State.reset.outputs = State.reset.outputs ++ [.grant 0 0] := congrArg State.outputs (Host.Outcome.next.inj (hdropped.symm.trans hanswered))
  simp at hsaid

end Sys2Proof.Machine
end

section
/-! The barrier instructions (R275 to R279, R501, R502): the bodies of arrivals, waits and queries, and the checks that `BINIT` and `BINV` make in the core. -/

namespace Sys2Proof.Machine

section
variable {f : Fields} {s t : State} {c : Ctx}

/-- An instruction of the residency chapter with no fault held does what its body does (R501). -/
theorem residency_none {g : State → Except FaultInfo State} (h : c.heldBarrier = none) : residency c t g = g t := by
  simp only [residency, h]

/-- The requests of the batch's handles, with each lane's count. -/
def Ctx.requests (c : Ctx) (count : Fibre → Nat) : List (Nat × List (Nat × Nat × Nat)) := byHandle c (handleOf c) count

/-! Waits and queries (R277, R279). -/

/-- The body of an instruction that asks the unit about its handles. -/
def askBody (o : BarrierOp) (kind : Wait) (count : Ctx → Fibre → Nat) (c : Ctx) (t : State) : Except FaultInfo State :=
  residency c t fun u => if c.passing.isEmpty then .ok (u.updLanes c Fibre.next) else .ok (u.request c o kind (c.requests (count c)) 0)

theorem IssuesAs.asks (op : Nat) (sh : Shape) (o : BarrierOp) (kind : Wait) (count : Ctx → Fibre → Nat)
    (h : IssuesAs op sh f s c ∧ c.heldBarrier = none) (hp : c.passing ≠ []) :
    runBatch op sh f s (askBody o kind count) = .next ((s.tainted c op f).request c o kind (c.requests (count c)) 0) :=
  h.1.next (by rw [askBody, residency_none h.2, if_neg (mt List.isEmpty_iff.mp hp)])

theorem IssuesAs.asksNothing (op : Nat) (sh : Shape) (o : BarrierOp) (kind : Wait) (count : Ctx → Fibre → Nat)
    (h : IssuesAs op sh f s c ∧ c.heldBarrier = none) (hp : c.passing = []) :
    runBatch op sh f s (askBody o kind count) = .next ((s.tainted c op f).updLanes c Fibre.next) :=
  h.1.next (by rw [askBody, residency_none h.2, if_pos (List.isEmpty_iff.mpr hp)])

/-! Arrivals (R276, R502). -/

theorem IssuesAs.arrivesAtNone (op : Nat) (sh : Shape) (o : BarrierOp) (kind : Wait) (count : Ctx → Fibre → Nat)
    (h : IssuesAs op sh f s c ∧ c.heldBarrier = none) (hp : c.passing = []) :
    runBatch op sh f s (arriveBody o kind count) = .next ((s.tainted c op f).updLanes c Fibre.next) :=
  h.1.next (by rw [arriveBody, residency_none h.2, if_pos (List.isEmpty_iff.mpr hp)])

/-- The scope, plus one, that the port of the batch's core holds for a handle; 0 where it holds none. -/
def State.portOf (t : State) (c : Ctx) : Nat → Nat := t.portScope c.core c.launch.areaOwner

/-- The requests of an arrival once the `PHASE.AR` at a scope has released: its acquire comes before them or, where stores are still out, after. -/
def State.arriveAfter (v : State) (c : Ctx) (o : BarrierOp) (kind : Wait) (g : List (Nat × List (Nat × Nat × Nat))) (sc : Nat) : State :=
  if v.openStores = [] then (v.acquire c.core (sc - 1)).request c o kind g sc else v.request c o kind g sc (fun _ => true) v.openStores

theorem arriveBody_unknown {o : BarrierOp} {kind : Wait} {count : Ctx → Fibre → Nat} (hheld : c.heldBarrier = none) (hp : c.passing ≠ [])
    (hport : ∃ e ∈ c.requests (count c), t.portOf c e.1 = 0) :
    arriveBody o kind count c t = .ok (t.request c o kind (c.requests (count c)) 0 (fun h => decide (t.portOf c h ≠ 0))) := by
  obtain ⟨e, he, hzero⟩ := hport
  have hknown : ((c.requests (count c)).map (fun g => g.1)).all (fun h => decide (t.portOf c h ≠ 0)) = false :=
    List.all_eq_false.mpr ⟨e.1, List.mem_map_of_mem he, by simp [hzero]⟩
  rw [arriveBody, residency_none hheld, if_neg (mt List.isEmpty_iff.mp hp)]
  exact if_neg (ne_true_of_eq_false hknown)

theorem arriveBody_known {o : BarrierOp} {kind : Wait} {count : Ctx → Fibre → Nat} (hheld : c.heldBarrier = none) (hp : c.passing ≠ [])
    (hport : ∀ e ∈ c.requests (count c), t.portOf c e.1 ≠ 0) {sc : Nat}
    (hsc : sc = t.widest c.core c.launch.areaOwner ((c.requests (count c)).map (fun e => e.1))) :
    arriveBody o kind count c t = .ok ((t.release c.core (sc - 1)).arriveAfter c o kind (c.requests (count c)) sc) := by
  have hknown : ((c.requests (count c)).map (fun e => e.1)).all (fun h => decide (t.portOf c h ≠ 0)) = true := by
    simpa using fun h l he => hport (h, l) he
  subst hsc
  rw [arriveBody, residency_none hheld, if_neg (mt List.isEmpty_iff.mp hp)]
  refine (if_pos hknown).trans ?_
  exact congrArg Except.ok (if_congr List.isEmpty_iff rfl rfl)

/-- An arrival for which the port lacks a handle's scope has the unit asked; one for which it holds them all goes out behind the release at the widest. -/
theorem IssuesAs.arrivesAtBarriers (op : Nat) (sh : Shape) (o : BarrierOp) (kind : Wait) (count : Ctx → Fibre → Nat)
    (h : IssuesAs op sh f s c ∧ c.heldBarrier = none) (hp : c.passing ≠ []) :
    let u := s.tainted c op f
    let g := c.requests (count c)
    let sc := u.widest c.core c.launch.areaOwner (g.map (fun e => e.1))
    let v := u.release c.core (sc - 1)
    let result := runBatch op sh f s (arriveBody o kind count)
    ((∃ e ∈ g, u.portOf c e.1 = 0) → result = .next (u.request c o kind g 0 (fun h => decide (u.portOf c h ≠ 0)))) ∧
    ((∀ e ∈ g, u.portOf c e.1 ≠ 0) → v.openStores = [] → result = .next ((v.acquire c.core (sc - 1)).request c o kind g sc)) ∧
    ((∀ e ∈ g, u.portOf c e.1 ≠ 0) → v.openStores ≠ [] → result = .next (v.request c o kind g sc (fun _ => true) v.openStores)) := by
  obtain ⟨hi, hheld⟩ := h
  intro u g sc v result
  refine ⟨fun hport => hi.next (arriveBody_unknown hheld hp hport), fun hport hnone => ?_, fun hport hout => ?_⟩
  · exact (hi.next (arriveBody_known hheld hp hport rfl)).trans (congrArg _ (if_pos hnone))
  · exact (hi.next (arriveBody_known hheld hp hport rfl)).trans (congrArg _ (if_neg hout))

/-! Requests that do not hold their batch (R275, R278). -/

theorem Ctx.handleFault_none {entries h : Nat} (hsmall : h < 2 ^ 20) (htable : h + entries ≤ c.launch.barrierEntries) : c.handleFault entries h = none := by
  rw [Ctx.handleFault, if_neg (by omega)]

/-- The check of a lane of `BINIT` made in the core: its handle, then its count. -/
def Ctx.binitFault (c : Ctx) (x : Fibre) : Option LaneFault :=
  let count := (src32 c x c.f.srcA).toNat
  match c.handleFault (if c.f.modBits 0 3 = 0 then 9 else 1) (handleOf c x) with
  | some e => some e
  | none => if !c.f.mod 3 && (decide (count = 0) || (decide (c.f.modBits 0 3 = 0) && decide (count > 4096))) then some (c.badOperand c.f.srcA) else none

theorem Ctx.binitFault_none {x : Fibre} (hsmall : handleOf c x < 2 ^ 20)
    (htable : handleOf c x + (if c.f.modBits 0 3 = 0 then 9 else 1) ≤ c.launch.barrierEntries)
    (hcount : c.f.mod 3 = true ∨ ((src32 c x c.f.srcA).toNat ≠ 0 ∧ (c.f.modBits 0 3 = 0 → (src32 c x c.f.srcA).toNat ≤ 4096))) : c.binitFault x = none := by
  rw [Ctx.binitFault, Ctx.handleFault_none hsmall htable]
  obtain hlive | ⟨hne, hmax⟩ := hcount
  · simp [hlive]
  · simpa [hne] using fun _ => hmax

/-- The lanes of a `BINIT`, with their handles and counts. -/
def Ctx.binitLanes (c : Ctx) : List (Nat × Nat × Nat) := c.passing.map (fun x => (x.index, handleOf c x, (src32 c x c.f.srcA).toNat))

theorem binit_completes (h : Issues (.binit f) s c) (hheld : c.heldBarrier = none) (hpass : ∀ x ∈ c.passing, c.binitFault x = none) :
    exec (.binit f) s = .next ((c.binitLanes.foldl (fun v e => v.notePort c.core c.launch.areaOwner e.2.1 (c.f.modBits 0 3))
      (s.entered c (.binit f))).requestOn c .init c.binitLanes) := by
  change execBinit f s = _
  refine IssuesAs.next (op := 0x100) (sh := .binit f) h ?_
  rw [residency_none hheld]
  change (match c.laneFault c.binitFault with | some e => Except.error e | none => _) = _
  rw [Ctx.laneFault_none hpass]
  rfl

theorem binv_completes (h : Issues (.binv f) s c) (hheld : c.heldBarrier = none) (hpass : ∀ x ∈ c.passing, c.handleFault 1 (handleOf c x) = none) :
    exec (.binv f) s = .next ((s.entered c (.binv f)).requestOn c .invalidate (c.passing.map (fun x => (x.index, handleOf c x, 0)))) := by
  change execBinv f s = _
  refine IssuesAs.next (op := 0x105) (sh := .binv) h ?_
  rw [residency_none hheld, Ctx.laneFault_none hpass]
  rfl

end

/-- Settles O22: an arrival, a wait or a query by its body's cases, `BINIT` and `BINV` past their checks. -/
theorem barrierInstructionsComplete : Obligations.BarrierInstructionsComplete := by
  unfold Obligations.BarrierInstructionsComplete
  intro f s c fine u handle count sends arrives idle inTable scope wg lanes
  refine ⟨?barv, ?barvC, ?barr, ?bwait, ?bqry, ?barvIdle, ?barvCIdle, ?barrIdle, ?bwaitIdle, ?bqryIdle, ?binit, ?binv⟩
  case barv => exact IssuesAs.arrivesAtBarriers 0x101 .barv .arrive .answer (fun _ _ => 1)
  case barvC => exact IssuesAs.arrivesAtBarriers 0x102 .barvC .arriveCount .answer (fun c x => (src32 c x c.f.srcA).toNat)
  case barr => exact IssuesAs.arrivesAtBarriers 0x104 .barr .arriveWait .barrier (fun _ _ => 1)
  case bwait => exact IssuesAs.asks 0x103 .bwait .await .barrier (fun c x => (src32 c x c.f.srcA).toNat)
  case bqry => exact IssuesAs.asks 0x106 .bqry .query .answer (fun _ _ => 0)
  case barvIdle => exact IssuesAs.arrivesAtNone 0x101 .barv .arrive .answer (fun _ _ => 1)
  case barvCIdle => exact IssuesAs.arrivesAtNone 0x102 .barvC .arriveCount .answer (fun c x => (src32 c x c.f.srcA).toNat)
  case barrIdle => exact IssuesAs.arrivesAtNone 0x104 .barr .arriveWait .barrier (fun _ _ => 1)
  case bwaitIdle => exact IssuesAs.asksNothing 0x103 .bwait .await .barrier (fun c x => (src32 c x c.f.srcA).toNat)
  case bqryIdle => exact IssuesAs.asksNothing 0x106 .bqry .query .answer (fun _ _ => 0)
  case binit =>
    intro hfine hlanes
    refine binit_completes hfine.1 hfine.2 fun x hx => ?_
    obtain ⟨⟨hsmall, htable⟩, hcount⟩ := hlanes x hx
    refine Ctx.binitFault_none hsmall ?_ (hcount.imp_right (And.imp_right fun hmax h0 => hmax (decide_eq_true h0)))
    exact (congrArg (handle x + ·) (if_congr decide_eq_true_iff.symm rfl rfl)).trans_le htable
  case binv => exact fun hfine hlanes => binv_completes hfine.1 hfine.2 fun x hx => Ctx.handleFault_none (hlanes x hx).1 (hlanes x hx).2

end Sys2Proof.Machine
end

section
/-! Watches, word waits and register windows (R280, R281, R283, R284): the checks that each lane passes, and what its lanes then do. -/

namespace Sys2Proof.Machine

section
variable {f : Fields} {s : State} {c : Ctx}

/-! Watches (R280). -/

/-- The line that a lane's `WATCH` names. -/
def Ctx.watched (c : Ctx) (u : State) (x : Fibre) : WatchLine := (c.placeOf u (c.f.modBits 0 2) 4 1 x).watchLine

/-- The check of a lane of `WATCH`: its access, then room for one more line. -/
def Ctx.watchFault (c : Ctx) (u : State) (x : Fibre) : Option LaneFault :=
  match c.accessFault u (c.f.modBits 0 2) 4 1 x with
  | some e => some e
  | none => if !x.watch.any (fun e => decide (e.1 = c.watched u x)) && decide (x.watch.length ≥ 4) then some (barrierLane 9 0 0) else none

theorem Ctx.watchFault_none {u : State} {x : Fibre} (hplace : c.accessFault u (c.f.modBits 0 2) 4 1 x = none)
    (hroom : x.watch.any (fun e => decide (e.1 = c.watched u x)) = true ∨ x.watch.length < 4) : c.watchFault u x = none := by
  rw [Ctx.watchFault, hplace]
  obtain hseen | hlt := hroom
  · simp [hseen]
  · simp [hlt]

/-- A lane watches its line, once. -/
def Ctx.watching (c : Ctx) (u : State) (x : Fibre) : Fibre :=
  if x.watch.any (fun e => decide (e.1 = c.watched u x)) then x else { x with watch := x.watch ++ [(c.watched u x, false)] }

theorem watch_completes (h : Issues (.watch f) s c) (hheld : c.heldBarrier = none) (hpass : ∀ x ∈ c.passing, c.watchFault (s.entered c (.watch f)) x = none) :
    Lanes (.watch f) s c (c.watching (s.entered c (.watch f))) := by
  change execWatch f s = _
  refine IssuesAs.next (op := 0x107) (sh := .watch f) h ?_
  rw [residency_none hheld]
  change (match c.laneFault (c.watchFault (s.entered c (.watch f))) with | some e => Except.error e | none => _) = _
  rw [Ctx.laneFault_none hpass]
  rfl

theorem watchClr_completes (h : Issues (.watchClr f) s c) (hheld : c.heldBarrier = none) : Lanes (.watchClr f) s c (fun x => { x with watch := [] }) := by
  change execWatchClr f s = _
  exact IssuesAs.next (op := 0x108) (sh := .watchClr) h (residency_none hheld)

/-! Word waits (R281). -/

theorem IssuesAs.waitsForWord (op : Nat) (sh : Shape) (timed : Bool) (h : IssuesAs op sh f s c ∧ c.heldBarrier = none)
    (hpass : ∀ x ∈ c.passing, c.accessFault (s.tainted c op f) (c.f.mods.toNat % 4) 4 1 x = none) :
    runBatch op sh f s (waitwBody timed) = .next (((s.tainted c op f).waitwLanes c timed (c.f.mods.toNat / 4 % 8) c.passing (s.tainted c op f)).updLanes c
      (fun x => if passes c.f x then x else x.next)) := by
  refine h.1.next ?_
  have hnone : c.laneFault (c.accessFault (s.tainted c op f) (c.f.modBits 0 2) 4 1) = none := Ctx.laneFault_none hpass
  rw [waitwBody, residency_none h.2, hnone, Fields.modBits_eq]
  rfl

/-! Register windows (R283, R284). -/

theorem legalAllot_iff {n : Nat} : legalAllot n = true ↔ n % 16 = 0 ∧ 16 ≤ n ∧ n ≤ 240 := by
  simp [legalAllot, and_assoc]

/-- The body of a growth. -/
def growBody (try' : Bool) (c : Ctx) (t : State) : Except FaultInfo State :=
  residency c t fun u => (State.growLanes try' c c.passing u).map (fun v => v.updLanes c Fibre.next)

theorem IssuesAs.grows (op : Nat) (sh : Shape) (try' : Bool) (h : IssuesAs op sh f s c ∧ c.heldBarrier = none) (v : State)
    (hv : State.growLanes try' c c.passing (s.tainted c op f) = .ok v) : runBatch op sh f s (growBody try') = .next (v.updLanes c Fibre.next) :=
  h.1.next (by rw [growBody, residency_none h.2, hv]; rfl)

/-- A single lane's growth that fits. -/
theorem State.growLanes_one {u : State} {x : Fibre} {w : Workgroup} {n : Nat} (hn : (srcB32 c x).toNat = n) (hlegal : legalAllot n = true) (hlt : x.allot < n)
    (hw : u.wg? c.wg.key = some w) (hfits : u.fits w 0 (n - x.allot) = true) : State.growLanes false c [x] u =
      .ok (u.updWg c.wg.key (fun w => w.updFibre x.index (fun y => { y with allot := n, growFrom := min y.growFrom x.allot, growAge := 0 }))) := by
  subst hn
  have hwg : u.wgOf c = w := by simp [State.wgOf, hw]
  have hnew : ¬ (srcB32 c x).toNat = x.allot := by omega
  have hold : ¬ (srcB32 c x).toNat < x.allot := by omega
  simp [State.growLanes, hwg, hlegal, hnew, hold, hfits]

/-- A lane of `RSHRINK` with a smaller window: the registers that it releases, and their poison, are gone. -/
def Fibre.shrunk (n : Nat) (x : Fibre) : Fibre := { x with allot := n, regs := x.regs.filter (fun e => e.1 < n), poison := x.poison.filter (fun r => r < n) }

theorem rshrink_completes (h : Issues (.rshrink f) s c) (hheld : c.heldBarrier = none) (hpass : ∀ x ∈ c.passing, legalAllot (srcB32 c x).toNat = true ∧
      (srcB32 c x).toNat ≤ x.allot ∧ ∀ r ∈ x.pendV, r < (srcB32 c x).toNat) : Lanes (.rshrink f) s c (fun x => x.shrunk (srcB32 c x).toNat) := by
  change execRshrink f s = _
  refine IssuesAs.next (op := 0x10D) (sh := .rgrow) h ?_
  have hfault : c.laneFault (fun x => if !legalAllot (srcB32 c x).toNat || decide ((srcB32 c x).toNat > x.allot) then some (c.badOperand c.f.srcB) else none) = none :=
    Ctx.laneFault_none fun x hx => by simp [hpass x hx]
  have hpend : c.passing.any (fun x => x.pendV.any (fun r => decide (r ≥ (srcB32 c x).toNat))) = false := by
    simpa using fun x hx => (hpass x hx).2.2
  rw [residency_none hheld]
  simp only [hfault, hpend, Bool.false_eq_true, if_false]
  rfl

end

/-- Settles O23: a watch, a wait and a shrink past the checks of their lanes, a growth by what its lanes answer. -/
theorem watchAndWindowsComplete : Obligations.WatchAndWindowsComplete := by
  unfold Obligations.WatchAndWindowsComplete
  intro f s c fine u space lineOf seen size legal waits
  refine ⟨fun hfine hpass => watch_completes hfine.1 hfine.2 fun x hx => Ctx.watchFault_none (hpass x hx).1 (hpass x hx).2,
    fun hfine => watchClr_completes hfine.1 hfine.2, ?waitw, ?waitwT, IssuesAs.grows 0x10B .rgrow false, IssuesAs.grows 0x10C .rgrowTry true, ?one, ?shrink⟩
  case waitw => exact IssuesAs.waitsForWord 0x109 (.waitw f false) false
  case waitwT => exact IssuesAs.waitsForWord 0x10A (.waitw f true) true
  case one =>
    intro x w hfine hone hlegal hlt hw hfits
    refine IssuesAs.grows 0x10B .rgrow false hfine _ ?_
    rw [hone]
    exact State.growLanes_one rfl (legalAllot_iff.mpr hlegal) hlt hw hfits
  case shrink =>
    exact fun hfine hpass => rshrink_completes hfine.1 hfine.2 fun x hx => ⟨legalAllot_iff.mpr (hpass x hx).1, (hpass x hx).2⟩

end Sys2Proof.Machine
end

section
/-! Rotation transfers, the ends of waits, and barrier-unit requests (R260, R262, R266, R270, R281, R288, R312, R436, R501): the candidate that a decision
takes, what a transfer leaves of its fibre, and one turn of each wait. -/

namespace Sys2Proof.Machine

/-! The candidate longest so, of equals the first (R262). -/

/-- The longer so of the best yet and the next fibre. -/
def longerSo (since : Fibre → Nat) (best : Option Fibre) (x : Fibre) : Option Fibre :=
  match best with
  | none => some x
  | some b => if since x < since b then some x else some b

theorem longest_eq_foldl (since : Fibre → Nat) (l : List Fibre) : longest since l = l.foldl (longerSo since) none := rfl

theorem longerSo_some (since : Fibre → Nat) (b x : Fibre) : longerSo since (some b) x = if since x < since b then some x else some b := rfl

theorem mem_of_foldl_longerSo {since : Fibre → Nat} {l : List Fibre} {best : Option Fibre} {z : Fibre} (h : l.foldl (longerSo since) best = some z) :
    z ∈ l ∨ best = some z := by
  induction l generalizing best with
  | nil => exact .inr h
  | cons x l ih =>
    obtain hmem | heq := ih h
    · exact .inl (List.mem_cons_of_mem _ hmem)
    cases best with
    | none => exact .inl (Option.some.inj heq ▸ List.mem_cons_self)
    | some b =>
      rw [longerSo_some] at heq
      split at heq
      · exact .inl (Option.some.inj heq ▸ List.mem_cons_self)
      · exact .inr heq

theorem foldl_longerSo_of_le {since : Fibre → Nat} {l : List Fibre} {y : Fibre} (h : ∀ z ∈ l, since y ≤ since z) :
    l.foldl (longerSo since) (some y) = some y := by
  induction l with
  | nil => rfl
  | cons z l ih =>
    rw [List.foldl_cons, longerSo_some, if_neg (not_lt.mpr (h z List.mem_cons_self))]
    exact ih fun v hv => h v (List.mem_cons_of_mem _ hv)

theorem longest_eq_some {since : Fibre → Nat} {a b : List Fibre} {y : Fibre} (ha : ∀ z ∈ a, since y < since z) (hb : ∀ z ∈ b, since y ≤ since z) :
    longest since (a ++ y :: b) = some y := by
  have htaken : longerSo since (a.foldl (longerSo since) none) y = some y := by
    cases hbest : a.foldl (longerSo since) none with
    | none => rfl
    | some m =>
      obtain hm | hm := mem_of_foldl_longerSo hbest
      · rw [longerSo_some, if_pos (ha m hm)]
      · cases hm
  rw [longest_eq_foldl, List.foldl_append, List.foldl_cons, htaken, foldl_longerSo_of_le hb]

/-- `y` is the first fibre of a list with `p` that has been so longest. -/
def FirstSo (p : Fibre → Prop) (since : Fibre → Nat) (l : List Fibre) (y : Fibre) : Prop :=
  ∃ a b, l = a ++ y :: b ∧ p y ∧ (∀ z ∈ a, p z → since y < since z) ∧ ∀ z ∈ b, p z → since y ≤ since z

theorem FirstSo.longest {p : Fibre → Prop} {since : Fibre → Nat} {l : List Fibre} {y : Fibre} (h : FirstSo p since l y) {q : Fibre → Bool}
    (hq : ∀ z, q z = true ↔ p z) : longest since (l.filter q) = some y := by
  obtain ⟨a, b, rfl, hy, ha, hb⟩ := h
  rw [List.filter_append, List.filter_cons_of_pos ((hq y).mpr hy)]
  exact longest_eq_some (fun z hz => ha z (List.mem_filter.mp hz).1 ((hq z).mp (List.mem_filter.mp hz).2))
    (fun z hz => hb z (List.mem_filter.mp hz).1 ((hq z).mp (List.mem_filter.mp hz).2))

theorem longest_eq_none {p : Fibre → Prop} (since : Fibre → Nat) {l : List Fibre} (h : ∀ z ∈ l, ¬ p z) {q : Fibre → Bool} (hq : ∀ z, q z = true ↔ p z) :
    longest since (l.filter q) = none := by
  rw [List.filter_eq_nil_iff.mpr fun z hz => mt (hq z).mp (h z hz)]
  rfl

/-! What the unit decides (R262). -/

/-- A resident fibre of which no result is pending, not yet chosen to be saved: it can be saved where it waits, has yielded, or runs. -/
def Fibre.here (z : Fibre) : Prop := z.resident = true ∧ z.leaving = false ∧ z.pendV = [] ∧ z.pendP = []
def Fibre.waitsHere (z : Fibre) : Prop := z.here ∧ z.wait ≠ .run ∧ z.wait ≠ .answer
def Fibre.yieldsHere (z : Fibre) : Prop := z.here ∧ z.wait = .run ∧ z.yielded = true
def Fibre.runsHere (z : Fibre) : Prop := z.here ∧ z.wait = .run ∧ z.yielded = false

/-- The three kinds as the unit tests them. -/
def Fibre.isWaiting (y : Fibre) : Bool := decide (y.wait ≠ .run) && decide (y.wait ≠ .answer)
def Fibre.isYielding (y : Fibre) : Bool := decide (y.wait = .run) && y.yielded
def Fibre.isRunning (y : Fibre) : Bool := decide (y.wait = .run) && !y.yielded

/-- The fibres of a workgroup among which a step of R262 chooses. -/
def Workgroup.candidates (w : Workgroup) (q : Fibre → Bool) : List Fibre := (w.fibres.filter (fun y => y.resident && !y.leaving && y.savable)).filter q

theorem Workgroup.candidates_eq (w : Workgroup) (q : Fibre → Bool) :
    w.candidates q = w.fibres.filter (fun y => q y && (y.resident && !y.leaving && y.savable)) := by
  rw [Workgroup.candidates, List.filter_filter]

theorem Fibre.waitsHere_iff (z : Fibre) : (z.isWaiting && (z.resident && !z.leaving && z.savable)) = true ↔ z.waitsHere := by
  simp only [Fibre.waitsHere, Fibre.here, Fibre.isWaiting, Fibre.savable, Bool.and_eq_true, decide_eq_true_eq, Bool.not_eq_true', List.isEmpty_iff]
  tauto

theorem Fibre.yieldsHere_iff (z : Fibre) : (z.isYielding && (z.resident && !z.leaving && z.savable)) = true ↔ z.yieldsHere := by
  simp only [Fibre.yieldsHere, Fibre.here, Fibre.isYielding, Fibre.savable, Bool.and_eq_true, decide_eq_true_eq, Bool.not_eq_true', List.isEmpty_iff]
  exact ⟨fun h => by tauto, fun h => by simp [h]⟩

theorem Fibre.runsHere_iff (z : Fibre) : (z.isRunning && (z.resident && !z.leaving && z.savable)) = true ↔ z.runsHere := by
  simp only [Fibre.runsHere, Fibre.here, Fibre.isRunning, Fibre.savable, Bool.and_eq_true, decide_eq_true_eq, Bool.not_eq_true', List.isEmpty_iff]
  exact ⟨fun h => by tauto, fun h => by simp [h]⟩

section
variable {s : State} {w : Workgroup} {h : Nat} {rest : List Nat} {x y : Fibre} {slice : Bool}

theorem Workgroup.longest_candidates {p : Fibre → Prop} {since : Fibre → Nat} {q : Fibre → Bool} (hy : FirstSo p since w.fibres y)
    (hq : ∀ z, (q z && (z.resident && !z.leaving && z.savable)) = true ↔ p z) : longest since (w.candidates q) = some y := by
  rw [w.candidates_eq]
  exact hy.longest hq

theorem Workgroup.longest_candidates_none {p : Fibre → Prop} (since : Fibre → Nat) {q : Fibre → Bool} (hnone : ∀ z ∈ w.fibres, ¬ p z)
    (hq : ∀ z, (q z && (z.resident && !z.leaving && z.savable)) = true ↔ p z) : longest since (w.candidates q) = none := by
  rw [w.candidates_eq]
  exact longest_eq_none since hnone hq

theorem State.rotation_restores (hq : w.queue = h :: rest) (hx : w.fibre? h = some x) (hfree : s.freeContext w x = true) :
    s.rotation w slice = some { wg := w.key, fibre := h, save := false } := by
  simp only [State.rotation, hq, hx, hfree, if_true]

theorem State.rotation_savesWaiting (hq : w.queue = h :: rest) (hx : w.fibre? h = some x) (hfree : s.freeContext w x = false)
    (hy : FirstSo Fibre.waitsHere Fibre.candidateSince w.fibres y) : s.rotation w slice = some { wg := w.key, fibre := y.index, save := true } := by
  have hwaiting := Workgroup.longest_candidates hy Fibre.waitsHere_iff
  unfold Workgroup.candidates Fibre.isWaiting at hwaiting
  simp only [State.rotation, hq, hx, hfree, Bool.false_eq_true, if_false, hwaiting]

theorem State.rotation_savesYielding (hq : w.queue = h :: rest) (hx : w.fibre? h = some x) (hfree : s.freeContext w x = false)
    (hw : ∀ z ∈ w.fibres, ¬ z.waitsHere) (hy : FirstSo Fibre.yieldsHere Fibre.candidateSince w.fibres y) :
    s.rotation w slice = some { wg := w.key, fibre := y.index, save := true } := by
  have hwaiting := Workgroup.longest_candidates_none Fibre.candidateSince hw Fibre.waitsHere_iff
  have hyielding := Workgroup.longest_candidates hy Fibre.yieldsHere_iff
  unfold Workgroup.candidates Fibre.isWaiting at hwaiting
  unfold Workgroup.candidates Fibre.isYielding at hyielding
  simp only [State.rotation, hq, hx, hfree, Bool.false_eq_true, if_false, hwaiting, hyielding]

theorem State.rotation_savesRunning (hq : w.queue = h :: rest) (hx : w.fibre? h = some x) (hfree : s.freeContext w x = false)
    (hw : ∀ z ∈ w.fibres, ¬ z.waitsHere) (hyield : ∀ z ∈ w.fibres, ¬ z.yieldsHere) (hy : FirstSo Fibre.runsHere Fibre.residentSince w.fibres y)
    (hhead : s.tide.toNat ≥ x.queuedSince + (s.core w.core).quantumNs) (hsince : s.tide.toNat ≥ y.residentSince + (s.core w.core).quantumNs) :
    s.rotation w true = some { wg := w.key, fibre := y.index, save := true } := by
  have hwaiting := Workgroup.longest_candidates_none Fibre.candidateSince hw Fibre.waitsHere_iff
  have hyielding := Workgroup.longest_candidates_none Fibre.candidateSince hyield Fibre.yieldsHere_iff
  have hrunning := Workgroup.longest_candidates hy Fibre.runsHere_iff
  unfold Workgroup.candidates Fibre.isWaiting at hwaiting
  unfold Workgroup.candidates Fibre.isYielding at hyielding
  unfold Workgroup.candidates Fibre.isRunning at hrunning
  simp only [State.rotation, hq, hx, hfree, Bool.false_eq_true, if_false, hwaiting, hyielding, hrunning, hhead, hsince, decide_true, Bool.and_self, if_true]

/-- The unit's transfer noted in a core. -/
def State.transferring (s : State) (k : Nat) (tr : Transfer) : State := s.updCore k (fun c => { c with transfer := some tr })

theorem State.mayRotate_of_idle (hp : w.parked = none) (hrun : w.preempt = .running ∨ w.preempt = .draining) (hidle : (s.core w.core).transfer = none) :
    s.mayRotate w.core w = true := by
  simp [State.mayRotate, hp, hrun, hidle]

theorem State.startTransfer_restores {i : Nat} (hw : s.wg? w.key = some w) (hmay : s.mayRotate w.core w = true)
    (htr : s.rotation w slice = some { wg := w.key, fibre := i, save := false }) :
    s.startTransfer w.core w.key slice = s.transferring w.core { wg := w.key, fibre := i, save := false } := by
  simp only [State.startTransfer, hw, hmay, htr, Bool.not_true, Bool.false_eq_true, if_false]
  exact State.updWg_of_id fun _ => rfl

theorem State.startTransfer_saves {i : Nat} (hw : s.wg? w.key = some w) (hmay : s.mayRotate w.core w = true)
    (htr : s.rotation w slice = some { wg := w.key, fibre := i, save := true }) : s.startTransfer w.core w.key slice =
      (s.transferring w.core { wg := w.key, fibre := i, save := true }).updWg w.key (fun w => w.updFibre i (Fibre.saving s.free)) := by
  simp only [State.startTransfer, hw, hmay, htr, Bool.not_true, Bool.false_eq_true, if_false, if_true]
  rfl

end

/-! What a finished transfer leaves (R260, R288). -/

section
variable {s : State} {k : Nat} {tr : Transfer} {w : Workgroup} {x : Fibre}

theorem exec_rotationTransferDone_asks (htr : (s.core k).transfer = some tr) (hrestore : tr.save = false) (hlacks : s.recordLacks tr ≠ []) :
    exec (.rotationTransferDone k) s = .next (s.askLines (.restore tr.wg tr.fibre) (s.recordLacks tr)) := by
  have hask : (!tr.save && !(s.recordLacks tr).isEmpty) = true := by simp [hrestore, hlacks]
  change execRotationTransferDone k s = _
  simp only [execRotationTransferDone, htr, hask, if_true]

/-- The unit free again, with the lines of the record read. -/
def State.unitFreed (s : State) (k : Nat) (tr : Transfer) : State :=
  (s.readOver (fun r => decide (r = .restore tr.wg tr.fibre))).updCore k (fun c => { c with transfer := none })

theorem State.unitFreed_wg? (s : State) (k : Nat) (tr : Transfer) (n : Nat) : (s.unitFreed k tr).wg? n = s.wg? n := rfl

theorem State.unitFreed_transfer (s : State) (k : Nat) (tr : Transfer) : ((s.unitFreed k tr).core k).transfer = none := by
  rw [State.unitFreed, State.core_updCore_same]

theorem exec_rotationTransferDone_saves (htr : (s.core k).transfer = some tr) (hsave : tr.save = true) :
    exec (.rotationTransferDone k) s = .next ((s.unitFreed k tr).updWg tr.wg (fun w => w.save s.tide.toNat tr.fibre)) := by
  change execRotationTransferDone k s = _
  simp only [execRotationTransferDone, htr, hsave, Bool.not_true, Bool.false_and, Bool.false_eq_true, if_false, if_true]
  rfl

/-- The workgroup of a fibre restored: it is resident, as its record has it, and in the queue no more. -/
def Workgroup.restored (w : Workgroup) (u : State) (now i : Nat) : Workgroup :=
  { w.updFibre i (fun x => { u.fromRecord w x with resident := true, residentSince := now }) with queue := w.queue.filter (fun j => j ≠ i) }

theorem exec_rotationTransferDone_restores (htr : (s.core k).transfer = some tr) (hrestore : tr.save = false) (hlacks : s.recordLacks tr = []) :
    exec (.rotationTransferDone k) s = .next (((s.unitFreed k tr).updWg tr.wg (fun w => w.restored (s.unitFreed k tr) s.tide.toNat tr.fibre)).placeFibre k
      tr.wg tr.fibre) := by
  change execRotationTransferDone k s = _
  simp only [execRotationTransferDone, htr, hrestore, hlacks, List.isEmpty_nil, Bool.not_true, Bool.and_false, Bool.false_eq_true, if_false]
  rfl

end

section
variable {s : State} {k key i : Nat} {w : Workgroup} {x : Fibre}

/-- An update of all fibres that keeps their indices finds the updated fibre. -/
theorem Workgroup.fibre?_map {v : Workgroup} {g : Fibre → Fibre} (hv : v.fibres = w.fibres.map g) (hg : ∀ z, (g z).index = z.index) (n : Nat) :
    v.fibre? n = (w.fibre? n).map g := by
  rw [Workgroup.fibre?, hv, List.find?_map]
  simp only [Function.comp_def, hg]
  rfl

/-- A fibre that has been saved. -/
def Fibre.saved (now : Nat) (x : Fibre) : Fibre := { x.voidSpin.regrown with resident := false, leaving := false, queuedSince := now, yielded := false }

theorem Fibre.saved_index (now : Nat) (x : Fibre) : (x.saved now).index = x.index := by
  simp only [Fibre.saved, Fibre.regrown]
  split <;> rfl

theorem Fibre.saved_keeps (now : Nat) (x : Fibre) : (x.saved now).wait = x.wait ∧ (x.saved now).regs = x.regs ∧ (x.saved now).preds = x.preds ∧
    (x.saved now).pc = x.pc ∧ (x.saved now).allot = if x.toAllot ≠ 0 then x.toAllot else x.allot := by
  by_cases h : x.toAllot = 0 <;> simp [Fibre.saved, Fibre.regrown, Fibre.voidSpin, h]

theorem Workgroup.save_eq (hx : w.fibre? i = some x) (now : Nat) : w.save now i =
    { w.updFibre i (Fibre.saved now) with queue := if x.wait = .run ∧ w.queues = true then w.queue ++ [i] else w.queue } := by
  simp only [Workgroup.save, hx, Bool.and_eq_true, decide_eq_true_eq]
  rfl

theorem Workgroup.save_fibre? (hx : w.fibre? i = some x) (now : Nat) : (w.save now i).fibre? i = some (x.saved now) := by
  rw [Workgroup.save_eq hx]
  change (w.updFibre i (Fibre.saved now)).fibre? i = _
  rw [Workgroup.fibre?_updFibre _ _ _ _ (Fibre.saved_index now), hx, Option.map_some, if_pos rfl]

theorem Workgroup.save_key (w : Workgroup) (now i : Nat) : (w.save now i).key = w.key := by
  unfold Workgroup.save
  split <;> rfl

/-! A restored fibre takes its place in a batch or a slot of its own, or is chosen to be saved again (R69, R262). -/

theorem State.takeSlot_keeps {u : State} {sl : Slot} {hwarp : Nat} {lanes : List Nat} (h : s.takeSlot k w sl hwarp lanes = some u) :
    u.wgs = s.wgs ∧ (u.core k).transfer = (s.core k).transfer := by
  unfold State.takeSlot at h
  dsimp only at h
  split at h
  · cases h
  · obtain ⟨n, -, rfl⟩ := Option.map_eq_some_iff.mp h
    exact ⟨rfl, by rw [State.core_updCore_same]; rfl⟩

/-- A fibre as it was, but that it may have been chosen to be saved. -/
def Fibre.Placed (x y : Fibre) : Prop := y = x ∨ ∃ at', y = x.saving at'

/-- The fibres named chosen to be saved, in a workgroup that is not parked. -/
def Workgroup.choosing (w : Workgroup) (at' : Nat) (lanes : List Nat) : Workgroup :=
  if w.parked.isSome then w else { w with fibres := w.fibres.map (fun x => if lanes.contains x.index then x.saving at' else x) }

theorem Workgroup.choosing_keeps (w : Workgroup) (at' : Nat) (lanes : List Nat) : (w.choosing at' lanes).key = w.key ∧ (w.choosing at' lanes).queue = w.queue := by
  unfold Workgroup.choosing
  split <;> exact ⟨rfl, rfl⟩

theorem Workgroup.choosing_fibre? (hx : w.fibre? i = some x) (at' : Nat) (lanes : List Nat) : ∃ y, (w.choosing at' lanes).fibre? i = some y ∧ x.Placed y := by
  unfold Workgroup.choosing
  split
  · exact ⟨x, hx, .inl rfl⟩
  · refine ⟨_, (Workgroup.fibre?_map rfl (fun z => ?_) i).trans (congrArg (Option.map _) hx), ?_⟩
    · split <;> rfl
    · split
      · exact .inr ⟨at', rfl⟩
      · exact .inl rfl

theorem State.placeFibre_keeps (hw : s.wg? key = some w) (hx : w.fibre? i = some x) : ((s.placeFibre k key i).core k).transfer = (s.core k).transfer ∧
    ∃ v y, (s.placeFibre k key i).wg? key = some v ∧ v.queue = w.queue ∧ v.fibre? i = some y ∧ x.Placed y := by
  unfold State.placeFibre
  simp only [hw, hx]
  split
  next z hz => exact ⟨by rw [State.core_updCore_same], w, x, hw, rfl, hx, .inl rfl⟩
  next hz =>
    cases hslot : s.takeSlot k w { id := 0, wg := key, lanes := [], age := 0 } x.hwarp [i] with
    | some u =>
      obtain ⟨hwgs, htr⟩ := State.takeSlot_keeps hslot
      exact ⟨htr, w, x, by rw [← hw]; simp only [Option.getD_some, State.wg?, hwgs], rfl, hx, .inl rfl⟩
    | none =>
      obtain ⟨y, hy, hplaced⟩ := Workgroup.choosing_fibre? hx s.free [i]
      have hsaved : (s.saveFibres key [i]).wg? key = some (w.choosing s.free [i]) := by
        change (s.updWg key (fun w => w.choosing s.free [i])).wg? key = _
        rw [State.wg?_updWg_same _ _ _ (fun w => (w.choosing_keeps s.free [i]).1), hw, Option.map_some]
      exact ⟨rfl, w.choosing s.free [i], y, hsaved, (w.choosing_keeps s.free [i]).2, hy, hplaced⟩

/-! What a record gives back (R257, R260). -/

theorem State.fromRecord_keeps (s : State) (w : Workgroup) (x : Fibre) : (s.fromRecord w x).index = x.index ∧ (s.fromRecord w x).wait = x.wait ∧
    (s.fromRecord w x).allot = x.allot := by
  unfold State.fromRecord
  split
  · dsimp only
    refine List.foldlRecOn (motive := fun (y : Fibre) => y.index = x.index ∧ y.wait = x.wait ∧ y.allot = x.allot) _ _ ?_ fun y hy r _ => ?_
    · split <;> exact ⟨rfl, rfl, rfl⟩
    · split
      · split
        · exact hy
        · simpa using hy
      · exact hy
  · exact ⟨rfl, rfl, rfl⟩

theorem State.fromRecord_of_unstored (s : State) (w : Workgroup) (hs : x.stored = none) : s.fromRecord w x = x := by
  simp only [State.fromRecord, hs]

/-- A fibre that has been restored. -/
def Fibre.broughtBack (w : Workgroup) (u : State) (now : Nat) (x : Fibre) : Fibre := { u.fromRecord w x with resident := true, residentSince := now }

theorem Fibre.broughtBack_index (w : Workgroup) (u : State) (now : Nat) (x : Fibre) : (x.broughtBack w u now).index = x.index := (u.fromRecord_keeps w x).1

theorem Workgroup.restored_fibre? (hx : w.fibre? i = some x) (u : State) (now : Nat) : (w.restored u now i).fibre? i = some (x.broughtBack w u now) := by
  change (w.updFibre i (Fibre.broughtBack w u now)).fibre? i = _
  rw [Workgroup.fibre?_updFibre _ _ _ _ (Fibre.broughtBack_index w u now), hx, Option.map_some, if_pos rfl]

theorem rotationTransferDone_saved {tr : Transfer} (htr : (s.core k).transfer = some tr) (hw : s.wg? tr.wg = some w) (hx : w.fibre? tr.fibre = some x)
    (hsave : tr.save = true) : ∃ t, exec (.rotationTransferDone k) s = .next t ∧ (t.core k).transfer = none ∧
      t.wg? tr.wg = some (w.save s.tide.toNat tr.fibre) ∧ (w.save s.tide.toNat tr.fibre).fibre? tr.fibre = some (x.saved s.tide.toNat) := by
  refine ⟨_, exec_rotationTransferDone_saves htr hsave, s.unitFreed_transfer k tr, ?_, Workgroup.save_fibre? hx _⟩
  rw [State.wg?_updWg_same _ _ _ (fun w => w.save_key _ _), State.unitFreed_wg?, hw, Option.map_some]

theorem rotationTransferDone_restored {tr : Transfer} (htr : (s.core k).transfer = some tr) (hw : s.wg? tr.wg = some w) (hx : w.fibre? tr.fibre = some x)
    (hrestore : tr.save = false) (hlacks : s.recordLacks tr = []) : ∃ t v y, exec (.rotationTransferDone k) s = .next t ∧ (t.core k).transfer = none ∧
      t.wg? tr.wg = some v ∧ v.fibre? tr.fibre = some y ∧ (x.broughtBack w (s.unitFreed k tr) s.tide.toNat).Placed y ∧
        v.queue = w.queue.filter (fun j => j ≠ tr.fibre) := by
  have hrestored : ((s.unitFreed k tr).updWg tr.wg (fun w => w.restored (s.unitFreed k tr) s.tide.toNat tr.fibre)).wg? tr.wg =
      some (w.restored (s.unitFreed k tr) s.tide.toNat tr.fibre) := by
    rw [State.wg?_updWg_same _ _ (fun w => w.restored (s.unitFreed k tr) s.tide.toNat tr.fibre) (fun _ => rfl), State.unitFreed_wg?, hw, Option.map_some]
  obtain ⟨htransfer, v, y, hv, hqueue, hy, hplaced⟩ := State.placeFibre_keeps (k := k) hrestored (Workgroup.restored_fibre? hx _ _)
  exact ⟨_, v, y, exec_rotationTransferDone_restores htr hrestore hlacks, htransfer.trans (s.unitFreed_transfer k tr), hv, hy, hplaced, hqueue⟩

theorem Fibre.Placed.keeps {y : Fibre} (h : x.Placed y) : y.resident = x.resident ∧ y.wait = x.wait ∧ y.allot = x.allot ∧ y.regs = x.regs ∧
    y.preds = x.preds ∧ y.pc = x.pc := by
  obtain rfl | ⟨at', rfl⟩ := h <;> exact ⟨rfl, rfl, rfl, rfl, rfl, rfl⟩

end

/-! The ends of waits (R266, R281, R312, R436). -/

section
variable {s : State} {key i : Nat} {w : Workgroup} {x : Fibre}

/-- A fibre woken by `g`. -/
def Fibre.woken (now : Nat) (g : Fibre → Fibre) (x : Fibre) : Fibre :=
  { (g x).voidSpin with wait := .run, outsider := false, quiet := none, queuedSince := if x.resident then x.queuedSince else now, yielded := false }

theorem Workgroup.wake_fibre? {p : Fibre → Bool} {g : Fibre → Fibre} (hx : w.fibre? i = some x) (hp : p x = true) (hg : ∀ z, (g z).index = z.index)
    (now : Nat) : (w.wake now p g).fibre? i = some (x.woken now g) := by
  have hindex (z : Fibre) : (if p z then z.woken now g else z).index = z.index := by
    split
    · exact hg z
    · rfl
  have hfound := (Workgroup.fibre?_map (v := w.wake now p g) (g := fun z => if p z then z.woken now g else z) rfl hindex i).trans (congrArg (Option.map _) hx)
  rwa [Option.map_some, if_pos hp] at hfound

theorem State.wakeWg_wg? (s : State) (key : Nat) (p : Fibre → Bool) (g : Fibre → Fibre) :
    (s.wakeWg key p g).wg? key = (s.wg? key).map (fun w => w.wake s.tide.toNat p g) :=
  State.wg?_updWg_same s key (fun w => w.wake s.tide.toNat p g) fun _ => rfl

theorem exec_spinTimeout (hw : s.wg? key = some w) (hx : w.fibre? i = some x) (hspin : x.wait = .spinning) : exec (.spinTimeout key i) s =
    .next ((s.wakeWg key (fun y => y.index = i) (fun y => y)).updWg key
      (fun v => { v.updFibre i (fun y => { y with quiet := some (x.pc, x.spin.branch) }) with lastActive := w.lastActive })) := by
  change execSpinTimeout key i s = _
  simp only [execSpinTimeout, hw, hx, hspin, Option.bind_some, Option.map_some, Option.getD_some, ne_eq, not_true_eq_false, if_false]

/-- A spinning fibre whose time is over runs on where it stands, and for the watchdog its workgroup has not moved (R266, R400). -/
theorem spinTimeout_runs (hw : s.wg? key = some w) (hx : w.fibre? i = some x) (hspin : x.wait = .spinning) : ∃ t v y,
    exec (.spinTimeout key i) s = .next t ∧ t.wg? key = some v ∧ v.fibre? i = some y ∧ y.wait = .run ∧ y.pc = x.pc ∧ v.lastActive = w.lastActive := by
  have hwoken := Workgroup.wake_fibre? (p := fun y => y.index = i) (g := fun y => y) hx (decide_eq_true (Workgroup.fibre?_index hx)) (fun _ => rfl) s.tide.toNat
  have hv := State.wg?_updWg_same (s.wakeWg key (fun y => y.index = i) (fun y => y)) key
    (fun v => { v.updFibre i (fun y => { y with quiet := some (x.pc, x.spin.branch) }) with lastActive := w.lastActive }) (fun _ => rfl)
  rw [State.wakeWg_wg?, hw, Option.map_some, Option.map_some] at hv
  have hy := Workgroup.fibre?_updFibre (w.wake s.tide.toNat (fun y => y.index = i) (fun y => y)) i i
    (fun y => { y with quiet := some (x.pc, x.spin.branch) }) (fun _ => rfl)
  rw [hwoken, Option.map_some, if_pos rfl] at hy
  exact ⟨_, _, _, exec_spinTimeout hw hx hspin, hv, hy, rfl, rfl, rfl⟩

/-- `TWAIT` goes on at its target (R436). -/
theorem tideTargetReached_runs (hw : s.wg? key = some w) (hx : w.fibre? i = some x) (hwait : x.wait = .twait) (hdue : x.deadline ≤ s.tide.toNat) :
    ∃ t v y, exec (.tideTargetReached key i) s = .next t ∧ t.wg? key = some v ∧ v.fibre? i = some y ∧ y.wait = .run ∧ y.pc = seqPc x.pc := by
  have hreached : (decide (x.index = i) && decide (x.wait = .twait) && decide (x.deadline ≤ s.tide.toNat)) = true := by
    simp [Workgroup.fibre?_index hx, hwait, hdue]
  have hwoken := Workgroup.wake_fibre? (p := fun x => decide (x.index = i) && decide (x.wait = .twait) && decide (x.deadline ≤ s.tide.toNat)) (g := Fibre.next) hx
    hreached (fun _ => rfl) s.tide.toNat
  exact ⟨_, _, _, rfl, (State.wakeWg_wg? ..).trans (congrArg (Option.map _) hw), hwoken, rfl, rfl⟩

/-- The places of a `SWWAIT`'s word in its fibre's wait (R312). -/
theorem exec_swwaitReread (hw : s.wg? key = some w) (hx : w.fibre? i = some x) (hwait : x.wait = .swwait) : exec (.swwaitReread key i) s =
    let b := x.waitKey / 2 ^ 18
    let o := x.waitKey % 2 ^ 18
    let y := s.syncRead b o
    .next (if y.count = 0 then ((s.syncWrite b o { y with waiters := y.waiters - 1 }).wakeWg key (fun z => z.index = i)
        (fun z => (z.setPred x.waitDst true).next)).acquire w.core 2
      else s.updWg key (fun w => w.updFibre i (fun z => { z with waitSince := s.tide.toNat }))) := by
  change execSwwaitReread key i s = _
  simp only [execSwwaitReread, hw, hx, hwait, Option.bind_some, Option.map_some, ne_eq, not_true_eq_false, if_false]
  split <;> rfl

theorem exec_waitwDeadline (hw : s.wg? key = some w) (hx : w.fibre? i = some x) (hwait : x.wait = .waitw) (hdue : s.tide.toNat ≥ x.deadline) :
    exec (.waitwDeadline key i) s = .next (s.waitwAgain key i) := by
  change execWaitwDeadline key i s = _
  simp [execWaitwDeadline, hw, hx, hwait, hdue]

/-! One turn of a `WAITW` (R281). -/

section
variable {core scope value deadline : Nat} {p : Place}

theorem waitwTurn_eq (core scope : Nat) (p : Place) (value deadline : Nat) (s : State) (x : Fibre) : waitwTurn core scope p value deadline s x =
    let r := s.readAt core 0 scope p 4
    if ofBytes r.1.1 ≠ value then (some true, r.2) else if x.watch.any (fun e => e.2) then (some false, r.2)
      else if s.tide.toNat ≥ deadline then (some false, r.2) else (none, r.2) := rfl

theorem waitwTurn_changed (h : ofBytes (s.readAt core 0 scope p 4).1.1 ≠ value) :
    waitwTurn core scope p value deadline s x = (some true, (s.readAt core 0 scope p 4).2) := by
  rw [waitwTurn_eq, if_pos h]

theorem waitwTurn_due (h : ofBytes (s.readAt core 0 scope p 4).1.1 = value) (hdue : x.watch.any (fun e => e.2) = true ∨ s.tide.toNat ≥ deadline) :
    waitwTurn core scope p value deadline s x = (some false, (s.readAt core 0 scope p 4).2) := by
  rw [waitwTurn_eq, if_neg (not_not.mpr h)]
  split
  next => rfl
  next hwatch => rw [if_pos (hdue.resolve_left hwatch)]

theorem waitwTurn_waits (h : ofBytes (s.readAt core 0 scope p 4).1.1 = value) (hdue : ¬ (x.watch.any (fun e => e.2) = true ∨ s.tide.toNat ≥ deadline)) :
    waitwTurn core scope p value deadline s x = (none, (s.readAt core 0 scope p 4).2) := by
  obtain ⟨hwatch, htide⟩ := not_or.mp hdue
  rw [waitwTurn_eq, if_neg (not_not.mpr h), if_neg hwatch, if_neg htide]

end

/-- A waiting `WAITW`'s instruction as a context: `WAITW` where its fibre has no deadline, else `WAITW.T`. -/
def State.waitCtx (s : State) (w : Workgroup) (x : Fibre) (f : Fields) : Ctx := Ctx.waiting s w x (if x.deadline = 2 ^ 64 then 0x109 else 0x10A) f

/-- The word of a waiting `WAITW` is in a place. -/
def State.WaitsAt (s : State) (w : Workgroup) (x : Fibre) (f : Fields) (p : Place) : Prop :=
  s.place w.core w (s.waitCtx w x f).kernel (f.modBits 0 2) (s.waitCtx w x f).launch.space x.waitKey 4 1 = .ok p

section
variable {f : Fields} {p : Place} (hw : s.wg? key = some w) (hx : w.fibre? i = some x) (hwait : x.wait = .waitw) (hf : x.waitFields = some f)
  (hp : s.WaitsAt w x f p)
include hw hx hwait hf hp

theorem State.waitwAgain_asks {pa : Nat} {a : Attr} (hplace : p = .home pa a) (hfar : s.needsFar w.core (f.modBits 2 3) 4 p = true) (hpoll : x.polled = false) :
    s.waitwAgain key i = s.poll key i pa := by
  unfold State.WaitsAt State.waitCtx at hp
  subst hplace
  simp only [State.waitwAgain, hw, hx, hwait, hf, hp, hfar, hpoll, Option.bind_some, Option.map_some, Bool.not_false, Bool.and_self, if_true]

variable (hhere : ¬ (s.needsFar w.core (f.modBits 2 3) 4 p = true ∧ x.polled = false))
include hhere

theorem State.waitwAgain_returns {status : Bool} {u : State} (hturn : waitwTurn w.core (f.modBits 2 3) p x.waitValue x.deadline s x = (some status, u)) :
    s.waitwAgain key i = (u.wakeWg key (fun y => y.index = i) (fun y => y.waitwReturn x.waitDst status)).acquire w.core (f.modBits 2 3) := by
  have hnot : (s.needsFar w.core (f.modBits 2 3) 4 p && !x.polled) = false := by simpa using hhere
  unfold State.WaitsAt State.waitCtx at hp
  simp only [State.waitwAgain, hw, hx, hwait, hf, hp, hnot, hturn, Option.bind_some, Option.map_some, Bool.false_eq_true, if_false]

theorem State.waitwAgain_waits {u : State} (hturn : waitwTurn w.core (f.modBits 2 3) p x.waitValue x.deadline s x = (none, u)) :
    s.waitwAgain key i = u.updWg key (fun w => w.updFibre i (fun y => { y with waitSince := s.tide.toNat, waitDue := false, polled := false })) := by
  have hnot : (s.needsFar w.core (f.modBits 2 3) 4 p && !x.polled) = false := by simpa using hhere
  unfold State.WaitsAt State.waitCtx at hp
  simp only [State.waitwAgain, hw, hx, hwait, hf, hp, hnot, hturn, Option.bind_some, Option.map_some, Bool.false_eq_true, if_false]

end

end

/-! Requests at the unit (R270, R501). -/

section
variable {s : State} {i : Nat} {r : BarrierRequest} {w : Workgroup}

theorem exec_barrierUnitRequest_serves {l : Launch} (hr : s.barrierQ[i]? = some r) (hw : s.wg? r.wg = some w) (hl : s.launch? w.launch = some l)
    (hnone : w.refused? r = none) : exec (.barrierUnitRequest i) s =
      .next ((State.arAcquired { s with barrierQ := listDrop s.barrierQ i } r w).serveBarrier { r with acquires := false } w l) := by
  change execBarrierUnitRequest i s = _
  have hw' : State.wg? { s with barrierQ := listDrop s.barrierQ i } r.wg = some w := hw
  have hl' : State.launch? { s with barrierQ := listDrop s.barrierQ i } w.launch = some l := hl
  simp only [execBarrierUnitRequest, hr, hw', hl', hnone]

theorem exec_barrierUnitRequest_refuses {l : Launch} {d : Deferred} (hr : s.barrierQ[i]? = some r) (hw : s.wg? r.wg = some w)
    (hl : s.launch? w.launch = some l) (hsome : w.refused? r = some d) (hp : w.parked = none) : exec (.barrierUnitRequest i) s = .next (s.deliver w.key d) := by
  change execBarrierUnitRequest i s = _
  have hw' : State.wg? { s with barrierQ := listDrop s.barrierQ i } r.wg = some w := hw
  have hl' : State.launch? { s with barrierQ := listDrop s.barrierQ i } w.launch = some l := hl
  simp only [execBarrierUnitRequest, hr, hw', hl', hsome, hp, Option.isSome_none, Bool.false_eq_true, if_false]

end

/-! The obligation. -/

/-- R260, R262, R288: what a decision of the unit, and the end of a quantum, start. -/
theorem rotation_starts (s : State) (w : Workgroup) (h : Nat) (rest : List Nat) (x y : Fibre) (hw : s.wg? w.key = some w) (hp : w.parked = none)
    (hrun : w.preempt = .running ∨ w.preempt = .draining) (hidle : (s.core w.core).transfer = none) (hq : w.queue = h :: rest) (hx : w.fibre? h = some x) :
    let starts := fun (i : Nat) (save : Bool) => s.transferring w.core { wg := w.key, fibre := i, save := save }
    let saves := Host.Outcome.next ((starts y.index true).updWg w.key (fun w => w.updFibre y.index (Fibre.saving s.free)))
    let q := (s.core w.core).quantumNs
    (s.freeContext w x = true → exec (.rotationDecision w.core w.key) s = .next (starts h false)) ∧
    (s.freeContext w x = false → (FirstSo Fibre.waitsHere Fibre.candidateSince w.fibres y ∨
        ((∀ z ∈ w.fibres, ¬ z.waitsHere) ∧ FirstSo Fibre.yieldsHere Fibre.candidateSince w.fibres y)) →
      exec (.rotationDecision w.core w.key) s = saves) ∧
    (s.freeContext w x = false → (∀ z ∈ w.fibres, ¬ z.waitsHere) → (∀ z ∈ w.fibres, ¬ z.yieldsHere) → FirstSo Fibre.runsHere Fibre.residentSince w.fibres y →
      s.tide.toNat ≥ x.queuedSince + q → s.tide.toNat ≥ y.residentSince + q → exec (.rotationQuantumExpiry w.core w.key) s = saves) := by
  intro starts saves q
  have hmay := State.mayRotate_of_idle hp hrun hidle
  refine ⟨fun hfree => ?_, fun hfree hfirst => ?_, fun hfree hwaits hyields hruns hhead hsince => ?_⟩
  · exact congrArg Host.Outcome.next (State.startTransfer_restores hw hmay (State.rotation_restores hq hx hfree))
  · refine congrArg Host.Outcome.next (State.startTransfer_saves hw hmay ?_)
    obtain hwaits | ⟨hwaits, hyields⟩ := hfirst
    · exact State.rotation_savesWaiting hq hx hfree hwaits
    · exact State.rotation_savesYielding hq hx hfree hwaits hyields
  · exact congrArg Host.Outcome.next (State.startTransfer_saves hw hmay (State.rotation_savesRunning hq hx hfree hwaits hyields hruns hhead hsince))

/-- R260, R262, R288: what the end of a transfer leaves of its fibre and its workgroup. -/
theorem rotationTransferDone_leaves {s : State} {k : Nat} {tr : Transfer} {w : Workgroup} {x : Fibre} (htr : (s.core k).transfer = some tr)
    (hw : s.wg? tr.wg = some w) (hx : w.fibre? tr.fibre = some x) (hready : tr.save = true ∨ s.recordLacks tr = []) : ∃ t v y,
      exec (.rotationTransferDone k) s = .next t ∧ (t.core k).transfer = none ∧ t.wg? tr.wg = some v ∧ v.fibre? tr.fibre = some y ∧ y.resident = !tr.save ∧
        y.wait = x.wait ∧ y.allot = (if tr.save = true ∧ x.toAllot ≠ 0 then x.toAllot else x.allot) ∧
        ((tr.save = true ∨ x.stored = none) → y.regs = x.regs ∧ y.preds = x.preds ∧ y.pc = x.pc) ∧
        v.queue = if tr.save then (if x.wait = .run ∧ w.queues = true then w.queue ++ [tr.fibre] else w.queue) else w.queue.filter (fun j => j ≠ tr.fibre) := by
  by_cases hsave : tr.save = true
  · obtain ⟨t, hexec, htransfer, hv, hy⟩ := rotationTransferDone_saved htr hw hx hsave
    obtain ⟨hwait, hregs, hpreds, hpc, hallot⟩ := x.saved_keeps s.tide.toNat
    refine ⟨t, _, _, hexec, htransfer, hv, hy, ?_, hwait, ?_, fun _ => ⟨hregs, hpreds, hpc⟩, ?_⟩
    · simp [hsave, Fibre.saved]
    · simpa [hsave] using hallot
    · rw [if_pos hsave, Workgroup.save_eq hx]
  · have hrestore : tr.save = false := by simpa using hsave
    obtain ⟨t, v, y, hexec, htransfer, hv, hy, hplaced, hqueue⟩ := rotationTransferDone_restored htr hw hx hrestore (hready.resolve_left hsave)
    obtain ⟨hres, hwait, hallot, hregs, hpreds, hpc⟩ := hplaced.keeps
    obtain ⟨-, hrecWait, hrecAllot⟩ := (s.unitFreed k tr).fromRecord_keeps w x
    refine ⟨t, v, y, hexec, htransfer, hv, hy, ?_, hwait.trans hrecWait, ?_, fun hstored => ?_, ?_⟩
    · rw [hres, hrestore]
      rfl
    · rw [if_neg (by simp [hrestore])]
      exact hallot.trans hrecAllot
    · have hsame := (s.unitFreed k tr).fromRecord_of_unstored w (hstored.resolve_left hsave)
      rw [hregs, hpreds, hpc, Fibre.broughtBack, hsame]
      exact ⟨rfl, rfl, rfl⟩
    · rw [if_neg hsave, hqueue]

/-- R281: one turn of a waiting `WAITW`, for a word in the place `p`. -/
theorem waitwAgain_turns {s : State} {key i : Nat} {w : Workgroup} {x : Fibre} {f : Fields} {p : Place} (hw : s.wg? key = some w) (hx : w.fibre? i = some x)
    (hwait : x.wait = .waitw) (hf : x.waitFields = some f) (hp : s.WaitsAt w x f p) :
    let scope := f.modBits 2 3
    let far := s.needsFar w.core scope 4 p = true ∧ x.polled = false
    let read := s.readAt w.core 0 scope p 4
    let back := fun (status : Bool) => (read.2.wakeWg key (fun y => y.index = i) (fun y => y.waitwReturn x.waitDst status)).acquire w.core scope
    let same := ofBytes read.1.1 = x.waitValue
    let due := x.watch.any (fun e => e.2) = true ∨ s.tide.toNat ≥ x.deadline
    (∀ pa at', p = .home pa at' → far → s.waitwAgain key i = s.poll key i pa) ∧
    (¬ far → ¬ same → s.waitwAgain key i = back true) ∧ (¬ far → same → due → s.waitwAgain key i = back false) ∧
    (¬ far → same → ¬ due → s.waitwAgain key i = read.2.updWg key (fun w => w.updFibre i (fun y =>
      { y with waitSince := s.tide.toNat, waitDue := false, polled := false }))) :=
  ⟨fun _ _ hplace hfar => State.waitwAgain_asks hw hx hwait hf hp hplace hfar.1 hfar.2,
    fun hhere hchanged => State.waitwAgain_returns hw hx hwait hf hp hhere (waitwTurn_changed hchanged),
    fun hhere hsame hdue => State.waitwAgain_returns hw hx hwait hf hp hhere (waitwTurn_due hsame hdue),
    fun hhere hsame hdue => State.waitwAgain_waits hw hx hwait hf hp hhere (waitwTurn_waits hsame hdue)⟩

/-- Settles O34: a transfer started and a transfer ended, the turn of each wait, and a request served or refused. -/
theorem rotationAndWaitEventsComplete : Obligations.RotationAndWaitEventsComplete := by
  unfold Obligations.RotationAndWaitEventsComplete
  refine ⟨?rotation, ?transfer, ?waits, ?unit⟩
  case rotation =>
    intro s w h rest x y idle here waiting yielding running first starts saves none' q hidle
    obtain ⟨hw, hp, hrun, hfree, hq, hx⟩ := hidle
    exact rotation_starts s w h rest x y hw hp hrun hfree hq hx
  case transfer => exact fun s k tr w x htr hw hx => ⟨exec_rotationTransferDone_asks htr, rotationTransferDone_leaves htr hw hx⟩
  case waits =>
    intro s key i w x hw hx again
    refine ⟨spinTimeout_runs hw hx, rfl, exec_waitwDeadline hw hx, fun f hwait hf => ?word, fun hwait => ?sync, tideTargetReached_runs hw hx⟩
    case word =>
      intro c p hp scope
      rw [show scope = f.modBits 2 3 from (Fields.modBits_eq f 2 3).symm]
      exact waitwAgain_turns hw hx hwait hf hp
    case sync =>
      intro b o y
      have hexec := exec_swwaitReread hw hx hwait
      exact ⟨fun hzero => hexec.trans (congrArg Host.Outcome.next (if_pos hzero)), fun hne => hexec.trans (congrArg Host.Outcome.next (if_neg hne))⟩
  case unit => exact fun s i r w l hr hw hl => ⟨exec_barrierUnitRequest_serves hr hw hl, fun d => exec_barrierUnitRequest_refuses hr hw hl⟩

end Sys2Proof.Machine
end

section
/-! Events take effect (R260, R262, R266, R281, R312, R390, R393, R399, R400, R449, R462, R478): rotation and waits, the engines, and the units' ends. -/

namespace Sys2Proof.Machine

/-- An event gives a next state, in which `p` holds. -/
def State.Leads (s : State) (i : Instr) (p : State → Prop) : Prop := ∃ t, exec i s = .next t ∧ p t

theorem State.leads {s t : State} {i : Instr} {p : State → Prop} (h : exec i s = .next t) (hp : p t) : s.Leads i p := ⟨t, h, hp⟩

/-! Rotation (R260, R262). -/

section
variable {s : State} {k : Nat} {w : Workgroup} {tr : Transfer}

theorem State.transferring_transfer (s : State) (k : Nat) (tr : Transfer) : ((s.transferring k tr).core k).transfer = some tr := by
  rw [State.transferring, State.core_updCore_same]

/-- A decision for a workgroup whose core's unit is idle starts its transfer. -/
theorem State.startTransfer_transfer {slice : Bool} (hw : s.wg? w.key = some w) (hmay : s.mayRotate w.core w = true) (htr : s.rotation w slice = some tr) :
    ((s.startTransfer w.core w.key slice).core w.core).transfer = some tr := by
  have hstarts : s.startTransfer w.core w.key slice =
      (s.transferring w.core tr).updWg w.key (fun w => if tr.save then w.updFibre tr.fibre (Fibre.saving s.free) else w) := by
    simp only [State.startTransfer, hw, hmay, htr, Bool.not_true, Bool.false_eq_true, if_false]
    rfl
  rw [hstarts, State.core_updWg, State.transferring_transfer]

theorem rotationDecision_takesEffect {h : Nat} {rest : List Nat} {x : Fibre} (hw : s.wg? w.key = some w) (hp : w.parked = none) (hrun : w.preempt = .running)
    (hidle : (s.core w.core).transfer = none) (hq : w.queue = h :: rest) (hx : w.fibre? h = some x) (hfree : s.freeContext w x = true) :
    s.Leads (.rotationDecision w.core w.key) (fun t => (t.core w.core).transfer = some { wg := w.key, fibre := h, save := false }) :=
  ⟨_, rfl, State.startTransfer_transfer hw (State.mayRotate_of_idle hp (.inl hrun) hidle) (State.rotation_restores hq hx hfree)⟩

theorem rotationQuantumExpiry_takesEffect (hw : s.wg? w.key = some w) (hp : w.parked = none) (hrun : w.preempt = .running)
    (hidle : (s.core w.core).transfer = none) (htr : s.rotation w true = some tr) :
    s.Leads (.rotationQuantumExpiry w.core w.key) (fun t => (t.core w.core).transfer = some tr) :=
  ⟨_, rfl, State.startTransfer_transfer hw (State.mayRotate_of_idle hp (.inl hrun) hidle) htr⟩

/-- Wherever a restored fibre is put, its core's transfer stands as it did. -/
theorem State.placeFibre_transfer (s : State) (k key i : Nat) : ((s.placeFibre k key i).core k).transfer = (s.core k).transfer := by
  cases hw : s.wg? key with
  | none => simp only [State.placeFibre, hw]
  | some w =>
    cases hx : w.fibre? i with
    | none => simp only [State.placeFibre, hw, hx]
    | some x => exact (State.placeFibre_keeps hw hx).1

theorem rotationTransferDone_takesEffect (htr : (s.core k).transfer = some tr) (hready : tr.save = true ∨ s.recordLacks tr = []) :
    s.Leads (.rotationTransferDone k) (fun t => (t.core k).transfer = none) := by
  by_cases hsave : tr.save = true
  · exact ⟨_, exec_rotationTransferDone_saves htr hsave, s.unitFreed_transfer k tr⟩
  · exact ⟨_, exec_rotationTransferDone_restores htr (eq_false_of_ne_true hsave) (hready.resolve_left hsave),
      (State.placeFibre_transfer ..).trans (s.unitFreed_transfer k tr)⟩

end

/-! Waits (R266, R281, R312, R436). -/

section
variable {s : State} {key i : Nat} {x : Fibre}

/-- The fibre of a workgroup by its index. -/
def State.fibreAt (s : State) (key i : Nat) : Option Fibre := (s.wg? key).bind (fun w => w.fibre? i)

theorem State.fibreAt_eq_some : s.fibreAt key i = some x ↔ ∃ w, s.wg? key = some w ∧ w.fibre? i = some x := Option.bind_eq_some_iff

theorem State.fibreAt_of_wg? {w : Workgroup} (hw : s.wg? key = some w) : s.fibreAt key i = w.fibre? i := by rw [State.fibreAt, hw, Option.bind_some]

theorem spinTimeout_takesEffect (hx : s.fibreAt key i = some x) (hwait : x.wait = .spinning) :
    s.Leads (.spinTimeout key i) (fun t => (t.fibreAt key i).map (fun y => y.wait) = some .run) := by
  obtain ⟨w, hw, hx⟩ := State.fibreAt_eq_some.mp hx
  obtain ⟨t, v, y, hexec, hv, hy, hrun, -⟩ := spinTimeout_runs hw hx hwait
  exact State.leads hexec (by rw [State.fibreAt_of_wg? hv, hy, Option.map_some, hrun])

theorem tideTargetReached_takesEffect (hx : s.fibreAt key i = some x) (hwait : x.wait = .twait) (hdue : x.deadline ≤ s.tide.toNat) :
    s.Leads (.tideTargetReached key i) (fun t => (t.fibreAt key i).map (fun y => y.wait) = some .run) := by
  obtain ⟨w, hw, hx⟩ := State.fibreAt_eq_some.mp hx
  obtain ⟨t, v, y, hexec, hv, hy, hrun, -⟩ := tideTargetReached_runs hw hx hwait hdue
  exact State.leads hexec (by rw [State.fibreAt_of_wg? hv, hy, Option.map_some, hrun])

theorem waitwDeadline_takesEffect (hx : s.fibreAt key i = some x) (hwait : x.wait = .waitw) (hdue : s.tide.toNat ≥ x.deadline) :
    s.Leads (.waitwDeadline key i) (fun t => t = s.waitwAgain key i) := by
  obtain ⟨w, hw, hx⟩ := State.fibreAt_eq_some.mp hx
  exact ⟨_, exec_waitwDeadline hw hx hwait hdue, rfl⟩

/-- An `SWWAIT` whose word has not come to 0 waits on, from now. -/
theorem swwaitReread_takesEffect (hx : s.fibreAt key i = some x) (hwait : x.wait = .swwait)
    (hcount : (s.syncRead (x.waitKey / 2 ^ 18) (x.waitKey % 2 ^ 18)).count ≠ 0) :
    s.Leads (.swwaitReread key i) (fun t => (t.fibreAt key i).map (fun y => (y.wait, y.waitSince)) = some (.swwait, s.tide.toNat)) := by
  obtain ⟨w, hw, hx⟩ := State.fibreAt_eq_some.mp hx
  refine State.leads ((exec_swwaitReread hw hx hwait).trans (congrArg Host.Outcome.next (if_neg hcount))) ?_
  rw [State.fibreAt, State.wg?_updWg_same _ _ (fun w => w.updFibre i (fun z => { z with waitSince := s.tide.toNat })) (fun _ => rfl), hw, Option.map_some,
    Option.bind_some, Workgroup.fibre?_updFibre _ i i (fun z => { z with waitSince := s.tide.toNat }) (fun _ => rfl), hx, Option.map_some, if_pos rfl,
    Option.map_some, hwait]

end

/-! The copy unit and the Easel unit (R291, R302, R340, R344, R346). -/

section
variable {s : State} {k n : Nat} {w : Workgroup} {l : Launch}

/-- The first element with `p`, where it has `q` too, is the first with both. -/
theorem find?_and_of_find? {α : Type} {p q : α → Bool} {l : List α} {a : α} (h : l.find? p = some a) (hq : q a = true) :
    l.find? (fun b => p b && q b) = some a := by
  obtain ⟨hp, as, bs, rfl, has⟩ := List.find?_eq_some_iff_append.mp h
  exact List.find?_eq_some_iff_append.mpr ⟨by rw [hp, hq]; rfl, as, bs, rfl, fun b hb => by simp [Bool.eq_false_of_not_eq_true' (has b hb)]⟩

theorem copyUnitGrant_takesEffect {e : CopyEntry} (he : (s.core k).copyQ.find? (fun e => e.entry = n) = some e) (hw : s.wg? e.wg = some w)
    (hl : s.launch? w.launch = some l) (hgoes : s.entryProceeds k e = true) (hkind : e.kind = .psend) :
    s.Leads (.copyUnitGrant k n) (fun t => t = (s.updCore k (fun c => { c with copyLast := n })).grantPsend e w l) := by
  refine ⟨_, ?_, rfl⟩
  change execCopyUnitGrant k n s = _
  simp only [execCopyUnitGrant, he, hw, hl, hgoes, hkind, Bool.not_true, Bool.false_eq_true, if_false]

theorem engineOpComplete_takesEffect {e : CopyEntry} (he : (s.core k).copyQ.find? (fun e => e.entry = n) = some e) (hw : s.wg? e.wg = some w)
    (hl : s.launch? w.launch = some l) (hdone : s.copyFinished e = true) : s.Leads (.engineOpComplete k n) (fun t => t = s.completeCopy e w l) := by
  have hfound : (s.core k).copyQ.find? (fun e => decide (e.entry = n) && s.copyFinished e) = some e := find?_and_of_find? he hdone
  refine ⟨_, ?_, rfl⟩
  change execEngineOpComplete k n s = _
  simp only [execEngineOpComplete, hfound, hw, hl]

/-- The unit started on a ready step of an entry, the slots that it gathers emptied. -/
def State.easelStarted (s : State) (k : Nat) (e : EaselEntry) (u : EaselUnit) (step : Nat) : State :=
  (s.updCore k (fun c => { c with
    easelUnit := some u, easelLast := e.entry
    easelQ := c.easelQ.map (fun x => if x.id = e.id then { x with readySteps := x.readySteps.filter (fun i => i ≠ step) } else x) })).updWg e.wg
    (fun w => { w with slotFlags := w.slotFlags.mapIdx (fun i f => if (e.gathered step).contains i then { f with filled := false } else f) })

theorem easelUnitStart_takesEffect {e : EaselEntry} {step : Nat} (hidle : (s.core k).easelUnit = none) (he : s.easelNext k = some e)
    (hw : s.wg? e.wg = some w) (hl : s.launch? w.launch = some l) (hstep : e.nextStep w = some step) :
    s.Leads (.easelUnitStart k) (fun t => (t.core k).easelUnit = some (s.unitOf e w l step)) := by
  have hexec : exec (.easelUnitStart k) s = .next (s.easelStarted k e (s.unitOf e w l step) step) := by
    change execEaselUnitStart k s = _
    simp only [execEaselUnitStart, hidle, he, hw, hl, hstep]
    rfl
  exact State.leads hexec (by rw [State.easelStarted, State.core_updWg, State.core_updCore_same])

theorem State.core_of_cores {s t : State} (h : t.cores = s.cores) (k : Nat) : t.core k = s.core k := by rw [State.core, State.core, h]

theorem State.checkWaitc_cores (s : State) (key : Nat) : (s.checkWaitc key).cores = s.cores := by
  unfold State.checkWaitc
  split
  · rfl
  · dsimp only
    split
    · split
      · rw [State.deliver, State.park_cores, State.updWg_cores]
      · rfl
    · rfl

theorem State.complete_core (s : State) (key issuer cls id j : Nat) : (s.complete key issuer cls id).core j = s.core j :=
  State.core_of_cores (State.checkWaitc_cores ..) j

/-- What the unit writes at the end of a step leaves it as idle as it was. -/
theorem State.unitWrites_easelUnit (s : State) (k : Nat) (e : EaselEntry) (u : EaselUnit) : ((s.unitWrites k e u).core k).easelUnit = (s.core k).easelUnit := by
  have hacc (t : State) (l : List (Nat × Word × Bool)) : ((l.foldl (fun t x => t.accWrite k x.1 (bytesOf 4 x.2.1.toNat) x.2.2) t).core k).easelUnit =
      (t.core k).easelUnit :=
    foldl_keeps (fun t : State => (t.core k).easelUnit) _ (fun t x => by rw [State.accWrite, State.core_updCore_same]) l t
  have hbank (c : Core) (n : Nat) (g : FrontBank → FrontBank) : (c.setBank n g).easelUnit = c.easelUnit := by
    unfold Core.setBank
    split <;> rfl
  unfold State.unitWrites
  dsimp only
  rw [State.core_updWg]
  cases u.bank with
  | none =>
    refine (hacc _ _).trans ?_
    cases u.zero with
    | none => rfl
    | some z => rw [State.core_updCore_same]
  | some b =>
    rw [State.core_updCore_same, hbank, hacc]
    cases u.zero with
    | none => rfl
    | some z => rw [State.core_updCore_same]

theorem easelUnitEnd_takesEffect {u : EaselUnit} {e : EaselEntry} (hu : (s.core k).easelUnit = some u)
    (he : (s.core k).easelQ.find? (fun e => e.entry = u.entry) = some e) : s.Leads (.easelUnitEnd k) (fun t => (t.core k).easelUnit = none) := by
  have hfreed : ((s.updCore k (fun c => { c with easelUnit := none })).core k).easelUnit = none := by rw [State.core_updCore_same]
  have hwritten := ((s.updCore k (fun c => { c with easelUnit := none })).unitWrites_easelUnit k e u).trans hfreed
  change ∃ t, execEaselUnitEnd k s = _ ∧ _
  simp only [execEaselUnitEnd, hu, he]
  cases u.fault with
  | some info =>
    refine ⟨_, rfl, ?_⟩
    rw [State.core_of_cores (State.checkWaitc_cores ..), State.core_updWg, State.core_updCore_same]
    exact hfreed
  | none =>
    cases u.last with
    | true =>
      refine ⟨_, rfl, ?_⟩
      rw [State.complete_core, State.core_updCore_same]
      exact hwritten
    | false =>
      refine ⟨_, rfl, ?_⟩
      rw [State.core_updCore_same]
      exact hwritten

end

end Sys2Proof.Machine
end

section
/-! Events take effect: fault service and pre-emption (R390, R393, R399, R400), CSRs (R401), and the launch processor (R449, R462). -/

namespace Sys2Proof.Machine

/-! Fault service (R390, R393, R395, R400). -/

section
variable {s : State}

theorem faultRecordWrite_takesEffect {r : FaultInfo × Nat × Nat × Nat × Nat} {rest : List (FaultInfo × Nat × Nat × Nat × Nat)} {e : Nat × Nat × Attr}
    (hrec : s.records = r :: rest) (hring : s.ringEntry = some e) (hlacks : s.handlerLacks r.2.2.2.2 r.1.cls = []) :
    s.Leads .faultRecordWrite (fun t => t.records = rest ∧ t.frwp = s.frwp + 1) ∧ s.Leads .faultRingRetry (fun t => t.records = rest ∧ t.frwp = s.frwp + 1) := by
  obtain ⟨info, launch, wgid, core, key⟩ := r
  obtain ⟨va, pa, a⟩ := e
  obtain ⟨t, hwrite, hretry, hrecords, hindex, -⟩ := (State.recordEvents_takeEffect hrec hring).2 (.inr hlacks)
  exact ⟨State.leads hwrite ⟨hrecords, hindex⟩, State.leads hretry ⟨hrecords, hindex⟩⟩

theorem watchdogExpiry_takesEffect {key : Nat} {w : Workgroup} (hw : s.wg? key = some w) (hstalled : s.stalled w = true) :
    s.Leads (.watchdogExpiry key) (fun t => (t.parkedWg key).map (fun e => e.cls) = some 16) := by
  obtain ⟨t, v, e, hexec, hv, hparked, hcls⟩ := State.watchdogExpiry_parks hw hstalled
  exact State.leads hexec (by rw [State.parkedWg, hv, Option.bind_some, hparked, Option.map_some, hcls])

theorem State.kill_gone (s : State) (key : Nat) : (s.kill key).wg? key = none := by
  unfold State.kill
  split
  case h_1 hnone => exact hnone
  case h_2 => simp [State.wg?, State.dropRecord]

theorem fcmdEvents_takeEffect {w : Workgroup} (value : Option Word) (h : s.parkedVa (s.agent .host).fres.toNat = some w) :
    s.Leads (.fcmdResumeAtPc .host value) (fun t => t.hostCsr.fcmd = 0x80000000) ∧
      s.Leads (.fcmdResumePast .host value) (fun t => t.hostCsr.fcmd = 0x80000000) ∧
      s.Leads (.fcmdKill .host) (fun t => t.hostCsr.fcmd = 0x80000000 ∧ t.wg? w.key = none) := by
  obtain ⟨hresume, hpast, hkill⟩ := State.fcmdEvents_host value h
  exact ⟨State.leads hresume rfl, State.leads hpast rfl, State.leads hkill ⟨rfl, s.kill_gone w.key⟩⟩

/-! Pre-emption (R397 to R399). -/

theorem preemptRequest_takesEffect {a : Agent} {w : Workgroup} (h : s.preemptTarget a = some w) (hrun : w.preempt = .running) :
    s.Leads (.preemptRequest a) (fun t => (t.wg? w.key).map (fun v => v.preempt) ≠ some .running) := by
  obtain ⟨hdrain, hsave, hflush⟩ := State.preempt_takesEffect h hrun
  refine State.leads rfl ?_
  obtain hm | hm | hm : _ = 0 ∨ _ = 1 ∨ 1 < _ := by
    have := Nat.lt_trichotomy (chooseMethod (s.methods w) (s.agent a).pbound.toNat).1.1 1
    rwa [Nat.lt_one_iff] at this
  · rw [hdrain hm]
    decide
  · rw [hsave hm]
    decide
  · rw [hflush hm]
    simp

theorem State.setPstat_host (s : State) (v : Nat) : ((s.setPstat .host v).agent .host).pstat = BitVec.ofNat 32 v := rfl

theorem preemptRestore_takesEffect {w : Workgroup} (h : s.preemptTarget .host = some w) (hsaved : w.preempt = .saved) :
    s.Leads (.preemptRestore .host) (fun t => (t.agent .host).pstat = BitVec.ofNat 32 0) :=
  State.leads (congrArg Host.Outcome.next (State.restore_saved h hsaved)) (State.setPstat_host ..)

theorem preemptKillSaved_takesEffect {w : Workgroup} (h : s.preemptTarget .host = some w) (hsaved : w.preempt = .saved) :
    s.Leads (.preemptKillSaved .host) (fun t => (t.agent .host).pstat = BitVec.ofNat 32 7) :=
  State.leads (congrArg Host.Outcome.next ((State.killSaved_some h).trans (if_pos (.inl hsaved)))) (State.setPstat_host ..)

theorem preemptSaveDone_takesEffect {w : Workgroup} (hw : s.wg? w.key = some w) (hsaving : w.preempt = .saving) (hready : s.saveReady w = true) :
    s.Leads (.preemptSaveDone w.key) (fun t => (t.wg? w.key).map (fun v => v.preempt) = some .saved) := by
  obtain ⟨t, v, hexec, hv, hsaved, -⟩ := State.saveDone_takesEffect hw hsaving hready
  exact State.leads hexec (by rw [hv, Option.map_some, hsaved])

/-! CSRs (R15, R193, R400, R401, R424). -/

theorem csrWrite_wdog (a : Agent) (v : BitVec 16) : s.Leads (.csrWrite a 0x021 (v.zeroExtend 32)) (fun t => t.wdog = v.zeroExtend 32) := by
  have hrange : csrInRange 0x021 (v.zeroExtend 32) = true := by
    have hfits : (v.zeroExtend 32).toNat ≤ 65535 := by
      rw [BitVec.toNat_setWidth]
      omega
    exact Bool.and_eq_true_iff.mpr ⟨decide_eq_true (BitVec.and_zero ..), decide_eq_true hfits⟩
  exact State.leads (State.exec_csrWrite (num := 0x021) a rfl hrange) rfl

theorem tlbInvalidate_all (a : Agent) {v : Word} (hspaces : v.getLsbD 8 = true) (hpages : v.getLsbD 9 = false) :
    s.Leads (.tlbInvalidate a v) (fun t => t.tlb = []) := by
  obtain ⟨t, hexec, hkept⟩ := s.tlbInvalidate_takesEffect a v
  exact State.leads hexec (List.eq_nil_iff_forall_not_mem.mpr fun e he => ((hkept e).mp he).2 ⟨.inl hspaces, .inl hpages⟩)

theorem launchCounterDisarm_takesEffect (v : Word) : s.Leads (.launchCounterDisarm v) (fun t => t.counter (v.toNat % 4096) = {}) := by
  obtain ⟨t, hexec, hcleared, -⟩ := s.counterDisarmed_takesEffect v
  exact State.leads hexec hcleared

theorem coveWaysWrite_unstaged (a : Agent) {v : Word} (hv : v ≠ 0) (hle : v.toNat ≤ 8) (hstaged : s.staged ((s.agent a).csel.toNat / 192) = false) :
    s.Leads (.coveWaysWrite a v) (fun t => Sparse.get 1 t.coveWays ((s.agent a).csel.toNat / 192) = v.toNat) := by
  obtain ⟨t, hexec, hways⟩ := s.coveWaysWrite_takesEffect a hv hle
  exact State.leads hexec (by simpa [hstaged] using hways)

/-! The launch processor (R86, R449, R456, R459, R462). -/

theorem queueNotify_accepts {queue : Nat} {index : Word} (hready : s.ready = true) (hlife : s.lifeCycle = .deployed) (hqueue : queue < s.queueCount.toNat)
    (herr : s.queueField queue 24 1 % 2 = 0) (hsize : s.queueField queue 8 1 % 16 < 13) (hvalid : s.queueField queue 8 1 / 64 % 2 = 1)
    (hroom : s.notified queue index ≤ 2 ^ (s.queueField queue 8 1 % 16 + 4)) : exec (.queueNotify queue index none) s =
      .next (State.acceptPackets queue (s.notified queue index) (s.queueSet queue 20 (bytesOf 4 index.toNat))) :=
  (exec_queueNotify (table := none) rfl hready hlife hqueue herr).trans (if_neg fun hbad => by
    change s.queueField queue 8 1 % 16 ≥ 13 ∨ s.queueField queue 8 1 / 64 % 2 = 0 ∨ s.notified queue index > 2 ^ (s.queueField queue 8 1 % 16 + 4) at hbad
    omega)

theorem workgroupAdmission_admits {c : Candidate} (hnone : s.promote.restorable = none) (hc : s.promote.chosen = some c) :
    s.Leads .workgroupAdmission (fun t => t = s.promote.admitCandidate c) :=
  State.leads exec_workgroupAdmission (by rw [hnone, hc])

/-- A launch whose record says that it is done. -/
def State.launchDone (s : State) (n : Nat) : Prop := (s.launch? n).map (fun m => m.done) = some true

theorem State.launchDone_of_append {s t : State} {n : Nat} {more : List Launch} (h : t.launches = s.launches ++ more) (hdone : s.launchDone n) :
    t.launchDone n := by
  obtain ⟨l, hl, hd⟩ := Option.map_eq_some_iff.mp hdone
  have hfound : t.launch? n = some l := by
    rw [State.launch?, h, List.find?_append, show s.launches.find? (fun x => x.lseq = n) = some l from hl]
    rfl
  rw [State.launchDone, hfound, Option.map_some, hd]

theorem State.counterSet_launches (s : State) (n : Nat) (c : LaunchCounter) : ∃ more, (s.counterSet n c).launches = s.launches ++ more := by
  unfold State.counterSet
  split
  · unfold State.enqueueCard
    split
    · exact ⟨[], (List.append_nil _).symm⟩
    · exact ⟨_, rfl⟩
  · exact ⟨[], (List.append_nil _).symm⟩

theorem State.updLaunch_launchDone {l : Launch} {n k : Nat} (hl : s.launch? n = some l) {g : Launch → Launch} (hkey : ∀ m, (g m).lseq = m.lseq)
    (hdone : ∀ m, (g m).done = true) (hk : n = k) : (s.updLaunch k g).launchDone n := by
  rw [State.launchDone, State.launch?_updLaunch _ _ _ _ hkey, hl, Option.map_some, if_pos hk, Option.map_some, hdone]

theorem State.launchDone.updLaunch {n k : Nat} (h : s.launchDone n) {g : Launch → Launch} (hkey : ∀ m, (g m).lseq = m.lseq)
    (hdone : ∀ m, (g m).done = m.done) : (s.updLaunch k g).launchDone n := by
  rw [State.launchDone, State.launch?_updLaunch _ _ _ _ hkey, Option.map_map, ← h]
  congr 1
  funext m
  rw [Function.comp_apply]
  split
  · exact hdone m
  · rfl

theorem State.launch?_lseq {n : Nat} {l : Launch} (hl : s.launch? n = some l) : l.lseq = n := by
  simpa using List.find?_some hl

/-- A job's launch done, and its owner marked failed where it failed: what `finishJob` lowers the job's counter in. -/
def State.jobMarked (s : State) (l : Launch) (failed : Bool) : State :=
  let done := s.updLaunch l.lseq (fun m => { m with done := true, failed := failed })
  match l.owner with
  | some o => if failed then done.updLaunch o (fun m => { m with failed := true }) else done
  | none => done

theorem State.jobMarked_launchDone {n : Nat} {l : Launch} (hl : s.launch? n = some l) (failed : Bool) : (s.jobMarked l failed).launchDone n := by
  have hdone : (s.updLaunch l.lseq (fun m => { m with done := true, failed := failed })).launchDone n :=
    State.updLaunch_launchDone hl (fun _ => rfl) (fun _ => rfl) (State.launch?_lseq hl).symm
  unfold State.jobMarked
  cases l.owner with
  | none => exact hdone
  | some o =>
    cases failed with
    | false => exact hdone
    | true => exact hdone.updLaunch (fun _ => rfl) (fun _ => rfl)

theorem State.launchDone.decrement {n : Nat} (h : s.launchDone n) (c : Nat) : ((s.decrement c).getD s).launchDone n := by
  unfold State.decrement
  dsimp only
  split
  · exact h
  · obtain ⟨more, hmore⟩ := s.counterSet_launches c { s.counter c with value := (s.counter c).value - 1 }
    exact State.launchDone_of_append hmore h

theorem State.finishJob_launchDone {n : Nat} {l : Launch} (hl : s.launch? n = some l) (failed : Bool) : (s.finishJob l failed).launchDone n := by
  have hmarked := State.jobMarked_launchDone hl failed
  unfold State.finishJob
  cases l.counter with
  | none => exact hmarked
  | some c => exact hmarked.decrement c

theorem State.acquire_launches (s : State) (k scope : Nat) : (s.acquire k scope).launches = s.launches := by
  by_cases h : scope = 0
  · subst h
    rfl
  · simp only [State.acquire, if_neg h]
    split <;> exact foldl_keeps State.launches _ (fun t l => congrArg Prod.fst (t.rdcRefresh_accepted ..)) _ _

theorem State.predDone_launches (s : State) (n : Nat) : (s.predDone n).launches = s.launches := by
  unfold State.predDone
  refine foldl_keeps State.launches _ (fun t w => ?_) _ _
  split
  · split
    · dsimp only
      split
      · rfl
      · rw [State.acquire_launches]
        rfl
    · rfl
  · rfl

theorem jobComplete_takesEffect {n : Nat} {l : Launch} (hl : s.launch? n = some l) (hover : s.jobOver l = true) :
    s.Leads (.jobComplete n) (fun t => t.launchDone n) := State.leads (exec_jobComplete hl hover) (State.finishJob_launchDone hl _)

theorem launchComplete_takesEffect {n : Nat} {l : Launch} (hl : s.launch? n = some l) (hover : s.launchOver l = true) :
    s.Leads (.launchComplete n) (fun t => t.launchDone n) := by
  refine State.leads (exec_launchComplete hl hover) ?_
  have hsignalled : (s.signalLaunch l (if l.failed then 2 else 1)).launch? n = some l := by
    rw [State.launch?_of_launches (congrArg Prod.fst (s.signalLaunch_accepted l _)), hl]
  refine State.launchDone_of_append (more := []) ?_ (State.updLaunch_launchDone hsignalled (g := fun m => { m with done := true, active := false })
    (fun _ => rfl) (fun _ => rfl) rfl)
  rw [State.predDone_launches, List.append_nil]

theorem workgroupEnd_takesEffect {key : Nat} {w : Workgroup} (hw : s.wg? key = some w) (hdone : s.wgDone w = true) (hdef : w.deferred = []) :
    s.Leads (.workgroupEnd key) (fun t => t.wg? key = none) := by
  obtain ⟨t, hexec, hgone, -⟩ := State.workgroupEnd_counted hw hdone hdef
  exact State.leads hexec hgone

end

end Sys2Proof.Machine
end

section
/-! Events take effect: multicast, packets and the ports (R414, R418, R428 to R431, R438 to R442), the host and management (R473 to R477). -/

namespace Sys2Proof.Machine

/-! Multicast operations (R428 to R431). -/

section
variable {s : State}

/-- A load of a window of which no line is missing is answered at once with the window's bytes. -/
theorem multicastMemberRequest_answers (member : Nat) {group off width : Nat} {bytes : List Byte} (hup : s.linksDown = false)
    (hlacks : s.windowLacks (.member s.nextKey) (s.group group) off width 1 = []) (hread : s.windowRead (s.group group) off width 1 = some bytes) :
    s.Leads (.multicastMemberRequest member group off width .load) (fun t => .multicast member (.data (ofBytes bytes)) ∈ t.outputs) := by
  let r : MemberServe := { id := s.nextKey, member := member, off := off, width := width, group := s.group group }
  let u : State := { s with nextKey := s.nextKey + 1 }
  have hexec : exec (.multicastMemberRequest member group off width .load) s = .next (u.serveSwitch r) := by
    change execMulticastMemberRequest member group off width .load s = _
    exact if_neg (ne_true_of_eq_false hup)
  have hnone : (u.windowLacks (.member r.id) r.group r.off r.width 1).isEmpty = true := by
    rw [show u.windowLacks (.member r.id) r.group r.off r.width 1 = [] from hlacks]
    rfl
  have hdata : u.memberRead r.group r.off r.width = .data (ofBytes bytes) := by
    rw [State.memberRead, show u.windowRead r.group r.off r.width 1 = some bytes from hread]
  have hanswer : u.memberAnswer r = (some (.data (ofBytes bytes)), u.readOver (fun q => decide (q = .member r.id))) := by
    rw [← hdata]
    exact if_pos hnone
  refine State.leads hexec ?_
  rw [State.serveSwitch, hanswer]
  exact State.mem_outputs_say ..

/-- A fold that keeps its first component and appends one result for each element maps them. -/
theorem foldl_collects {α σ β : Type} {f : σ × List β → α → σ × List β} {g : σ → α → β} (hf : ∀ acc a, f acc a = (acc.1, acc.2 ++ [g acc.1 a])) (l : List α)
    (acc : σ × List β) : l.foldl f acc = (acc.1, acc.2 ++ l.map (g acc.1)) := by
  induction l generalizing acc with
  | nil => rw [List.foldl_nil, List.map_nil, List.append_nil]
  | cons a l ih => rw [List.foldl_cons, hf, ih, List.map_cons, List.append_assoc, List.singleton_append]

theorem State.openStores_of_idle (hidle : s.requests = []) : s.openStores = [] := by rw [State.openStores, hidle]; rfl

theorem State.asked_of_idle (hidle : s.requests = []) (tag : Nat) : s.asked tag = false := by rw [State.asked, hidle]; rfl

theorem MultiOp.offsets_ne_nil {m : MultiOp} (hlanes : m.lanes ≠ []) : m.offsets ≠ [] := by
  obtain ⟨e, he⟩ := List.exists_mem_of_ne_nil _ hlanes
  exact List.ne_nil_of_mem (mem_distinct.mpr (List.mem_map_of_mem he))

/-- The only operation, a load for which no line is missing, has been served by its own package where that is a member. -/
theorem State.serveMember_load {m : MultiOp} (hm : s.multi = [m]) (hload : m.load = true) (hsent : m.sent = true) (hlanes : m.lanes ≠ [])
    (hidle : s.requests = []) (hlacks : s.ownLacks m = []) : ∃ own acks, (s.serveMember m.id).multi = [{ m with own := own, acks := acks }] ∧
      (s.serveMember m.id).requests = [] ∧ (Config.package ∈ m.members → own ≠ []) := by
  have hserve : s.serveMember m.id = s.serveOwn m := by simp [State.serveMember, hm, hload]
  rw [hserve]
  by_cases hdone : (!m.own.isEmpty || !m.members.contains Config.package || !m.sent) = true
  · rw [State.serveOwn, if_pos hdone]
    refine ⟨m.own, m.acks, hm, hidle, fun hmem hown => ?_⟩
    simp [hown, hmem, hsent] at hdone
  · have hnone : (!(s.ownLacks m).isEmpty) = false := by rw [hlacks]; rfl
    rw [State.serveOwn, if_neg hdone, if_neg (ne_true_of_eq_false hnone),
      foldl_collects (g := fun (t : State) off => (off, t.memberRead m.base off m.width)) fun _ _ => if_pos hload]
    refine ⟨m.offsets.map (fun off => (off, s.memberRead m.base off m.width)), [], ?_, ?_, fun _ => ?_⟩
    · simp [State.readOver, hm, State.openStores_of_idle hidle]
    · simp [State.readOver, hidle]
    · simpa using MultiOp.offsets_ne_nil hlanes

/-- The only operation completes where it is a load and has its answers. -/
theorem State.finishMultis_last {m : MultiOp} (hm : s.multi = [m]) (hload : m.load = true) (hidle : s.requests = []) (hanswered : m.answered = true) :
    (State.finishMultis s.multi.length s).multi = [] := by
  have hready : s.readyMulti = some m := by simp [State.readyMulti, hm, hanswered, State.asked_of_idle hidle]
  simp [hm, State.finishMultis, hready, State.finishMulti, hload]

theorem MultiOp.answered_of_answers {m : MultiOp} {a : List MemberAnswer} (hsent : m.sent = true) (ha : m.answers = some a)
    (hown : Config.package ∈ m.members → m.own ≠ []) : m.answered = true := by
  have hnone (k : Nat) : m.awaits k = false := by
    by_cases hk : m.members[k]? = some Config.package
    · simp [MultiOp.awaits, ha, hown (List.mem_of_getElem? hk)]
    · simp [MultiOp.awaits, ha, hk]
  simp [MultiOp.answered, hsent, hnone]

theorem multicastResponse_completes {m : MultiOp} (answers : List MemberAnswer) (hm : s.multi = [m]) (hload : m.load = true) (hsent : m.sent = true)
    (hwait : m.answers = none) (hlanes : m.lanes ≠ []) (hidle : s.requests = []) (hlacks : s.ownLacks m = []) :
    s.Leads (.multicastResponse m.id answers) (fun t => t.multi = []) := by
  obtain ⟨own, acks, hserved, hstill, hown⟩ := State.serveMember_load hm hload hsent hlanes hidle hlacks
  refine ⟨_, rfl, State.finishMultis_last (m := { m with own := own, acks := acks, answers := some answers }) ?_ hload hstill
    (MultiOp.answered_of_answers hsent rfl hown)⟩
  simp [hserved, hsent, hwait]

/-- An operation with one member, missing, waits for nothing. -/
theorem MultiOp.answered_of_missing {m : MultiOp} (hsent : m.sent = true) (hone : m.members.length = 1) (hmissing : 0 ∈ m.missing) : m.answered = true := by
  simp [MultiOp.answered, MultiOp.awaits, hsent, hone, hmissing]

theorem multicastMemberTimeout_completes {m : MultiOp} (hm : s.multi = [m]) (hload : m.load = true) (hsent : m.sent = true) (hwait : m.answers = none)
    (hidle : s.requests = []) (hdue : s.tide.toNat ≥ m.since + 2000) (hone : m.members.length = 1) :
    s.Leads (.multicastMemberTimeout m.id 0) (fun t => t.multi = []) := by
  by_cases hmissing : 0 ∈ m.missing
  · refine ⟨_, rfl, State.finishMultis_last (m := m) ?_ hload hidle (MultiOp.answered_of_missing hsent hone hmissing)⟩
    simp [hm, MultiOp.awaits, hmissing]
  · refine ⟨_, rfl, State.finishMultis_last (m := { m with missing := insertNat 0 m.missing }) ?_ hload hidle
      (MultiOp.answered_of_missing hsent hone (mem_insertNat.mpr (.inl rfl)))⟩
    simp [hm, MultiOp.awaits, hmissing, hsent, hwait, hdue]

end

/-! Packets and the Colnal ports (R418, R438). -/

section
variable {s : State}

theorem packetHop_goes {i : Nat} {p : Packet} (hp : s.packets[i]? = some p) (hgoes : s.packetGoes p = true) :
    s.Leads (.packetHop i) (fun t => t = s.hop p) := by
  refine ⟨_, ?_, rfl⟩
  change execPacketHop i s = _
  simp only [execPacketHop, hp, hgoes, if_true]

theorem colnalFlitReceive_grantsLoad {port pa n : Nat} (tag : Nat) (hport : port < 32) (hup : s.linksDown = false) (hserved : servedHere pa n = true) :
    s.Leads (.colnalFlitReceive port true (.load tag pa n)) (fun t => .grant port 0 ∈ t.outputs) := by
  refine State.leads (exec_goodFlit hport hup _) ?_
  simp only [State.takeItem, hserved, Bool.not_true, Bool.false_eq_true, if_false]
  exact State.mem_outputs_say ..

end

/-! Strand peers (R439 to R442). -/

section
variable {s : State} {k : Nat}

@[simp] theorem State.peer_updPeer_same (s : State) (k : Nat) (g : Peer → Peer) : (s.updPeer k g).peer k = g (s.peer k) := by
  simp [State.peer, State.updPeer]

theorem State.peer_of_peers {s t : State} (h : t.peers = s.peers) (k : Nat) : t.peer k = s.peer k := by rw [State.peer, State.peer, h]

theorem strandSackTimer_sends (hsince : (s.peer k).sinceSack > 0) (hdue : s.tide.toNat ≥ (s.peer k).lastSack + 16000) (hkey : (s.peer k).txKeys ≠ []) :
    s.Leads (.strandSackTimer k) (fun t => (t.peer k).sinceSack = 0) := by
  obtain ⟨key, keys, hkeys⟩ := List.exists_cons_of_ne_nil hkey
  have hexec : exec (.strandSackTimer k) s = .next (s.sendSack k) := if_pos ⟨hsince, hdue⟩
  refine State.leads hexec ?_
  simp only [State.sendSack, hkeys, State.peer_updPeer_same]

theorem strandPeerTimeout_marksDown (hup : (s.peer k).up = true) (hunacked : (s.peer k).unacked ≠ [])
    (hdue : s.tide.toNat ≥ (s.peer k).lastAck + 50000000) :
    s.Leads (.strandPeerTimeout k) (fun t => (t.peer k).up = false ∧ (t.peer k).unacked = []) := by
  have hexec : exec (.strandPeerTimeout k) s = .next (s.peerDown k) := if_pos (by simp [hup, hunacked, hdue])
  refine State.leads hexec ?_
  rw [State.peerDown, State.peer_updPeer_same]
  exact ⟨rfl, rfl⟩

theorem le_contiguous (l : List Arrived) (k n : Nat) : n ≤ contiguous l k n := by
  induction k generalizing n with
  | zero => exact Nat.le_refl n
  | succ k ih =>
    unfold contiguous
    split
    · exact Nat.le_of_succ_le (ih (n + 1))
    · exact Nat.le_refl n

theorem State.arrivePacket_peers (s : State) (bytes : List Byte) (poison : List Nat) : (s.arrivePacket bytes poison).peers = s.peers := by
  unfold State.arrivePacket
  dsimp only
  split <;> rfl

theorem State.reassemble_expected (k n : Nat) (s : State) : ((State.reassemble k n s).peer k).expected = (s.peer k).expected := by
  induction n generalizing s with
  | zero => rfl
  | succ n ih =>
    unfold State.reassemble
    dsimp only
    split
    · rfl
    · rw [ih, State.peer_of_peers (State.arrivePacket_peers ..), State.peer_updPeer_same]

theorem State.noteFrame_expected (s : State) (h : StrandHead) : ((s.noteFrame h).peer h.peer).expected = (s.peer h.peer).expected := by
  rw [State.noteFrame, State.peer_updPeer_same]

theorem State.takeFrame_expected (s : State) (f : StrandFrame) : (s.peer f.head.peer).expected ≤ ((s.takeFrame f).peer f.head.peer).expected := by
  rw [State.takeFrame, State.reassemble_expected, State.peer_updPeer_same, ← s.noteFrame_expected f.head]
  exact le_contiguous ..

theorem State.sendSack_expected (s : State) (k : Nat) : ((s.sendSack k).peer k).expected = (s.peer k).expected := by
  unfold State.sendSack
  dsimp only
  split
  · rfl
  · rw [State.peer_updPeer_same]
    rfl

theorem strandFrameReceive_goesOn {f : StrandFrame} (hgood : s.frameGood f.head = true) (hfits : s.frameFits f = true) :
    s.Leads (.strandFrameReceive f) (fun t => (t.peer f.head.peer).expected ≥ (s.peer f.head.peer).expected) := by
  have hexec : exec (.strandFrameReceive f) s = .next (if ((s.takeFrame f).peer f.head.peer).sinceSack ≥ 64 then (s.takeFrame f).sendSack f.head.peer
      else s.takeFrame f) := if_neg (by simp [hgood, hfits])
  refine State.leads hexec ?_
  split
  · exact (s.takeFrame_expected f).trans_eq (State.sendSack_expected ..).symm
  · exact s.takeFrame_expected f

theorem State.sendSegment_unacked (s : State) (k : Nat) (g : Segment) : ((s.sendSegment k g).peer k).unacked = (s.peer k).unacked := by
  unfold State.sendSegment
  split
  · rfl
  · rw [State.peer_of_peers (State.say_peers _ _), State.peer_updPeer_same]

/-- Segments sent again stay unacknowledged, those with a number or another. -/
theorem State.resend_unacked (s : State) (k : Nat) (which : Nat → Bool) : ((s.resend k which).peer k).unacked =
    (s.peer k).unacked.map (fun e => if which e.seq then { e with since := s.tide.toNat } else e) := by
  have hstep (t : State) (e : Segment) : ((({ t.sendSegment k e with strandRetries := t.strandRetries + 1 } : State).log 4 0x3FF 0 0 0
      (entryPort e.entry) 0).peer k).unacked = (t.peer k).unacked := by
    rw [State.peer_of_peers (State.log_peers ..)]
    exact State.sendSegment_unacked ..
  rw [State.resend]
  dsimp only
  rw [foldl_keeps (fun t => (t.peer k).unacked) _ hstep, State.peer_updPeer_same]

theorem State.retireAcked_peer (s : State) (k j : Nat) : (s.retireAcked k).peer j = s.peer j := rfl

/-- An acknowledgement leaves no segment below its number, nor one whose bit it has set. -/
theorem State.takeSack_unacked {s : State} {k n : Nat} {bitmap : BitVec 64} {e : Segment} (he : e ∈ ((s.takeSack k n bitmap).peer k).unacked) :
    seqNear (s.peer k).nextSeq n ≤ e.seq ∧ (e.seq - seqNear (s.peer k).nextSeq n < 64 → bitmap.getLsbD (e.seq - seqNear (s.peer k).nextSeq n) = false) := by
  rw [State.takeSack] at he
  dsimp only at he
  rw [State.retireAcked_peer, State.resend_unacked, State.peer_updPeer_same] at he
  obtain ⟨d, hd, hde⟩ := List.mem_map.mp he
  have hseq : e.seq = d.seq := by
    rw [← hde]
    split <;> rfl
  obtain ⟨-, hkept⟩ := List.mem_filter.mp hd
  rw [hseq]
  simpa [imp_iff_not_or] using hkept

theorem State.noteFrame_nextSeq (s : State) (h : StrandHead) : ((s.noteFrame h).peer h.peer).nextSeq = (s.peer h.peer).nextSeq := by
  rw [State.noteFrame, State.peer_updPeer_same]

theorem strandSackReceive_acknowledgesAll {h : StrandHead} (n : Nat) (hgood : s.frameGood h = true) :
    s.Leads (.strandSackReceive h n (BitVec.allOnes 64)) (fun t => ∀ e ∈ (t.peer h.peer).unacked, e.seq ≥ seqNear (s.peer h.peer).nextSeq n + 64) := by
  have hexec : exec (.strandSackReceive h n (BitVec.allOnes 64)) s = .next ((s.noteFrame h).takeSack h.peer n (BitVec.allOnes 64)) :=
    if_neg (by simp [hgood])
  refine State.leads hexec fun e he => ?_
  obtain ⟨hbase, hbit⟩ := State.takeSack_unacked he
  rw [State.noteFrame_nextSeq] at hbase hbit
  by_contra hnear
  have hnear : e.seq - seqNear (s.peer h.peer).nextSeq n < 64 := by omega
  have hset := hbit hnear
  rw [BitVec.getLsbD_allOnes, decide_eq_true hnear] at hset
  exact Bool.noConfusion hset

end

/-! The host and management (R472 to R477, R483). -/

section
variable {s : State}

theorem cxlMemAccess_reads {pa n : Nat} (hreach : hostReaches pa n = true) (hactive : s.memActive = true) :
    s.Leads (.cxlMemAccess pa none n) (fun t => .memRead pa (s.mem.read pa n) (s.homeRead pa n).2 ∈ t.outputs) := by
  have hexec : exec (.cxlMemAccess pa none n) s = .next (s.say (.memRead pa (s.homeRead pa n).1 (s.homeRead pa n).2)) := by
    change execCxlMemAccess pa none n s = _
    simp [execCxlMemAccess, hreach, hactive]
  exact State.leads hexec (State.mem_outputs_say ..)

theorem State.withL2_hostDirty (s : State) (l2 : List L2Line) : (s.withL2 l2).hostDirty ⊆ s.hostDirty := List.filter_subset_self ..

/-- A line cleaned is none of those that the L2s hold dirty. -/
theorem State.cleanHost_clean (s : State) (line : Nat) (gone : Bool) : ∀ e ∈ (s.cleanHost line gone).hostDirty, e.1 ≠ line := by
  have hclean : ∀ e ∈ (s.cleanHost line false).hostDirty, e.1 ≠ line := by
    intro e he
    by_cases hd : s.holdsDirty line = true
    · simp only [State.cleanHost, hd, if_true, Bool.false_eq_true, if_false] at he
      exact of_decide_eq_true (List.mem_filter.mp he).2
    · simp only [State.cleanHost, hd, Bool.false_eq_true, if_false] at he
      rintro rfl
      exact hd (List.any_eq_true.mpr ⟨e, he, decide_eq_true rfl⟩)
  cases gone with
  | false => exact hclean
  | true => exact fun e he => hclean e (State.withL2_hostDirty _ _ he)

theorem cxlCacheSnoop_cleans (pa : Nat) (b : Bool) : s.Leads (.cxlCacheSnoop pa b) (fun t => ∀ e ∈ t.hostDirty, e.1 ≠ pa / 128) :=
  State.leads rfl (s.cleanHost_clean (pa / 128) b)

theorem mgmtReadBlackBox_answers (n : Nat) :
    s.Leads (.mgmtReadBlackBox 0 n 1) (fun t => .management (bytesOf 32 (s.boxEntry 0 (n % 4096))) ∈ t.outputs) := by
  have hexec : exec (.mgmtReadBlackBox 0 n 1) s =
      .next (s.say (.management ((List.range 1).flatMap (fun i => bytesOf 32 (s.boxEntry 0 ((n + i) % 4096)))))) := by
    change execMgmtReadBlackBox 0 n 1 s = _
    exact if_neg (by decide)
  have hbytes : (List.range 1).flatMap (fun i => bytesOf 32 (s.boxEntry 0 ((n + i) % 4096))) = bytesOf 32 (s.boxEntry 0 (n % 4096)) := by
    simp [List.range_succ]
  refine State.leads hexec ?_
  rw [hbytes]
  exact State.mem_outputs_say ..

/-- What says something changes what has been said. -/
theorem State.say_outputs_ne (s : State) (o : Output) : (s.say o).outputs ≠ s.outputs := by simp [State.say]

theorem mgmtReadPower_answers (hrec : s.recovery = false) : s.Leads .mgmtReadPower (fun t => t.outputs ≠ s.outputs) :=
  State.leads (State.managed_of_running hrec _) (s.say_outputs_ne _)

theorem mgmtReadCounters_answers (hrec : s.recovery = false) : s.Leads .mgmtReadCounters (fun t => t.outputs ≠ s.outputs) :=
  State.leads (State.managed_of_running hrec _) (s.say_outputs_ne _)

theorem mctpControlMessage_answers (hrec : s.recovery = false) (b : List Byte) : s.Leads (.mctpControlMessage b) (fun t => t.outputs ≠ s.outputs) :=
  State.leads (State.managed_of_running hrec _) (s.say_outputs_ne _)

theorem spdmMessage_answers (b : List Byte) : s.Leads (.spdmMessage b) (fun t => t.outputs ≠ s.outputs) := State.leads rfl (s.say_outputs_ne _)

/-- A peer's entry of zeros makes it valid. -/
theorem mgmtWritePeer_valid (hrec : s.recovery = false) : s.Leads (.mgmtWritePeer (0 :: List.replicate 8 0)) (fun t => (t.peer 0).valid = true) := by
  refine State.leads ((State.managed_of_running hrec _).trans (if_neg (by decide))) ?_
  rw [show (0 : Byte).toNat = 0 from rfl, State.peer_updPeer_same]

theorem mgmtInstallKey_installs (hrec : s.recovery = false) :
    s.Leads (.mgmtInstallKey (0 :: 0 :: List.replicate 32 0)) (fun t => (t.peer 0).txKeys.head? = some (List.replicate 32 0, 1)) := by
  refine State.leads ((State.managed_of_running hrec _).trans (if_neg (by decide))) ?_
  rw [show (0 : Byte).toNat = 0 from rfl, State.peer_updPeer_same]
  rfl

theorem mgmtPeerUp_up (hrec : s.recovery = false) : s.Leads (.mgmtPeerUp 0) (fun t => (t.peer 0).up = true) := by
  refine State.leads ((State.managed_of_running hrec _).trans (if_neg (by decide))) ?_
  rw [State.peer_updPeer_same]

theorem mgmtPeerDown_down (hrec : s.recovery = false) : s.Leads (.mgmtPeerDown 0) (fun t => (t.peer 0).up = false) := by
  refine State.leads ((State.managed_of_running hrec _).trans (if_neg (by decide))) ?_
  rw [State.peerDown, State.peer_updPeer_same]

/-! Resets (R478 to R481). -/

theorem mgmtTenantReset_clears (hrec : s.recovery = false) : s.Leads .mgmtTenantReset (fun t => t.wgs = [] ∧ t.wiping = true) :=
  State.leads (State.exec_tenantReset hrec) ⟨rfl, rfl⟩

/-- A warm reset by either of its events leaves no workgroup, and the Tide as it was. -/
theorem warmReset_clears {i : Instr} (h : exec i s = .next s.warmReset) : s.Leads i (fun t => t.wgs = [] ∧ t.tide = s.tide) :=
  State.leads h ⟨s.warmReset_cleared.1, s.warmReset_keeps.1⟩

theorem mgmtLifeCycleStep_pends (hrec : s.recovery = false) (hpending : s.lifeCyclePending = none) (hlife : s.lifeCycle = .deployed) :
    s.Leads (.mgmtLifeCycleStep []) (fun t => t.lifeCyclePending = some .returned) :=
  State.leads (State.exec_lifeCycleStep hrec hpending (by rw [State.nextLife, hlife])) rfl

theorem coldReset_clears : s.Leads .coldReset (fun t => t.wgs = [] ∧ t.firmware = s.flash.headD s.firmware) := by
  obtain ⟨t, hexec, ⟨hwgs, -⟩, -, -, himage, -⟩ := s.coldReset_takesEffect
  exact State.leads hexec ⟨hwgs, himage⟩

theorem thermalTrip_clears : s.Leads .thermalTrip (fun t => t.wgs = []) := by
  obtain ⟨t, hexec, ⟨hwgs, -⟩, -⟩ := s.thermalTrip_takesEffect
  exact State.leads hexec hwgs

theorem powerRemoved_ends : s.Leads .powerRemoved (fun t => t.powered = false) := State.leads rfl rfl

theorem wipeDone_activates (hwiping : s.wiping = true) (htimed : s.untimed = false) :
    s.Leads .wipeDone (fun t => t.wiping = false ∧ t.memActive = true ∧ t.ready = true) := by
  obtain ⟨t, hexec, hdone, -, -, -, hup, -⟩ := State.wipeDone_takesEffect hwiping
  obtain ⟨hactive, hready, -⟩ := hup htimed
  exact State.leads hexec ⟨hdone, hactive, hready⟩

theorem blockLocalLimit_limits (b : Nat) : s.Leads (.blockLocalLimit b) (fun t => b ∈ t.limited) := by
  obtain ⟨t, hexec, hb, -⟩ := s.blockLocalLimit_takesEffect b
  exact State.leads hexec hb

theorem tideSynchronisation_sets {v : BitVec 64} (hle : s.tide.toNat ≤ v.toNat) : s.Leads (.tideSynchronisation v) (fun t => t.tide = v) := by
  obtain ⟨t, hexec, htide, -⟩ := s.tideSynchronisation_takesEffect v
  exact State.leads hexec (htide.trans (if_pos hle))

end

end Sys2Proof.Machine
end

section
/-! Every event takes effect: the obligation. -/

namespace Sys2Proof.Machine

/-- Settles O41: each event by the lemma of its own effect. -/
theorem eventsTakeEffect : Obligations.EventsTakeEffect := by
  unfold Obligations.EventsTakeEffect
  intro s
  exact ⟨fun w h rest x hw hp hrun hidle hq hx hfree => rotationDecision_takesEffect hw hp hrun hidle hq hx hfree,
    fun w tr hw hp hrun hidle htr => rotationQuantumExpiry_takesEffect hw hp hrun hidle htr,
    fun k tr htr hready => rotationTransferDone_takesEffect htr hready,
    fun i r w l hr hw hl hnone => ⟨_, exec_barrierUnitRequest_serves hr hw hl hnone, rfl⟩,
    fun key i x hx => ⟨spinTimeout_takesEffect hx, tideTargetReached_takesEffect hx, fun _ => State.leads rfl rfl, waitwDeadline_takesEffect hx,
      swwaitReread_takesEffect hx⟩,
    fun k n e w l he hw hl => ⟨copyUnitGrant_takesEffect he hw hl, engineOpComplete_takesEffect he hw hl⟩,
    fun k e w l step hidle he hw hl hstep => easelUnitStart_takesEffect hidle he hw hl hstep,
    fun k u e hu he => easelUnitEnd_takesEffect hu he,
    fun r rest at' hrec hring hlacks => faultRecordWrite_takesEffect hrec hring hlacks,
    fun v => State.leads rfl rfl,
    fun key w hw hstalled => watchdogExpiry_takesEffect hw hstalled,
    fun v w h => fcmdEvents_takeEffect v h,
    fun w h => ⟨preemptRequest_takesEffect h, preemptRestore_takesEffect h, preemptKillSaved_takesEffect h⟩,
    fun w hw hsaving hready => preemptSaveDone_takesEffect hw hsaving hready,
    fun v => csrWrite_wdog .host v,
    fun a v hspaces hpages => tlbInvalidate_all a hspaces hpages,
    fun v => launchCounterDisarm_takesEffect v,
    fun a v hv hle hstaged => coveWaysWrite_unstaged a hv hle hstaged,
    fun member group off width bytes hup hlacks hread => multicastMemberRequest_answers member hup hlacks hread,
    fun i p hp hgoes => packetHop_goes hp hgoes,
    fun port tag pa n hport hup hserved => colnalFlitReceive_grantsLoad tag hport hup hserved,
    fun q hsince hdue hkey => strandSackTimer_sends hsince hdue hkey,
    fun q hup hunacked hdue => strandPeerTimeout_marksDown hup hunacked hdue,
    fun q seq => State.leads rfl rfl,
    fun f hgood hfits => strandFrameReceive_goesOn hgood hfits,
    fun h n hgood => strandSackReceive_acknowledgesAll n hgood,
    fun m hm hload hsent hwait hlanes hidle hlacks => ⟨fun answers => multicastResponse_completes answers hm hload hsent hwait hlanes hidle hlacks,
      fun hdue hone => multicastMemberTimeout_completes hm hload hsent hwait hidle hdue hone⟩,
    fun q v hready hlife hqueue herr hsize hvalid hroom => State.leads (queueNotify_accepts hready hlife hqueue herr hsize hvalid hroom) rfl,
    fun hnone c hc => workgroupAdmission_admits hnone hc,
    fun k slice h => State.leads (exec_chunkTake h) rfl,
    fun v hdue => State.leads (exec_startTimeReached hdue) rfl,
    fun key w hw hdone hdef => workgroupEnd_takesEffect hw hdone hdef,
    fun n l hl => ⟨jobComplete_takesEffect hl, launchComplete_takesEffect hl⟩,
    fun pa n hreach hactive => cxlMemAccess_reads hreach hactive,
    fun pa b => cxlCacheSnoop_cleans pa b,
    fun n => mgmtReadBlackBox_answers n,
    fun hrec => ⟨mgmtReadPower_answers hrec, mgmtReadCounters_answers hrec, mgmtWritePeer_valid hrec, mgmtInstallKey_installs hrec, mgmtPeerUp_up hrec,
      mgmtPeerDown_down hrec, mctpControlMessage_answers hrec, mgmtTenantReset_clears hrec, warmReset_clears (State.managed_of_running hrec _),
      mgmtLifeCycleStep_pends hrec⟩,
    fun b => spdmMessage_answers b,
    fun v => State.leads rfl rfl,
    coldReset_clears, warmReset_clears rfl, thermalTrip_clears, powerRemoved_ends, wipeDone_activates,
    fun b => blockLocalLimit_limits b,
    fun e => State.leads rfl rfl,
    fun v hle => tideSynchronisation_sets hle⟩

end Sys2Proof.Machine
end

section
/-! Copies, gathers, scatters and tile operations are queued (R301 to R305, R315, R372 to R374): the body of an operation past its lanes' checks, and the
registers that a `CPY.REG` makes pending in its targets. -/

namespace Sys2Proof.Machine

section
variable {f : Fields} {s : State} {c : Ctx}

/-- The operations that a batch queues, one for each lane that passes, and the batch moved on. -/
def State.queued (s : State) (c : Ctx) (cls : Nat) (mk : Fibre → CopyEntry → CopyEntry) : State :=
  (c.passing.foldl (fun u x => u.queueCopy c cls (mk x) x) s).updLanes c Fibre.next

theorem copyBody_ok {cls : Nat} {ready : Ctx → State → Bool} {fault : Ctx → State → Fibre → Option LaneFault} {mk : Ctx → Fibre → CopyEntry → CopyEntry}
    {t : State} (hfree : c.copyReady t cls = true) (hpass : ∀ x ∈ c.passing, fault c t x = none) (hready : ready c t = true) :
    copyBody cls ready fault mk c t = .ok (t.queued c cls (mk c)) := by
  rw [copyBody, Ctx.laneFault_none hpass, hfree, hready]
  rfl

/-- An operation that waits for nothing but free entries. -/
theorem IssuesAs.queues (op : Nat) (sh : Shape) (cls : Nat) (push : Ctx → Bool) (tests : Ctx → Fibre → List (Bool × LaneFault))
    (mk : Ctx → Fibre → CopyEntry → CopyEntry) (h : IssuesAs op sh f s c) (hfree : c.copyReady (s.tainted c op f) cls = true)
    (hpass : ∀ x ∈ c.passing, c.issueFault (s.tainted c op f) (push c) (tests c) x = none) :
    runBatch op sh f s (copyBody cls noMore (fun c t => c.issueFault t (push c) (tests c)) mk) = .next ((s.tainted c op f).queued c cls (mk c)) :=
  h.next (copyBody_ok hfree hpass rfl)

/-! `TZIP` (R372): its row depends on the brush that it names. -/

theorem tzip_queued (h : IssuesAs 0x144 (.tzip f (c.handleBrush.any (fun b => b.arity = 1))) f s c) (hfree : c.copyReady (s.tainted c 0x144 f) 3 = true)
    (hpass : ∀ x ∈ c.passing, c.issueFault (s.tainted c 0x144 f) false (tileTests .tzip (fun _ _ _ => false) c) x = none) :
    exec (.tzip f) s = .next ((s.tainted c 0x144 f).queued c 3 (tileEntry .tzip c)) := by
  change execTzip f s = _
  exact runWith_ok h.1 h.2 (copyBody_ok hfree hpass rfl)

/-! `CPY.REG` (R304). -/

theorem State.takeRefs_reg (s : State) {e : CopyEntry} {n : Nat} (h : e.kind = .reg n) : s.takeRefs c e = s := by
  simp only [State.takeRefs, h]

theorem State.queueCopy_nextKey_reg (s : State) {cls n : Nat} {g : CopyEntry → CopyEntry} (x : Fibre) (h : ∀ e, (g e).kind = .reg n) :
    (s.queueCopy c cls g x).nextKey = s.nextKey + 1 := by
  rw [State.queueCopy, State.takeRefs_reg _ (h _)]
  rfl

theorem State.queued_nextKey_reg (s : State) {cls n : Nat} {mk : Fibre → CopyEntry → CopyEntry} (h : ∀ x e, (mk x e).kind = .reg n) :
    (s.queued c cls mk).nextKey = s.nextKey + c.passing.length := by
  rw [State.queued, State.updLanes_nextKey]
  generalize c.passing = l
  induction l generalizing s with
  | nil => rfl
  | cons x t ih => rw [List.foldl_cons, ih, State.queueCopy_nextKey_reg _ _ (h x), List.length_cons]; omega

/-- The live fibres of the tile that a lane's source C names. -/
def Ctx.targets (c : Ctx) (x : Fibre) : List Nat := (c.regTarget x).2.2.2.map (fun y => y.index)

/-- The entry of a lane's `CPY.REG`. -/
def Ctx.regEntry (c : Ctx) (x : Fibre) (e : CopyEntry) : CopyEntry :=
  { boxEntry (.reg (regRun c.f)) c x e with targets := c.targets x, targetBase := c.f.dst.toNat, width := (c.regTarget x).2.2.1 }

/-- The registers of a `CPY.REG` pending in the fibres of its targets. -/
def Ctx.targetsPending (c : Ctx) (w : Workgroup) : Workgroup :=
  { w with fibres := w.fibres.map (fun y => if c.passing.any (fun x => decide (y.index ∈ c.targets x)) then
    { y with pendV := (List.range (regRun c.f)).foldl (fun l i => insertNat (c.f.dst.toNat + i) l) y.pendV } else y) }

theorem Ctx.targetsPending_of_idle (hp : c.passing = []) (w : Workgroup) : c.targetsPending w = w := by
  simp [Ctx.targetsPending, hp]

theorem Ctx.targetsPending_eq (w : Workgroup) : c.targetsPending w = { w with fibres := w.fibres.map (fun y =>
    if (c.passing.flatMap c.targets).contains y.index then
      { y with pendV := (List.range (regRun c.f)).foldl (fun l i => insertNat (c.f.dst.toNat + i) l) y.pendV } else y) } := by
  simp only [Ctx.targetsPending, List.any_eq_true, decide_eq_true_eq, List.contains_iff_mem, List.mem_flatMap]

theorem cpyReg_queued (h : Issues (.cpyReg f) s c) (hfree : c.copyReady (s.entered c (.cpyReg f)) 0 = true)
    (hready : regReady c (s.entered c (.cpyReg f)) = true)
    (hpass : ∀ x ∈ c.passing, c.issueFault (s.entered c (.cpyReg f)) false (fun x => tlrTests c x ++ targetTests c x) x = none) :
    exec (.cpyReg f) s = .next (((s.entered c (.cpyReg f)).queued c 0 c.regEntry).updWg c.wg.key c.targetsPending) := by
  change execCpyReg f s = _
  refine IssuesAs.next (op := 0x113) (sh := .cpyReg f) h ?_
  refine (congrArg (Except.map _) (copyBody_ok (mk := Ctx.regEntry) hfree hpass hready)).trans (congrArg Except.ok ?_)
  have hkey := (s.entered c (.cpyReg f)).queued_nextKey_reg (c := c) (cls := 0) (mk := c.regEntry) (fun _ _ => rfl)
  by_cases hp : c.passing = []
  · rw [hp] at hkey
    exact (if_pos hkey).trans (State.updWg_of_id (Ctx.targetsPending_of_idle hp)).symm
  · have hsome := List.length_pos_iff.mpr hp
    have hmore : ((s.entered c (.cpyReg f)).queued c 0 c.regEntry).nextKey ≠ (s.entered c (.cpyReg f)).nextKey := by omega
    rw [funext Ctx.targetsPending_eq]
    exact if_neg hmore

end

/-- Settles O24: an operation by the body of its class past its lanes' checks; `TZIP` under the row that its brush gives it, and `CPY.REG` with its targets. -/
theorem copiesAreQueued : Obligations.CopiesAreQueued := by
  unfold Obligations.CopiesAreQueued
  intro f s c queuesIf queues A B C box gather tlr regs tile members toRegs
  refine ⟨?cpy, ?slot, ?cl, ?ring, ?acc, ?brush, ?gth, ?gthSlot, ?sct, ?sctCl, cpyReg_queued, tzip_queued, ?tfold, ?tscan⟩
  case cpy =>
    exact IssuesAs.queues 0x110 (.cpyDir f) 0 (fun _ => false) (fun c x => tlrTests c x ++ alignTests 16 c x)
      (fun c => boxEntry (if c.f.mod 0 then .st else .ld) c)
  case slot =>
    exact IssuesAs.queues 0x111 (.cpySlot f) 0 (fun _ => false) (fun c x => tlrTests c x ++ slotTests c x) (boxEntry .slot)
  case cl =>
    exact IssuesAs.queues 0x112 (.cpyCl f) 0 (fun c => !c.f.mod 0)
      (fun c x => [(decide ((src32 c x c.f.srcA).toNat % 16 ≠ 0), misaligned (src32 c x c.f.srcA).toNat 16)] ++ alignTests 16 c x ++
        [(decide ((src32 c x c.f.srcB).toNat % 16 ≠ 0 ∨ (src32 c x c.f.srcB).toNat < 16 ∨ (src32 c x c.f.srcB).toNat > 65536), c.badOperand c.f.srcB)])
      (fun c x e => { e with
        kind := if c.f.mod 0 then .pull else .push, a := (src32 c x c.f.srcA).toNat, b := [src32 c x c.f.srcB], c := offsetC c x })
  case ring =>
    exact IssuesAs.queues 0x114 (.cpyRing f) 0 (fun _ => false) (fun c x => tlrTests c x ++ alignTests 32 c x ++
      [(decide (offsetC c x + 32 > c.kernel.scratchBytes), { cls := 10, cause := 8, v0 := offsetC c x, v1 := 32 })]) (boxEntry .ring)
  case acc =>
    exact IssuesAs.queues 0x115 (.cpyDir f) 0 (fun _ => false) (fun c x => tlrTests c x ++ alignTests 16 c x ++
      [(decide (offsetC c x ≥ c.kernel.accBytes), c.slotLane (offsetC c x))]) (fun c => boxEntry (if c.f.mod 0 then .accSt else .accLd) c)
  case brush =>
    exact IssuesAs.queues 0x116 (.cpyB f) 0 (fun _ => false) (fun c x => tlrTests c x ++ alignTests 16 c x ++
      [((c.wg.brush? (c.f.modBits 0 6)).isNone, c.badOperand c.f.srcB)]) (fun c => boxEntry (.brush (c.f.modBits 0 6)) c)
  case gth => exact IssuesAs.queues 0x117 (.gth f true) 1 (fun _ => false) (fun c x => tlrTests c x ++ indexTests c x) (gatherEntry .gth)
  case gthSlot =>
    exact IssuesAs.queues 0x118 (.gth f true) 1 (fun _ => false) (fun c x => tlrTests c x ++ slotTests c x ++ indexTests c x) (gatherEntry .gthSlot)
  case sct => exact IssuesAs.queues 0x119 (.gth f false) 1 (fun _ => false) (fun c x => tlrTests c x ++ indexTests c x) (gatherEntry .sct)
  case sctCl => exact IssuesAs.queues 0x11A (.gth f false) 1 (fun _ => false) (fun c x => tlrTests c x ++ indexTests c x) (gatherEntry .sctCl)
  case tfold =>
    exact IssuesAs.queues 0x145 (.tfold f) 3 (fun _ => false) (fun c => tileTests .tfold (fun b _ _ =>
      decide (b.arity = 0) || (!c.f.mod 1 && !b.hasIdentity && !b.associative && decide (b.xFmt ≠ b.yFmt))) c) (tileEntry .tfold)
  case tscan =>
    exact IssuesAs.queues 0x146 (.tfold f) 3 (fun _ => false) (fun c => tileTests .tscan (fun b _ _ =>
      decide (b.arity = 0) || decide (b.xFmt ≠ b.yFmt) || decide (b.yFmt ≠ b.zFmt) || (c.f.mod 1 && !b.hasIdentity)) c) (tileEntry .tscan)

end Sys2Proof.Machine
end

section
/-! Sync words, rings, sealing and waiting (R307, R308, R311, R312, R316): a bank word updated lane by lane as a fold, and what each instruction does past the
checks of its lanes. -/

namespace Sys2Proof.Machine

section
variable {f : Fields} {s : State} {c : Ctx}

/-! Lanes in order at their banks (R311, R316). -/

/-- One lane's update of its bank word, where the lanes before it have passed. -/
def bankTurn (act : State → Fibre → Except LaneFault State) (t : Option State) (x : Fibre) : Option State := t.bind (fun t => (act t x).toOption)

theorem foldl_bankTurn_none (act : State → Fibre → Except LaneFault State) (l : List Fibre) : l.foldl (bankTurn act) none = none := by
  induction l with
  | nil => rfl
  | cons x l ih => exact ih

theorem bankTurn_some {act : State → Fibre → Except LaneFault State} {t : State} {x : Fibre} : bankTurn act (some t) x = (act t x).toOption := rfl

theorem bankLanes_ok {act : State → Fibre → Except LaneFault State} {l : List Fibre} {t v : State} (h : l.foldl (bankTurn act) (some t) = some v) :
    bankLanes c act l t = .ok v := by
  induction l generalizing t with
  | nil => exact congrArg Except.ok (Option.some.inj h)
  | cons x l ih =>
    rw [List.foldl_cons, bankTurn_some] at h
    rw [bankLanes]
    cases hact : act t x with
    | error e =>
      rw [hact] at h
      exact absurd ((foldl_bankTurn_none act l).symm.trans h) (by simp)
    | ok u =>
      rw [hact] at h
      exact ih h

/-- Where each lane passes on what the lanes before it have done, the fold is theirs. -/
theorem foldl_bankTurn_some {act : State → Fibre → Except LaneFault State} {g : State → Fibre → State} {l : List Fibre} {t : State}
    (h : ∀ a x d, l = a ++ x :: d → act (a.foldl g t) x = .ok (g (a.foldl g t) x)) : l.foldl (bankTurn act) (some t) = some (l.foldl g t) := by
  induction l using List.reverseRecOn with
  | nil => rfl
  | append_singleton l x ih =>
    have hbefore := ih fun a y d hl => h a y (d ++ [x]) (by rw [hl, List.append_assoc, List.cons_append])
    rw [List.foldl_append, hbefore, List.foldl_append, List.foldl_cons, bankTurn_some, h l x [] rfl]
    rfl

theorem bankBody_ok {space width : Nat} {act : Ctx → State → Fibre → Except LaneFault State} {t v : State}
    (hpass : ∀ x ∈ c.passing, c.accessFault t space width 2 x = none) (hv : c.passing.foldl (bankTurn (act c)) (some t) = some v) :
    bankBody space width act c t = .ok ((v.commits c (decide (space = 2) && !c.passing.isEmpty)).updLanes c Fibre.next) := by
  rw [bankBody, Ctx.laneFault_none hpass, bankLanes_ok hv]
  rfl

/-! Sealing and waiting (R307, R308). -/

/-- The issuer of a batch. -/
def Ctx.issuer (c : Ctx) : Nat := issuerOf c.compat16 (lowestFibre c.lanes)

/-- The batch that `SEAL` closes, pending under its number (R307). -/
def Stream.sealed (p : Stream) : Stream :=
  { p with pending := retire (p.pending ++ [(p.sealedCount, p.unsealed)]), unsealed := [], unsealedAny := false, sealedCount := p.sealedCount + 1 }

theorem seal_nothing (h : Issues (.seal f) s c) (hq : (c.wg.stream c.issuer 0).unsealedAny = false) : exec (.seal f) s =
    .next (((s.entered c (.seal f)).lanewise c (fun x => x.set32 c.f.dst (BitVec.ofNat 32 ((c.wg.stream c.issuer 0).sealedCount + (2 ^ 32 - 1))))).checkWaitc
      c.wg.key) := by
  change execSeal f s = _
  refine IssuesAs.next (op := 0x11B) (sh := .sealBatch f) h ?_
  rw [Ctx.issuer] at hq
  simp only [Ctx.sealReady, hq, Bool.not_false, Bool.true_or, Bool.not_true, Bool.false_eq_true, if_false]
  rfl

theorem seal_batch (h : Issues (.seal f) s c) (hq : (c.wg.stream c.issuer 0).unsealedAny = true) (hroom : (c.wg.stream c.issuer 0).pending.length < 65535) :
    exec (.seal f) s = .next ((((s.entered c (.seal f)).updWg c.wg.key (fun w => w.updStream c.issuer 0 Stream.sealed)).lanewise c
      (fun x => x.set32 c.f.dst (BitVec.ofNat 32 (c.wg.stream c.issuer 0).sealedCount))).checkWaitc c.wg.key) := by
  change execSeal f s = _
  refine IssuesAs.next (op := 0x11B) (sh := .sealBatch f) h ?_
  rw [Ctx.issuer] at hq hroom
  simp only [Ctx.sealReady, hq, Stream.count, hroom, decide_true, Bool.or_true, Bool.not_true, Bool.false_eq_true, if_false, if_true]
  rfl

/-- `WAITC` with no fault to deliver: its fibres wait, and go on at once where the counter already allows it (R308). -/
theorem waitc_waits {x : Fibre} {l : List Fibre} (h : Issues (.waitc f) s c) (hlanes : c.lanes = x :: l)
    (hheld : ∀ d ∈ c.wg.deferred, (d.issuer = c.issuer → d.cls ≠ c.f.modBits 0 3) ∧ (d.info.fibre / 32 = c.hwarp → d.cls < 11)) : exec (.waitc f) s =
      .next (((s.entered c (.waitc f)).updLanes c (fun y => y.sleep .waitc (c.f.modBits 0 3) (srcB32 c x).toNat 0 0 s.tide.toNat)).checkWaitc c.wg.key) := by
  change execWaitc f s = _
  refine IssuesAs.next (op := 0x11C) (sh := .waitc f) h ?_
  have hnone : c.wg.deferredOf (fun d => (decide (d.issuer = c.issuer) && decide (d.cls = c.f.modBits 0 3)) ||
      (decide (d.cls ≥ 11) && decide (d.info.fibre / 32 = c.hwarp))) = none := by
    refine List.find?_eq_none.mpr fun d hd hbad => ?_
    obtain ⟨hissuer, hhome⟩ := hheld d hd
    simp only [Bool.or_eq_true, Bool.and_eq_true, decide_eq_true_eq] at hbad
    obtain ⟨hi, hcls⟩ | ⟨hcls, hf⟩ := hbad
    · exact hissuer hi hcls
    · exact absurd (hhome hf) (by omega)
  simp only [Ctx.issuer, hlanes] at hnone
  simp only [hnone, hlanes, State.tainted_tide]
  rfl

/-! Sync words (R311, R312). -/

/-- Where a batch's instruction on sync words of `c.f` completes: its words as `v` has them, and the batch moved on. -/
def State.bankDone (v : State) (c : Ctx) (space : Nat) : State := (v.commits c (decide (space = 2) && !c.passing.isEmpty)).updLanes c Fibre.next

/-- A lane's sync word initialised. -/
def State.syncInit (t : State) (c : Ctx) (x : Fibre) : State :=
  t.syncWrite (c.bankOf t (syncSpace c.f) 16 x).1 (c.bankOf t (syncSpace c.f) 16 x).2
    { count := (src32 c x c.f.srcB).toInt, completions := 0, valid := true, waiters := 0, refs := 0 }

theorem swinit_completes (h : Issues (.swinit f) s c) (hpass : ∀ x ∈ c.passing, c.accessFault (s.entered c (.swinit f)) (syncSpace c.f) 16 2 x = none)
    (hidle : ∀ a x d, c.passing = a ++ x :: d → ∀ t, t = a.foldl (State.syncInit · c) (s.entered c (.swinit f)) → ∀ b, b = c.bankOf t (syncSpace c.f) 16 x →
      (t.syncRead b.1 b.2).waiters = 0 ∧ (t.syncRead b.1 b.2).refs = 0) :
    exec (.swinit f) s = .next ((c.passing.foldl (State.syncInit · c) (s.entered c (.swinit f))).bankDone c (syncSpace c.f)) := by
  change execSwinit f s = _
  refine IssuesAs.next (op := 0x11D) (sh := .swinit) h ?_
  obtain rfl : c.f = f := IssuesAs.fields (op := 0x11D) (sh := .swinit) h
  refine bankBody_ok hpass (foldl_bankTurn_some fun a x d hl => ?_)
  obtain ⟨hwaiters, hrefs⟩ := hidle a x d hl _ rfl _ rfl
  exact if_neg fun hbad => hbad.elim (fun hw => absurd hwaiters (Nat.ne_of_gt hw)) (fun hr => absurd hrefs (Nat.ne_of_gt hr))

/-- A lane's addition to its sync word, where the word is valid and the sum keeps its range. -/
def State.syncExpect (t : State) (c : Ctx) (x : Fibre) : Option State :=
  if (t.syncRead (c.bankOf t (syncSpace c.f) 16 x).1 (c.bankOf t (syncSpace c.f) 16 x).2).valid = true then
    t.syncAdd (c.bankOf t (syncSpace c.f) 16 x).1 (c.bankOf t (syncSpace c.f) 16 x).2 (src32 c x c.f.srcB).toInt
  else none

theorem swexp_completes {v : State} (h : Issues (.swexp f) s c)
    (hpass : ∀ x ∈ c.passing, c.accessFault (s.entered c (.swexp f)) (syncSpace c.f) 16 2 x = none)
    (hv : c.passing.foldl (fun t x => t.bind (State.syncExpect · c x)) (some (s.entered c (.swexp f))) = some v) :
    exec (.swexp f) s = .next (v.bankDone c (syncSpace c.f)) := by
  change execSwexp f s = _
  refine IssuesAs.next (op := 0x11E) (sh := .swinit) h ?_
  obtain rfl : c.f = f := IssuesAs.fields (op := 0x11E) (sh := .swinit) h
  refine bankBody_ok hpass (.trans ?_ hv)
  congr 1
  funext t x
  refine Option.bind_congr fun t _ => ?_
  dsimp only [State.syncExpect]
  cases (t.syncRead (c.bankOf t (syncSpace c.f) 16 x).1 (c.bankOf t (syncSpace c.f) 16 x).2).valid with
  | false => rfl
  | true => cases t.syncAdd (c.bankOf t (syncSpace c.f) 16 x).1 (c.bankOf t (syncSpace c.f) 16 x).2 (src32 c x c.f.srcB).toInt <;> rfl

theorem swwait_completes (h : Issues (.swwait f) s c) (hpass : ∀ x ∈ c.passing, c.accessFault (s.entered c (.swwait f)) (syncSpace c.f) 16 2 x = none) :
    exec (.swwait f) s = .next ((c.passing.foldl (fun t x =>
      t.syncWait c x (c.bankOf (s.entered c (.swwait f)) (syncSpace c.f) 16 x).1 (c.bankOf (s.entered c (.swwait f)) (syncSpace c.f) 16 x).2)
        (s.entered c (.swwait f))).updLanes c (fun x => if passes c.f x then x else x.next)) := by
  change execSwwait f s = _
  refine IssuesAs.next (op := 0x11F) (sh := .swwait) h ?_
  obtain rfl : c.f = f := IssuesAs.fields (op := 0x11F) (sh := .swwait) h
  change (match c.laneFault (c.accessFault (s.entered c (.swwait c.f)) (syncSpace c.f) 16 2) with | some e => Except.error e | none => _) = _
  rw [Ctx.laneFault_none hpass]
  rfl

/-! Rings (R316). -/

theorem accessFault_none_of_ringFault {t : State} {x : Fibre} (h : ringFault c t x = none) : c.accessFault t 1 32 2 x = none := by
  unfold ringFault at h
  split at h
  · cases h
  · assumption

theorem rwait_completes (h : Issues (.rwait f) s c) (hpass : ∀ x ∈ c.passing, ringFault c (s.entered c (.rwait f)) x = none) :
    exec (.rwait f) s = .next ((c.passing.foldl (fun t x =>
      t.ringWait c x (c.bankOf (s.entered c (.rwait f)) 1 32 x).1 (c.bankOf (s.entered c (.rwait f)) 1 32 x).2)
        (s.entered c (.rwait f))).updLanes c (fun x => if passes c.f x then x else x.next)) := by
  change execRwait f s = _
  refine IssuesAs.next (op := 0x120) (sh := .rwait) h ?_
  change (match c.laneFault (ringFault c (s.entered c (.rwait f))) with | some e => Except.error e | none => _) = _
  rw [Ctx.laneFault_none hpass]
  rfl

/-- A lane's slots given back to its ring, where their number is not 0 and the ring has as many. -/
def State.ringReleased (t : State) (c : Ctx) (x : Fibre) : Option State :=
  let n := (src32 c x c.f.srcB).toNat
  let b := c.bankOf t 1 32 x
  let r := t.ringRead b.1 b.2
  if n ≠ 0 ∧ r.free + n ≤ r.slots then some (t.ringWrite b.1 b.2 { r with free := r.free + n }) else none

theorem rrel_completes {v : State} (h : Issues (.rrel f) s c) (hloads : ((s.entered c (.rrel f)).core c.core).loading c.wg.key c.lanes = false)
    (hpass : ∀ x ∈ c.passing, ringFault c (s.entered c (.rrel f)) x = none)
    (hv : c.passing.foldl (fun t x => t.bind (State.ringReleased · c x)) (some (s.entered c (.rrel f))) = some v) :
    exec (.rrel f) s = .next (v.updLanes c Fibre.next) := by
  change execRrel f s = _
  refine IssuesAs.next (op := 0x121) (sh := .rrel) h ?_
  have hlane : c.laneFault (ringFault c (s.tainted c 0x121 f)) = none := Ctx.laneFault_none hpass
  have hidle : ((s.tainted c 0x121 f).core c.core).loading c.wg.key c.lanes = false := hloads
  simp only [hlane, hidle, Bool.false_eq_true, if_false]
  refine bankBody_ok (fun x hx => accessFault_none_of_ringFault (hpass x hx)) (.trans ?_ hv)
  congr 1
  funext t x
  refine Option.bind_congr fun t _ => ?_
  have hzero : src32 c x c.f.srcB = 0 ↔ (src32 c x c.f.srcB).toNat = 0 := (BitVec.toNat_eq ..)
  dsimp only [State.ringReleased]
  by_cases hgood : (src32 c x c.f.srcB).toNat ≠ 0 ∧
      (t.ringRead (c.bankOf t 1 32 x).1 (c.bankOf t 1 32 x).2).free + (src32 c x c.f.srcB).toNat ≤ (t.ringRead (c.bankOf t 1 32 x).1 (c.bankOf t 1 32 x).2).slots
  · rw [if_pos hgood, if_neg (by rw [hzero]; omega)]
    rfl
  · rw [if_neg hgood, if_pos (by rw [hzero]; omega)]
    rfl

end

/-- Settles O26: each instruction past the checks of its lanes, those that update bank words by the fold of what their lanes do. -/
theorem syncInstructionsComplete : Obligations.SyncInstructionsComplete := by
  unfold Obligations.SyncInstructionsComplete
  intro f s c u issuer q space bank checked one
  exact ⟨seal_nothing, seal_batch, fun x l => waitc_waits,
    fun h hidle => swinit_completes h.1 h.2 fun a x d hl t ht b hb => by subst ht hb; exact hidle a x d hl,
    fun h v => swexp_completes h.1 h.2,
    fun h => swwait_completes h.1 h.2, rwait_completes, fun h hloads hpass v => rrel_completes h hloads hpass⟩

end Sys2Proof.Machine
end

section
/-! Grants, completions and Easel units (R291, R302, R340, R344, R346): the entry that a grant moves on, what a started unit leaves of its core and of the slots
that it gathers, and the two ends of a unit without a fault. -/

namespace Sys2Proof.Machine

section
variable {s : State} {k n : Nat} {w : Workgroup} {l : Launch}

theorem copyUnitGrant_grants {e : CopyEntry} (he : (s.core k).copyQ.find? (fun e => e.entry = n) = some e) (hw : s.wg? e.wg = some w)
    (hl : s.launch? w.launch = some l) (hgoes : s.entryProceeds k e = true) :
    exec (.copyUnitGrant k n) s = .next (match e.kind with
      | .psend => (s.updCore k (fun c => { c with copyLast := n })).grantPsend e w l
      | .tzip | .tfold | .tscan => (s.updCore k (fun c => { c with copyLast := n })).grantTile e w l
      | _ => (s.updCore k (fun c => { c with copyLast := n })).grantCopy e w l) := by
  change execCopyUnitGrant k n s = _
  simp only [execCopyUnitGrant, he, hw, hl, hgoes, Bool.not_true, Bool.false_eq_true, if_false]
  cases e.kind <;> rfl

theorem engineOpComplete_completes {e : CopyEntry}
    (he : (s.core k).copyQ.find? (fun e => decide (e.entry = n) && s.copyFinished e) = some e) (hw : s.wg? e.wg = some w) (hl : s.launch? w.launch = some l) :
    exec (.engineOpComplete k n) s = .next (s.completeCopy e w l) := by
  change execEngineOpComplete k n s = _
  simp only [execEngineOpComplete, he, hw, hl]

/-! The Easel unit. -/

theorem exec_easelUnitStart {e : EaselEntry} {step : Nat} (hidle : (s.core k).easelUnit = none) (he : s.easelNext k = some e) (hw : s.wg? e.wg = some w)
    (hl : s.launch? w.launch = some l) (hstep : e.nextStep w = some step) :
    exec (.easelUnitStart k) s = .next (s.easelStarted k e (s.unitOf e w l step) step) := by
  change execEaselUnitStart k s = _
  simp only [execEaselUnitStart, hidle, he, hw, hl, hstep]
  rfl

theorem State.easelStarted_core (s : State) (k : Nat) (e : EaselEntry) (u : EaselUnit) (step : Nat) :
    ((s.easelStarted k e u step).core k).easelUnit = some u ∧ ((s.easelStarted k e u step).core k).easelLast = e.entry := by
  rw [State.easelStarted, State.core_updWg, State.core_updCore_same]
  exact ⟨rfl, rfl⟩

/-- A slot that the started unit gathers is empty. -/
theorem State.easelStarted_slots {e : EaselEntry} {u : EaselUnit} {step j : Nat} {v : Workgroup} {fl : SlotFlags}
    (hv : (s.easelStarted k e u step).wg? e.wg = some v) (hfl : v.slotFlags[j]? = some fl) (hj : (e.gathered step).contains j = true) : fl.filled = false := by
  rw [State.easelStarted, State.wg?_updWg_same (h := ?key)] at hv
  case key => exact fun _ => rfl
  obtain ⟨w, -, rfl⟩ := Option.map_eq_some_iff.mp hv
  rw [List.getElem?_mapIdx] at hfl
  obtain ⟨fl', -, rfl⟩ := Option.map_eq_some_iff.mp hfl
  rw [if_pos hj]

/-- The unit's results written at its end, the unit free again. -/
def State.unitDone (s : State) (k : Nat) (e : EaselEntry) (u : EaselUnit) : State :=
  (s.updCore k (fun c => { c with easelUnit := none })).unitWrites k e u

theorem exec_easelUnitEnd {u : EaselUnit} {e : EaselEntry} (hu : (s.core k).easelUnit = some u)
    (he : (s.core k).easelQ.find? (fun e => e.entry = u.entry) = some e) (hfault : u.fault = none) :
    exec (.easelUnitEnd k) s = .next (if u.last then
      ((s.unitDone k e u).updCore k (fun c => { c with easelQ := c.easelQ.filter (fun x => x.id ≠ e.id) })).complete e.wg e.issuer e.cls e.id
    else (s.unitDone k e u).updCore k (fun c => { c with
      easelQ := c.easelQ.map (fun x => if x.id = e.id then { x with doneSteps := x.doneSteps ++ [u.step] } else x) })) := by
  change execEaselUnitEnd k s = _
  simp only [execEaselUnitEnd, hu, he, hfault]
  cases u.last <;> rfl

end

/-- Settles O35: a grant, a completion and a unit's end by their meanings; a unit's start by what it leaves of its core and its slots. -/
theorem engineEventsComplete : Obligations.EngineEventsComplete := by
  unfold Obligations.EngineEventsComplete
  intro s k n
  refine ⟨fun e w l => copyUnitGrant_grants, fun e w l => engineOpComplete_completes, ?start, fun u e => exec_easelUnitEnd⟩
  case start =>
    intro e w l step hidle he hw hl hstep
    obtain ⟨hunit, hlast⟩ := s.easelStarted_core k e (s.unitOf e w l step) step
    exact ⟨_, exec_easelUnitStart hidle he hw hl hstep, hunit, hlast, fun v j fl => State.easelStarted_slots⟩

end Sys2Proof.Machine
end

section
/-! Slots claimed and released, brushes installed and dropped (R337, R369 to R371), each for the lowest passing lane past its checks. -/

namespace Sys2Proof.Machine

section
variable {f : Fields} {s : State} {c : Ctx} {x : Fibre} {l : List Fibre}

/-! What acts once for its batch. -/

theorem IssuesAs.once {op : Nat} {sh : Shape} {g : Ctx → Fibre → State → Except FaultInfo State} {t : State} (h : IssuesAs op sh f s c)
    (hp : c.passing = x :: l) (hg : g c x (s.tainted c op f) = .ok t) : runOnce op sh f s g = .next t :=
  runOnce_ok h.1 h.2 hp hg

/-- An instruction that acts once for its batch, by its own meaning `e`, only moves on where no lane passes. -/
theorem idle_of_runOnce {i : Instr} {op : BitVec 9} {sh : Shape} {g : Ctx → Fibre → State → Except FaultInfo State}
    (e : Fields → State → Host.Outcome State Fault Refusal) (hop : i.opcode = some op) (hf : i.fields = some f) (hsh : shapeOf i = some sh)
    (he : exec i s = e f s) (hrun : e f s = runOnce op.toNat sh f s g) (h : Issues i s c) (hp : c.passing = []) : Lanes i s c id := by
  simp only [Issues, hop, hf, hsh] at h
  simp only [Lanes, State.entered, hop, hf]
  rw [he, hrun]
  exact IssuesAs.onceIdle h hp

/-! Slots (R337). -/

theorem Ctx.badMask_false {w : Workgroup} (h : ∀ n ∈ maskSlots (srcB32 c x), n < w.slotFlags.length) : c.badMask w x = false := by
  simpa [Ctx.badMask] using h

theorem Ctx.sclmReady_of_free {w : Workgroup} (hp : c.passing = x :: l) (h : (maskSlots (srcB32 c x)).all w.slotFree = true) : c.sclmReady w = true := by
  rw [Ctx.sclmReady, hp]
  exact Bool.or_eq_true_iff.mpr (.inr h)

theorem sclm_claims (h : Issues (.sclm f) s c) (hp : c.passing = x :: l) (hin : ∀ n ∈ maskSlots (srcB32 c x), n < c.wg.slotFlags.length)
    (hfree : (maskSlots (srcB32 c x)).all c.wg.slotFree = true) :
    exec (.sclm f) s = .next (((s.entered c (.sclm f)).updWg c.wg.key (fun w => w.claim (maskSlots (srcB32 c x)))).lanewise c id) := by
  change execSclm f s = _
  refine IssuesAs.once (op := 0x130) (sh := .sclm) h hp ?_
  rw [Ctx.badMask_false hin, Ctx.sclmReady_of_free hp hfree]
  rfl

/-- The slots of a mask claimed where all of them are free. -/
def State.tryClaim (t : State) (c : Ctx) (x : Fibre) : State :=
  if (maskSlots (srcB32 c x)).all c.wg.slotFree then t.updWg c.wg.key (fun w => w.claim (maskSlots (srcB32 c x))) else t

theorem sclmTry_claims (h : Issues (.sclmTry f) s c) (hp : c.passing = x :: l) (hin : ∀ n ∈ maskSlots (srcB32 c x), n < c.wg.slotFlags.length) :
    exec (.sclmTry f) s = .next (((s.entered c (.sclmTry f)).tryClaim c x).lanewise c
      (fun y => y.setPred (predOf c.f.dst) ((maskSlots (srcB32 c x)).all c.wg.slotFree))) := by
  change execSclmTry f s = _
  refine IssuesAs.once (op := 0x131) (sh := .sclmTry) h hp ?_
  rw [Ctx.badMask_false hin]
  rfl

/-- The slots of a mask become releasing. -/
def Workgroup.releasing (slots : List Nat) (at' : Nat) (w : Workgroup) : Workgroup :=
  { w with slotFlags := w.slotFlags.mapIdx (fun i fl => if slots.contains i then { fl with releasing := true, releasedAt := at' } else fl) }

theorem srel_releases (h : Issues (.srel f) s c) (hp : c.passing = x :: l) (hclaimed : ∀ n ∈ maskSlots (srcB32 c x), c.wg.slotClaimed n = true) :
    exec (.srel f) s = .next ((({ s.entered c (.srel f) with nextKey := (s.entered c (.srel f)).nextKey + 1 } : State).updWg c.wg.key
      (Workgroup.releasing (maskSlots (srcB32 c x)) (s.entered c (.srel f)).nextKey)).lanewise c id) := by
  change execSrel f s = _
  refine IssuesAs.once (op := 0x132) (sh := .sclm) h hp ?_
  have hgood : (maskSlots (srcB32 c x)).any (fun n => !c.wg.slotClaimed n) = false := by simpa using hclaimed
  simp only [hgood, Bool.false_eq_true, if_false]
  rfl

/-! Installing brushes (R369, R370). -/

/-- The lowest free place of a table of handles. -/
theorem find?_lowest {α : Type} {g : Nat → Option α} {m n : Nat} (hn : n < m) (hfree : g n = none) (hused : ∀ k, k < n → g k ≠ none) :
    (List.range m).find? (fun h => (g h).isNone) = some n := by
  rw [List.find?_range_eq_some]
  refine ⟨by rw [hfree]; rfl, List.mem_range.mpr hn, fun k hk => ?_⟩
  rw [Option.not_isNone, Option.isSome_iff_ne_none]
  exact hused k hk

theorem find?_noneFree {α : Type} {g : Nat → Option α} {m : Nat} (hused : ∀ k, k < m → g k ≠ none) : (List.range m).find? (fun h => (g h).isNone) = none := by
  rw [List.find?_range_eq_none]
  intro k hk
  rw [Option.not_isNone, Option.isSome_iff_ne_none]
  exact hused k hk

variable {b : Brush} {u : State} {n : Nat}

/-- A brush installed at a handle of the workgroup. -/
def Workgroup.install (n : Nat) (b : Brush) (w : Workgroup) : Workgroup :=
  { w with brushes := Sparse.set none w.brushes n (some b), brushPoison := w.brushPoison.filter (fun p => p / 160 ≠ n) }

theorem brld_installs (h : Issues (.brld f) s c) (hp : c.passing = x :: l) (himage : (s.entered c (.brld f)).readImage c x = .ok (b, u))
    (hn : n < c.kernel.brushes) (hfree : c.wg.brush? n = none) (hused : ∀ k, k < n → c.wg.brush? k ≠ none) :
    exec (.brld f) s = .next ((u.updWg c.wg.key (Workgroup.install n b)).lanewise c (fun y => y.set32 c.f.dst (BitVec.ofNat 32 n))) := by
  change execBrld f s = _
  refine IssuesAs.once (op := 0x140) (sh := .brld) h hp ?_
  rw [show (s.tainted c 0x140 f).readImage c x = _ from himage]
  simp only [find?_lowest hn hfree hused]
  rfl

theorem brld_full (h : Issues (.brld f) s c) (hp : c.passing = x :: l) (himage : (s.entered c (.brld f)).readImage c x = .ok (b, u))
    (hused : ∀ k, k < c.kernel.brushes → c.wg.brush? k ≠ none) : exec (.brld f) s = .next (u.lanewise c (fun y => y.set32 c.f.dst 0xFFFFFFFF)) := by
  change execBrld f s = _
  refine IssuesAs.once (op := 0x140) (sh := .brld) h hp ?_
  rw [show (s.tainted c 0x140 f).readImage c x = _ from himage]
  simp only [find?_noneFree hused]

/-- A brush installed at a handle of the package, for a packet launch. -/
def State.installPkg (u : State) (n : Nat) (b : Brush) (owner : Nat) : State :=
  { u with pkgBrushes := Sparse.set none u.pkgBrushes n (some (b, owner)), pkgBrushPoison := u.pkgBrushPoison.filter (fun p => p / 160 ≠ n) }

theorem brldPkg_installs (h : Issues (.brldPkg f) s c) (hp : c.passing = x :: l) (himage : (s.entered c (.brldPkg f)).readImage c x = .ok (b, u))
    (hn : n < 64) (hfree : Sparse.get none u.pkgBrushes n = none) (hused : ∀ k, k < n → Sparse.get none u.pkgBrushes k ≠ none) :
    exec (.brldPkg f) s = .next ((u.installPkg n b c.launch.areaOwner).lanewise c (fun y => y.set32 c.f.dst (BitVec.ofNat 32 n))) := by
  change execBrldPkg f s = _
  refine IssuesAs.once (op := 0x141) (sh := .brld) h hp ?_
  rw [show (s.tainted c 0x141 f).readImage c x = _ from himage]
  simp only [find?_lowest hn hfree hused]
  rfl

theorem brldPkg_full (h : Issues (.brldPkg f) s c) (hp : c.passing = x :: l) (himage : (s.entered c (.brldPkg f)).readImage c x = .ok (b, u))
    (hused : ∀ k, k < 64 → Sparse.get none u.pkgBrushes k ≠ none) : exec (.brldPkg f) s = .next (u.lanewise c (fun y => y.set32 c.f.dst 0xFFFFFFFF)) := by
  change execBrldPkg f s = _
  refine IssuesAs.once (op := 0x141) (sh := .brld) h hp ?_
  rw [show (s.tainted c 0x141 f).readImage c x = _ from himage]
  simp only [find?_noneFree hused]

/-! Removing brushes (R371). -/

theorem Ctx.dropHandle_of_passing (hp : c.passing = x :: l) : c.dropHandle = some (srcB32 c x).toNat := by rw [Ctx.dropHandle, hp]

theorem brdrop_removes (h : Issues (.brdrop f) s c) (hp : c.passing = x :: l) (hlt : (srcB32 c x).toNat < 64) (hused : c.wg.brush? (srcB32 c x).toNat ≠ none)
    (hidle : (s.entered c (.brdrop f)).brushBusy c.wg (srcB32 c x).toNat = false) : exec (.brdrop f) s = .next (((s.entered c (.brdrop f)).updWg c.wg.key
      (fun w => { w with brushes := Sparse.set none w.brushes (srcB32 c x).toNat none })).lanewise c id) := by
  change execBrdrop f s = _
  refine IssuesAs.once (op := 0x142) (sh := .brdrop) h hp ?_
  have hready : c.brdropReady (s.tainted c 0x142 f) = true := by
    rw [Ctx.brdropReady, Ctx.dropHandle_of_passing hp]
    exact congrArg (!·) hidle
  have hgood : ¬ ((srcB32 c x).toNat / 64 ≠ 0 ∨ (c.wg.brush? (srcB32 c x).toNat).isNone = true) := by
    simp only [ne_eq, not_or, not_not, Option.isNone_iff_eq_none]
    exact ⟨Nat.div_eq_of_lt hlt, hused⟩
  simp only [if_neg hgood, hready]
  rfl

theorem brdropPkg_removes (h : Issues (.brdropPkg f) s c) (hp : c.passing = x :: l) (hlt : (srcB32 c x).toNat < 64)
    (hused : Sparse.get none (s.entered c (.brdropPkg f)).pkgBrushes (srcB32 c x).toNat ≠ none)
    (hidle : (s.entered c (.brdropPkg f)).pkgBrushBusy (srcB32 c x).toNat = false) : exec (.brdropPkg f) s = .next (({ s.entered c (.brdropPkg f) with
      pkgBrushes := Sparse.set none (s.entered c (.brdropPkg f)).pkgBrushes (srcB32 c x).toNat none } : State).lanewise c id) := by
  change execBrdropPkg f s = _
  refine IssuesAs.once (op := 0x143) (sh := .brdrop) h hp ?_
  have hready : c.dropPkgReady (s.tainted c 0x143 f) = true := by
    rw [Ctx.dropPkgReady, Ctx.dropHandle_of_passing hp]
    exact congrArg (!·) hidle
  have hgood : ¬ ((srcB32 c x).toNat / 64 ≠ 0 ∨ (Sparse.get none (s.tainted c 0x143 f).pkgBrushes (srcB32 c x).toNat).isNone = true) := by
    simp only [ne_eq, not_or, not_not, Option.isNone_iff_eq_none]
    exact ⟨Nat.div_eq_of_lt hlt, hused⟩
  simp only [if_neg hgood, hready]
  rfl

end

/-- Settles O27: each instruction past the checks of its lowest passing lane; with no passing lane it only moves on. -/
theorem slotsAndBrushesComplete : Obligations.SlotsAndBrushesComplete := by
  unfold Obligations.SlotsAndBrushesComplete
  intro f s c x l acts slots inside h free written
  refine ⟨⟨fun hi hp hc => sclm_claims hi hp hc.1 hc.2, idle_of_runOnce execSclm rfl rfl rfl rfl rfl⟩, ⟨sclmTry_claims, idle_of_runOnce execSclmTry rfl rfl rfl rfl rfl⟩,
    ⟨srel_releases, idle_of_runOnce execSrel rfl rfl rfl rfl rfl⟩, fun b u n => brld_installs, fun b u => brld_full, fun b u n => brldPkg_installs,
    fun b u => brldPkg_full, ?idle, ⟨fun hi hp hc => brdrop_removes hi hp hc.1 hc.2.1 hc.2.2, idle_of_runOnce execBrdrop rfl rfl rfl rfl rfl⟩,
    ⟨fun hi hp hc => brdropPkg_removes hi hp hc.1 hc.2.1 hc.2.2, idle_of_runOnce execBrdropPkg rfl rfl rfl rfl rfl⟩⟩
  case idle =>
    intro i hi
    simp only [List.mem_cons, List.not_mem_nil, or_false] at hi
    obtain rfl | rfl := hi
    · exact idle_of_runOnce execBrld rfl rfl rfl rfl rfl
    · exact idle_of_runOnce execBrldPkg rfl rfl rfl rfl rfl

end Sys2Proof.Machine
end

section
/-! Easel operations queued (R335, R336, R339, R350 to R354, R376), each past the checks of its issuing lane. -/

namespace Sys2Proof.Machine

section
variable {f : Fields} {s : State} {c : Ctx} {x : Fibre} {l : List Fibre}

/-- An Easel instruction issues for the lanes that pass, with room in the queue and in its counter. -/
def EaselIssues (i : Instr) (cls : Nat) (s : State) (c : Ctx) (x : Fibre) (l : List Fibre) : Prop :=
  Issues i s c ∧ c.passing = x :: l ∧ c.easelReady (s.entered c i) cls = true

theorem IssuesAs.easel {op : Nat} {sh : Shape} {g : Ctx → Fibre → State → Except FaultInfo State} {t : State} (h : IssuesAs op sh f s c)
    (hp : c.passing = x :: l) (hroom : c.easelReady (s.tainted c op f) 2 = true) (hg : g c x (s.tainted c op f) = .ok t) : runEasel op sh f s g = .next t := by
  refine runOnce_ok h.1 h.2 hp ?_
  rw [hroom]
  exact hg

/-- No test of a list fails. -/
theorem firstFault_none {tests : List (Bool × FaultInfo)} (h : ∀ e ∈ tests, e.1 = false) : firstFault tests = none := by
  induction tests with
  | nil => rfl
  | cons e t ih =>
    obtain ⟨bad, info⟩ := e
    obtain rfl : bad = false := h (bad, info) List.mem_cons_self
    exact ih fun e he => h e (List.mem_cons_of_mem _ he)

theorem Ctx.divergence_none {word : Fibre → Word} (h : ∀ y ∈ c.passing, word y = word x) : c.divergence x word = none := by
  have hnil : c.passing.filter (fun y => decide (word y ≠ word x)) = [] := List.filter_eq_nil_iff.mpr fun y hy => by simp [h y hy]
  simp only [Ctx.divergence, hnil]

/-! `MLOOP` (R339). -/

/-- What an `MLOOP` puts into its entry. -/
def Ctx.mloopEntry (c : Ctx) (x : Fibre) (count : Bool) (e : EaselEntry) : EaselEntry :=
  { e with kind := if count then .count else .mloop, a := (src32 c x c.f.srcA).toNat, b := (src32 c x c.f.srcB).toNat, c := (src32 c x c.f.srcC).toNat }

/-- The entry on which an `MLOOP` is checked. -/
def Ctx.mloopProbe (c : Ctx) (x : Fibre) (count : Bool) : EaselEntry :=
  c.mloopEntry x count { entry := 0, id := 0, kind := .mloop, wg := c.wg.key, issuer := 0, cls := 2, fibre := x.index, pc := c.pc, imm := c.f.imm, mods := c.f.mods }

/-- An `MLOOP` queued, a counting one's depth counted at its issue. -/
def State.mloopQueued (t : State) (c : Ctx) (x : Fibre) (count : Bool) : State :=
  if count then (t.queueEasel c x 2 (c.mloopEntry x true)).updCore c.core (fun k => k.setBank (c.mloopProbe x true).c
    (fun b => { b with depth := b.depth + 256 * (c.mloopProbe x true).steps }))
  else t.queueEasel c x 2 (c.mloopEntry x false)

theorem mloopBody_ok {count : Bool} {t : State} (hsame : ∀ y ∈ c.passing, src32 c y c.f.srcA = src32 c x c.f.srcA)
    (hgood : c.mloopFault x t count (c.mloopProbe x count) = none) : mloopBody count c x t = .ok (t.mloopQueued c x count) := by
  have hvote : c.divergence x (fun y => src32 c y c.f.srcA) = none := Ctx.divergence_none hsame
  rw [Ctx.mloopProbe, Ctx.mloopEntry] at hgood
  simp only [mloopBody, hvote, hgood]
  cases count <;> rfl

theorem mloop_queued {i : Instr} {op : BitVec 9} {sh : Shape} {g : Ctx → Bool} (e : Fields → State → Host.Outcome State Fault Refusal)
    (hop : i.opcode = some op) (hf : i.fields = some f) (hsh : shapeOf i = some sh) (he : exec i s = e f s)
    (hrun : e f s = runEasel op.toNat sh f s (fun c => mloopBody (g c) c))
    (h : EaselIssues i 2 s c x l) (hsame : ∀ y ∈ c.passing, src32 c y c.f.srcA = src32 c x c.f.srcA)
    (hgood : c.mloopFault x (s.entered c i) (g c) (c.mloopProbe x (g c)) = none) :
    exec i s = .next ((s.entered c i).mloopQueued c x (g c)) := by
  obtain ⟨hi, hp, hroom⟩ := h
  simp only [Issues, hop, hf, hsh] at hi
  simp only [State.entered, hop, hf] at hroom hgood ⊢
  rw [he, hrun]
  exact hi.easel hp hroom (mloopBody_ok hsame hgood)

/-! Accumulator access (R350, R351). -/

theorem mzero_queued (h : EaselIssues (.mzero f) 2 s c x l) (halign : (src32 c x c.f.srcA).toNat % 4096 = 0)
    (hin : (src32 c x c.f.srcA).toNat + c.f.immBits 0 8 * 4096 ≤ c.kernel.accBytes) :
    exec (.mzero f) s = .next ((s.entered c (.mzero f)).queueEasel c x 2 (fun e => { e with kind := .mzero, a := (src32 c x c.f.srcA).toNat })) := by
  obtain ⟨hi, hp, hroom⟩ := h
  change execMzero f s = _
  refine IssuesAs.easel (op := 0x136) (sh := .mzero f) hi hp hroom ?_
  dsimp only
  rw [firstFault_none (by simp [halign, hin])]
  rfl

theorem accFault_none {y : Fibre} (h : accOffset c y % (4 * accWords c.f) = 0 ∧ accOffset c y + 4 * accWords c.f ≤ c.kernel.accBytes) : accFault c y = none := by
  simp only [accFault, h.1, ne_eq, not_true_eq_false, if_false, gt_iff_lt, Nat.not_lt.mpr h.2]

/-- The registers of an `MLDA` pending in a lane. -/
def Ctx.mldaPending (c : Ctx) (y : Fibre) : Fibre :=
  if passes c.f y then { y with pendV := (List.range (accWords c.f)).foldl (fun l i => insertNat (c.f.dst.toNat + i) l) y.pendV } else y

theorem mlda_queued (h : EaselIssues (.mlda f) 2 s c x l)
    (hpass : ∀ y ∈ c.passing, accOffset c y % (4 * accWords c.f) = 0 ∧ accOffset c y + 4 * accWords c.f ≤ c.kernel.accBytes) :
    exec (.mlda f) s = .next (((s.entered c (.mlda f)).queueEasel c x 2 (fun e =>
      { e with kind := .mlda, lanes := c.passing.map (fun y => (y.index, accOffset c y)), dst := c.f.dst.toNat })).updLanes c c.mldaPending) := by
  obtain ⟨hi, hp, hroom⟩ := h
  change execMlda f s = _
  refine IssuesAs.easel (op := 0x137) (sh := .mlda f) hi hp hroom ?_
  rw [Ctx.laneFault_none fun y hy => accFault_none (hpass y hy)]
  rfl

theorem msta_queued (h : EaselIssues (.msta f) 2 s c x l)
    (hpass : ∀ y ∈ c.passing, accOffset c y % (4 * accWords c.f) = 0 ∧ accOffset c y + 4 * accWords c.f ≤ c.kernel.accBytes) :
    exec (.msta f) s = .next ((s.entered c (.msta f)).queueEasel c x 2 (fun e =>
      { e with kind := .msta, lanes := c.passing.map (fun y => (y.index, accOffset c y)), data := c.passing.map (fun y => srcRun y c.f.srcB (accWords c.f)) })) := by
  obtain ⟨hi, hp, hroom⟩ := h
  change execMsta f s = _
  refine IssuesAs.easel (op := 0x138) (sh := .msta f) hi hp hroom ?_
  rw [Ctx.laneFault_none fun y hy => accFault_none (hpass y hy)]
  rfl

/-! Counts (R352 to R354). -/

/-- An offset of deep storage: it begins one of the two halves, and the half is the workgroup's (R326). -/
def Ctx.DeepOk (c : Ctx) (o : Nat) : Prop := (o = 0 ∨ o = 262144) ∧ o + 262144 ≤ c.kernel.accBytes

theorem Ctx.deepFaults_pass {o : Nat} (h : c.DeepOk o) : ∀ e ∈ c.deepFaults x o, e.1 = false := by
  obtain ⟨hhalf, hin⟩ := h
  simp only [Ctx.deepFaults, List.forall_mem_cons, decide_eq_false_iff_not]
  exact ⟨by omega, by omega, List.forall_mem_nil _⟩

theorem czero_queued (h : EaselIssues (.czero f) 2 s c x l) (hbank : c.frontOf x < 2)
    (hown : ∀ k, (((s.entered c (.czero f)).core c.core).bank (c.frontOf x)).owner = some k → k = c.wg.key) :
    exec (.czero f) s = .next (((s.entered c (.czero f)).queueEasel c x 2 (fun e => { e with kind := .czero, a := c.frontOf x })).updCore c.core
      (fun k => k.setBank (c.frontOf x) (fun q => { q with owner := some c.wg.key, depth := 0 }))) := by
  obtain ⟨hi, hp, hroom⟩ := h
  change execCzero f s = _
  refine IssuesAs.easel (op := 0x13C) (sh := .czero f) hi hp hroom ?_
  have hready : c.czeroReady (s.tainted c 0x13C f) = true := by
    rw [Ctx.czeroReady, hp]
    dsimp only
    split
    · exact decide_eq_true (hown _ ‹_›)
    · rfl
  simp only [Nat.div_eq_of_lt hbank, hready, ne_eq, not_true_eq_false, if_false, Bool.not_true, Bool.false_eq_true]
  rfl

theorem czeroD_queued (h : EaselIssues (.czeroD f) 2 s c x l) (hdeep : c.DeepOk (src32 c x c.f.srcA).toNat) :
    exec (.czeroD f) s = .next (((s.entered c (.czeroD f)).queueEasel c x 2 (fun e => { e with kind := .czeroD, a := (src32 c x c.f.srcA).toNat })).updCore
      c.core (fun k => k.setDeep (c.wg.accBase + (src32 c x c.f.srcA).toNat) 0)) := by
  obtain ⟨hi, hp, hroom⟩ := h
  change execCzeroD f s = _
  refine IssuesAs.easel (op := 0x13D) (sh := .czero f) hi hp hroom ?_
  dsimp only
  rw [firstFault_none (Ctx.deepFaults_pass hdeep)]
  rfl

/-- The depths of a bank and of the deep storage that it is merged into. -/
def Ctx.mergedDepth (c : Ctx) (t : State) (x : Fibre) : Nat :=
  (t.core c.core).deep (c.wg.accBase + (src32 c x c.f.srcB).toNat) + ((t.core c.core).bank (c.frontOf x)).depth

theorem cmrg_queued (h : EaselIssues (.cmrg f) 2 s c x l) (hbank : c.frontOf x < 2)
    (hown : (((s.entered c (.cmrg f)).core c.core).bank (c.frontOf x)).owner = some c.wg.key) (hdeep : c.DeepOk (src32 c x c.f.srcB).toNat)
    (hdepth : c.mergedDepth (s.entered c (.cmrg f)) x < 2 ^ 32) :
    exec (.cmrg f) s = .next (((s.entered c (.cmrg f)).queueEasel c x 2 (fun e =>
      { e with kind := .cmrg, a := c.frontOf x, b := (src32 c x c.f.srcB).toNat })).updCore c.core (fun k =>
        (k.setDeep (c.wg.accBase + (src32 c x c.f.srcB).toNat) (c.mergedDepth (s.entered c (.cmrg f)) x)).setBank (c.frontOf x) (fun q =>
          { q with depth := 0, owner := if c.f.mod 0 then none else q.owner }))) := by
  obtain ⟨hi, hp, hroom⟩ := h
  change execCmrg f s = _
  refine IssuesAs.easel (op := 0x139) (sh := .cmrg f) hi hp hroom ?_
  have hown' : (((s.tainted c 0x139 f).core c.core).bank (c.frontOf x)).owner = some c.wg.key := hown
  have hdepth' : ¬ ((s.tainted c 0x139 f).core c.core).deep (c.wg.accBase + (src32 c x c.f.srcB).toNat) +
      (((s.tainted c 0x139 f).core c.core).bank (c.frontOf x)).depth > 2 ^ 32 - 1 := Nat.not_lt.mpr (Nat.le_sub_one_of_lt hdepth)
  dsimp only
  rw [firstFault_none]
  · rfl
  · simp only [List.mem_append]
    rintro e ((he | he) | he)
    · simp only [List.mem_cons, List.not_mem_nil, or_false] at he
      obtain rfl | rfl := he
      · exact decide_eq_false (not_not_intro (Nat.div_eq_of_lt hbank))
      · exact decide_eq_false (not_not_intro hown')
    · exact Ctx.deepFaults_pass hdeep e he
    · rw [List.mem_singleton.mp he]
      exact decide_eq_false hdepth'

/-- The format word of a drain is one of its use. -/
def Ctx.drainWordOk (c : Ctx) (integer : Bool) (w : Nat) : Prop :=
  wordLegal (if integer then drainIntWord else drainWord) w = true ∧ (integer = false → booksOk c.kernel w = true)

/-- Bytes of a drained tile. -/
def drainSize (integer : Bool) (w : Nat) : Nat := if !integer && fmtOut w = 1 then 512 else 1024

theorem drainSize_counts (w : Nat) : drainSize false w = if fmtOut w = 1 then 512 else 1024 := by simp [drainSize]

theorem drainBody_ok {integer : Bool} {t : State} (hsame : ∀ y ∈ c.passing, src32 c y c.f.srcB = src32 c x c.f.srcB)
    (hword : c.drainWordOk integer (src32 c x c.f.srcB).toNat) (hdeep : c.DeepOk (src32 c x c.f.srcA).toNat)
    (halign : (src32 c x c.f.srcC).toNat % drainSize integer (src32 c x c.f.srcB).toNat = 0)
    (hin : (src32 c x c.f.srcC).toNat + drainSize integer (src32 c x c.f.srcB).toNat ≤ c.kernel.accBytes)
    (hslot : integer = false → c.f.imm.getLsbD 5 = true → c.wg.slotClaimed (c.f.immBits 0 5) = true) :
    drainBody integer c x t = .ok (t.queueEasel c x 2 (fun e =>
      { e with kind := if integer then .cdrnI else .cdrn, a := (src32 c x c.f.srcA).toNat, b := (src32 c x c.f.srcB).toNat, c := (src32 c x c.f.srcC).toNat })) := by
  have hvote : c.divergence x (fun y => src32 c y c.f.srcB) = none := Ctx.divergence_none hsame
  have hbit : c.f.immBits 5 1 = 1 ↔ c.f.imm.getLsbD 5 = true := by
    rw [Fields.immBits, bitsOf_eq, BitVec.getLsbD, Nat.testBit_eq_decide_div_mod_eq, decide_eq_true_iff, pow_one]
  obtain ⟨hlegal, hbooks⟩ := hword
  rw [drainSize] at halign hin
  simp only [drainBody, hvote]
  rw [firstFault_none]
  · simp only [List.mem_append]
    rintro e ((he | he) | he)
    · rw [List.mem_singleton.mp he, Bool.or_eq_false_iff, Bool.not_eq_false']
      refine ⟨hlegal, ?_⟩
      cases integer with
      | false => exact congrArg (!·) (hbooks rfl)
      | true => rfl
    · exact Ctx.deepFaults_pass hdeep e he
    · simp only [List.mem_cons, List.not_mem_nil, or_false] at he
      obtain rfl | rfl | rfl := he
      · exact decide_eq_false (not_not_intro halign)
      · exact decide_eq_false (Nat.not_lt.mpr hin)
      · cases integer with
        | false =>
          by_cases hgather : c.f.imm.getLsbD 5 = true
          · simp [hslot rfl hgather]
          · simp [mt hbit.mp hgather]
        | true => rfl

/-- The entry on which a `TOUTER` is checked. -/
def Ctx.outerProbe (c : Ctx) (x : Fibre) : EaselEntry :=
  { entry := 0, id := 0, kind := .touter, wg := c.wg.key, issuer := 0, cls := 3, fibre := x.index, pc := c.pc, imm := c.f.imm,
    a := (src32 c x c.f.srcA).toNat, b := (src32 c x c.f.srcB).toNat }

theorem touter_queued (h : EaselIssues (.touter f) 3 s c x l) (hgood : c.outerFault x (c.outerProbe x) = none) :
    exec (.touter f) s = .next ((s.entered c (.touter f)).queueEasel c x 3 (fun e =>
      { e with kind := .touter, a := (src32 c x c.f.srcA).toNat, b := (src32 c x c.f.srcB).toNat })) := by
  obtain ⟨hi, hp, hroom⟩ := h
  change execTouter f s = _
  refine runOnce_ok (op := 0x147) (sh := .touter f) hi.1 hi.2 hp ?_
  rw [show c.easelReady (s.tainted c 0x147 f) 3 = true from hroom]
  rw [Ctx.outerProbe] at hgood
  simp only [hgood, Bool.not_true, Bool.false_eq_true, if_false]
  rfl

end

/-- Settles O28: each instruction past the checks of its issuing lane, as one entry of the queue. -/
theorem easelInstructionsComplete : Obligations.EaselInstructionsComplete := by
  unfold Obligations.EaselInstructionsComplete
  intro f s c x l u fine A B C base outer mloop same loops core deepOk tiles words acc accOk size
  refine ⟨?mloop, ?mloopC, ?mloopG, mzero_queued, mlda_queued, msta_queued, czero_queued, czeroD_queued, cmrg_queued, ?cdrn, ?cdrnI, ?touter⟩
  case mloop => exact mloop_queued (g := fun _ => false) execMloop rfl rfl rfl rfl rfl
  case mloopC => exact mloop_queued (g := fun _ => true) execMloopC rfl rfl rfl rfl rfl
  case mloopG => exact mloop_queued (g := fun c => c.f.mod 0) execMloopG rfl rfl rfl rfl rfl
  case cdrn =>
    rintro ⟨hi, hp, hroom⟩ hsame hword hbooks hdeep halign hin hslot
    rw [show size = drainSize false B from (drainSize_counts B).symm] at halign hin
    exact IssuesAs.easel (op := 0x13A) (sh := .cdrn f) hi hp hroom
      (drainBody_ok (integer := false) hsame ⟨hword, fun _ => hbooks⟩ hdeep halign hin fun _ => hslot)
  case cdrnI =>
    rintro ⟨hi, hp, hroom⟩ hsame hword hdeep halign hin
    exact IssuesAs.easel (op := 0x13B) (sh := .cdrnI f) hi hp hroom
      (drainBody_ok (integer := true) hsame ⟨hword, nofun⟩ hdeep halign hin nofun)
  case touter => exact touter_queued

end Sys2Proof.Machine
end

section
/-! A fault parks its workgroup (R384, R385), and the record that it leaves (R386, R387). -/

namespace Sys2Proof.Machine

/-! Parking. -/

section
variable {s : State} {key : Nat} {w : Workgroup}

/-- The workgroup as its fault leaves it. -/
def Workgroup.parkedWith (e : FaultInfo) (w : Workgroup) : Workgroup :=
  { w with
    parked := some e, fibres := w.fibres.map (fun x => { x.voidSpin.finish with yielded := false })
    preempt := if w.preempt = .draining then .saving else w.preempt }

theorem State.wg?_park_same (e : FaultInfo) (hw : s.wg? key = some w) (hp : w.parked = none) : (s.park key e).wg? key = some (w.parkedWith e) := by
  rw [State.wg?_park e hw hp, hw, Option.map_some, if_pos rfl]
  rfl

theorem State.wg?_park_other (e : FaultInfo) (hw : s.wg? key = some w) (hp : w.parked = none) {k : Nat} (hk : k ≠ key) :
    (s.park key e).wg? k = s.wg? k := by
  rw [State.wg?_park e hw hp]
  simp only [hk, if_false, Option.map_id']

/-- A fault changes of its fibres no register, predicate, PC, window or wait. -/
theorem Workgroup.parkedWith_fibres (e : FaultInfo) (w : Workgroup) : (w.parkedWith e).fibres.map (fun x => (x.index, x.pc, x.regs, x.preds, x.allot, x.wait)) =
    w.fibres.map (fun x => (x.index, x.pc, x.regs, x.preds, x.allot, x.wait)) := by
  rw [Workgroup.parkedWith, List.map_map]
  rfl

theorem State.slotStands_of_stopped {sl : Slot} {holds : Workgroup → BitVec 512 → Plan → Bool} (hw : s.wg? sl.wg = some w) (hstop : w.issues = false) :
    s.slotStands sl holds = false := by
  simp only [State.slotStands, hw, hstop, Bool.false_and]
  split <;> rfl

theorem State.slotReady_of_parked {k : Nat} {sl : Slot} (hw : s.wg? sl.wg = some w) (hp : w.parked.isSome = true) : s.slotReady k sl = false := by
  have hstop : w.issues = false := by
    rw [Workgroup.issues, Option.isNone_eq_false_iff.mpr hp, Bool.false_and]
  rw [State.slotReady, State.slotStands_of_stopped hw hstop, Bool.false_and]

end

/-- Settles O51: a second fault leaves the state as it is; a first one by what parking leaves of the workgroup, of the others, and of the state. -/
theorem faultParksItsWorkgroup : Obligations.FaultParksItsWorkgroup := by
  unfold Obligations.FaultParksItsWorkgroup
  intro s key e w hw
  refine ⟨State.park_parked e hw, fun hp => ⟨w.parkedWith e, State.wg?_park_same e hw hp, rfl, State.records_park hw hp e, w.parkedWith_fibres e, rfl, rfl, rfl, rfl,
    State.park_mem .., State.park_cores .., fun k => State.wg?_park_other e hw hp, fun k sl hsl => ?_⟩⟩
  subst hsl
  exact State.slotReady_of_parked (State.wg?_park_same e hw hp) rfl

end Sys2Proof.Machine
end

section
/-! The fields of a fault's record (R386, R387): the record as numbers packed one above the other, and a field of such a packing. -/

namespace Sys2Proof.Machine

/-- Numbers packed into one, the first lowest: each with its width in bits. -/
def packing : List (Nat × Nat) → Nat
  | [] => 0
  | (n, v) :: t => v + packing t * 2 ^ n

/-- The width of a packing. -/
def packingWidth : List (Nat × Nat) → Nat
  | [] => 0
  | (n, _) :: t => packingWidth t + n

theorem packing_lt {l : List (Nat × Nat)} (h : ∀ e ∈ l, e.2 < 2 ^ e.1) : packing l < 2 ^ packingWidth l := by
  induction l with
  | nil => exact Nat.one_pos
  | cons e t ih =>
    obtain ⟨n, v⟩ := e
    have hv : v < 2 ^ n := h (n, v) List.mem_cons_self
    have ht := ih fun e he => h e (List.mem_cons_of_mem _ he)
    rw [packingWidth, pow_add]
    calc v + packing t * 2 ^ n < 2 ^ n + packing t * 2 ^ n := Nat.add_lt_add_right hv _
      _ = 2 ^ n * (packing t + 1) := by ring
      _ ≤ 2 ^ n * 2 ^ packingWidth t := Nat.mul_le_mul_left _ ht
      _ = 2 ^ packingWidth t * 2 ^ n := Nat.mul_comm ..

/-- Each number of a packing, by its place. -/
theorem packing_field {l : List (Nat × Nat)} (h : ∀ e ∈ l, e.2 < 2 ^ e.1) {i lo n v : Nat} (hlo : packingWidth (l.take i) = lo)
    (hi : l[i]? = some (n, v)) : packing l / 2 ^ lo % 2 ^ n = v := by
  subst hlo
  induction l generalizing i with
  | nil => simp at hi
  | cons e t ih =>
    obtain ⟨m, u⟩ := e
    have hu : u < 2 ^ m := h (m, u) List.mem_cons_self
    cases i with
    | zero =>
      cases hi
      change (v + packing t * 2 ^ n) / 2 ^ 0 % 2 ^ n = v
      rw [pow_zero, Nat.div_one, Nat.add_mul_mod_self_right, Nat.mod_eq_of_lt hu]
    | succ i =>
      have hrest : (u + packing t * 2 ^ m) / 2 ^ m = packing t := by
        rw [Nat.add_mul_div_right _ _ (Nat.two_pow_pos m), Nat.div_eq_of_lt hu, Nat.zero_add]
      change (u + packing t * 2 ^ m) / 2 ^ (packingWidth (t.take i) + m) % _ = _
      rw [Nat.add_comm (packingWidth _), pow_add, ← Nat.div_div_eq_div_mul, hrest]
      exact ih (fun e he => h e (List.mem_cons_of_mem _ he)) hi

/-- The fields of a record, the lowest first. -/
def recordParts (e : FaultInfo) (launch wgid core : Nat) : List (Nat × Nat) :=
  [(64, e.pc.toNat), (32, launch % 2 ^ 32), (32, wgid % 2 ^ 32), (12, e.fibre % 2 ^ 12), (6, e.cls % 2 ^ 6), (8, e.cause % 2 ^ 8), (5, e.flags.toNat),
    (3, e.slotNo % 8), (1, e.prefixed.toNat), (1, e.deferred.toNat), (10, core % 2 ^ 10), (6, e.brush % 64), (1, e.whichBrush % 2), (5, e.opIndex % 32),
    (2, e.subCause % 4), (4, e.layout % 16), (320, e.body % 2 ^ 320)]

theorem recordParts_fit (e : FaultInfo) (launch wgid core : Nat) : ∀ x ∈ recordParts e launch wgid core, x.2 < 2 ^ x.1 := by
  simp only [recordParts, List.forall_mem_cons]
  exact ⟨e.pc.isLt, Nat.mod_lt _ (by decide), Nat.mod_lt _ (by decide), Nat.mod_lt _ (by decide), Nat.mod_lt _ (by decide), Nat.mod_lt _ (by decide),
    e.flags.isLt, Nat.mod_lt _ (by decide), e.prefixed.toNat_lt, e.deferred.toNat_lt, Nat.mod_lt _ (by decide), Nat.mod_lt _ (by decide),
    Nat.mod_lt _ (by decide), Nat.mod_lt _ (by decide), Nat.mod_lt _ (by decide), Nat.mod_lt _ (by decide), Nat.mod_lt _ (Nat.two_pow_pos 320), List.forall_mem_nil _⟩

theorem recordWord_eq_packing (e : FaultInfo) (launch wgid core : Nat) : recordWord e launch wgid core = packing (recordParts e launch wgid core) := by
  have hbit (b : Bool) (k : Nat) : (if b then 2 ^ k else 0) = b.toNat * 2 ^ k := by
    cases b
    · exact (Nat.zero_mul _).symm
    · exact (Nat.one_mul _).symm
  rw [recordWord, hbit, hbit]
  simp only [recordParts, packing]
  generalize e.body % 2 ^ 320 = body
  ring

theorem recordWord_lt (e : FaultInfo) (launch wgid core : Nat) : recordWord e launch wgid core < 2 ^ 512 := by
  have hwidth : packingWidth (recordParts e launch wgid core) = 512 := rfl
  rw [recordWord_eq_packing, ← hwidth]
  exact packing_lt (recordParts_fit _ _ _ _)

/-- Each field of a record, by its place. -/
theorem recordWord_field {e : FaultInfo} {launch wgid core : Nat} (i : Nat) {lo n v : Nat}
    (hlo : packingWidth ((recordParts e launch wgid core).take i) = lo) (hi : (recordParts e launch wgid core)[i]? = some (n, v)) :
    recordWord e launch wgid core / 2 ^ lo % 2 ^ n = v := by
  rw [recordWord_eq_packing]
  exact packing_field (recordParts_fit _ _ _ _) hlo hi

/-- Settles O52: the record is a packing of its fields, each of them where the widths before it put it. -/
theorem recordFields : Obligations.RecordFields := by
  unfold Obligations.RecordFields
  intro e launch wgid core
  exact ⟨recordWord_lt .., recordWord_field 0 rfl rfl, recordWord_field 1 rfl rfl, recordWord_field 2 rfl rfl, recordWord_field 3 rfl rfl,
    recordWord_field 4 rfl rfl, recordWord_field 5 rfl rfl, recordWord_field 6 rfl rfl, recordWord_field 7 rfl rfl, recordWord_field 8 rfl rfl,
    recordWord_field 9 rfl rfl, recordWord_field 10 rfl rfl, recordWord_field 11 rfl rfl, recordWord_field 12 rfl rfl, recordWord_field 13 rfl rfl,
    recordWord_field 14 rfl rfl, recordWord_field 15 rfl rfl, recordWord_field 16 rfl rfl⟩

end Sys2Proof.Machine
end

section
/-! A killed workgroup (R395): what the end of its accesses and the release of its references leave of the launches, and what is left of it on its core and in
the barrier unit's queue. -/

namespace Sys2Proof.Machine

/-! Launches through the release of references. -/

section
variable (s : State)

theorem State.scratchWrite_launches (k off : Nat) (bytes : List Byte) (bad : Bool) : (s.scratchWrite k off bytes bad).launches = s.launches := by
  obtain ⟨lines, h⟩ := s.scratchWrite_eq_foldl k off bytes bad
  rw [h]
  exact foldl_keeps State.launches (fun t l => t.fire none l) (fun _ _ => rfl) lines _

theorem State.ringWrite_launches (k off : Nat) (r : Ring) : (s.ringWrite k off r).launches = s.launches := s.scratchWrite_launches ..

theorem State.syncRefs_launches (k off : Nat) (d : Int) : (s.syncRefs k off d).launches = s.launches := s.scratchWrite_launches ..

theorem State.objWrite_launches (e : List (Option TablePlace)) (o : BarObj) : (s.objWrite e o).launches = s.launches := by
  unfold State.objWrite
  split
  · rfl
  · exact congrArg Prod.fst (s.homeWrite_accepted ..)

theorem State.objRefs_launches (l : Launch) (h : Nat) (up : Bool) : (s.objRefs l h up).launches = s.launches := by
  unfold State.objRefs State.tellUnit
  split
  · rfl
  · dsimp only [State.unit]
    split
    · exact s.objWrite_launches ..
    · rfl

theorem State.releaseRefs_launches (w : Workgroup) (e : CopyEntry) : (s.releaseRefs w e).launches = s.launches := by
  have haction : (match bitsOf e.imm.toNat 30 2, e.kind with
      | _, .reg _ => s
      | 1, _ => let (k, off) := State.actionWord w e; s.syncRefs k off (-1)
      | 2, _ => s.objRefs ((s.launch? w.launch).getD { lseq := w.launch, kind := .packet }) (bitsOf e.imm.toNat 0 20) false
      | _, _ => s).launches = s.launches := by
    split
    · rfl
    · exact s.syncRefs_launches ..
    · exact s.objRefs_launches ..
    · rfl
  unfold State.releaseRefs
  dsimp only
  split
  · exact (State.ringWrite_launches ..).trans haction
  · exact haction

theorem State.dropRefs_launches (w : Workgroup) : (s.dropRefs w).launches = s.launches := by
  unfold State.dropRefs
  split <;> exact foldl_keeps State.launches _ (fun t e => t.releaseRefs_launches w e) _ s

end

/-! What is left on the core. -/

section
variable (s : State) (w : Workgroup)

/-- The queues and loads of a released core have nothing of the workgroup. -/
theorem State.releaseCore_queues : (∀ e ∈ ((s.releaseCore w).core w.core).copyQ, e.wg ≠ w.key) ∧
    (∀ e ∈ ((s.releaseCore w).core w.core).easelQ, e.wg ≠ w.key) ∧ ∀ p ∈ ((s.releaseCore w).core w.core).loads, p.wg ≠ w.key := by
  obtain ⟨c, hc, hcopy, heasel, hloads⟩ : ∃ c, (s.releaseCore w).core w.core = c ∧ c.copyQ = (s.core w.core).copyQ.filter (fun e => e.wg ≠ w.key) ∧
      c.easelQ = (s.core w.core).easelQ.filter (fun e => e.wg ≠ w.key) ∧ c.loads = (s.core w.core).loads.filter (fun p => p.wg ≠ w.key) :=
    ⟨_, Sparse.get_set_same ({} : Core) s.cores w.core _, rfl, rfl, rfl⟩
  rw [hc, hcopy, heasel, hloads]
  exact ⟨fun e he => of_decide_eq_true (List.mem_filter.mp he).2, fun e he => of_decide_eq_true (List.mem_filter.mp he).2,
    fun p hp => of_decide_eq_true (List.mem_filter.mp hp).2⟩

theorem State.releaseCore_barrierQ : ∀ r ∈ (s.releaseCore w).barrierQ, r.wg ≠ w.key :=
  fun _ hr => of_decide_eq_true (List.mem_filter.mp hr).2

theorem State.releaseCore_launches : (s.releaseCore w).launches = s.launches := rfl

/-- A workgroup's accesses ended, its references released and its core freed: what a kill does before the workgroup goes. -/
def State.ended : State := ((s.wgRelease w).dropRefs w).releaseCore w

theorem State.ended_launch? {l : Launch} (hl : s.launch? w.launch = some l) : ∃ m, (s.ended w).launch? w.launch = some m ∧ m.ended = l.ended := by
  have hkeeps : (s.ended w).launches = (s.wgRelease w).launches := (State.releaseCore_launches ..).trans (State.dropRefs_launches ..)
  rw [State.launch?_of_launches hkeeps]
  exact State.wgRelease_launch? hl

/-- The launch of a killed workgroup. -/
def Launch.killedOne (w : Workgroup) (key : Nat) (l : Launch) : Launch :=
  { l with failed := true, ended := l.ended + 1, hinted := if w.hinted then l.hinted else l.hinted + 1, killed := l.killed ++ [key] }

variable {s w} {key : Nat}

theorem State.kill_eq (hw : s.wg? key = some w) : s.kill key = (({ s.ended w with
    packets := (s.ended w).packets.filter (fun p => !(p.waiting && decide (p.sender = some (w.launch, key))))
    wgs := (s.ended w).wgs.filter (fun x => x.key ≠ key) } : State).dropRecord key).updLaunch w.launch (Launch.killedOne w key) := by
  simp only [State.kill, hw]
  rfl

theorem State.kill_core (hw : s.wg? key = some w) (k : Nat) : (s.kill key).core k = (s.ended w).core k := by
  rw [State.kill_eq hw]
  generalize s.ended w = u
  rfl

theorem State.kill_barrierQ (hw : s.wg? key = some w) : (s.kill key).barrierQ = (s.ended w).barrierQ := by
  rw [State.kill_eq hw]
  generalize s.ended w = u
  rfl

theorem State.kill_records (hw : s.wg? key = some w) : ∀ r ∈ (s.kill key).records, r.2.2.2.2 ≠ key := by
  rw [State.kill_eq hw]
  exact fun r hr => of_decide_eq_true (List.mem_filter.mp hr).2

theorem State.kill_launch? (hw : s.wg? key = some w) {l : Launch} (hl : s.launch? w.launch = some l) :
    ∃ m, (s.kill key).launch? w.launch = some m ∧ m.failed = true ∧ m.ended = l.ended + 1 := by
  obtain ⟨m, hm, hended⟩ := s.ended_launch? w hl
  refine ⟨m.killedOne w key, ?_, rfl, congrArg (· + 1) hended⟩
  rw [State.kill_eq hw, State.launch?_updLaunch_same _ _ (by exact fun _ => rfl)]
  exact congrArg (Option.map _) hm

end

/-- Settles O54: the workgroup is filtered out of each list in turn, and its launch is counted after its accesses have ended. -/
theorem killEndsTheWorkgroup : Obligations.KillEndsTheWorkgroup := by
  unfold Obligations.KillEndsTheWorkgroup
  intro s key w hw t
  obtain rfl : w.key = key := State.wg?_key hw
  obtain ⟨hcopy, heasel, hloads⟩ := State.releaseCore_queues ((s.wgRelease w).dropRefs w) w
  have hcore : t.core w.core = (s.ended w).core w.core := State.kill_core hw w.core
  rw [hcore, show t.barrierQ = (s.ended w).barrierQ from State.kill_barrierQ hw]
  exact ⟨s.kill_gone w.key, State.releaseCore_slots _ w, hcopy, heasel, hloads, State.releaseCore_barrierQ _ w, State.kill_records hw,
    fun l => State.kill_launch? hw⟩

end Sys2Proof.Machine
end

section
/-! Resumption (R394): what a resumption makes of a fibre of a workgroup parked with a synchronous fault of a single instruction, and that nothing after it touches
the workgroup where no deferred fault is held and no fibre waits in `WAITC`. -/

namespace Sys2Proof.Machine

/-! Wakes of no fibre. -/

section
variable {s : State} {w : Workgroup} {key : Nat}

theorem Workgroup.wake_none {p : Fibre → Bool} (hp : ∀ x ∈ w.fibres, p x = false) (now : Nat) (g : Fibre → Fibre) : w.wake now p g = w := by
  have hwho : w.fibres.filter p = [] := List.filter_eq_nil_iff.mpr fun x hx => by simp [hp x hx]
  have hfibres : ∀ one : Fibre → Fibre, w.fibres.map (fun x => if p x then one x else x) = w.fibres := fun one => by
    conv_rhs => rw [← List.map_id w.fibres]
    exact List.map_congr_left fun x hx => by rw [hp x hx]; rfl
  simp only [Workgroup.wake, hwho, hfibres, List.filter_nil, List.map_nil, List.append_nil, ite_self, List.isEmpty_nil, if_true]

/-- A workgroup replaced by one of its name is found. -/
theorem State.wg?_replaced {v : Workgroup} (hw : s.wg? key = some w) (hv : v.key = key) : (s.updWg key (fun _ => v)).wg? key = some v := by
  have hsame : s.updWg key (fun _ => v) = s.updWg key (fun u => if u.key = key then v else u) := by
    unfold State.updWg
    congr 1
    exact List.map_congr_left fun u _ => by by_cases hu : u.key = key <;> simp only [hu, if_true, if_false]
  rw [hsame, State.wg?_updWg_same, hw, Option.map_some, if_pos (State.wg?_key hw)]
  intro u
  split
  · rw [hv, ‹u.key = key›]
  · rfl

/-- A workgroup that holds no deferred fault and has no fibre in `WAITC` stays as it is. -/
theorem State.checkWaitc_wg?_idle (hw : s.wg? key = some w) (hdef : w.deferred = []) (hwait : ∀ x ∈ w.fibres, x.wait ≠ .waitc) :
    (s.checkWaitc key).wg? key = some w := by
  simp only [State.checkWaitc, hw, hdef, List.find?_nil]
  rw [State.wakeWg_wg?, hw, Option.map_some, Workgroup.wake_none]
  intro x hx
  simp [hwait x hx]

end

/-! A fibre resumed. -/

/-- The value of write-value given to a participant of a `SYSC`. -/
def FaultInfo.gives (e : FaultInfo) (value : Option Word) (x : Fibre) : Fibre :=
  match value with
  | some v => if e.cls = 20 && e.parts.contains x.index && decide (e.dst < 240) then x.setReg e.dst v else x
  | none => x

/-- A fibre of the batch goes on past the instruction, or issues it anew; the others stand where they stood. -/
def FaultInfo.sends (e : FaultInfo) (past : Bool) (x : Fibre) : Fibre :=
  if !e.lanes.contains x.index then x else if past then { e.past x with wait := .run } else { x with fresh := false }

section
variable {e : FaultInfo} {past : Bool} {value : Option Word} (x : Fibre)

theorem FaultInfo.past_kept : (e.past x).index = x.index ∧ (e.past x).preds = x.preds ∧ (e.past x).regs = x.regs ∧
    (e.past x).pc = slotsAfter (e.site.getD e.pc) e.span := by
  unfold FaultInfo.past
  split <;> exact ⟨rfl, rfl, rfl, rfl⟩

theorem FaultInfo.sends_kept : (e.sends past x).index = x.index ∧ (e.sends past x).preds = x.preds ∧ (e.sends past x).regs = x.regs ∧
    ((e.sends past x).wait = x.wait ∨ (e.sends past x).wait = .run) := by
  obtain ⟨hindex, hpreds, hregs, -⟩ := e.past_kept x
  unfold FaultInfo.sends
  split
  · exact ⟨rfl, rfl, rfl, .inl rfl⟩
  · split
    · exact ⟨hindex, hpreds, hregs, .inr rfl⟩
    · exact ⟨rfl, rfl, rfl, .inl rfl⟩

theorem FaultInfo.sends_pc (hsite : e.site = none) (hspan : e.span = 1) (hpc : x.pc = e.pc) :
    (e.sends past x).pc = if past = true ∧ x.index ∈ e.lanes then slotsAfter x.pc 1 else x.pc := by
  obtain ⟨-, -, -, hpast⟩ := e.past_kept x
  rw [hsite, Option.getD_none, hspan, ← hpc] at hpast
  unfold FaultInfo.sends
  by_cases hin : x.index ∈ e.lanes
  · cases past <;> simp [hin, hpast]
  · simp [hin]

theorem FaultInfo.gives_kept : (e.gives value x).index = x.index ∧ (e.gives value x).preds = x.preds ∧ (e.gives value x).pc = x.pc ∧
    (e.gives value x).wait = x.wait := by
  unfold FaultInfo.gives
  split
  · split <;> exact ⟨rfl, rfl, rfl, rfl⟩
  · exact ⟨rfl, rfl, rfl, rfl⟩

theorem FaultInfo.gives_reg (n : Nat) : Sparse.get 0 (e.gives value x).regs n = match value with
    | some b => if e.cls = 20 ∧ x.index ∈ e.parts ∧ e.dst < 240 ∧ n = e.dst then b else Sparse.get 0 x.regs n
    | none => Sparse.get 0 x.regs n := by
  cases value with
  | none => rfl
  | some b =>
    by_cases hgiven : e.cls = 20 ∧ x.index ∈ e.parts ∧ e.dst < 240
    · have hset : e.gives (some b) x = x.setReg e.dst b := by simp [FaultInfo.gives, hgiven]
      rw [hset, Fibre.reg_setReg]
      simp only [hgiven, true_and]
    · have hkept : e.gives (some b) x = x := by
        refine if_neg fun h => hgiven ?_
        simpa [and_assoc] using h
      have hno : ¬ (e.cls = 20 ∧ x.index ∈ e.parts ∧ e.dst < 240 ∧ n = e.dst) := fun h => hgiven ⟨h.1, h.2.1, h.2.2.1⟩
      rw [hkept]
      simp only [hno, if_false]

end

/-! The workgroup resumed. -/

/-- The workgroup with its fibres sent on, its queue that of a workgroup held no longer. -/
def Workgroup.resumed (e : FaultInfo) (past : Bool) (value : Option Word) (now : Nat) (w : Workgroup) : Workgroup :=
  ({ w with parked := none, recordAt := none, fibres := w.fibres.map (fun x => e.sends past (e.gives value x)) } : Workgroup).requeued now

/-- A saved fibre that can run waits in its queue from now. -/
def Fibre.queuedFrom (now : Nat) (x : Fibre) : Fibre := if !x.resident && decide (x.wait = .run) then { x with queuedSince := now } else x

theorem Fibre.queuedFrom_kept (now : Nat) (x : Fibre) : (x.queuedFrom now).index = x.index ∧ (x.queuedFrom now).pc = x.pc ∧
    (x.queuedFrom now).preds = x.preds ∧ (x.queuedFrom now).regs = x.regs ∧ (x.queuedFrom now).wait = x.wait := by
  unfold Fibre.queuedFrom
  split <;> exact ⟨rfl, rfl, rfl, rfl, rfl⟩

section
variable {s : State} {w : Workgroup} {key : Nat} {e : FaultInfo} {past : Bool} {value : Option Word}

theorem Workgroup.resumed_fibres (now : Nat) : (w.resumed e past value now).fibres =
    w.fibres.map (fun x => (e.sends past (e.gives value x)).queuedFrom now) := by
  rw [Workgroup.resumed, Workgroup.requeued]
  exact List.map_map

/-- Where no rendezvous is closed, no entry is abandoned and no request is sent again, a resumption is the acquire after the workgroup has been resumed. -/
theorem State.resume_eq (hw : s.wg? key = some w) (hparked : w.parked = some e) (hdeferred : e.deferred = false) (hretry : e.retry = none)
    (hcls : e.cls ≠ 16) (hreach : e.reach = none) : s.resume key past value =
      ((((s.updWg key (fun _ => w.resumed e past value s.tide.toNat)).updCore w.core (fun c => { c with
        slots := c.slots.map (fun sl => if sl.wg = key then { sl with line := none } else sl) })).acquire w.core 6).readOver (Reader.ofWg key)).checkWaitc key := by
  have hcloses : ∀ r, e.closes r = false := fun r => by simp only [FaultInfo.closes, hreach]
  have hgo : ∀ x, (if !e.lanes.contains x.index || e.deferred || e.reach.isSome then x
      else if past && !e.deferred && decide (e.cls ≠ 16) then { e.past x with wait := .run } else { x with fresh := false }) = e.sends past x := fun x => by
    simp [hdeferred, hreach, hcls, FaultInfo.sends]
  have hnone : w.rendezvous.filter e.closes = [] := List.filter_eq_nil_iff.mpr fun r _ => by simp [hcloses r]
  have hall : w.rendezvous.filter (fun r => !e.closes r) = w.rendezvous := List.filter_eq_self.mpr fun r _ => by simp [hcloses r]
  simp only [State.resume, hw, hparked, hretry, hnone, hall, hgo, List.any_nil, Bool.and_false]
  rw [Workgroup.wake_none (fun _ _ => rfl), hdeferred]
  rfl

theorem Workgroup.resumed_waits (hwait : ∀ x ∈ w.fibres, x.wait ≠ .waitc) (now : Nat) : ∀ x ∈ (w.resumed e past value now).fibres, x.wait ≠ .waitc := by
  rw [Workgroup.resumed_fibres]
  intro y hy
  obtain ⟨x, hx, rfl⟩ := List.mem_map.mp hy
  obtain ⟨-, -, -, -, hqueued⟩ := (e.sends past (e.gives value x)).queuedFrom_kept now
  obtain ⟨-, -, -, hgiven⟩ := e.gives_kept (value := value) x
  obtain ⟨-, -, -, hsent | hsent⟩ := e.sends_kept (past := past) (e.gives value x)
  · rw [hqueued, hsent, hgiven]
    exact hwait x hx
  · rw [hqueued, hsent]
    decide

theorem Workgroup.resumed_fibre? (now i : Nat) :
    (w.resumed e past value now).fibre? i = (w.fibre? i).map (fun x => (e.sends past (e.gives value x)).queuedFrom now) := by
  refine Workgroup.fibre?_map (Workgroup.resumed_fibres now) (fun x => ?_) i
  obtain ⟨hqueued, -⟩ := (e.sends past (e.gives value x)).queuedFrom_kept now
  obtain ⟨hgiven, -⟩ := e.gives_kept (value := value) x
  obtain ⟨hsent, -⟩ := e.sends_kept (past := past) (e.gives value x)
  rw [hqueued, hsent, hgiven]

theorem State.resume_wg? (hw : s.wg? key = some w) (hparked : w.parked = some e) (hdeferred : e.deferred = false) (hretry : e.retry = none)
    (hcls : e.cls ≠ 16) (hreach : e.reach = none) (hdef : w.deferred = []) (hwait : ∀ x ∈ w.fibres, x.wait ≠ .waitc) :
    (s.resume key past value).wg? key = some (w.resumed e past value s.tide.toNat) := by
  rw [State.resume_eq hw hparked hdeferred hretry hcls hreach]
  refine State.checkWaitc_wg?_idle ?_ hdef (Workgroup.resumed_waits hwait _)
  rw [State.wg?, show (State.readOver _ _).wgs = _ from State.acquire_wgs ..]
  exact State.wg?_replaced hw (v := w.resumed e past value s.tide.toNat) (show w.key = key from State.wg?_key hw)

end

/-- Settles O53: the workgroup is resumed fibre by fibre, and nothing after that changes it. -/
theorem resumptionGoesOn : Obligations.ResumptionGoesOn := by
  unfold Obligations.ResumptionGoesOn
  intro s key w e past value x hw hparked hx hdeferred hsite hspan hretry hcls hreach hdef hwait hpc
  obtain ⟨-, hpc', hpreds', hregs', -⟩ := (e.sends past (e.gives value x)).queuedFrom_kept s.tide.toNat
  obtain ⟨hindex, hpreds, hpcg, -⟩ := e.gives_kept (value := value) x
  obtain ⟨-, hpredss, hregss, -⟩ := e.sends_kept (past := past) (e.gives value x)
  refine ⟨_, (e.sends past (e.gives value x)).queuedFrom s.tide.toNat, State.resume_wg? hw hparked hdeferred hretry hcls hreach hdef hwait, rfl, ?found, ?pc, ?preds, ?regs⟩
  case found => rw [Workgroup.resumed_fibre?, hx, Option.map_some]
  case pc => rw [hpc', FaultInfo.sends_pc _ hsite hspan (hpcg.trans hpc), hindex, hpcg]
  case preds => rw [hpreds', hpredss, hpreds]
  case regs =>
    intro n
    rw [hregs', hregss]
    exact e.gives_reg x n

end Sys2Proof.Machine
end


section
/-! What a cold bring-up leaves (R478 to R480, R403, R424, R464). -/

namespace Sys2Proof.Machine

/-- No word of the memory after a cold bring-up is poisoned. -/
theorem State.reset_poisonedAt (a : Nat) : State.reset.poisonedAt a = false := rfl

theorem State.reset_countersOk : State.reset.countersOk := fun _ he => absurd he List.not_mem_nil

/-- Settles O57: the fields of the state after a cold bring-up, one by one. -/
theorem resetState : Obligations.ResetState := by
  unfold Obligations.ResetState
  exact ⟨rfl, rfl, rfl, fun a => ⟨rfl, State.reset_poisonedAt a⟩, rfl, rfl, rfl, rfl, rfl, rfl, rfl, rfl, rfl, rfl, rfl, rfl, rfl, rfl, rfl,
    fun _ => rfl, rfl, fun _ => rfl, rfl, rfl, rfl, rfl, fun _ => ⟨rfl, rfl, rfl⟩, rfl, State.reset_countersOk⟩

end Sys2Proof.Machine
end


section
/-! Host accesses and management commands (R403, R439, R440, R442, R473, R474, R476, R482, R483, R485): what each answers or leaves, as the address is
within the host's reach and its memory answers, and as the hub is in recovery. -/

namespace Sys2Proof.Machine

section
variable {s : State} {pa n : Nat} {bytes : List Byte}

/-- The memory at an address answers: the package's own while it is active, the host's always (R473, R479). -/
def State.answers (s : State) (pa : Nat) : Prop := s.memActive = true ∨ paTier pa = 2

/-- The test of a host access to memory that does not answer. -/
theorem State.silent_of_answers (h : s.answers pa) : (decide (paTier pa ≠ 2) && !s.memActive) = false := by
  rcases h with h | h <;> simp [h]

theorem State.silent_of_not_answers (h : ¬ s.answers pa) : (decide (paTier pa ≠ 2) && !s.memActive) = true := by
  obtain ⟨hactive, htier⟩ := not_or.mp h
  simp [hactive, htier]

theorem cxlRead_answered (hreach : hostReaches pa n = true) (h : s.answers pa) :
    exec (.cxlMemAccess pa none n) s = .next (s.say (.memRead pa (s.mem.read pa n) (s.homeRead pa n).2)) := by
  change execCxlMemAccess pa none n s = _
  simp only [execCxlMemAccess, hreach, State.silent_of_answers h, Bool.not_true, Bool.false_eq_true, if_false]
  rfl

theorem cxlRead_poisoned (hreach : hostReaches pa n = true) (h : ¬ s.answers pa) :
    exec (.cxlMemAccess pa none n) s = .next (s.say (.memRead pa (List.replicate n 0) true)) := by
  change execCxlMemAccess pa none n s = _
  simp only [execCxlMemAccess, hreach, State.silent_of_not_answers h, Bool.not_true, Bool.false_eq_true, if_false, if_true]

theorem cxlRead_beyond (hreach : ¬ hostReaches pa n = true) : exec (.cxlMemAccess pa none n) s = .next (s.say .error) := by
  change execCxlMemAccess pa none n s = _
  simp only [execCxlMemAccess, Bool.eq_false_iff.mpr hreach, Bool.not_false, if_true]

/-- A host write performed at the home; one to host memory takes every copy of its lines from the L2s (R474). -/
theorem cxlWrite_performed (hreach : hostReaches pa bytes.length = true) (h : s.answers pa) :
    exec (.cxlMemAccess pa (some bytes) n) s = .next (if paTier pa = 2 then
      (distinct ((cellsOf pa bytes).map (fun e => e.1 / 128))).foldl (fun u line => u.cleanHost line true) (s.homeWrite .other 0 (cellsOf pa bytes))
      else s.homeWrite .other 0 (cellsOf pa bytes)) := by
  change execCxlMemAccess pa (some bytes) n s = _
  simp only [execCxlMemAccess, hreach, State.silent_of_answers h, Bool.not_true, Bool.false_eq_true, if_false]
  by_cases htier : paTier pa = 2 <;> simp [htier]

theorem cxlWrite_discarded (hreach : hostReaches pa bytes.length = true) (h : ¬ s.answers pa) :
    exec (.cxlMemAccess pa (some bytes) n) s = .next s := by
  change execCxlMemAccess pa (some bytes) n s = _
  simp only [execCxlMemAccess, hreach, State.silent_of_not_answers h, Bool.not_true, Bool.false_eq_true, if_false, if_true]

theorem cxlWrite_beyond (hreach : ¬ hostReaches pa bytes.length = true) : exec (.cxlMemAccess pa (some bytes) n) s = .next (s.say .error) := by
  change execCxlMemAccess pa (some bytes) n s = _
  simp only [execCxlMemAccess, Bool.eq_false_iff.mpr hreach, Bool.not_false, if_true]

end

/-! Snoops (R474). -/

section
variable (s : State) (line : Nat)

/-- Cleaning a line changes no byte of memory and says nothing. -/
theorem State.cleanHost_keeps (gone : Bool) : (s.cleanHost line gone).mem = s.mem ∧ (s.cleanHost line gone).outputs = s.outputs := by
  cases gone <;> by_cases h : s.holdsDirty line = true <;> simp [State.cleanHost, State.withL2, h]

theorem State.cleanHost_gone : ∀ e ∈ (s.cleanHost line true).l2, e.line ≠ line := fun _ he => of_decide_eq_true (List.mem_filter.mp he).2

/-- What a snoop does: the line's bytes are answered, and it is left clean, and taken where the host wants it for its own use alone. -/
theorem State.cxlCacheSnoop_takesEffect (pa : Nat) (exclusive : Bool) : ∃ t, exec (.cxlCacheSnoop pa exclusive) s = .next t ∧
    (∀ e ∈ t.hostDirty, e.1 ≠ pa / 128) ∧ t.mem = s.mem ∧ (exclusive = true → ∀ e ∈ t.l2, e.line ≠ pa / 128) ∧
    t.outputs = s.outputs ++ [.snoop (pa / 128 * 128) (s.mem.read (pa / 128 * 128) 128) (s.hostDirty.any (fun e => decide (e.1 = pa / 128)))] := by
  obtain ⟨hmem, houtputs⟩ := s.cleanHost_keeps (pa / 128) exclusive
  refine ⟨_, rfl, s.cleanHost_clean (pa / 128) exclusive, hmem, fun hx => ?_, congrArg (· ++ _) houtputs⟩
  subst hx
  exact s.cleanHost_gone (pa / 128)

end

/-! Management commands (R476, R482). -/

section
variable {s : State}

theorem State.managed_of_recovery (h : s.recovery = true) (o : Host.Outcome State Fault Refusal) : s.managed o = .next s := if_pos h

theorem mgmtReadBlackBox_entries {die : Nat} (h : die < Config.dies) (first n : Nat) : exec (.mgmtReadBlackBox die first n) s =
    .next (s.say (.management ((List.range n).flatMap (fun i => bytesOf 32 (s.boxEntry die ((first + i) % 4096)))))) := if_neg (by omega)

theorem mgmtReadPower_figures (hrec : s.recovery = false) : ∃ figures : List Nat, figures.length = Config.dies + 2 ∧
    exec .mgmtReadPower s = .next ((s.say (.management (figures.flatMap (bytesOf 4)))).drawn) :=
  ⟨s.powerFigures, by simp [State.powerFigures], State.managed_of_running hrec _⟩

theorem mgmtWritePeer_writes (hrec : s.recovery = false) {k : Byte} {e : List Byte} (hk : k.toNat < 64) (hlen : e.length ≥ 8) (hport : entryPort e ≤ 7) :
    exec (.mgmtWritePeer (k :: e)) s = .next (s.updPeer k.toNat (fun p => { p with entry := e, up := p.up || !p.valid, valid := true })) :=
  (State.managed_of_running hrec _).trans (if_neg (by omega))

theorem mgmtInstallKey_keeps (hrec : s.recovery = false) {k d : Byte} {key : List Byte} (hk : k.toNat < 64) (hd : d.toNat < 2) (hkey : key.length = 32) :
    exec (.mgmtInstallKey (k :: d :: key)) s = .next (s.updPeer k.toNat (fun p =>
      if d = 0 then { p with txKeys := (key, 1) :: p.txKeys.take 1 } else { p with rxKeys := (key, 0) :: p.rxKeys.take 1 })) :=
  (State.managed_of_running hrec _).trans (if_neg (by omega))

theorem mgmtPeerUp_marks (hrec : s.recovery = false) {k : Nat} (hk : k < 64) :
    exec (.mgmtPeerUp k) s = .next (s.updPeer k (fun p => { p with up := true })) := (State.managed_of_running hrec _).trans (if_neg (by omega))

theorem mgmtPeerDown_marks (hrec : s.recovery = false) {k : Nat} (hk : k < 64) : exec (.mgmtPeerDown k) s = .next (s.peerDown k) :=
  (State.managed_of_running hrec _).trans (if_neg (by omega))

/-- R482: in recovery the hub answers no management command but 0x01 and SPDM. -/
theorem managed_silent_of_recovery (h : s.recovery = true) (bytes : List Byte) (k : Nat) : ∀ i ∈ [Instr.mgmtReadPower, .mgmtReadCounters,
    .mgmtWritePeer bytes, .mgmtInstallKey bytes, .mgmtPeerUp k, .mgmtPeerDown k, .mgmtLifeCycleStep bytes, .mgmtTenantReset, .mgmtWarmReset,
    .mctpControlMessage bytes], exec i s = .next s := by
  simp only [List.forall_mem_cons, List.not_mem_nil, false_implies, implies_true, and_true]
  exact ⟨State.managed_of_recovery h _, State.managed_of_recovery h _, State.managed_of_recovery h _, State.managed_of_recovery h _,
    State.managed_of_recovery h _, State.managed_of_recovery h _, State.managed_of_recovery h _, State.managed_of_recovery h _,
    State.managed_of_recovery h _, State.managed_of_recovery h _⟩

end

/-- Settles O39: each access and command by the lemma of its own case. -/
theorem hostAndManagementComplete : Obligations.HostAndManagementComplete := by
  unfold Obligations.HostAndManagementComplete
  intro s
  exact ⟨fun _ _ hreach h => cxlRead_answered hreach h, fun _ _ hreach h => cxlRead_poisoned hreach h, fun _ _ hreach => cxlRead_beyond hreach,
    fun _ _ _ hreach h => cxlWrite_performed hreach h, fun _ _ _ hreach h => cxlWrite_discarded hreach h, fun _ _ _ hreach => cxlWrite_beyond hreach,
    fun pa exclusive => s.cxlCacheSnoop_takesEffect pa exclusive, fun _ first n h => mgmtReadBlackBox_entries h first n,
    fun hrec => mgmtReadPower_figures hrec, fun hrec => State.managed_of_running hrec _,
    fun _ _ hrec hk hlen hport => mgmtWritePeer_writes hrec hk hlen hport, fun _ _ _ hrec hk hd hkey => mgmtInstallKey_keeps hrec hk hd hkey,
    fun _ hrec hk => ⟨mgmtPeerUp_marks hrec hk, mgmtPeerDown_marks hrec hk⟩, fun _ => rfl,
    fun _ hrec => ⟨_, State.managed_of_running hrec _⟩, fun _ => rfl, fun bytes k h => managed_silent_of_recovery h bytes k⟩

end Sys2Proof.Machine
end


section
/-! System instructions (R393, R401, R402, R405, R406): CSR accesses that the launch may make, and what acts on the workgroup that a record names. -/

namespace Sys2Proof.Machine

variable {f : Fields} {s u : State} {c : Ctx} {x : Fibre} {l : List Fibre}

/-! CSRs (R401, R402, R405). -/

/-- The number of the CSR that an instruction names. -/
theorem Fields.csrNumber_eq (f : Fields) : f.immBits 0 12 = f.imm.toNat % 2 ^ 12 := by
  rw [Fields.immBits, bitsOf_eq, pow_zero, Nat.div_one]

section
variable (hlisted : csrListed (c.f.imm.toNat % 2 ^ 12) = true)
include hlisted

theorem Ctx.csrFault_read (hmay : c.launch.privileged = true ∨ c.f.imm.toNat % 2 ^ 12 = 0x013) : c.csrFault x false = none := by
  rw [Ctx.csrFault, Fields.csrNumber_eq]
  generalize c.f.imm.toNat % 2 ^ 12 = n at hlisted hmay
  rcases hmay with h | rfl
  · simp [hlisted, h]
  · simp [hlisted, csrUser]

theorem Ctx.csrFault_write (hpriv : c.launch.privileged = true) (hro : csrReadOnly (c.f.imm.toNat % 2 ^ 12) = false) :
    c.csrFault x true = none := by
  rw [Ctx.csrFault, Fields.csrNumber_eq]
  generalize c.f.imm.toNat % 2 ^ 12 = n at hlisted hro
  simp [hlisted, hpriv, hro]

theorem csrr_reads (h : Issues (.csrr f) s c) (hp : c.passing = x :: l)
    (hmay : c.launch.privileged = true ∨ c.f.imm.toNat % 2 ^ 12 = 0x013) :
    Lanes32 (.csrr f) s c (fun _ => (s.entered c (.csrr f)).csrRead c.agent (c.f.imm.toNat % 2 ^ 12)) := by
  change execCsrr f s = _
  refine IssuesAs.once (op := 0x152) (sh := .csrr f) h hp ?_
  simp only [Ctx.csrFault_read hlisted hmay, Fields.csrNumber_eq]
  rfl

/-- A CSR written from its old value and the lowest passing lane's source B. -/
theorem csrBody_writes (g : Word → Word → Word) (t : State) (hpriv : c.launch.privileged = true)
    (hro : csrReadOnly (c.f.imm.toNat % 2 ^ 12) = false) : csrBody g c x t = .ok (((t.lanewise c id).commits c true).csrWrite c.agent
      (c.f.imm.toNat % 2 ^ 12) (g (t.csrRead c.agent (c.f.imm.toNat % 2 ^ 12)) (src32 c x c.f.srcB))) := by
  simp only [csrBody, Ctx.csrFault_write hlisted hpriv hro, Fields.csrNumber_eq]

end

/-! The records of parked workgroups (R393, R406). -/

/-- A selector whose kind is one of R406's, and whose reserved bits are 0. -/
theorem frdSelector_legal {sel : Nat} (hkind : sel % 8 < 6) (hlow : sel / 8 % 32 = 0) (hhigh : sel / 2 ^ 28 = 0) :
    ¬ (bitsOf sel 0 3 ≥ 6 ∨ bitsOf sel 3 5 ≠ 0 ∨ bitsOf sel 28 4 ≠ 0) := by
  simp only [bitsOf_eq]
  omega

theorem frd_peeks {found : Option Workgroup} (h : Issues (.frd f) s c) (hp : c.passing = x :: l)
    (hrecord : (s.entered c (.frd f)).recordOf c x = .ok (found, u)) (hkind : (src32 c x c.f.srcB).toNat % 8 < 6)
    (hlow : (src32 c x c.f.srcB).toNat / 8 % 32 = 0) (hhigh : (src32 c x c.f.srcB).toNat / 2 ^ 28 = 0) :
    ∃ r : Word × Bool, r = (found.map (fun w => w.peek (src32 c x c.f.srcB).toNat)).getD (0xFFFFFFFF, false) ∧
      exec (.frd f) s = .next (u.lanewise c (fun y => if c.f.dst.toNat < 240 then y.setRegP c.f.dst.toNat r.1 r.2 else y)) := by
  refine ⟨_, rfl, ?_⟩
  change execFrd f s = _
  refine IssuesAs.once (op := 0x157) (sh := .frd f) h hp ?_
  change (s.tainted c 0x157 f).recordOf c x = _ at hrecord
  simp only [hrecord, if_neg (frdSelector_legal hkind hlow hhigh)]

/-- What acts on the workgroup of its record, where there is one, sets the predicate of its participants first. -/
theorem recordAct_ok {act : Ctx → Fibre → Nat → State → State} {t : State} {found : Option Workgroup} (h : t.recordOf c x = .ok (found, u)) :
    recordAct act c x t = .ok (match found with
      | some w => act c x w.key (u.lanewise c (fun y => y.setPred (predOf c.f.dst) true))
      | none => u.lanewise c (fun y => y.setPred (predOf c.f.dst) false)) := by
  simp only [recordAct, h]
  cases found <;> rfl

theorem fres_resumes {found : Option Workgroup} (h : Issues (.fres f) s c) (hp : c.passing = x :: l)
    (hrecord : (s.entered c (.fres f)).recordOf c x = .ok (found, u)) : exec (.fres f) s = .next (match found with
      | some w => ((u.lanewise c (fun y => y.setPred (predOf c.f.dst) true)).release c.core 6).resume w.key (c.f.mod 0)
          (if c.f.mod 1 then some (src32 c x c.f.srcB) else none)
      | none => u.lanewise c (fun y => y.setPred (predOf c.f.dst) false)) := by
  change execFres f s = _
  refine (IssuesAs.once (op := 0x158) (sh := .fres f) h hp (recordAct_ok hrecord)).trans ?_
  cases found <;> rfl

theorem fkill_kills {found : Option Workgroup} (h : Issues (.fkill f) s c) (hp : c.passing = x :: l)
    (hrecord : (s.entered c (.fkill f)).recordOf c x = .ok (found, u)) : exec (.fkill f) s = .next (match found with
      | some w => (u.lanewise c (fun y => y.setPred (predOf c.f.dst) true)).kill w.key
      | none => u.lanewise c (fun y => y.setPred (predOf c.f.dst) false)) := by
  change execFkill f s = _
  refine (IssuesAs.once (op := 0x159) (sh := .fkill f) h hp (recordAct_ok hrecord)).trans ?_
  cases found <;> rfl

/-- A system instruction of these only moves on where no lane passes. -/
theorem system_idle (hp : c.passing = []) : ∀ i, i ∈ [Instr.csrr f, .csrw f, .csrs f, .csrc f, .frd f, .fres f, .fkill f] → Issues i s c →
    Lanes i s c id := by
  simp only [List.forall_mem_cons, List.not_mem_nil, false_implies, implies_true, and_true]
  exact ⟨fun h => idle_of_runOnce execCsrr rfl rfl rfl rfl rfl h hp, fun h => idle_of_runOnce execCsrw rfl rfl rfl rfl rfl h hp,
    fun h => idle_of_runOnce execCsrs rfl rfl rfl rfl rfl h hp, fun h => idle_of_runOnce execCsrc rfl rfl rfl rfl rfl h hp,
    fun h => idle_of_runOnce execFrd rfl rfl rfl rfl rfl h hp, fun h => idle_of_runOnce execFres rfl rfl rfl rfl rfl h hp,
    fun h => idle_of_runOnce execFkill rfl rfl rfl rfl rfl h hp⟩

/-- Settles O30: each instruction by the lemma of its own body. -/
theorem systemInstructionsComplete : Obligations.SystemInstructionsComplete := by
  unfold Obligations.SystemInstructionsComplete
  intro f s c x l
  exact ⟨fun h hp hlisted hmay => csrr_reads hlisted h hp hmay,
    fun h hp ⟨hlisted, hpriv, hro⟩ => IssuesAs.once (op := 0x153) (sh := .csrw f) h hp (csrBody_writes hlisted _ _ hpriv hro),
    fun h hp ⟨hlisted, hpriv, hro⟩ => IssuesAs.once (op := 0x154) (sh := .csrw f) h hp (csrBody_writes hlisted _ _ hpriv hro),
    fun h hp ⟨hlisted, hpriv, hro⟩ => IssuesAs.once (op := 0x155) (sh := .csrw f) h hp (csrBody_writes hlisted _ _ hpriv hro),
    fun _ _ h hp hrecord hkind hlow hhigh => frd_peeks h hp hrecord hkind hlow hhigh,
    fun found _ h hp hrecord => (fres_resumes h hp hrecord).trans (by cases found <;> rfl),
    fun found _ h hp hrecord => (fkill_kills h hp hrecord).trans (by cases found <;> rfl), fun hp => system_idle hp⟩

end Sys2Proof.Machine
end


section
/-! Launch instructions (R460, R461): a `TASK` past the tests of its card and with room, `HINTS` of a workgroup counted or not, and `WAITPRED` with its
predecessor over or not. -/

namespace Sys2Proof.Machine

variable {f : Fields} {s v : State} {c : Ctx} {x : Fibre} {l : List Fibre}

/-- A well-formed card whose segment has room is placed (R460). -/
theorem taskBody_places {start : Ctx → Fibre → Nat} {t : State} {b : Nat} (hcard : c.taskCard x t = .ok (b, v)) (hroom : t.segmentRoom (cardKey b) = true) :
    taskBody start c x t =
      .ok ((((v.enqueueCard b c.launch.areaOwner (start c x) false v.openStores).commits c true).lanewise c id).holdStores c) := by
  simp only [taskBody, hcard, hroom, Bool.not_true, Bool.false_eq_true, if_false]

theorem task_places {b : Nat} (h : Issues (.task f) s c) (hp : c.passing = x :: l) (hcard : c.taskCard x (s.entered c (.task f)) = .ok (b, v))
    (hroom : (s.entered c (.task f)).segmentRoom (cardKey b) = true) : exec (.task f) s =
      .next ((((v.enqueueCard b c.launch.areaOwner 0 false v.openStores).commits c true).lanewise c id).holdStores c) :=
  IssuesAs.once (op := 0x170) (sh := .task f false) h hp (taskBody_places hcard hroom)

theorem taskT_places {b : Nat} (h : Issues (.taskT f) s c) (hp : c.passing = x :: l) (hcard : c.taskCard x (s.entered c (.taskT f)) = .ok (b, v))
    (hroom : (s.entered c (.taskT f)).segmentRoom (cardKey b) = true) : exec (.taskT f) s =
      .next ((((v.enqueueCard b c.launch.areaOwner (src64 c x c.f.srcC).toNat false v.openStores).commits c true).lanewise c id).holdStores c) :=
  IssuesAs.once (op := 0x171) (sh := .task f true) h hp (taskBody_places (start := fun c x => (src64 c x c.f.srcC).toNat) hcard hroom)

/-- A workgroup that has counted itself counts itself no more. -/
theorem hints_counted (h : Issues (.hints f) s c) (hp : c.passing = x :: l) (hhinted : c.wg.hinted = true) : Lanes (.hints f) s c id := by
  change execHints f s = _
  refine IssuesAs.once (op := 0x172) (sh := .hints f) h hp ?_
  rw [if_pos hhinted]
  rfl

theorem hints_counts (h : Issues (.hints f) s c) (hp : c.passing = x :: l) (hhinted : c.wg.hinted = false) : exec (.hints f) s =
    .next ((((s.entered c (.hints f)).updWg c.wg.key (fun w => { w with hinted := true })).updLaunch c.launch.lseq
      (fun m => { m with hinted := m.hinted + 1 })).lanewise c id) := by
  change execHints f s = _
  refine IssuesAs.once (op := 0x172) (sh := .hints f) h hp ?_
  rw [if_neg (Bool.eq_false_iff.mp hhinted)]
  rfl

/-! `WAITPRED` (R461). -/

/-- The fibres of a batch that pass wait for the predecessor of their launch. -/
def State.predWaiting (s : State) (c : Ctx) : State :=
  s.updLanes c (fun y => if passes c.f y then y.sleep .waitpred c.launch.lseq 0 0 0 s.tide.toNat else y.next)

/-- The fibres of a batch that waited for the predecessor go on. -/
def State.predPassed (s : State) (c : Ctx) : State := s.wakeWg c.wg.key (fun y => decide (y.wait = .waitpred) && c.active y) Fibre.next

/-- A taint of spin records changes neither the launches nor the Tide, which a `WAITPRED` reads. -/
theorem State.predWaiting_tainted (op : Nat) : (s.tainted c op f).predWaiting c = (s.tainted c op f).updLanes c
    (fun y => if passes c.f y then y.sleep .waitpred c.launch.lseq 0 0 0 s.tide.toNat else y.next) := by
  rw [State.predWaiting, State.tainted_tide]

theorem State.predIs_tainted (op : Nat) (p : Launch → Bool) : (s.tainted c op f).predIs c.launch p = s.predIs c.launch p := by
  simp only [State.predIs, State.launch?, State.tainted_launches]

theorem waitpred_waits (h : Issues (.waitpred f) s c) (hp : c.passing = x :: l) (hpred : s.predIs c.launch (fun p => p.done) = false) :
    exec (.waitpred f) s = .next ((s.entered c (.waitpred f)).predWaiting c) := by
  change execWaitpred f s = _
  refine IssuesAs.next (op := 0x173) (sh := .hints f) h ?_
  rw [State.predIs_tainted, hpred, hp]
  rfl

theorem waitpred_passes (h : Issues (.waitpred f) s c) (hp : c.passing = x :: l) (hpred : s.predIs c.launch (fun p => p.done) = true) :
    exec (.waitpred f) s = .next (if c.launch.predScope = 7 then ((s.entered c (.waitpred f)).predWaiting c).predPassed c
      else (((s.entered c (.waitpred f)).predWaiting c).predPassed c).acquire c.core c.launch.predScope) := by
  change execWaitpred f s = _
  refine IssuesAs.next (op := 0x173) (sh := .hints f) h ?_
  rw [State.predIs_tainted, hpred, hp]
  rfl

theorem waitpred_idle (h : Issues (.waitpred f) s c) (hp : c.passing = []) : Lanes (.waitpred f) s c id := by
  change execWaitpred f s = _
  refine IssuesAs.next (op := 0x173) (sh := .hints f) h ?_
  rw [hp]
  rfl

/-- A launch instruction only moves on where no lane passes. -/
theorem launch_idle (hp : c.passing = []) : ∀ i, i ∈ [Instr.task f, .taskT f, .hints f, .waitpred f] → Issues i s c → Lanes i s c id := by
  simp only [List.forall_mem_cons, List.not_mem_nil, false_implies, implies_true, and_true]
  exact ⟨fun h => idle_of_runOnce execTask rfl rfl rfl rfl rfl h hp, fun h => idle_of_runOnce execTaskT rfl rfl rfl rfl rfl h hp,
    fun h => idle_of_runOnce execHints rfl rfl rfl rfl rfl h hp, fun h => waitpred_idle h hp⟩

/-- Settles O32: each instruction by the lemma of its own body. -/
theorem launchInstructionsComplete : Obligations.LaunchInstructionsComplete := by
  unfold Obligations.LaunchInstructionsComplete
  intro f s c x l
  have hwaiting := State.predWaiting_tainted (s := s) (c := c) (f := f) 0x173
  refine ⟨fun _ _ h hp hcard hroom => task_places h hp hcard hroom, fun _ _ h hp hcard hroom => taskT_places h hp hcard hroom,
    fun h hp hhinted => hints_counted h hp hhinted, fun h hp hhinted => hints_counts h hp hhinted,
    fun h hp hpred => (waitpred_waits h hp hpred).trans (congrArg _ hwaiting), fun h hp hpred => (waitpred_passes h hp hpred).trans ?_,
    fun hp => launch_idle hp⟩
  change Host.Outcome.next (if c.launch.predScope = 7 then ((s.tainted c 0x173 f).predWaiting c).predPassed c
    else (((s.tainted c 0x173 f).predWaiting c).predPassed c).acquire c.core c.launch.predScope) = _
  rw [hwaiting]
  rfl

end Sys2Proof.Machine
end


section
/-! Collective instructions (R428 to R437): multicast operations, packets, launch counters and waits for the Tide. -/

namespace Sys2Proof.Machine

/-- What a batch reads of the Tide is the Tide as it issues. -/
theorem Ctx.of?_tide {s : State} {op : Nat} {f : Fields} {c : Ctx} (h : Ctx.of? s op f = some c) : c.tide = s.tide := by
  simp only [Ctx.of?, Option.bind_eq_some_iff] at h
  obtain ⟨i, -, sl, -, w, -, hc⟩ := h
  split at hc
  · exact absurd hc (by simp)
  · rw [← Option.some.inj hc]

theorem firstLane_none {tests : List (Bool × LaneFault)} (h : ∀ e ∈ tests, e.1 = false) : firstLane tests = none := by
  induction tests with
  | nil => rfl
  | cons e rest ih =>
    obtain ⟨he, hrest⟩ := List.forall_mem_cons.mp h
    rw [firstLane, he, if_neg Bool.false_ne_true]
    exact ih hrest

variable {f : Fields} {s v : State} {c : Ctx} {x : Fibre} {l : List Fibre}

/-! Multicast operations (R428, R430). -/

/-- A lane's offset passes the tests of R428: its group is valid, and it is aligned and inside the window. -/
theorem Ctx.multiTests_pass {t : State} {w : Nat} {y : Fibre} (hvalid : (t.group (c.f.imm.toNat % 256)).ctl.getLsbD 0 = true)
    (halign : (src32 c y c.f.srcA).toNat % w = 0) (hinside : (src32 c y c.f.srcA).toNat + w ≤ (t.group (c.f.imm.toNat % 256)).len.toNat * 2 ^ 21) :
    firstLane (c.multiTests t w y) = none := by
  have hgroup : c.f.immBits 0 8 = c.f.imm.toNat % 256 := by
    rw [Fields.immBits, bitsOf_eq, pow_zero, Nat.div_one]
    rfl
  have hodd : (t.group (c.f.imm.toNat % 256)).ctl.toNat % 2 = 1 := by
    simpa [BitVec.getLsbD, Nat.testBit_zero] using hvalid
  refine firstLane_none ?_
  simp only [Ctx.multiTests, hgroup, List.forall_mem_cons, decide_eq_false_iff_not]
  exact ⟨by omega, not_not.mpr halign, by omega, List.forall_mem_nil _⟩

/-- The group of a multicast instruction is valid, and every passing lane's offset is aligned and inside its window. -/
def Ctx.InWindow (c : Ctx) (s : State) (w : Nat) : Prop :=
  (s.group (c.f.imm.toNat % 256)).ctl.getLsbD 0 = true ∧ ∀ y ∈ c.passing, (src32 c y c.f.srcA).toNat % w = 0 ∧
    (src32 c y c.f.srcA).toNat + w ≤ (s.group (c.f.imm.toNat % 256)).len.toNat * 2 ^ 21

theorem Ctx.multiTests_none {w : Nat} (op : Nat) (h : c.InWindow s w) :
    c.laneFault (fun y => firstLane (c.multiTests (s.tainted c op f) w y)) = none := by
  obtain ⟨hvalid, hlanes⟩ := h
  refine Ctx.laneFault_none fun y hy => ?_
  obtain ⟨halign, hinside⟩ := hlanes y hy
  have hgroup : (s.tainted c op f).group (c.f.imm.toNat % 256) = s.group (c.f.imm.toNat % 256) := by
    rw [State.group, State.tainted_groups, State.group]
  rw [← hgroup] at hvalid hinside
  exact Ctx.multiTests_pass hvalid halign hinside

theorem IssuesAs.multiLoads {op w : Nat} {sh : Shape} (h : IssuesAs op sh f s c) (hp : c.passing = x :: l) (hw : c.InWindow s w) :
    runBatch op sh f s (mldrBody w) =
      .next ((s.tainted c op f).sendMulti c true w (if c.f.mod 0 then some (c.f.mods.toNat / 2 % 16) else none)) := by
  refine h.next ?_
  simp only [mldrBody, Ctx.multiTests_none op hw, Fields.modBits_eq]
  rw [hp]
  rfl

theorem msto_sends (h : Issues (.msto f) s c) (hp : c.passing = x :: l) (hw : c.InWindow s (if c.f.mod 0 then 4 else 2))
    (hready : c.collReady (s.entered c (.msto f)) = true) : exec (.msto f) s =
      .next ((((s.entered c (.msto f)).sendMulti c false (if c.f.mod 0 then 4 else 2) (if c.f.mod 1 then some (c.f.mods.toNat / 4 % 16) else none)).updWg
        c.wg.key (fun w => w.countIssue (issuerOf c.compat16 (lowestFibre c.lanes)) 4 s.nextKey)).commits c true) := by
  change execMsto f s = _
  have hf : c.f = f := IssuesAs.fields (op := 0x162) (sh := .msto f) h
  refine IssuesAs.next (op := 0x162) (sh := .msto f) h ?_
  change c.collReady (s.tainted c 0x162 f) = true at hready
  have hlanes : c.passing.isEmpty = false := by rw [hp]; rfl
  rw [← hf] at hready ⊢
  simp only [Ctx.multiTests_none 0x162 hw, hlanes, hready, Fields.modBits_eq, State.tainted_nextKey, Bool.not_true, Bool.false_eq_true, if_false]
  rw [hf]
  rfl

/-! Packets (R432). -/

theorem psendFault_none (hcanonA : canonical (src64 c x c.f.srcA).toNat = true) (halignA : (src64 c x c.f.srcA).toNat % 64 = 0)
    (hcanonB : canonical (src64 c x c.f.srcB).toNat = true) (halignB : (src64 c x c.f.srcB).toNat % 16 = 0) (hreserved : c.reserved ≠ 0) :
    c.psendFault x = none := by
  refine firstLane_none ?_
  simp [hcanonA, halignA, hcanonB, halignB, hreserved, reservedTests]

/-- The entry of a packet: the addresses of its header and payload, and the time from which it is sent. -/
def packetEntry (c : Ctx) (x : Fibre) (start : Nat) (e : CopyEntry) : CopyEntry :=
  { e with
    kind := .psend, a := (src64 c x c.f.srcA).toNat, b := [loWord (src64 c x c.f.srcB), hiWord (src64 c x c.f.srcB)], c := start % 2 ^ 32, start := start }

theorem psendBody_queues {start : Ctx → Fibre → Nat} {t : State} (hfault : c.psendFault x = none)
    (hfree : (t.core c.core).copyUsed c.wg.key < c.reserved) (hready : c.collReady t = true) :
    psendBody start c x t = .ok (((t.queueCopy c 4 (packetEntry c x (start c x)) x).commits c true).lanewise c id) := by
  have hmay : c.psendReady t = true := by simp [Ctx.psendReady, hfree, hready]
  simp only [psendBody, hfault, hmay, Bool.not_true, Bool.false_eq_true, if_false]
  rfl

/-! Launch counters (R434). -/

theorem addCounter_inRange {value : Int} {b : Word} (h : -2 ^ 31 ≤ value + b.toInt ∧ value + b.toInt ≤ 2 ^ 31 - 1) :
    addCounter value b = some (value + b.toInt) := by
  simp only [addCounter]
  exact if_neg (by omega)

/-- The counter that source A numbers, after the release. -/
def State.releasedCounter (s : State) (c : Ctx) (x : Fibre) : LaunchCounter := (s.release c.core 4).counter (src32 c x c.f.srcA).toNat

/-- A counter's value after source B's, in its signed range. -/
def Ctx.CounterInRange (c : Ctx) (x : Fibre) (q : LaunchCounter) : Prop :=
  -2 ^ 31 ≤ q.value + (src32 c x c.f.srcB).toInt ∧ q.value + (src32 c x c.f.srcB).toInt ≤ 2 ^ 31 - 1

theorem lcarm_arms {card : Nat} {t : State} (h : Issues (.lcarm f) s c) (hp : c.passing = x :: l) (ht : s.tainted c 0x165 f = t)
    (hnumber : (src32 c x c.f.srcA).toNat < 4096) (hfree : (t.releasedCounter c x).armed = false)
    (hcard : (t.release c.core 4).readCard c x (src64 c x c.f.srcC).toNat c.f.srcC = .ok (card, v)) (hrange : c.CounterInRange x (t.releasedCounter c x)) :
    exec (.lcarm f) s = .next ((((v.counterSet (src32 c x c.f.srcA).toNat
      { value := (t.releasedCounter c x).value + (src32 c x c.f.srcB).toInt, armed := true, card := bytesOf 32 card, launch := c.launch.areaOwner
        acks := (t.releasedCounter c x).acks ++ (t.release c.core 4).openStores }).commits c true).lanewise c id).holdStores c) := by
  change execLcarm f s = _
  obtain rfl : c.f = f := IssuesAs.fields (op := 0x165) (sh := .lcarm f) h
  refine IssuesAs.once (op := 0x165) (sh := .lcarm c.f) h hp ?_
  have hsmall : ¬ (src32 c x c.f.srcA).toNat / 4096 ≠ 0 := by omega
  have hadd := addCounter_inRange hrange
  rw [State.releasedCounter] at hfree hadd ⊢
  simp only [ht, if_neg hsmall, hfree, Bool.false_eq_true, if_false, hcard, hadd]

theorem lcarmAdd_raises {t : State} (h : Issues (.lcarmAdd f) s c) (hp : c.passing = x :: l) (ht : s.tainted c 0x166 f = t)
    (hnumber : (src32 c x c.f.srcA).toNat < 4096) (hrange : c.CounterInRange x (t.releasedCounter c x)) :
    exec (.lcarmAdd f) s = .next (((((t.release c.core 4).counterSet (src32 c x c.f.srcA).toNat
      { t.releasedCounter c x with
        value := (t.releasedCounter c x).value + (src32 c x c.f.srcB).toInt
        acks := (t.releasedCounter c x).acks ++ (t.release c.core 4).openStores }).commits c true).lanewise c id).holdStores c) := by
  change execLcarmAdd f s = _
  obtain rfl : c.f = f := IssuesAs.fields (op := 0x166) (sh := .lcarmAdd f) h
  refine IssuesAs.once (op := 0x166) (sh := .lcarmAdd c.f) h hp ?_
  have hsmall : ¬ (src32 c x c.f.srcA).toNat / 4096 ≠ 0 := by omega
  have hadd := addCounter_inRange hrange
  rw [State.releasedCounter] at hadd ⊢
  simp only [ht, if_neg hsmall, hadd]

/-! The Tide (R436, R437). -/

/-- The fibres of a batch wait for their targets, and those already reached go on. -/
def State.tideWaiting (s : State) (c : Ctx) (target : Fibre → Nat) (now : Nat) : State :=
  (s.updLanes c (fun y => if passes c.f y then y.sleep .twait 0 0 0 (target y) now else y.next)).wakeWg c.wg.key
    (fun y => decide (y.wait = .twait) && c.active y && decide (y.deadline ≤ now)) Fibre.next

theorem IssuesAs.tideWaits {op : Nat} {sh : Shape} {target : Ctx → Fibre → Nat} (h : IssuesAs op sh f s c) :
    runBatch op sh f s (twaitBody target) = .next ((s.tainted c op f).tideWaiting c (target c) s.tide.toNat) := by
  refine h.next ?_
  simp only [twaitBody, State.tainted_tide]
  rfl

theorem twaitRel_waits (h : Issues (.twaitRel f) s c) : exec (.twaitRel f) s =
    .next ((s.entered c (.twaitRel f)).tideWaiting c (fun y => s.tide.toNat + (srcB32 c y).toNat) s.tide.toNat) := by
  have htide : c.tide = s.tide := Ctx.of?_tide (op := 0x168) (f := f) h.1
  rw [← htide]
  change execTwaitRel f s = _
  refine (IssuesAs.tideWaits (op := 0x168) (sh := .twaitRel) h).trans ?_
  rw [htide]
  rfl

theorem tread_reads (h : Issues (.tread f) s c) : Lanes64 (.tread f) s c (fun _ => s.tide) := by
  have htide : c.tide = s.tide := Ctx.of?_tide (op := 0x169) (f := f) h.1
  change execTread f s = _
  exact IssuesAs.lanes (op := 0x169) (sh := .tread f) h (by rw [htide])

/-! Batches none of whose lanes passes. -/

theorem IssuesAs.multiIdle {op w : Nat} {sh : Shape} (h : IssuesAs op sh f s c) (hp : c.passing = []) :
    runBatch op sh f s (mldrBody w) = .next ((s.tainted c op f).lanewise c id) := by
  refine h.next ?_
  have hnone : c.laneFault (fun y => firstLane (c.multiTests (s.tainted c op f) w y)) = none :=
    Ctx.laneFault_none fun y hy => absurd hy (by rw [hp]; exact List.not_mem_nil)
  simp only [mldrBody, hnone]
  rw [hp]
  rfl

theorem msto_idle (h : Issues (.msto f) s c) (hp : c.passing = []) : Lanes (.msto f) s c id := by
  change execMsto f s = _
  refine IssuesAs.next (op := 0x162) (sh := .msto f) h ?_
  have hnone : c.laneFault (fun y => firstLane (c.multiTests (s.tainted c 0x162 f) (if f.mod 0 then 4 else 2) y)) = none :=
    Ctx.laneFault_none fun y hy => absurd hy (by rw [hp]; exact List.not_mem_nil)
  simp only [hnone]
  rw [hp]
  rfl

theorem collective_idle (hp : c.passing = []) : ∀ i, i ∈ [Instr.mldr f, .mldrF32 f, .msto f, .psend f, .psendT f, .lcarm f, .lcarmAdd f] →
    Issues i s c → Lanes i s c id := by
  simp only [List.forall_mem_cons, List.not_mem_nil, false_implies, implies_true, and_true]
  exact ⟨fun h => IssuesAs.multiIdle (op := 0x160) (sh := .mldr f) h hp, fun h => IssuesAs.multiIdle (op := 0x161) (sh := .mldr f) h hp,
    fun h => msto_idle h hp, fun h => idle_of_runOnce execPsend rfl rfl rfl rfl rfl h hp, fun h => idle_of_runOnce execPsendT rfl rfl rfl rfl rfl h hp,
    fun h => idle_of_runOnce execLcarm rfl rfl rfl rfl rfl h hp, fun h => idle_of_runOnce execLcarmAdd rfl rfl rfl rfl rfl h hp⟩

/-- Settles O31: each instruction by the lemma of its own body. -/
theorem collectiveInstructionsComplete : Obligations.CollectiveInstructionsComplete := by
  unfold Obligations.CollectiveInstructionsComplete
  intro f s c x l
  exact ⟨fun h hp hw => IssuesAs.multiLoads (op := 0x160) (sh := .mldr f) h hp hw, fun h hp hw => IssuesAs.multiLoads (op := 0x161) (sh := .mldr f) h hp hw,
    fun h hp hw hready => msto_sends h hp hw hready,
    fun h hp hcanonA halignA hcanonB halignB hreserved hfree hready => IssuesAs.once (op := 0x163) (sh := .psend f false) h hp
      (psendBody_queues (psendFault_none hcanonA halignA hcanonB halignB hreserved) hfree hready),
    fun h hp hcanonA halignA hcanonB halignB hreserved hfree hready => IssuesAs.once (op := 0x164) (sh := .psend f true) h hp
      (psendBody_queues (psendFault_none hcanonA halignA hcanonB halignB hreserved) hfree hready),
    fun _ _ h hp hnumber hfree hcard hrange => lcarm_arms h hp rfl hnumber hfree hcard hrange,
    fun h hp hnumber hrange => lcarmAdd_raises h hp rfl hnumber hrange,
    fun h => IssuesAs.tideWaits (op := 0x167) (sh := .twait f) h, fun h => twaitRel_waits h, fun h => tread_reads h, fun hp => collective_idle hp⟩

end Sys2Proof.Machine
end


section
/-! Where the issuing batch stands: the issue, the slots of every core and the fibres of every workgroup by their indexes. What keeps these keeps an
issuing batch. Reads of memory, and loads that take their values, keep them. -/

namespace Sys2Proof.Machine

/-- What names the issuing slot, and the slots of every core. -/
def State.seat (s : State) : Option (Nat × Nat) × (Nat → List Slot) := (s.issue.map (fun i => (i.core, i.slot)), fun k => (s.core k).slots)

section
variable {s t : State}

theorem State.seat_eq (hissue : t.issue = s.issue) (hcores : t.cores = s.cores) : t.seat = s.seat := by
  simp only [State.seat, State.core, hissue, hcores]

theorem State.seat_updCore (s : State) (k : Nat) {g : Core → Core} (hg : ∀ c, (g c).slots = c.slots) : (s.updCore k g).seat = s.seat := by
  refine Prod.ext rfl (funext fun j => ?_)
  change ((s.updCore k g).core j).slots = (s.core j).slots
  rw [State.core_updCore]
  split
  next hj => rw [hg, hj]
  next => rfl

/-! Writes at the home. -/

theorem State.l1Upd_seat (s : State) (k line : Nat) (g : L1Line → L1Line) : (s.l1Upd k line g).seat = s.seat := s.seat_updCore k fun _ => rfl

theorem State.l2Touch_seat (s : State) (line hint prio : Nat) : (s.l2Touch line hint prio).seat = s.seat := by
  unfold State.l2Touch
  (repeat' split) <;> rfl

theorem State.rdcRefresh_seat (s : State) (die line : Nat) (alloc : Bool) (mask : BitVec 128) (hint prio : Nat) :
    (s.rdcRefresh die line alloc mask hint prio).seat = s.seat := by
  unfold State.rdcRefresh
  (repeat' split) <;> rfl

theorem State.holdHost_seat (s : State) (cells : List (Nat × Byte)) (prio : Nat) : (s.holdHost cells prio).seat = s.seat := by
  refine foldl_keeps State.seat _ (fun t n => ?_) _ s
  dsimp only
  split
  · exact t.l2Touch_seat n 0 prio
  · exact (State.seat_eq rfl rfl).trans (t.l2Touch_seat n 0 prio)

theorem State.revoke_seat (s : State) (k word : Nat) : (s.revoke k word).seat = s.seat := s.seat_updCore k fun _ => rfl

theorem State.ownWord_seat (s : State) (who : Writer) (word : Nat) : (s.ownWord who word).seat = s.seat := by
  unfold State.ownWord
  have hgone : ∀ gone : Bool, (if gone then s.revoke (Sparse.get 0 s.owners word - 1) word else s).seat = s.seat := fun gone => by
    cases gone
    · rfl
    · exact s.revoke_seat _ word
  exact (State.seat_eq rfl rfl).trans (hgone _)

theorem State.sendRequest_seat (s : State) (kind : RequestKind) (line channel : Nat) (f : Nat → Flit) : (s.sendRequest kind line channel f).seat = s.seat := rfl

theorem State.sendStores_seat (s : State) (comp : Nat) (cells : List (Nat × Byte)) (bad : Bool) : (s.sendStores comp cells bad).seat = s.seat := by
  unfold State.sendStores
  exact foldl_keeps State.seat _ (fun t n => t.sendRequest_seat ..) _ s

theorem State.fire_seat (s : State) (only : Option Nat) (l : WatchLine) : (s.fire only l).seat = s.seat := rfl

theorem State.noteLines_seat (s : State) (cells : List (Nat × Byte)) : (s.noteLines cells).seat = s.seat := by
  unfold State.noteLines
  split <;> rfl

theorem State.homeWrite_seat (s : State) (who : Writer) (comp : Nat) (cells : List (Nat × Byte)) (bad : Bool) (p : Nat) :
    (s.homeWrite who comp cells bad p).seat = s.seat := by
  have howned : ((wordsIn cells).foldl (fun t w => t.ownWord who w) (s.holdHost cells p)).seat = s.seat :=
    (foldl_keeps State.seat _ (fun t w => t.ownWord_seat who w) _ _).trans (s.holdHost_seat cells p)
  simp only [State.homeWrite]
  rw [State.sendStores_seat, State.noteLines_seat]
  refine (foldl_keeps State.seat _ (fun t l => t.fire_seat none _) _ _).trans (Eq.trans ?_ howned)
  cases who <;> rfl

/-! The L1. -/

theorem State.l1Complete_seat (s : State) (k line : Nat) (mask : BitVec 128) : (s.l1Complete k line mask).seat = s.seat := by
  unfold State.l1Complete
  split
  · rfl
  · split
    · rfl
    · rw [State.rdcRefresh_seat, State.l1Upd_seat]

theorem State.flushLine_seat (s : State) (k line : Nat) (mask : BitVec 128) (record : Bool) : (s.flushLine k line mask record).seat = s.seat := by
  unfold State.flushLine
  split
  · rfl
  · split
    · rfl
    · dsimp only
      rw [State.l1Complete_seat, State.homeWrite_seat, State.homeWrite_seat, State.l1Upd_seat]

theorem State.l1Evict_seat (s : State) (k line : Nat) : (s.l1Evict k line).seat = s.seat := by
  unfold State.l1Evict
  dsimp only
  refine (State.seat_updCore _ k ?_).trans ((foldl_keeps State.seat _ (fun t w => ?_) _ _).trans (s.flushLine_seat ..))
  · exact fun _ => rfl
  · split <;> rfl

theorem State.l1Touch_seat (s : State) (k line : Nat) : (s.l1Touch k line).seat = s.seat := s.seat_updCore k fun _ => rfl

theorem State.l1Alloc_seat (s : State) (k line prio : Nat) (a : Attr) : (s.l1Alloc k line prio a).seat = s.seat := by
  unfold State.l1Alloc
  split
  · exact s.l1Touch_seat k line
  · refine (State.seat_updCore _ k ?_).trans ?_
    · exact fun _ => rfl
    · split
      · exact s.l1Evict_seat k _
      · rfl

theorem State.serve_seat (s : State) (k : Nat) (a : Attr) (useRdc : Bool) (hint line : Nat) (mask : BitVec 128) :
    (s.serve k a useRdc hint line mask).2.seat = s.seat := by
  have hheld : (if a.cache = 3 then s else s.l2Touch line hint a.prio).seat = s.seat := by
    split
    · rfl
    · exact s.l2Touch_seat ..
  unfold State.serve
  dsimp only
  split
  · exact hheld
  · split
    · split
      · rfl
      · exact (State.rdcRefresh_seat ..).trans hheld
    · exact (State.rdcRefresh_seat ..).trans hheld

/-! Reads. -/

theorem State.l1Fill_seat (s : State) (k : Nat) (a : Attr) (hint line : Nat) (mask : BitVec 128) : (s.l1Fill k a hint line mask).seat = s.seat := by
  unfold State.l1Fill
  dsimp only
  split
  · rw [State.l1Upd_seat, State.l1Alloc_seat]
  · split
    · rw [State.l1Upd_seat, State.l1Alloc_seat]
    · rw [State.l1Upd_seat, State.serve_seat, State.l1Upd_seat, State.l1Alloc_seat]

theorem State.l1Other_seat (s : State) (k : Nat) (a : Attr) (hint pa : Nat) : (s.l1Other k a hint pa).seat = s.seat := by
  unfold State.l1Other
  split
  · exact s.l1Fill_seat ..
  · rfl

theorem State.readBeyond_seat (s : State) (k : Nat) (a : Attr) (rdc : Bool) (hint pa n : Nat) : (s.readBeyond k a rdc hint pa n).2.seat = s.seat := by
  unfold State.readBeyond
  dsimp only
  rw [State.l1Upd_seat, State.serve_seat, State.flushLine_seat]

theorem State.readG_seat (s : State) (k : Nat) (a : Attr) (hint scope pa n : Nat) : (s.readG k a hint scope pa n).2.seat = s.seat := by
  unfold State.readG
  dsimp only
  split
  · exact s.readBeyond_seat ..
  · split
    · exact s.readBeyond_seat ..
    · split
      · split
        · exact s.serve_seat ..
        · rw [State.l1Fill_seat, State.l1Other_seat]
      · split
        · rw [State.l1Upd_seat, State.l1Touch_seat]
        · rw [State.l1Fill_seat]
          split
          · rw [State.l1Upd_seat, State.l1Touch_seat]
          · rw [State.l1Other_seat, State.l1Upd_seat, State.l1Touch_seat]

theorem State.readWords_seat (k hint scope width n : Nat) (p : Place) (s : State) : (State.readWords k hint scope width n p s).2.seat = s.seat := by
  induction n generalizing p s with
  | zero => rfl
  | succ n ih =>
    refine (ih ..).trans ?_
    cases p with
    | scratch => rfl
    | home => exact s.readG_seat ..

/-! Loads that take their values. -/

theorem State.spinNote_seat (s : State) (key : Nat) (l : Load) (v : List (Byte × Bool)) : (s.spinNote key l v).seat = s.seat := by
  unfold State.spinNote
  split <;> rfl

theorem Load.perform_seat (k key : Nat) (l : Load) (s : State) : (l.perform k key s).2.seat = s.seat := by
  unfold Load.perform
  split
  · rfl
  · exact (State.spinNote_seat ..).trans (State.readWords_seat ..)

theorem performWhere_seat (k key : Nat) (p : Load → Bool) (ls : List Load) (s : State) : (performWhere k key p ls s).2.seat = s.seat := by
  induction ls generalizing s with
  | nil => rfl
  | cons l t ih =>
    simp only [performWhere]
    rw [ih]
    split
    · exact l.perform_seat k key s
    · rfl

theorem takeWhere_seat (k key : Nat) (p : Load → Bool) (qs : List Pending) (s : State) : (takeWhere k key p qs s).2.seat = s.seat := by
  induction qs generalizing s with
  | nil => rfl
  | cons q t ih =>
    simp only [takeWhere]
    rw [ih]
    split
    · exact performWhere_seat k key p q.loads s
    · rfl

theorem State.takeLoads_seat (s : State) (k key : Nat) (p : Load → Bool) : (s.takeLoads k key p).seat = s.seat := by
  unfold State.takeLoads State.takeFirst
  dsimp only
  split
  · refine (State.seat_updCore _ k ?_).trans (takeWhere_seat k key p _ s)
    exact fun _ => rfl
  · rfl

end

/-! Fibres by their indexes. -/

/-- The fibres of a workgroup. -/
def Workgroup.members (w : Workgroup) : Nat × List Nat := (w.key, w.fibres.map (fun x => x.index))

/-- The workgroups by their keys, with their fibres. -/
def State.members (s : State) : List (Nat × List Nat) := s.wgs.map Workgroup.members

theorem Workgroup.members_of_registers (w : Workgroup) : w.members = (w.registers.1, w.registers.2.map (fun r => r.1)) := by
  simp only [Workgroup.members, Workgroup.registers, List.map_map]
  rfl

theorem State.members_of_registers {s t : State} (h : t.registers = s.registers) : t.members = s.members := by
  have hmembers : ∀ u : State, u.members = u.registers.map (fun r => (r.1, r.2.map (fun e => e.1))) := fun u => by
    simp only [State.members, State.registers, List.map_map]
    exact List.map_congr_left fun w _ => w.members_of_registers
  rw [hmembers, hmembers, h]

theorem Workgroup.members_map {w : Workgroup} {g : Fibre → Fibre} (hg : ∀ x, (g x).index = x.index) :
    (w.fibres.map g).map (fun x => x.index) = w.fibres.map (fun x => x.index) := by
  rw [List.map_map]
  exact List.map_congr_left fun x _ => hg x

theorem State.members_updWg (s : State) (key : Nat) {g : Workgroup → Workgroup} (hg : ∀ w, (g w).members = w.members) :
    (s.updWg key g).members = s.members := by
  simp only [State.members, State.updWg, List.map_map]
  refine List.map_congr_left fun w _ => ?_
  simp only [Function.comp_apply]
  split
  · exact hg w
  · rfl

theorem State.takeLoads_members (s : State) (k key : Nat) (p : Load → Bool) : (s.takeLoads k key p).members = s.members := by
  have hsame : State.Untouched k (fun _ => False) s s := .refl fun _ hf => hf.elim
  refine State.members_of_registers (State.Untouched.registers (k := k) (A := fun _ => False) ?_)
  unfold State.takeLoads State.takeFirst
  dsimp only
  split
  · exact (hsame.takeWhere ..).updLoads ..
  · exact hsame

/-! The issuing batch. -/

/-- Two states have the same issuing slot, slots, workgroups and fibres. -/
def State.SameBatch (s t : State) : Prop := t.seat = s.seat ∧ t.members = s.members

theorem State.SameBatch.refl (s : State) : s.SameBatch s := ⟨rfl, rfl⟩

theorem State.SameBatch.trans {s t u : State} (hst : s.SameBatch t) (htu : t.SameBatch u) : s.SameBatch u :=
  ⟨htu.1.trans hst.1, htu.2.trans hst.2⟩

/-- The slot that the issue names holds a fibre of its workgroup. -/
def State.Issuing (s : State) : Prop := ∃ i sl w x, s.issue = some i ∧ (s.core i.core).slots.find? (fun z => z.id = i.slot) = some sl ∧
  s.wg? sl.wg = some w ∧ x ∈ w.fibres ∧ sl.lanes.contains x.index = true

theorem State.Issuing.of? {s : State} (h : s.Issuing) (op : Nat) (f : Fields) : ∃ c, Ctx.of? s op f = some c := by
  obtain ⟨i, sl, w, x, hi, hsl, hw, hx, hlane⟩ := h
  have hmem : x ∈ w.fibres.filter (fun y => sl.lanes.contains y.index) := List.mem_filter.mpr ⟨hx, hlane⟩
  simp only [Ctx.of?, hi, hsl, hw, Option.bind_some]
  split
  next hnil => exact absurd (hnil ▸ hmem) List.not_mem_nil
  next => exact ⟨_, rfl⟩

theorem State.wg?_members (s : State) (key : Nat) : (s.wg? key).map Workgroup.members = s.members.find? (fun e => e.1 = key) := by
  rw [State.members, List.find?_map]
  rfl

theorem State.Issuing.of_same {s t : State} (h : s.Issuing) (hst : s.SameBatch t) : t.Issuing := by
  obtain ⟨i, sl, w, x, hi, hsl, hw, hx, hlane⟩ := h
  obtain ⟨hseat, hmembers⟩ := hst
  obtain ⟨hissue, hslots⟩ := Prod.mk.inj hseat
  rw [hi] at hissue
  obtain ⟨j, hj, hij⟩ := Option.map_eq_some_iff.mp hissue
  obtain ⟨hcore, hslot⟩ := Prod.mk.inj hij
  have hfound : (t.core j.core).slots.find? (fun z => z.id = j.slot) = some sl := by
    rw [congrFun hslots j.core, hcore, hslot]
    exact hsl
  have hwg := t.wg?_members sl.wg
  rw [hmembers, ← s.wg?_members, hw] at hwg
  obtain ⟨v, hv, hvw⟩ := Option.map_eq_some_iff.mp hwg
  have hindex : x.index ∈ v.fibres.map (fun y => y.index) := by
    rw [(Prod.mk.inj hvw).2]
    exact List.mem_map_of_mem hx
  obtain ⟨y, hy, hyx⟩ := List.mem_map.mp hindex
  exact ⟨j, sl, v, y, hj, hfound, hv, hy, hyx ▸ hlane⟩

end Sys2Proof.Machine
end


section
/-! Instructions that keep the issuing batch: those that only compute lane by lane, and `ORD`. -/

namespace Sys2Proof.Machine

variable {s t u : State}

theorem State.SameBatch.updWg (s : State) (key : Nat) {g : Workgroup → Workgroup} (hg : ∀ w, (g w).members = w.members) : s.SameBatch (s.updWg key g) :=
  ⟨rfl, s.members_updWg key hg⟩

theorem State.SameBatch.updBatch (s : State) (key : Nat) (lanes : List Nat) {g : Fibre → Fibre} (hg : ∀ x, (g x).index = x.index) :
    s.SameBatch (s.updBatch key lanes g) := by
  refine .updWg s key fun w => congrArg (Prod.mk w.key) (Workgroup.members_map fun x => ?_)
  split
  · exact hg x
  · rfl

theorem State.SameBatch.updLanes (s : State) (c : Ctx) {g : Fibre → Fibre} (hg : ∀ x, (g x).index = x.index) : s.SameBatch (s.updLanes c g) := by
  refine .updWg s c.wg.key fun w => congrArg (Prod.mk w.key) (Workgroup.members_map fun x => ?_)
  split
  · exact hg x
  · rfl

theorem State.SameBatch.lanewise (s : State) (c : Ctx) {g : Fibre → Fibre} (hg : ∀ x, (g x).index = x.index) : s.SameBatch (s.lanewise c g) := by
  refine .updLanes s c fun x => ?_
  rw [Fibre.next_index]
  split
  · exact hg x
  · rfl

theorem State.SameBatch.tainted (s : State) (c : Ctx) (op : Nat) (f : Fields) : s.SameBatch (s.tainted c op f) := by
  unfold State.tainted
  split
  · exact .updLanes s c fun _ => rfl
  · exact .refl s

theorem State.SameBatch.log (s : State) (a b d e f g h : Nat) : s.SameBatch (s.log a b d e f g h) := by
  refine ⟨State.seat_eq ?_ ?_, congrArg (List.map Workgroup.members) ?_⟩ <;> simp

theorem State.SameBatch.park (s : State) (key : Nat) (e : FaultInfo) : s.SameBatch (s.park key e) := by
  unfold State.park
  split
  · exact .refl s
  · split
    · exact .refl s
    · dsimp only
      refine State.SameBatch.trans ?_ (.log ..)
      exact State.SameBatch.updWg s key fun w => congrArg (Prod.mk w.key) (Workgroup.members_map fun _ => rfl)

theorem State.SameBatch.parkBatch (s : State) (c : Ctx) (e : FaultInfo) : s.SameBatch (s.parkBatch c e) := .park s _ _

/-! Instructions. -/

/-- An instruction whose completion keeps the issuing batch. -/
def KeepsBatch (i : Instr) : Prop := ∀ s t, exec i s = .next t → s.SameBatch t

theorem runWith_sameBatch {op : Nat} {shape : Ctx → Shape} {f : Fields} {body : Ctx → State → Except FaultInfo State}
    (hbody : ∀ c u v, body c u = .ok v → u.SameBatch v) (h : runWith op shape f s body = .next t) : s.SameBatch t := by
  rcases runWith_spec op shape f s body with ⟨-, hrun⟩ | ⟨c, e, -, -, hrun⟩ | ⟨c, e, -, -, -, hrun⟩ | ⟨c, v, -, -, hok, hrun⟩
  · exact absurd (hrun.symm.trans h) (by simp)
  · rw [← Host.Outcome.next.inj (hrun.symm.trans h)]
    exact .parkBatch s c e
  · rw [← Host.Outcome.next.inj (hrun.symm.trans h)]
    exact .parkBatch s c e
  · rw [← Host.Outcome.next.inj (hrun.symm.trans h)]
    exact (State.SameBatch.tainted s c op f).trans (hbody c _ v hok)

section
variable {i : Instr} {op : Nat} {sh : Shape} {f : Fields}

theorem KeepsBatch.of_batch {body : Ctx → State → Except FaultInfo State} (hexec : ∀ s, exec i s = runBatch op sh f s body)
    (hbody : ∀ c u v, body c u = .ok v → u.SameBatch v) : KeepsBatch i := fun s _ h => runWith_sameBatch hbody ((hexec s).symm.trans h)

theorem KeepsBatch.of_lanes {g : Ctx → Fibre → Fibre} (hexec : ∀ s, exec i s = runLanes op sh f s g) (hg : ∀ c x, (g c x).index = x.index) : KeepsBatch i := by
  refine .of_batch hexec fun c u v h => ?_
  rw [← Except.ok.inj h]
  exact .lanewise u c (hg c)

theorem KeepsBatch.of_floats {g : Ctx → Fibre → Fibre × Flags} (hexec : ∀ s, exec i s = runFloat op sh f s g)
    (hg : ∀ c x, (g c x).1.index = x.index) : KeepsBatch i := by
  refine .of_batch hexec fun c u v h => ?_
  unfold State.lanewiseF at h
  dsimp only at h
  split at h
  · cases h
  · rw [← Except.ok.inj h]
    exact (State.SameBatch.lanewise u c (hg c)).trans (.updWg _ _ fun _ => rfl)

end

theorem mov_keepsBatch (f : Fields) : KeepsBatch (.mov f) := by
  refine .of_batch (fun s => (rfl : _ = execMov f s).trans rfl) fun c u v h => ?_
  split at h
  · split at h
    · rw [← Except.ok.inj h]
      exact .lanewise u c fun _ => rfl
    · rw [← Except.ok.inj h]
      exact (State.SameBatch.lanewise u c fun _ => rfl).trans (.updWg _ _ fun _ => rfl)
  · rw [← Except.ok.inj h]
    exact .lanewise u c fun x => x.set32_index ..

/-- `ORD` keeps the slot that issues. -/
theorem ord_keepsBatch (f : Fields) : KeepsBatch (.ord f) := by
  refine .of_batch (fun s => (rfl : _ = execOrd f s).trans rfl) fun c u v h => ?_
  rw [← Except.ok.inj h]
  refine State.SameBatch.trans ⟨?_, ?_⟩ (State.SameBatch.updLanes (g := Fibre.next) _ c fun _ => rfl)
  · simp only [State.seat, Option.map_map]
    rfl
  · rfl

/-- An instruction of the classes I and F of R45, whose row is `sh`. -/
def Shape.paired (sh : Shape) : Bool := decide (sh.cls ≠ .none)

/-- What may stand in a pair computes lane by lane. -/
theorem keepsBatch_of_paired {i : Instr} (h : (shapeOf i).any Shape.paired = true) : KeepsBatch i := by
  cases i with
  | iadd f | isub f | iminS f | iminU f | imaxS f | imaxU f | rotL f | rotR f | and f | or f | xor f | bfxU f | bfxS f | iaddSat f | isubSat f | imul f
  | imulHiS f | imulHiU f | imad f | iabs f | shl f | shrU f | shrS f | not f | popc f | clz f | brev f | tern f | bfi f | sel f | lea32 f =>
    exact .of_lanes (fun _ => rfl) fun _ x => x.set32_index ..
  | iadd64 f | isub64 f | iminS64 f | iminU64 f | imaxS64 f | imaxU64 f | imulWideS f | imulWideU f | imul64 f | imadWideS f | imadWideU f | imad64 f
  | iabs64 f | shl64 f | shrU64 f | shrS64 f | sel64 f | mov64 f | lea f | leaSx f =>
    exact .of_lanes (fun _ => rfl) fun _ x => x.set64_index ..
  | fadd f | faddF16x2 f | faddBf16x2 f | fmul f | fmulF16x2 f | fmulBf16x2 f | fmac f | fmacF16x2 f | fmacBf16x2 f | fmin f | fminF16x2 f | fminBf16x2 f
  | fmax f | fmaxF16x2 f | fmaxBf16x2 f => exact .of_floats (fun _ => rfl) fun _ x => x.set32_index ..
  | dadd f | dmul f | dmac f | fminF64 f | fmaxF64 f => exact .of_floats (fun _ => rfl) fun _ x => x.set64_index ..
  | mov f => exact mov_keepsBatch f
  | _ => exact nomatch h

end Sys2Proof.Machine
end


section
/-! A batch that issues has a next state (R45 to R48, R66, R237): each member of its plan runs for it, since the members before it keep it. -/

namespace Sys2Proof.Machine

variable {s t u : State}

/-! Members. -/

/-- A member that runs for a batch completes or parks its workgroup. -/
theorem Member.run_next (m : Member) (h : s.Issuing) : ∃ t, m.run s = .next t := by
  unfold Member.run
  cases hi : m.instr with
  | none =>
    obtain ⟨c, hc⟩ := h.of? m.op m.f
    rcases runWith_spec m.op (fun _ => m.shape) m.f s (fun _ t => .ok t) with ⟨hnone, -⟩ | ⟨_, _, -, -, hrun⟩ | ⟨_, _, -, -, -, hrun⟩ | ⟨_, _, -, -, -, hrun⟩
    · exact absurd (hc.symm.trans hnone) (by simp)
    · exact ⟨_, hrun⟩
    · exact ⟨_, hrun⟩
    · exact ⟨_, hrun⟩
  | some i =>
    have hdecoded : decodeWord m.bits = .ok i := by
      unfold Member.instr at hi
      cases hd : decodeWord m.bits with
      | error e => rw [hd] at hi; cases hi
      | ok j => rw [hd] at hi; exact congrArg _ (Option.some.inj hi)
    obtain ⟨hop, hf⟩ := opcode_fields_of_ofOpcode (decodeWord_eq_ok_iff.mp hdecoded)
    obtain ⟨c, hc⟩ := h.of? (BitVec.ofNat 9 (m.bits.extractLsb' 87 9).toNat).toNat (fieldsOf m.bits)
    rcases exec_encoding hop hf s with ⟨hnone, -⟩ | ⟨_, t, -, hexec⟩
    · exact absurd (hc.symm.trans hnone) (by simp)
    · exact ⟨t, hexec⟩

/-- A member that keeps the batch that it runs for. -/
def Member.KeepsBatch (m : Member) : Prop := ∀ s t, m.run s = .next t → s.SameBatch t

theorem Member.instr_eq (m : Member) : m.instr = ofOpcode m.op m.f := by
  unfold Member.instr decodeWord
  change (match ofOpcode m.op m.f with | some i => Except.ok i | none => Except.error (DecodeError.illegalOpcode m.op)).toOption = _
  cases ofOpcode m.op m.f <;> rfl

theorem Member.keepsBatch_of_instr {m : Member} {i : Instr} (hi : m.instr = some i) (h : Machine.KeepsBatch i) : m.KeepsBatch := by
  intro s t hrun
  unfold Member.run at hrun
  rw [hi] at hrun
  exact h s t hrun

/-- A member with the opcode of an encoding that keeps the batch. -/
theorem Member.keepsBatch_of_op {m : Member} {op : Nat} {ctor : Fields → Instr} (hop : m.op = op) (hctor : ∀ f, ofOpcode op f = some (ctor f))
    (h : ∀ f, Machine.KeepsBatch (ctor f)) : m.KeepsBatch :=
  Member.keepsBatch_of_instr (m.instr_eq.trans (hop ▸ hctor m.f)) (h m.f)

theorem Member.keepsBatch_of_paired {m : Member} (h : m.shape.cls ≠ .none) : m.KeepsBatch := by
  unfold Member.shape at h
  cases hi : m.instr with
  | none => rw [hi] at h; exact absurd rfl h
  | some i =>
    refine Member.keepsBatch_of_instr hi (Machine.keepsBatch_of_paired ?_)
    rw [hi, Option.bind_some] at h
    cases hsh : shapeOf i with
    | none => rw [hsh] at h; exact absurd rfl h
    | some sh => rw [hsh] at h; exact decide_eq_true h

/-! What comes between members. -/

theorem Fibre.early!_index (draw : Nat) (reads : List Nat) (x : Fibre) : (x.early! draw reads).index = x.index := by
  unfold Fibre.early!
  split <;> rfl

theorem Fibre.grown_index (draw : Nat) (x : Fibre) : (x.grown draw).index = x.index := by
  unfold Fibre.grown
  (repeat' split) <;> rfl

theorem Fibre.hasRead_index (reads writes : List Nat) (x : Fibre) : (x.hasRead reads writes).index = x.index := by
  unfold Fibre.hasRead
  split <;> rfl

theorem State.SameBatch.readying (s : State) (key : Nat) (lanes : List Nat) (m : Member) : s.SameBatch (s.readying key lanes m) :=
  .updBatch s key lanes fun _ => (Fibre.grown_index ..).trans (Fibre.early!_index ..)

theorem State.SameBatch.haveRead (s before : State) (key : Nat) (lanes : List Nat) (ms : List Member) : s.SameBatch (s.haveRead before key lanes ms) := by
  unfold State.haveRead
  split
  · exact .refl s
  · exact .updBatch s key lanes fun _ => Fibre.hasRead_index ..

theorem State.SameBatch.loadsTaken (s : State) (k key : Nat) (lanes : List Nat) (ms : List Member) : s.SameBatch (s.loadsTaken k key lanes ms) := by
  unfold State.loadsTaken
  split
  · exact ⟨s.takeLoads_seat .., s.takeLoads_members ..⟩
  · exact .refl s

/-! Groups (R47, R48). -/

theorem State.runMembers_next (key : Nat) (lanes : List Nat) (ms : List Member) (hms : ∀ m ∈ ms.dropLast, m.KeepsBatch) (h : s.Issuing) :
    ∃ t, State.runMembers key lanes ms s = .next t := by
  induction ms generalizing s with
  | nil => exact ⟨s, rfl⟩
  | cons m rest ih =>
    have hready := State.SameBatch.readying s key lanes m
    obtain ⟨u, hu⟩ := m.run_next (h.of_same hready)
    simp only [State.runMembers, hu]
    split
    · exact ⟨u, rfl⟩
    · cases rest with
      | nil => exact ⟨_, rfl⟩
      | cons n rest =>
        rw [List.dropLast_cons_cons] at hms
        obtain ⟨hm, hrest⟩ := List.forall_mem_cons.mp hms
        exact ih hrest ((h.of_same hready).of_same ((hm _ _ hu).trans (.haveRead ..)))

/-! Pairs (R45, R46). -/

theorem pairLegal_paired {a b : Member} (h : pairLegal a b = true) : a.shape.cls ≠ .none ∧ b.shape.cls ≠ .none := by
  simp only [pairLegal, Bool.and_eq_true, Bool.or_eq_true, decide_eq_true_eq] at h
  obtain ⟨⟨⟨⟨⟨ha, hb⟩ | ⟨ha, hb⟩, -⟩, -⟩, -⟩, -⟩ := h <;> simp [ha, hb]

theorem pairChecks_legal {a b : Member} {ca cb : Ctx} (h : pairChecks a b ca cb = none) : pairLegal a b = true := by
  simp only [pairChecks, Option.orElse_eq_or, Option.or_eq_none_iff] at h
  obtain ⟨-, hpairing, -⟩ := h
  by_contra hillegal
  rw [if_neg hillegal] at hpairing
  cases hpairing

theorem State.runPair_next (key : Nat) (lanes : List Nat) (a b : Member) (h : s.Issuing) : ∃ t, s.runPair key lanes a b = .next t := by
  have hat : ∀ (t : State) (pc : BitVec 64), t.SameBatch (t.updBatch key lanes (fun x => x.goto pc)) := fun t _ => .updBatch t key lanes fun _ => rfl
  unfold State.runPair
  dsimp only
  have hs0 : s.SameBatch (s.updBatch key lanes (fun x => (x.early! s.free (a.reads ++ b.reads)).grown s.free)) :=
    .updBatch s key lanes fun _ => (Fibre.grown_index ..).trans (Fibre.early!_index ..)
  generalize s.updBatch key lanes (fun x => (x.early! s.free (a.reads ++ b.reads)).grown s.free) = s0 at hs0
  have h0 : s0.Issuing := h.of_same hs0
  obtain ⟨ca, hca⟩ := h0.of? a.op a.f
  obtain ⟨cb, hcb⟩ := (h0.of_same (hat s0 b.pc)).of? b.op b.f
  obtain ⟨ta, hta⟩ := a.run_next h0
  obtain ⟨tb, htb⟩ := b.run_next (h0.of_same (hat s0 b.pc))
  simp only [hca, hcb, hta, htb]
  split
  next e hchecks => exact ⟨_, rfl⟩
  next hchecks =>
    obtain ⟨ha, hb⟩ := pairLegal_paired (pairChecks_legal hchecks)
    generalize hp : (if a.shape.cls = .i then (a, b) else (b, a)) = p
    have hkeeps : p.1.KeepsBatch := by
      rw [← hp]
      split
      · exact Member.keepsBatch_of_paired ha
      · exact Member.keepsBatch_of_paired hb
    obtain ⟨t1, ht1⟩ := p.1.run_next (h0.of_same (hat s0 p.1.pc))
    obtain ⟨t2, ht2⟩ := p.2.run_next (((h0.of_same (hat s0 p.1.pc)).of_same (hkeeps _ _ ht1)).of_same (hat t1 p.2.pc))
    simp only [ht1, ht2]
    split <;> exact ⟨_, rfl⟩

/-! `ORD` (R237, R239). -/

theorem State.runOrdered_next (k key : Nat) (sl : Slot) (w : Workgroup) (line : BitVec 512) {m : Member} (hm : m.KeepsBatch) (h : s.Issuing) :
    ∃ t, s.runOrdered k key sl w line m = .next t := by
  have hready := h.of_same (State.SameBatch.readying s key sl.lanes m)
  obtain ⟨t, ht⟩ := m.run_next hready
  unfold State.runOrdered
  simp only [ht]
  split
  · exact ⟨_, rfl⟩
  · split
    · exact ⟨_, rfl⟩
    next n _ =>
      obtain ⟨u, hu⟩ := n.run_next ((hready.of_same (hm _ _ ht)).of_same (State.SameBatch.readying t key sl.lanes n))
      split
      · exact ⟨_, rfl⟩
      · simp only [hu]
        split <;> exact ⟨_, rfl⟩

end Sys2Proof.Machine
end


section
/-! Every state has a next state: what issues by the runs of its plan, and every event by its own answer. -/

namespace Sys2Proof.Machine

variable {s t : State}

/-! Plans (R45, R47, R237). -/

/-- A comparison of integers keeps the batch. -/
theorem Member.keepsBatch_of_compare {m : Member} (h : 0x03F ≤ m.op ∧ m.op ≤ 0x042) : m.KeepsBatch := by
  have hkeeps : ∀ {i : Instr} {op : Nat} {sh : Shape} {f : Fields} {test : Ctx → Fibre → Bool},
      (∀ s, exec i s = runLanes op sh f s (fun c x => setCompare c x (test c x))) → Machine.KeepsBatch i := fun hexec => .of_lanes hexec fun _ x => x.setPred_index ..
  obtain hop | hop | hop | hop : m.op = 0x03F ∨ m.op = 0x040 ∨ m.op = 0x041 ∨ m.op = 0x042 := by omega
  · exact Member.keepsBatch_of_op hop (fun _ => rfl) fun f => hkeeps (i := .icmpS f) fun _ => rfl
  · exact Member.keepsBatch_of_op hop (fun _ => rfl) fun f => hkeeps (i := .icmpU f) fun _ => rfl
  · exact Member.keepsBatch_of_op hop (fun _ => rfl) fun f => hkeeps (i := .icmpS64 f) fun _ => rfl
  · exact Member.keepsBatch_of_op hop (fun _ => rfl) fun f => hkeeps (i := .icmpU64 f) fun _ => rfl

/-- The first word of a group computes lane by lane (R47). -/
theorem fuseTwo_keepsBatch {a b : Member} (h : (fuseTwo a b).isSome = true) : a.KeepsBatch := by
  have hops : a.op = 0x018 ∨ a.op = 0x02C ∨ (a.op = 0x049 ∨ a.op = 0x04B) ∨ a.op = 0x04A ∨ a.op = 0x073 ∨ (0x03F ≤ a.op ∧ a.op ≤ 0x042) ∨ a.op = 0x034 := by
    by_contra hnone
    simp only [not_or] at hnone
    obtain ⟨h1, h2, ⟨h3, h4⟩, h5, h6, h7, h8⟩ := hnone
    simp [fuseTwo, h1, h2, h3, h4, h5, h6, h7, h8] at h
  rcases hops with hop | hop | (hop | hop) | hop | hop | hop | hop
  · exact Member.keepsBatch_of_op hop (fun _ => rfl) fun f => keepsBatch_of_paired (i := .imul f) rfl
  · exact Member.keepsBatch_of_op hop (fun _ => rfl) fun f => keepsBatch_of_paired (i := .shl f) rfl
  · exact Member.keepsBatch_of_op hop (fun _ => rfl) fun f => keepsBatch_of_paired (i := .lea f) rfl
  · exact Member.keepsBatch_of_op hop (fun _ => rfl) fun f => keepsBatch_of_paired (i := .leaSx f) rfl
  · exact Member.keepsBatch_of_op hop (fun _ => rfl) fun f => keepsBatch_of_paired (i := .lea32 f) rfl
  · exact Member.keepsBatch_of_op hop (fun _ => rfl) fun f => keepsBatch_of_paired (i := .fmul f) rfl
  · exact Member.keepsBatch_of_compare hop
  · exact Member.keepsBatch_of_op hop (fun _ => rfl) fun f => keepsBatch_of_paired (i := .and f) rfl

/-- What fuses with a shift is an addition. -/
theorem fuseTwo_shift {a b : Member} (hop : a.op = 0x02C) (h : (fuseTwo a b).isSome = true) : b.op = 0x010 := by
  by_contra hb
  simp [fuseTwo, hop, hb] at h

/-- Every member of a group but the last computes lane by lane. -/
theorem planOf_fused {line : BitVec 512} {pc : BitVec 64} {ms : List Member} {lat : Option Nat} (h : planOf line pc = .fused ms lat) :
    ∀ m ∈ ms.dropLast, m.KeepsBatch := by
  unfold planOf at h
  dsimp only at h
  split at h
  · cases h
  split at h
  · cases h
  split at h
  next hthree =>
    obtain ⟨rfl, -⟩ := Plan.fused.inj h
    simp only [Bool.and_eq_true, decide_eq_true_eq] at hthree
    obtain ⟨⟨⟨⟨⟨⟨⟨-, -⟩, hop⟩, hfuse⟩, -⟩, -⟩, -⟩, -⟩ := hthree
    simp only [List.dropLast_cons_cons, List.dropLast_singleton, List.forall_mem_cons]
    exact ⟨fuseTwo_keepsBatch hfuse,
      Member.keepsBatch_of_op (fuseTwo_shift hop hfuse) (fun _ => rfl) fun f => keepsBatch_of_paired (i := .iadd f) rfl, List.forall_mem_nil _⟩
  next =>
    split at h
    · split at h
      next hfuse =>
        obtain ⟨rfl, -⟩ := Plan.fused.inj h
        simp only [List.dropLast_cons_cons, List.dropLast_singleton, List.forall_mem_cons]
        exact ⟨fuseTwo_keepsBatch (Option.isSome_of_eq_some hfuse), List.forall_mem_nil _⟩
      next => cases h
    · cases h

theorem planOf_ordered {line : BitVec 512} {pc : BitVec 64} {m : Member} (h : planOf line pc = .ordered m) : m.KeepsBatch := by
  unfold planOf at h
  dsimp only at h
  split at h
  · cases h
  split at h
  next hop =>
    obtain rfl := Plan.ordered.inj h
    exact Member.keepsBatch_of_op hop (fun _ => rfl) ord_keepsBatch
  next =>
    split at h
    · cases h
    split at h
    · split at h <;> cases h
    · cases h

theorem State.runPlan_next (h : s.Issuing) (k : Nat) (sl : Slot) (w : Workgroup) (line : BitVec 512) (pc : BitVec 64) :
    ∃ t, s.runPlan k sl w line (planOf line pc) = .next t := by
  cases hp : planOf line pc with
  | single m => exact State.runMembers_next w.key sl.lanes [m] (fun _ hm => absurd hm List.not_mem_nil) h
  | pair a b => exact State.runPair_next w.key sl.lanes a b h
  | fused ms lat => exact State.runMembers_next w.key sl.lanes ms (planOf_fused hp) h
  | ordered m => exact State.runOrdered_next k w.key sl w line (planOf_ordered hp) h

/-! Issues. -/

/-- A slot whose workgroup has a fibre of it to issue for. -/
theorem State.issuing_issuing {k n : Nat} {sl : Slot} {w : Workgroup} {x : Fibre} (hsl : (s.core k).slots.find? (fun z => z.id = n) = some sl)
    (hw : s.wg? sl.wg = some w) (hx : w.head sl = some x) : (s.issuing k sl).Issuing := by
  have hid : sl.id = n := by simpa using List.find?_some hsl
  unfold Workgroup.head at hx
  have hfound := List.find?_some hx
  simp only [Bool.and_eq_true] at hfound
  obtain ⟨hlane, -⟩ := hfound
  exact ⟨_, sl, w, x, rfl, hid ▸ hsl, hw, List.mem_of_find?_eq_some hx, hlane⟩

theorem State.issueSlot_next {k n : Nat} {sl : Slot} (hsl : (s.core k).slots.find? (fun z => z.id = n) = some sl) :
    ∃ t, s.issueSlot k sl = .next t := by
  unfold State.issueSlot
  split
  · exact ⟨_, rfl⟩
  next w hw =>
    split
    · exact ⟨_, rfl⟩
    next x hx =>
      split
      · exact ⟨_, rfl⟩
      next line _ =>
        dsimp only
        split
        · exact ⟨_, rfl⟩
        · obtain ⟨t, ht⟩ := State.runPlan_next ((State.issuing_issuing hsl hw hx).of_same (.loadsTaken _ k w.key sl.lanes (s.planIssue w line (planOf line x.pc)).1)) k sl w line x.pc
          simp only [ht]
          exact ⟨_, rfl⟩

/-! What may happen next. -/

/-- An act names no instruction of a program. -/
def Act.Agent : Act → Prop
  | .event i => i.opcode = none
  | _ => True

theorem only_agent {p : Bool} {a : Act} (h : a.Agent) : ∀ b ∈ only p a, b.Agent := by
  intro b hb
  unfold only at hb
  split at hb
  · exact List.mem_singleton.mp hb ▸ h
  · exact absurd hb List.not_mem_nil

theorem map_agent {α : Type} {l : List α} {g : α → Act} (h : ∀ e, (g e).Agent) : ∀ b ∈ l.map g, b.Agent := List.forall_mem_map.mpr fun e _ => h e

theorem append_agent {l m : List Act} (hl : ∀ b ∈ l, b.Agent) (hm : ∀ b ∈ m, b.Agent) : ∀ b ∈ l ++ m, b.Agent := List.forall_mem_append.mpr ⟨hl, hm⟩

theorem flatMap_agent {α : Type} {l : List α} {g : α → List Act} (h : ∀ e, ∀ b ∈ g e, b.Agent) : ∀ b ∈ l.flatMap g, b.Agent := fun b hb => by
  obtain ⟨e, -, hb⟩ := List.mem_flatMap.mp hb
  exact h e b hb

theorem nil_agent : ∀ b ∈ ([] : List Act), b.Agent := List.forall_mem_nil _

theorem singleton_agent {a : Act} (h : a.Agent) : ∀ b ∈ [a], b.Agent := fun _ hb => List.mem_singleton.mp hb ▸ h

theorem State.coreActs_agent (s : State) (k : Nat) : ∀ b ∈ s.coreActs k, b.Agent := by
  have hpick : ∀ sched, ∀ b ∈ s.pickOf k sched, b.Agent := fun sched => by
    unfold State.pickOf
    dsimp only
    split
    · exact nil_agent
    · exact singleton_agent trivial
  have hrotation : ∀ w, ∀ b ∈ s.rotationActs k w, b.Agent := fun w => by
    unfold State.rotationActs
    split
    · exact nil_agent
    · split
      · exact singleton_agent rfl
      · exact only_agent rfl
  have hcopy : ∀ b ∈ s.copyActs k, b.Agent := by
    unfold State.copyActs
    dsimp only
    split
    · exact singleton_agent rfl
    · exact nil_agent
  unfold State.coreActs
  dsimp only
  refine append_agent (append_agent (append_agent (append_agent (append_agent (append_agent (append_agent (append_agent (append_agent (append_agent
    ?_ ?_) ?_) ?_) ?_) ?_) ?_) ?_) ?_) ?_) ?_
  · exact flatMap_agent hpick
  · exact map_agent fun _ => trivial
  · exact map_agent fun _ => rfl
  · exact map_agent fun _ => rfl
  · exact map_agent fun _ => rfl
  · exact only_agent rfl
  · exact flatMap_agent hrotation
  · exact hcopy
  · exact map_agent fun _ => rfl
  · exact only_agent rfl
  · exact only_agent rfl

theorem State.wgActs_agent (s : State) (w : Workgroup) : ∀ b ∈ s.wgActs w, b.Agent := by
  have hfibre : ∀ x, ∀ b ∈ s.fibreActs w x, b.Agent := fun x => by
    unfold State.fibreActs
    dsimp only
    split
    · exact only_agent rfl
    · exact append_agent (only_agent rfl) (only_agent rfl)
    · exact only_agent rfl
    · exact only_agent rfl
    · exact nil_agent
  exact append_agent (append_agent (append_agent (flatMap_agent hfibre) (only_agent rfl)) (only_agent rfl)) (only_agent rfl)

theorem State.hubActs_agent (s : State) : ∀ b ∈ s.hubActs, b.Agent := by
  refine append_agent (append_agent (append_agent (append_agent (append_agent (append_agent (append_agent (append_agent
    ?_ ?_) ?_) ?_) ?_) ?_) ?_) ?_) ?_
  · exact only_agent rfl
  · exact map_agent fun _ => rfl
  · exact flatMap_agent fun _ => map_agent fun _ => rfl
  · exact map_agent fun _ => rfl
  · exact map_agent fun _ => rfl
  · exact only_agent rfl
  · exact only_agent rfl
  · exact map_agent fun _ => rfl
  · exact only_agent rfl

theorem State.fabricActs_agent (s : State) : ∀ b ∈ s.fabricActs, b.Agent := by
  refine append_agent (append_agent ?_ ?_) ?_
  · exact map_agent fun _ => rfl
  · refine flatMap_agent fun m => ?_
    split
    · exact nil_agent
    · exact map_agent fun _ => rfl
  · exact flatMap_agent fun _ => append_agent (only_agent rfl) (only_agent rfl)

theorem State.nextInput_agent (s : State) (l : List Instr) (n : Nat) (held : List Nat) : ∀ b ∈ s.nextInput l n held, b.Agent := by
  induction l generalizing n held with
  | nil => exact nil_agent
  | cons i l ih =>
    unfold State.nextInput
    split
    · exact singleton_agent trivial
    · split
      · exact ih _ _
      · exact singleton_agent trivial

theorem State.acts_agent (s : State) : ∀ b ∈ s.acts, b.Agent := by
  unfold State.acts
  split
  · split
    · exact nil_agent
    · exact singleton_agent trivial
  · exact append_agent (append_agent (append_agent (append_agent (flatMap_agent s.coreActs_agent) (flatMap_agent s.wgActs_agent)) s.hubActs_agent)
      s.fabricActs_agent) (s.nextInput_agent s.inputs 0 [])

theorem State.choose_agent {a : Act} (h : s.choose = some a) : a.Agent := by
  unfold State.choose at h
  split at h
  · cases h
  next hacts => exact Option.some.inj h ▸ s.acts_agent _ (hacts ▸ List.mem_singleton_self _)
  next => exact s.acts_agent a (List.mem_of_getElem? h)

/-- What the outside gives is no instruction of a program. -/
theorem outside_event {i : Instr} (h : outside i = true) : i.opcode = none := by
  cases i with
  | csrWrite | fcmdResumeAtPc | fcmdResumePast | fcmdKill | preemptRequest | preemptRestore | preemptKillSaved | tlbInvalidate | coveWaysWrite
  | launchCounterDisarm | faultRingReadIndexWrite | multicastMemberRequest | multicastResponse | colnalFlitReceive | strandFrameReceive | strandSackReceive
  | strandRetransmitTimeout | queueNotify | cxlMemAccess | cxlCacheSnoop | mgmtReadBlackBox | mgmtReadPower | mgmtReadCounters | mgmtWritePeer
  | mgmtInstallKey | mgmtPeerUp | mgmtPeerDown | mgmtLifeCycleStep | mgmtTenantReset | mgmtWarmReset | spdmMessage | mctpControlMessage | coldReset
  | cxlConventionalReset | thermalTrip | blockLocalLimit | patrolScrub | tideSynchronisation | powerRemoved | pageWalkComplete
  | i3cDynamicAddressAssignment => rfl
  | _ => exact nomatch h

theorem State.accepts_event {i : Instr} (h : s.accepts i = true) : i.opcode = none := by
  unfold State.accepts at h
  split at h
  · exact outside_event h
  · split at h
    · rfl
    · cases h

/-! Steps. -/

theorem State.perform_next {a : Act} (ha : a.Agent) : ∃ t, s.perform a = .next t := by
  cases a with
  | issue k n =>
    cases hsl : (s.core k).slots.find? (fun z => z.id = n) with
    | none => exact ⟨s, by rw [State.perform, hsl]⟩
    | some sl =>
      rw [State.perform_issue hsl]
      exact State.issueSlot_next hsl
  | ask k n =>
    rw [State.perform]
    split <;> exact ⟨_, rfl⟩
  | event i => exact exec_event i ha s
  | input n =>
    rw [State.perform]
    split
    · split
      next haccepts => exact exec_event _ (State.accepts_event haccepts) _
      next => exact ⟨_, rfl⟩
    · exact ⟨_, rfl⟩

/-- Settles O59: an issue by the runs of its plan for a batch that stands, any other act by the answer of its event. -/
theorem stepGoesOn : Obligations.StepGoesOn := by
  unfold Obligations.StepGoesOn State.goesOn
  intro s
  cases hact : s.choose with
  | none => exact ⟨s.elapse, by rw [step, hact]⟩
  | some a =>
    obtain ⟨t, ht⟩ := State.perform_next (State.choose_agent hact)
    exact ⟨_, step_of_perform hact ht⟩

end Sys2Proof.Machine
end
